-- ==== Sys2Proof/Word.lean ====
section
/-! DEFINITION. The word types of the PX-9800 and their plainest arithmetic (R7, R8, R89, R90). -/

namespace Sys2Proof

abbrev W8 := BitVec 8
abbrev W16 := BitVec 16
abbrev W32 := BitVec 32
abbrev W64 := BitVec 64

/-- Field [hi:lo] of a natural number, both ends included (R8). -/
def bits (x hi lo : Nat) : Nat := (x >>> lo) % 2 ^ (hi + 1 - lo)

/-- Bit n of a natural number. -/
def bitOf (x n : Nat) : Bool := x.testBit n

/-- Low-to-high bytes of a number, little-endian (R8). -/
def leBytes : Nat → Nat → List W8
  | 0, _ => []
  | n + 1, x => BitVec.ofNat 8 x :: leBytes n (x / 256)

/-- The number that little-endian bytes hold (R8). -/
def ofLe : List W8 → Nat
  | [] => 0
  | b :: bs => b.toNat + 256 * ofLe bs

/-- The ceiling of a quotient. -/
def ceilDiv (a b : Nat) : Nat := (a + b - 1) / b

/-- A sparse table: keys rising is the form the writers keep; an absent key is the reader's default. -/
abbrev Tbl (α : Type) := List (Nat × α)

/-- The entry of a key. -/
def Tbl.find {α : Type} (k : Nat) : Tbl α → Option α
  | [] => none
  | (j, a) :: r => if j = k then some a else Tbl.find k r

/-- The entry of a key, or the default of an absent one. -/
def Tbl.getD {α : Type} (k : Nat) (t : Tbl α) (dflt : α) : α :=
  match Tbl.find k t with
  | some a => a
  | none => dflt

/-- Writes one entry, in key order. -/
def Tbl.put {α : Type} (k : Nat) (a : α) : Tbl α → Tbl α
  | [] => [(k, a)]
  | (j, b) :: r => if k < j then (k, a) :: (j, b) :: r else if j = k then (k, a) :: r else (j, b) :: Tbl.put k a r

/-- Removes one entry. -/
def Tbl.del {α : Type} (k : Nat) : Tbl α → Tbl α
  | [] => []
  | (j, b) :: r => if j = k then Tbl.del k r else (j, b) :: Tbl.del k r

/-- Changes the entry of a present key; an absent key stays absent. -/
def Tbl.upd {α : Type} (k : Nat) (f : α → α) : Tbl α → Tbl α
  | [] => []
  | (j, b) :: r => if j = k then (j, f b) :: r else (j, b) :: Tbl.upd k f r

/-- The first element that passes a test. -/
def firstWith {α : Type} (p : α → Bool) : List α → Option α
  | [] => none
  | a :: r => if p a then some a else firstWith p r

/-- Replaces element n of a list. -/
def listSet {α : Type} : List α → Nat → α → List α
  | [], _, _ => []
  | _ :: r, 0, b => b :: r
  | a :: r, n + 1, b => a :: listSet r n b

/-- Changes every element that passes a test. -/
def updWhere {α : Type} (p : α → Bool) (f : α → α) (l : List α) : List α :=
  l.map fun a => if p a then f a else a

end Sys2Proof
end

