-- ==== Sys2Proof/Machine/Aes.lean ====
section
/-! DEFINITION. AES-256 in XTS mode over a 64-byte line (R385), and AES-128 in CMAC mode (R139, R146): the cipher and modes are
those of the standards that the rules name, FIPS-197, IEEE 1619 and SP 800-38B (PRESUMED, log entry 6). -/

namespace Sys2Proof.Machine

/-- The 256 bytes of the cipher's substitution table, byte k in bits [8k+7:8k]. -/
def aesS : Nat :=
  0x16bb54b00f2d99416842e6bf0d89a18cdf2855cee9871e9b948ed9691198f8e19e1dc186b95735610ef6034866b53e708a8bbd4b1f74dde8c6b4a61c2e2578ba08ae7a65eaf4566ca94ed58d6d37c8e779e4959162acd3c25c2406490a3a32e0db0b5ede14b8ee4688902a22dc4f816073195d643d7ea7c41744975fec130ccdd2f3ff1021dab6bcf5389d928f40a351a89f3c507f02f94585334d43fbaaefd0cf584c4a39becb6a5bb1fc20ed00d153842fe329b3d63b52a05a6e1b1a2c830975b227ebe28012079a059618c323c7041531d871f1e5a534ccf73f362693fdb7c072a49cafa2d4adf04759fa7dc982ca76abd7fe2b670130c56f6bf27b777c63

/-- The inverse table. -/
def aesInvS : Nat :=
  0x7d0c2155631469e126d677ba7e042b17619953833cbbebc8b0f52aae4d3be0a0ef9cc9939f7ae52d0d4ab519a97f51605fec8027591012b131c7078833a8dd1ff45acd78fec0db9a2079d2c64b3e56fc1bbe18aa0e62b76f89c5291d711af1476edf751ce837f9e28535ade72274ac9673e6b4f0cecff297eadc674f4111913a6b8a130103bdafc1020f3fca8f1e2cd00645b3b80558e4f70ad3bc8c00abd890849d8da75746155edab9edfd5048706c92b6655dcc5ca4d41698688664f6f87225d18b6d49a25b76b224d92866a12e084ec3fa420b954cee3d23c2a632947b54cbe9dec444438e3487ff2f9b8239e37cfbd7f3819ea340bf38a53630d56a0952

/-- A byte through a table. -/
def aesSub (t b : Nat) : Nat := (t >>> (8 * b)) % 256

/-- Multiplication by x in the field of the cipher. -/
def xtime (b : Nat) : Nat := if b < 128 then 2 * b else (2 * b - 256) ^^^ 0x1b

/-- Multiplication by a small constant. -/
def gfMul : Nat → Nat → Nat → Nat
  | 0, _, _ => 0
  | n + 1, c, b => (if c % 2 = 1 then b else 0) ^^^ gfMul n (c / 2) (xtime b)

def mix4 (m : List Nat) (c : List Nat) : List Nat :=
  (List.range 4).map fun r => (List.range 4).foldl (fun a k => a ^^^ gfMul 4 (m.getD ((k + 4 - r) % 4) 0) (c.getD k 0)) 0

/-- Groups of four. -/
def four : Nat → List Nat → List (List Nat)
  | 0, _ => []
  | n + 1, l => l.take 4 :: four n (l.drop 4)

def aesMix (m : List Nat) (s : List Nat) : List Nat := (four 4 s).flatMap (mix4 m)

/-- Row r of the state moves left by d * r places. -/
def aesShift (d : Nat) (s : List Nat) : List Nat :=
  (List.range 16).map fun i => s.getD ((i + 4 * (d * (i % 4) % 4)) % 16) 0

def xorList (a b : List Nat) : List Nat := List.zipWith (fun x y => x ^^^ y) a b

/-- The key schedule from the nk words of a key: as many more words of four bytes. -/
def aesExpand (nk : Nat) : Nat → Nat → Nat → List (List Nat) → List (List Nat)
  | 0, _, _, ws => ws
  | n + 1, i, rc, ws =>
    let t := ws.getD (i - 1) []
    let t' := if i % nk = 0 then xorList ((t.drop 1 ++ t.take 1).map (aesSub aesS)) [rc, 0, 0, 0]
      else if nk = 8 ∧ i % 8 = 4 then t.map (aesSub aesS) else t
    aesExpand nk n (i + 1) (if i % nk = 0 then xtime rc else rc) (ws ++ [xorList (ws.getD (i - nk) []) t'])

/-- The schedules of a 32-byte and of a 16-byte key. -/
def aesSchedule (key : List Nat) : List (List Nat) := aesExpand 8 52 8 1 (four 8 key)
def aesSchedule128 (key : List Nat) : List (List Nat) := aesExpand 4 40 4 1 (four 4 key)

def roundKey (ws : List (List Nat)) (r : Nat) : List Nat := ((ws.drop (4 * r)).take 4).flatten

/-- The cipher in n rounds. -/
def aesRounds (n : Nat) (ws : List (List Nat)) (b : List Nat) : List Nat :=
  let s := (List.range (n - 1)).foldl
    (fun s r => xorList (aesMix [2, 3, 1, 1] (aesShift 1 (s.map (aesSub aesS)))) (roundKey ws (r + 1)))
    (xorList b (roundKey ws 0))
  xorList (aesShift 1 (s.map (aesSub aesS))) (roundKey ws n)

def aesEnc (ws : List (List Nat)) (b : List Nat) : List Nat := aesRounds 14 ws b

def aesDec (ws : List (List Nat)) (b : List Nat) : List Nat :=
  let s := (List.range 13).foldl
    (fun s r => aesMix [14, 11, 13, 9] (xorList ((aesShift 3 s).map (aesSub aesInvS)) (roundKey ws (13 - r))))
    (xorList b (roundKey ws 14))
  xorList ((aesShift 3 s).map (aesSub aesInvS)) (roundKey ws 0)

/-- The tweak of the next block: multiplication by x in the field of 128 bits. -/
def xtsNext (t : Nat) : Nat := if t < 2 ^ 127 then 2 * t else (2 * t - 2 ^ 128) ^^^ 0x87

def natBytes (n x : Nat) : List Nat := (leBytes n x).map BitVec.toNat
def bytesNat (l : List Nat) : Nat := ofLe (l.map (BitVec.ofNat 8))

def xtsBlocks (f : List Nat → List Nat) : Nat → Nat → List W8 → List W8
  | 0, _, _ => []
  | n + 1, t, bs =>
    let tw := natBytes 16 t
    (xorList (f (xorList ((bs.take 16).map BitVec.toNat) tw)) tw).map (BitVec.ofNat 8) ++
      xtsBlocks f n (xtsNext t) (bs.drop 16)

/-- The first tweak of the line at a virtual address: R385's value under the second half of the key pair. -/
def xtsTweak (key : List W8) (va : Nat) : Nat :=
  bytesNat (aesEnc (aesSchedule (((key.drop 32).take 32).map BitVec.toNat)) (natBytes 16 (va / 64)))

/-- A line of plaintext as memory holds it, under a 64-byte key pair. -/
def xtsEncrypt (key : List W8) (va : Nat) (line : List W8) : List W8 :=
  xtsBlocks (aesEnc (aesSchedule ((key.take 32).map BitVec.toNat))) 4 (xtsTweak key va) line

/-- Doubling in the field of CMAC's subkeys: the first byte is the most significant. -/
def cmacDouble (b : List Nat) : List Nat := (natBytes 16 (xtsNext (bytesNat b.reverse))).reverse

/-- The chain of a message's blocks; the last one is masked with a subkey. -/
def cmacChain (f : List Nat → List Nat) (k1 k2 : List Nat) : Nat → List Nat → List W8 → List Nat
  | 0, x, _ => x
  | n + 1, x, m =>
    let here := (m.take 16).map BitVec.toNat
    if 16 < m.length then cmacChain f k1 k2 n (f (xorList x here)) (m.drop 16)
    else if m.length = 16 then f (xorList x (xorList here k1))
    else f (xorList x (xorList (here ++ 0x80 :: List.replicate (15 - here.length) 0) k2))

/-- AES-CMAC of a message under a 128-bit key, whose first byte is the low one of the number (R139, R146). -/
def aesCmac (key : Nat) (m : List W8) : List W8 :=
  let f := aesRounds 10 (aesSchedule128 (natBytes 16 key))
  let k1 := cmacDouble (f (List.replicate 16 0))
  (cmacChain f k1 (cmacDouble k1) (m.length / 16 + 1) (List.replicate 16 0) m).map (BitVec.ofNat 8)

/-- A line of memory in plaintext. -/
def xtsDecrypt (key : List W8) (va : Nat) (line : List W8) : List W8 :=
  xtsBlocks (aesDec (aesSchedule ((key.take 32).map BitVec.toNat))) 4 (xtsTweak key va) line

end Sys2Proof.Machine
end

