-- ==== Sys2Proof/Machine/Formats.lean ====
section
/-! DEFINITION. Number formats, exact values, rounding, conversion and sums (03_formats.md, R36). -/

namespace Sys2Proof.Machine

/-- The element formats of R36, in the order of their codes. -/
inductive Fmt where
  | n8 | i8 | n16 | i16 | n32 | i32 | n64 | i64 | f16 | bf16 | f32 | f64
  | e4m3 | e5m2 | e2m3 | e3m2 | e2m1 | e8m0 | i4 | n4
  deriving DecidableEq, Repr

/-- The format of an element format code; codes from 0x14 are reserved (R36). -/
def Fmt.ofCode : Nat → Option Fmt
  | 0 => some .n8 | 1 => some .i8 | 2 => some .n16 | 3 => some .i16 | 4 => some .n32 | 5 => some .i32
  | 6 => some .n64 | 7 => some .i64 | 8 => some .f16 | 9 => some .bf16 | 10 => some .f32 | 11 => some .f64
  | 12 => some .e4m3 | 13 => some .e5m2 | 14 => some .e2m3 | 15 => some .e3m2 | 16 => some .e2m1
  | 17 => some .e8m0 | 18 => some .i4 | 19 => some .n4
  | _ => none

/-- The width of the value in bits: six for the six-bit formats. -/
def Fmt.width : Fmt → Nat
  | .n8 | .i8 | .e4m3 | .e5m2 | .e8m0 => 8
  | .n16 | .i16 | .f16 | .bf16 => 16
  | .n32 | .i32 | .f32 => 32
  | .n64 | .i64 | .f64 => 64
  | .e2m3 | .e3m2 => 6
  | .e2m1 | .i4 | .n4 => 4

/-- The bits of storage of an element: eight for the six-bit formats (R36, R113). -/
def Fmt.storage : Fmt → Nat
  | .e2m3 | .e3m2 => 8
  | f => f.width

def Fmt.isSigned : Fmt → Bool
  | .i8 | .i16 | .i32 | .i64 | .i4 => true
  | _ => false

def Fmt.isInt : Fmt → Bool
  | .n8 | .i8 | .n16 | .i16 | .n32 | .i32 | .n64 | .i64 | .i4 | .n4 => true
  | _ => false

/-- The number of elements of a format that a 32-bit register packs (R99); 1 for the wider formats. -/
def Fmt.perWord (f : Fmt) : Nat := if 32 ≤ f.width then 1 else 32 / f.storage

/-- The formats whose subnormals the flush flag of a launch removes (R93). -/
def Fmt.flushes : Fmt → Bool
  | .f32 | .f16 | .bf16 => true
  | _ => false

/-- The signed reading of the low n bits (R90). -/
def sext (x n : Nat) : Int :=
  let y := x % 2 ^ n
  if n = 0 then 0 else if y < 2 ^ (n - 1) then (y : Int) else (y : Int) - 2 ^ n

/-- An integer modulo 2^n, as the pattern of n bits (R89). -/
def wrapN (x : Int) (n : Nat) : Nat := (x % (2 ^ n : Nat)).toNat

/-- An integer clamped to the signed or unsigned n-bit range, as its pattern (R89). -/
def satN (signed : Bool) (x : Int) (n : Nat) : Nat :=
  let lo : Int := if signed then -(2 ^ (n - 1) : Nat) else 0
  let hi : Int := if signed then (2 ^ (n - 1) : Nat) - 1 else (2 ^ n : Nat) - 1
  wrapN (if x < lo then lo else if hi < x then hi else x) n

/-- An exact real value, an infinity or a NaN; `fin` with mantissa 0 is a zero with its sign. -/
inductive Ex where
  | nan
  | inf (neg : Bool)
  | fin (neg : Bool) (m : Nat) (e : Int)
  deriving DecidableEq, Repr

/-- The shape of a binary float format (R91, R96, R100): kind 0 is IEEE, 1 is E4M3 (no infinity, one NaN code),
2 has neither infinity nor NaN. -/
structure FF where
  eb : Nat
  fb : Nat
  bias : Nat
  kind : Nat
  deriving DecidableEq, Repr

def ffF64 : FF := ⟨11, 52, 1023, 0⟩
def ffF32 : FF := ⟨8, 23, 127, 0⟩
def ffF16 : FF := ⟨5, 10, 15, 0⟩
def ffBf16 : FF := ⟨8, 7, 127, 0⟩
def ffE5m2 : FF := ⟨5, 2, 15, 0⟩
def ffE4m3 : FF := ⟨4, 3, 7, 1⟩
def ffE2m3 : FF := ⟨2, 3, 1, 2⟩
def ffE3m2 : FF := ⟨3, 2, 3, 2⟩
def ffE2m1 : FF := ⟨2, 1, 1, 2⟩
def ffW96 : FF := ⟨15, 80, 16383, 0⟩

/-- The float shape of a format; none for integers and E8M0. -/
def Fmt.ff : Fmt → Option FF
  | .f64 => some ffF64 | .f32 => some ffF32 | .f16 => some ffF16 | .bf16 => some ffBf16
  | .e4m3 => some ffE4m3 | .e5m2 => some ffE5m2 | .e2m3 => some ffE2m3 | .e3m2 => some ffE3m2 | .e2m1 => some ffE2m1
  | _ => none

/-- The sign bit in place. -/
def FF.signBit (f : FF) (neg : Bool) : Nat := if neg then 2 ^ (f.eb + f.fb) else 0

/-- The exponent of the quantum: the smallest subnormal is 2^q (R96). -/
def FF.q (f : FF) : Int := 1 - (f.bias : Int) - (f.fb : Int)

/-- The code of the largest finite value, less its sign. -/
def FF.maxCode (f : FF) : Nat :=
  match f.kind with
  | 0 => (2 ^ f.eb - 1) * 2 ^ f.fb - 1
  | 1 => 2 ^ (f.eb + f.fb) - 2
  | _ => 2 ^ (f.eb + f.fb) - 1

/-- The canonical NaN, +0 where the format has none (R92, R104). -/
def FF.nan (f : FF) : Nat :=
  match f.kind with
  | 0 => (2 ^ f.eb - 1) * 2 ^ f.fb + 2 ^ (f.fb - 1)
  | 1 => 2 ^ (f.eb + f.fb) - 1
  | _ => 0

/-- The value that bits encode (R91, R96, R100). -/
def FF.value (f : FF) (b : Nat) : Ex :=
  let neg := b.testBit (f.eb + f.fb)
  let e := (b >>> f.fb) % 2 ^ f.eb
  let fr := b % 2 ^ f.fb
  if f.kind = 0 ∧ e = 2 ^ f.eb - 1 then (if fr = 0 then .inf neg else .nan)
  else if f.kind = 1 ∧ e = 2 ^ f.eb - 1 ∧ fr = 2 ^ f.fb - 1 then .nan
  else if e = 0 then .fin neg fr f.q
  else .fin neg (2 ^ f.fb + fr) (f.q + (e : Int) - 1)

/-- Whether a rounding step goes up, from the lowest kept bit and the remainder out of 2^sh (R102);
modes: 0 nearest-even, 1 toward zero, 2 down, 3 up. -/
def roundsUp (mode : Nat) (neg : Bool) (odd : Bool) (rem sh : Nat) : Bool :=
  match mode with
  | 0 => 2 ^ sh < 2 * rem || (2 * rem == 2 ^ sh && odd)
  | 1 => false
  | 2 => neg && rem != 0
  | _ => !neg && rem != 0

/-- m * 2^(-sh) rounded to an integer. -/
def roundShift (mode : Nat) (neg : Bool) (m : Nat) (sh : Nat) : Nat :=
  let k := m >>> sh
  if roundsUp mode neg (k % 2 = 1) (m % 2 ^ sh) sh then k + 1 else k

/-- m * 2^e rounded to an integer. -/
def roundInt (mode : Nat) (neg : Bool) (m : Nat) (e : Int) : Nat :=
  if 0 ≤ e then m <<< e.toNat else roundShift mode neg m (-e).toNat

/-- What a rounded result above the largest finite value is delivered as (Table 6 of R103). -/
def FF.overflow (f : FF) (mode : Nat) (sat neg : Bool) : Nat :=
  let top := match f.kind with
    | 0 => (2 ^ f.eb - 1) * 2 ^ f.fb
    | _ => f.nan
  let toMax := sat || f.kind == 2 || mode == 1 || (mode == 2 && !neg) || (mode == 3 && neg)
  if toMax then f.signBit neg + f.maxCode
  else if f.kind = 1 then f.nan
  else f.signBit neg + top

/-- Rounds an exact finite value (R102, R103). -/
def FF.roundFin (f : FF) (mode : Nat) (sat neg : Bool) (m : Nat) (e : Int) : Nat :=
  if m = 0 then f.signBit neg
  else
    let t := max f.q ((Nat.log2 m : Int) + e - (f.fb : Int))
    let k := roundInt mode neg m (e - t)
    let code := k + (t - f.q).toNat * 2 ^ f.fb
    if f.maxCode < code then f.overflow mode sat neg else f.signBit neg + code

/-- Rounds any value; `conv` says that an infinite value takes the overflow row, as a conversion and a drain do,
and an arithmetic result does not (R103, R104). -/
def FF.round (f : FF) (mode : Nat) (sat conv : Bool) : Ex → Nat
  | .nan => f.nan
  | .inf neg => if conv || sat || f.kind != 0 then f.overflow mode sat neg else f.overflow 0 false neg
  | .fin neg m e => f.roundFin mode sat neg m e

/-- Whether bits of a float format are subnormal. -/
def FF.subnormal (f : FF) (b : Nat) : Bool :=
  (b >>> f.fb) % 2 ^ f.eb = 0 && b % 2 ^ f.fb != 0

/-- Bits with a subnormal replaced by the zero of its sign, when the flush applies (R93). -/
def FF.flush (f : FF) (on : Bool) (b : Nat) : Nat :=
  if on && f.subnormal b then f.signBit (b.testBit (f.eb + f.fb)) else b

def Ex.neg : Ex → Ex
  | .nan => .nan
  | .inf n => .inf !n
  | .fin n m e => .fin (!n) m e

def Ex.abs : Ex → Ex
  | .nan => .nan
  | .inf _ => .inf false
  | .fin _ m e => .fin false m e

def Ex.isNan : Ex → Bool
  | .nan => true
  | _ => false

def Ex.isInf : Ex → Bool
  | .inf _ => true
  | _ => false

def Ex.isZero : Ex → Bool
  | .fin _ 0 _ => true
  | _ => false

def Ex.isNeg : Ex → Bool
  | .nan => false
  | .inf n => n
  | .fin n _ _ => n

/-- The signed mantissa at an exponent no higher than the value's own. -/
def scaledTo (neg : Bool) (m : Nat) (e t : Int) : Int :=
  let x : Int := ((m <<< (e - t).toNat : Nat) : Int)
  if neg then -x else x

/-- An exact signed dyadic number as a value; zero takes the sign given. -/
def Ex.ofInt (x : Int) (e : Int) (zeroNeg : Bool) : Ex :=
  if x = 0 then .fin zeroNeg 0 0 else .fin (x < 0) x.natAbs e

/-- The exact sum; a zero result is signed by R94, `rdn` under that mode. -/
def Ex.add (rdn : Bool) : Ex → Ex → Ex
  | .nan, _ => .nan
  | _, .nan => .nan
  | .inf a, .inf b => if a = b then .inf a else .nan
  | .inf a, .fin _ _ _ => .inf a
  | .fin _ _ _, .inf b => .inf b
  | .fin na ma ea, .fin nb mb eb =>
    if ma = 0 ∧ mb = 0 then .fin (if na = nb then na else rdn) 0 0
    else
      let t := min ea eb
      .ofInt (scaledTo na ma ea t + scaledTo nb mb eb t) t rdn

/-- The exact product. -/
def Ex.mul : Ex → Ex → Ex
  | .nan, _ => .nan
  | _, .nan => .nan
  | .inf a, .inf b => .inf (a != b)
  | .inf a, .fin nb mb _ => if mb = 0 then .nan else .inf (a != nb)
  | .fin na ma _, .inf b => if ma = 0 then .nan else .inf (na != b)
  | .fin na ma ea, .fin nb mb eb => .fin (na != nb) (ma * mb) (ea + eb)

/-- A value times 2^k. -/
def Ex.scale (k : Int) : Ex → Ex
  | .fin n m e => .fin n m (e + k)
  | x => x

/-- The order of two values that are not NaN: below, equal or above; zeros are equal (R94). -/
def Ex.cmp : Ex → Ex → Ordering
  | .inf a, .inf b => if a = b then .eq else if a then .lt else .gt
  | .inf a, _ => if a then .lt else .gt
  | _, .inf b => if b then .gt else .lt
  | .fin na ma ea, .fin nb mb eb =>
    let t := min ea eb
    compare (scaledTo na ma ea t) (scaledTo nb mb eb t)
  | _, _ => .eq

/-- The lesser or the greater of two values (R95). -/
def Ex.pick (wantMax : Bool) (a b : Ex) : Ex :=
  if a.isNan then b
  else if b.isNan then a
  else
    match Ex.cmp a b with
    | .lt => if wantMax then b else a
    | .gt => if wantMax then a else b
    | .eq => if a.isNeg = wantMax then b else a

/-- Float conditions of Table 6 of R232. -/
def Ex.cond (c : Nat) (a b : Ex) : Bool :=
  let un := a.isNan || b.isNan
  match c with
  | 0 => !un && Ex.cmp a b == .eq
  | 1 => un || Ex.cmp a b != .eq
  | 2 => !un && Ex.cmp a b == .lt
  | 3 => !un && Ex.cmp a b != .gt
  | 4 => !un && Ex.cmp a b == .gt
  | 5 => !un && Ex.cmp a b != .lt
  | 6 => !un
  | _ => un

/-- The exact quotient to 200 bits and a sticky bit, which no rounding of a format here can tell from the quotient. -/
def Ex.div : Ex → Ex → Ex
  | .nan, _ => .nan
  | _, .nan => .nan
  | .inf _, .inf _ => .nan
  | .inf a, .fin nb _ _ => .inf (a != nb)
  | .fin na _ _, .inf b => .fin (na != b) 0 0
  | .fin na ma ea, .fin nb mb eb =>
    if mb = 0 then (if ma = 0 then .nan else .inf (na != nb))
    else if ma = 0 then .fin (na != nb) 0 0
    else
      let k := 200 + Nat.log2 mb
      let num := ma <<< k
      .fin (na != nb) (2 * (num / mb) + (if num % mb = 0 then 0 else 1)) (ea - eb - (k : Int) - 1)

/-- Integer square root by bits, from bit `n - 1` down. -/
def isqrtBits (x : Nat) : Nat → Nat → Nat
  | 0, r => r
  | n + 1, r =>
    let r' := r + 2 ^ n
    isqrtBits x n (if r' * r' ≤ x then r' else r)

def isqrt (x : Nat) : Nat := isqrtBits x (Nat.log2 x / 2 + 1) 0

/-- The exact square root to 100 bits or more and a sticky bit (R238). -/
def Ex.sqrt : Ex → Ex
  | .nan => .nan
  | .inf n => if n then .nan else .inf false
  | .fin n m e =>
    if m = 0 then .fin n 0 0
    else if n then .nan
    else
      let odd := (e % 2).toNat
      let x := m <<< (200 + odd)
      let r := isqrt x
      .fin false (2 * r + (if r * r = x then 0 else 1)) ((e - (odd : Int) - 200) / 2 - 1)

/-- 1 over the square root (R238). -/
def Ex.rsqrt : Ex → Ex
  | .nan => .nan
  | .inf n => if n then .nan else .fin false 0 0
  | .fin n m e =>
    if m = 0 then .inf n
    else if n then .nan
    else
      let odd := (e % 2).toNat
      let x := m <<< odd
      let k := 200 + Nat.log2 x
      let r := isqrt (2 ^ (2 * k) / x)
      .fin false (2 * r + (if r * r * x = 2 ^ (2 * k) then 0 else 1)) (-((e - (odd : Int)) / 2) - (k : Int) - 1)

/-- A sum of terms t, t*x/n, ... of a series: term n+1 is term n times num over (den * the product of the two next
integers or the next one), in fixed point of P bits; signs alternate when `alt`. -/
def series (num P step : Nat) (alt : Bool) : Nat → Nat → Int → Nat → Int → Int
  | 0, _, _, _, acc => acc
  | fuel + 1, n, sg, t, acc =>
    let d := if step = 2 then (n + 1) * (n + 2) else n + 1
    let t' := (t * num) >>> P
    let t'' := t' / d
    let sg' := if alt then -sg else sg
    series num P step alt fuel (n + step) sg' t'' (acc + sg' * (t'' : Int))

/-- pi times 2^600, rounded down. -/
def piBits : Nat :=
  0x3243f6a8885a308d313198a2e03707344a4093822299f31d0082efa98ec4e6c89452821e638d01377be5466cf34e90c6cc0ac29b7c97c50dd3f84d5b5b54709179216d5d98979fb1bd1310b

/-- ln 2 times 2^300, rounded down. -/
def ln2Bits : Nat :=
  0xb17217f7d1cf79abc9e3b39803f2f6af40f343267298b62d8a0d175b8baafa2be7b876206de

/-- 2^x of a binary32 operand to about 190 bits, odd in its last bit unless exact (R238). -/
def Ex.exp2 : Ex → Ex
  | .nan => .nan
  | .inf n => if n then .fin false 0 0 else .inf false
  | .fin n m e =>
    if m = 0 then .fin false 1 0
    else
      let top := (Nat.log2 m : Int) + e
      if 10 ≤ top then (if n then .fin false 1 (-400) else .fin false 1 400)
      else if top < -60 then (if n then .fin false (2 ^ 100 - 1) (-100) else .fin false (2 ^ 100 + 1) (-100))
      else
        let x : Int := scaledTo n m e (-200)
        let k := x / (2 ^ 200 : Nat)
        let f := (x % (2 ^ 200 : Nat)).toNat
        if f = 0 then .fin false 1 k
        else
          let y := (f * ln2Bits) >>> 300
          let s := series y 200 1 false 60 0 1 (2 ^ 200) (2 ^ 200 : Nat)
          .fin false (2 * s.toNat + 1) (k - 201)

/-- Bits of log2 of a fixed-point x in [1, 2), by repeated squaring. -/
def log2Bits (P : Nat) : Nat → Nat → Nat → Nat
  | 0, _, acc => acc
  | fuel + 1, x, acc =>
    let y := (x * x) >>> P
    if 2 ^ (P + 1) ≤ y then log2Bits P fuel (y >>> 1) (2 * acc + 1) else log2Bits P fuel y (2 * acc)

/-- log2 to 120 fractional bits, odd in its last bit unless exact (R238). -/
def Ex.log2 : Ex → Ex
  | .nan => .nan
  | .inf n => if n then .nan else .inf false
  | .fin n m e =>
    if m = 0 then .inf true
    else if n then .nan
    else
      let k := Nat.log2 m
      let E : Int := (k : Int) + e
      if m = 2 ^ k then Ex.ofInt E 0 false
      else
        let frac := log2Bits 300 120 (m <<< (300 - k)) 0
        Ex.ofInt (2 * (E * (2 ^ 120 : Nat) + (frac : Int)) + 1) (-121) false

/-- sin (or cos) of y in [0, pi/2), fixed point of 250 bits. -/
def sinFix (cosine : Bool) (y : Nat) : Int :=
  let y2 := (y * y) >>> 250
  if cosine then series y2 250 2 true 40 0 1 (2 ^ 250) (2 ^ 250 : Nat)
  else series y2 250 2 true 40 1 1 y (y : Int)

/-- sin or cos with exact argument reduction (R238). -/
def Ex.trig (cosine : Bool) : Ex → Ex
  | .nan => .nan
  | .inf _ => .nan
  | .fin n m e =>
    if m = 0 then (if cosine then .fin false 1 0 else .fin n 0 0)
    else if (Nat.log2 m : Int) + e < -40 then
      (if cosine then .fin false (2 ^ 100 - 1) (-100) else .fin n (m * 2 ^ 100 - 1) (e - 100))
    else
      let x := (scaledTo false m e (-600)).toNat
      let half := piBits / 2
      let quad := x / half
      let y := (x % half) >>> 350
      let q := (quad + (if cosine then 1 else 0)) % 4
      let v := sinFix (q % 2 = 1) y
      let v := if 2 ≤ q then -v else v
      let v := if n && !cosine then -v else v
      Ex.ofInt (2 * v + 1) (-251) false

/-- The value of E8M0 code e (R97). -/
def e8m0Value (e : Nat) : Ex := if e = 255 then .nan else .fin false 1 ((e : Int) - 127)

/-- value(fmt, bits) of R113; integers are exact values too. -/
def Fmt.value (f : Fmt) (b : Nat) : Ex :=
  match f.ff with
  | some ff => ff.value b
  | none =>
    if f = .e8m0 then e8m0Value (b % 256)
    else if f.isSigned then Ex.ofInt (sext b f.width) 0 false
    else .fin false (b % 2 ^ f.width) 0

/-- The E8M0 code of a value (Table 7 of R105). -/
def toE8m0 (mode : Nat) (sat : Bool) : Ex → Nat
  | .nan => 255
  | .inf _ => if sat then 254 else 255
  | .fin _ m e =>
    if m = 0 then 0
    else
      let l : Int := (Nat.log2 m : Int) + e
      let k := if mode = 3 ∧ m ≠ 2 ^ Nat.log2 m then l + 1 else l
      (if k + 127 < 0 then 0 else if 254 < k + 127 then 254 else k + 127).toNat

/-- The integer pattern of a float value: rounded, then clamped; NaN gives 0 (Table 7 of R105). -/
def toIntFmt (f : Fmt) (mode : Nat) : Ex → Nat
  | .nan => 0
  | .inf n => satN f.isSigned (if n then -(2 ^ 80 : Nat) else (2 ^ 80 : Nat)) f.width
  | .fin n m e =>
    let k : Int := (roundInt mode n m e : Int)
    satN f.isSigned (if n then -k else k) f.width

/-- convert(x, from, to, mode, sat) of R105, on patterns and without the flush. -/
def convert (src dst : Fmt) (mode : Nat) (sat : Bool) (b : Nat) : Nat :=
  if src.isInt && dst.isInt then
    let x : Int := if src.isSigned then sext b src.width else ((b % 2 ^ src.width : Nat) : Int)
    if sat then satN dst.isSigned x dst.width else wrapN x dst.width
  else
    let x := src.value b
    match dst.ff with
    | some ff => ff.round mode sat true x
    | none => if dst = .e8m0 then toE8m0 mode sat x else toIntFmt dst mode x

/-- Rounds a value into any format, as a conversion from an exact value does (R105). -/
def Fmt.round (f : Fmt) (mode : Nat) (sat : Bool) (x : Ex) : Nat :=
  match f.ff with
  | some ff => ff.round mode sat true x
  | none => if f = .e8m0 then toE8m0 mode sat x else toIntFmt f mode x

/-- The pattern that a small integer constant has in a format (R54, R58). -/
def Fmt.ofSmall (f : Fmt) (neg : Bool) (m : Nat) (e : Int) : Nat :=
  match f.ff with
  | some ff => ff.roundFin 0 false neg m e
  | none =>
    if f = .e8m0 then toE8m0 0 false (.fin neg m e)
    else wrapN (scaledTo neg m e 0) f.width

/-- Exact sum of a list, folded from the left; R94 signs a zero (R107, R250). -/
def Ex.sum (rdn : Bool) : List Ex → Ex → Ex
  | [], acc => acc
  | x :: r, acc => Ex.sum rdn r (Ex.add rdn acc x)

/-- floor(log2 |x|) of a nonzero value; none of a zero. -/
def Ex.floorLog2 : Ex → Option Int
  | .fin _ m e => if m = 0 then none else some ((Nat.log2 m : Int) + e)
  | _ => none

/-- trunc(x / 2^t) * 2^t, as an integer count of 2^t. -/
def truncTo (t : Int) : Ex → Int
  | .fin n m e =>
    let k : Nat := if t ≤ e then m <<< (e - t).toNat else m >>> (t - e).toNat
    if n then -(k : Int) else (k : Int)
  | _ => 0

def maxLog2 : List Ex → Option Int → Option Int
  | [], acc => acc
  | x :: r, acc =>
    maxLog2 r (match x.floorLog2, acc with
      | some k, some a => some (if a < k then k else a)
      | some k, none => some k
      | none, a => a)

/-- block_sum of R108 over pairs of element values; scales are none for plain operands. -/
def blockSum (pairs : List (Ex × Ex)) (xa xb : Option Nat) : Ex :=
  let prods := pairs.map fun ab => Ex.mul ab.1 ab.2
  if xa = some 255 ∨ xb = some 255 ∨ prods.any Ex.isNan then .nan
  else if prods.any (fun p => p.isInf && p.isNeg) && prods.any (fun p => p.isInf && !p.isNeg) then .nan
  else if prods.any Ex.isInf then .inf (prods.any fun p => p.isInf && p.isNeg)
  else
    let bias : Option Nat → Int := fun x => match x with
      | some e => (e : Int) - 127
      | none => 0
    let k := bias xa + bias xb
    match xa, xb with
    | some _, some _ =>
      match Ex.sum false prods (.fin false 0 0) with
      | .fin n m e => if m = 0 then .fin false 0 0 else .fin n m (e + k)
      | x => x
    | _, _ =>
      let ps := prods.map (Ex.scale k)
      match maxLog2 ps none with
      | none => .fin false 0 0
      | some top =>
        let t := top - 64
        Ex.ofInt (ps.foldl (fun acc p => acc + truncTo t p) 0) t false

/-- acc_add of R109 on W96 patterns. -/
def accAdd (w : Nat) (s : Ex) : Nat :=
  match s with
  | .fin false 0 _ => w
  | _ => ffW96.round 0 false false (Ex.add false (ffW96.value w) s)

/-- The largest exponent emax of a narrow format (Table 3 of R96). -/
def Fmt.emax : Fmt → Int
  | .e4m3 => 8 | .e5m2 => 15 | .e2m3 => 2 | .e3m2 => 4 | .e2m1 => 2
  | _ => 0

def maxAbs : List Ex → Ex → Ex
  | [], acc => acc
  | x :: r, acc => maxAbs r (Ex.pick true acc x.abs)

/-- mx_scale of R112: the scale byte and the elements of one MX block. -/
def mxScale (xs : List Ex) (f : Fmt) (mode : Nat) : Nat × List Nat :=
  if xs.any (fun x => x.isNan || x.isInf) then (255, xs.map fun _ => 0)
  else
    match (maxAbs xs (.fin false 0 0)).floorLog2 with
    | none => (0, xs.map fun x => f.round mode true x)
    | some l =>
      let t := l - f.emax
      let t := if t < -127 then -127 else if 127 < t then 127 else t
      ((t + 127).toNat, xs.map fun x => f.round mode true (x.scale (-t)))

end Sys2Proof.Machine
end

