-- ==== Sys2Proof/Config.lean ====
section
/-! DEFINITION. What one PX-9800 fixes for itself and what the spec leaves open: free values are opaque constants
without a body, so no proof can see them. -/

namespace Sys2Proof.Config

/-- Core cycles that a message of the machine's interior takes, by the number of the message (Table 4 of
00_scope.md gives nominal latencies that bind nothing; log entry 2). -/
opaque latency : Nat → Nat

/-- A value the spec leaves open, by the number of the use: State.fresh counts the uses (log entry 3). -/
opaque freeValue : Nat → Nat

/-- The stepping that STEP shows (R449 leaves it to the device). -/
opaque stepping : Nat

/-- The device secret and the fuses of R466: the root-key hash and the first minimum security version. -/
opaque rootKeyHash : List W8
opaque fuseSvn : Nat

/-- ML-DSA verification of a signature over a message under a key (R467 names the standard). -/
opaque mlDsaVerify : List W8 → List W8 → List W8 → Bool

/-- ML-DSA signature of a message under the device's attestation key (R470). -/
opaque mlDsaSign : List W8 → List W8

/-- The certificate of the device identity key, in the module flash (R470). -/
opaque certificate : List W8

/-- Output n of the device's CTR_DRBG (R146, R464). -/
opaque drbg : Nat → Nat

/-- Whether a plaza accepts a delegate message, by core cycle and line (R416: the plaza's own matter). -/
opaque plazaAccepts : Nat → Nat → Bool

end Sys2Proof.Config
end

