-- ==== Sys2Proof/Syntax.lean ====
section
/-! DEFINITION. The instructions and events of the PX-9800: one constructor per row of the opcode table
(02_encoding.md R70 to R79 for the encoded rows, 95_what_each_step_holds.md for the events). -/

namespace Sys2Proof

/-- An operand, read from a 7-bit code (R54) or a 6-bit code (R56); `lit` and `mask` carry their own word (R57). -/
inductive Opd where
  | v (n : Fin 64)
  | w (n : Fin 32)
  | q (n : Fin 16)
  | zero | one | mone | two | half
  | strandIdx | grpWidth
  | lit (x : W32)
  | mask (x : W32)
  /-- a code that the field's table reserves; refused by WellFormed (R54, R56) -/
  | bad (code : Nat)
  deriving DecidableEq, Repr

/-- The extension word of an FX instruction less its C field (R59, Table 6). -/
structure Fx where
  rm : BitVec 3 := 0
  sat : Bool := false
  na : Bool := false
  nb : Bool := false
  nc : Bool := false
  opx : BitVec 6 := 0
  imm : BitVec 12 := 0
  deriving DecidableEq, Repr

/-- A predicate index p0 to p7 or b0 to b7. -/
abbrev Pr := Fin 8

/-- The kinds of soft error of R190, R218, R303, R383 (event SOFT_ERROR). -/
inductive SoftKind where
  /-- an aligned 8-byte memory word: byte address on its controller space (R383) -/
  | memory (correctable : Bool) (addr : Nat)
  /-- a register of a resident group: the word read as base (none) or the deltas of the strands of a mask (R218) -/
  | register (correctable : Bool) (blk grp reg : Nat) (strands : Option Nat)
  /-- eight slots of a macro row (R303) -/
  | macroRow (correctable : Bool) (core mac row slot : Nat)
  /-- an accumulator element by its ACC offset (R303) -/
  | accum (correctable : Bool) (blk off : Nat)
  /-- an L1 line (R190) -/
  | l1Line (correctable : Bool) (core line : Nat)
  deriving DecidableEq, Repr

/-- A flit as it stands on the wire, less the bytes of its body that the packet record carries (R399). -/
structure Flit where
  seq : Nat := 0
  ack : Nat := 0
  nak : Bool := false
  first : Bool := false
  fpri : Nat := 0
  idle : Bool := false
  own : Bool := false
  avd : Nat := 0
  stops : Nat := 0
  stopo : Nat := 0
  body : List W8 := []
  /-- the reserved bits [95] and [65:64], and the CRC-32C that it carries -/
  rsv : Nat := 0
  crc : Nat := 0
  deriving DecidableEq, Repr

/-- A packet header and its data (R401, Table 2). -/
structure Packet where
  va : Nat := 0
  op : Nat := 0
  fpri : Nat := 0
  avd : Nat := 0
  home : Nat := 0
  src : Nat := 0
  dst : Nat := 0
  clk : Nat := 0
  /-- the timestamp of the line that a reply carries beside CLK (log entry 8) -/
  rts : Nat := 0
  reqvf : Nat := 0
  tag : Nat := 0
  reserved : Nat := 0
  /-- flits that it came in -/
  flits : Nat := 1
  len : Nat := 0
  data : List W8 := []
  deriving DecidableEq, Repr

/-- One constructor per row of spec/opcode_table.json. Encoded rows carry their operands in the order of R57,
then their predicate, then their modifiers; events carry the place they act on. -/
inductive Instr where
  -- class 0, F3 and FX (R70)
  | iadd (d a b : Opd) (p : Pr)
  | isub (d a b : Opd) (p : Pr)
  | iaddc (d a b : Opd) (p : Pr)
  | imul (d a b : Opd) (p : Pr)
  | imulhI (d a b : Opd) (p : Pr)
  | imulhN (d a b : Opd) (p : Pr)
  | imac (d a b c : Opd) (p : Pr) (x : Fx)
  | imacw (d a b c : Opd) (p : Pr) (x : Fx)
  | iminI (d a b : Opd) (p : Pr)
  | iminN (d a b : Opd) (p : Pr)
  | imaxI (d a b : Opd) (p : Pr)
  | imaxN (d a b : Opd) (p : Pr)
  | iabs (d a : Opd) (p : Pr)
  | ineg (d a : Opd) (p : Pr)
  | andB (d a b : Opd) (p : Pr)
  | orB (d a b : Opd) (p : Pr)
  | xorB (d a b : Opd) (p : Pr)
  | andn (d a b : Opd) (p : Pr)
  | notB (d a : Opd) (p : Pr)
  | shl (d a b : Opd) (p : Pr)
  | shr (d a b : Opd) (p : Pr)
  | asr (d a b : Opd) (p : Pr)
  | rol (d a b : Opd) (p : Pr)
  | fshf (d a b c : Opd) (p : Pr) (x : Fx)
  | bfxI (d a b : Opd) (p : Pr) (x : Fx)
  | bfxN (d a b : Opd) (p : Pr) (x : Fx)
  | bfi (d a b c : Opd) (p : Pr) (x : Fx)
  | popc (d a : Opd) (p : Pr)
  | clz (d a : Opd) (p : Pr)
  | brev (d a : Opd) (p : Pr)
  | mov (d a : Opd) (width : BitVec 7) (p : Pr)
  | sel (d a b : Opd) (s : Pr)
  | icmpI (d a b : Opd) (p : Pr) (x : Fx)
  | icmpN (d a b : Opd) (p : Pr) (x : Fx)
  | lea (d a b : Opd) (p : Pr) (x : Fx)
  | bsel (d a b c : Opd) (p : Pr) (x : Fx)
  | plog (t a b c : Pr) (p : Pr) (x : Fx)
  | pmov (d a : Opd) (p : Pr)
  | iadd64 (d a b : Opd) (p : Pr)
  | isub64 (d a b : Opd) (p : Pr)
  | shl64 (d a b : Opd) (p : Pr)
  | shr64 (d a b : Opd) (p : Pr)
  | fadd (d a b : Opd) (p : Pr)
  | fsub (d a b : Opd) (p : Pr)
  | fmul (d a b : Opd) (p : Pr)
  | ffma (d a b c : Opd) (p : Pr) (x : Fx)
  | fmin (d a b : Opd) (p : Pr)
  | fmax (d a b : Opd) (p : Pr)
  | fcmp (d a b : Opd) (p : Pr) (x : Fx)
  | fneg (d a : Opd) (p : Pr)
  | fabs (d a : Opd) (p : Pr)
  | frcp (d a : Opd) (p : Pr)
  | frsq (d a : Opd) (p : Pr)
  | fsqrt (d a : Opd) (p : Pr)
  | fdiv (d a b : Opd) (p : Pr)
  | fex2 (d a : Opd) (p : Pr)
  | flg2 (d a : Opd) (p : Pr)
  | fsin (d a : Opd) (p : Pr)
  | fcos (d a : Opd) (p : Pr)
  | fscale (d a b : Opd) (p : Pr)
  | duoadd (d a b : Opd) (p : Pr) (x : Fx)
  | duomul (d a b : Opd) (p : Pr) (x : Fx)
  | duofma (d a b c : Opd) (p : Pr) (x : Fx)
  | dadd (d a b : Opd) (p : Pr)
  | dmul (d a b : Opd) (p : Pr)
  | dfma (d a b c : Opd) (p : Pr) (x : Fx)
  | dcmp (d a b : Opd) (p : Pr) (x : Fx)
  | cvt (d a : Opd) (p : Pr) (x : Fx)
  | pack (d a b : Opd) (p : Pr) (x : Fx)
  | unpk (d a : Opd) (p : Pr) (x : Fx)
  | dot4 (d a b c : Opd) (p : Pr) (x : Fx)
  | dot8 (d a b c : Opd) (p : Pr) (x : Fx)
  -- class 3 (R75)
  | poll (d : Opd) (a : Pr) (p : Pr) (x : Fx)
  | ballot (d a b : Opd) (p : Pr)
  | pick (d a b c : Opd) (p : Pr) (x : Fx)
  | xget (d a b : Opd)
  | xput (d a b : Opd)
  | bcast (d a b : Opd) (p : Pr)
  | redX (d a : Opd) (p : Pr) (x : Fx)
  | scan (d a : Opd) (p : Pr) (x : Fx)
  | matchX (d a : Opd) (p : Pr)
  | rots (d a b : Opd) (p : Pr)
  -- class 1 (R71)
  | nop (bp : Pr)
  | bra (bp ps : Pr) (off : BitVec 18)
  | brc (bp ps : Pr) (off : BitVec 18)
  | brd (bp ps : Pr) (off : BitVec 18)
  | brx (a : Opd) (bp : Pr)
  | call (bp : Pr) (off : BitVec 18)
  | ret (bp : Pr)
  | rjoin (bp : Pr)
  | exit (bp : Pr)
  | wait (wl ws wc wt : BitVec 3) (bp : Pr)
  | yield (bp : Pr)
  | trap (k : BitVec 8) (bp : Pr)
  | rett
  | loop (bp cr : Pr) (off : BitVec 18)
  | cue (k : BitVec 8) (bp : Pr)
  | wmov (d a : Opd) (bp : Pr)
  | wli (d : Opd) (lo hi : W32) (bp : Pr)
  | wadd (d a b : Opd) (bp : Pr)
  | wsub (d a b : Opd) (bp : Pr)
  | wmul (d a b : Opd) (bp : Pr)
  | wand (d a b : Opd) (bp : Pr)
  | wor (d a b : Opd) (bp : Pr)
  | wxor (d a b : Opd) (bp : Pr)
  | wshl (d a b : Opd) (bp : Pr)
  | wshr (d a b : Opd) (bp : Pr)
  | wasr (d a b : Opd) (bp : Pr)
  | wmin (d a b : Opd) (bp : Pr)
  | wmax (d a b : Opd) (bp : Pr)
  | wcmp (c : BitVec 3) (t : Pr) (a b : Opd) (bp : Pr)
  | wsel (d a b : Opd) (s : Pr)
  | wadd64 (d a b : Opd) (bp : Pr)
  | wrs (d : Opd) (i : BitVec 6) (bp : Pr)
  | wws (i : BitVec 6) (a : Opd) (bp : Pr)
  | wpopc (d a : Opd) (bp : Pr)
  -- class 2 (R73); k of LD, ST, LDS, STS selects width 8 * 2^k
  | ld (k : Fin 5) (data base index : Opd) (p : Pr) (sx : Bool) (hint : BitVec 3) (off : BitVec 12)
  | st (k : Fin 5) (data base index : Opd) (p : Pr) (hint : BitVec 3) (off : BitVec 12)
  | lds (k : Fin 5) (data base index : Opd) (p : Pr) (sx : Bool) (off : BitVec 12)
  | sts (k : Fin 5) (data base index : Opd) (p : Pr) (off : BitVec 12)
  | ldw (data base index : Opd) (p : Pr) (ty hint : BitVec 3) (off : BitVec 12)
  | stw (data base index : Opd) (p : Pr) (ty hint : BitVec 3) (off : BitVec 12)
  | atom (data base index c : Opd) (p : Pr) (ty : BitVec 3) (aop : BitVec 4) (hint : BitVec 3) (off : BitVec 12)
  | atoms (data base index c : Opd) (p : Pr) (ty : BitVec 3) (aop : BitVec 4) (off : BitVec 12)
  | red (data base index : Opd) (p : Pr) (ty : BitVec 3) (aop : BitVec 4) (hint : BitVec 3) (off : BitVec 12)
  | pst (data base index : Opd) (p : Pr) (ty : BitVec 3) (off : BitVec 12)
  | pref (base index : Opd) (p : Pr) (hint : BitVec 3) (off : BitVec 12)
  | fenceP (p : Pr)
  | fenceH (p : Pr)
  | fenceA (p : Pr)
  | mon (base index : Opd) (p : Pr) (off : BitVec 12)
  | sleep (p : Pr)
  -- class 4 (R76)
  | qpeek (d q : Opd) (bp : Pr)
  | qcnt (d q : Opd) (bp : Pr)
  | qdrop (q b : Opd) (bp : Pr)
  | binit (a b : Opd) (bp : Pr)
  | barr (a : Opd) (bp : Pr)
  | barx (a b : Opd) (bp : Pr)
  | brmt (a : Opd) (bp : Pr)
  | bwait (a b : Opd) (bp : Pr)
  | btest (t : Pr) (a b : Opd) (bp : Pr)
  | gsync (bp : Pr)
  | sacq (d q : Opd) (bp : Pr)
  | srel (q : Opd) (bp : Pr)
  -- class 5 (R77)
  | gang (a : Opd) (bp : Pr)
  | obres (a : Opd) (imm : W8) (bp : Pr)
  | obrel (imm : W8) (bp : Pr)
  | mbld (a b : Opd) (mode : BitVec 12) (imm : W8) (bp : Pr)
  | mma (a b c : Opd) (mode : BitVec 12) (imm : W8) (bp : Pr)
  | mzero (imm : W8) (bp : Pr)
  | mdrn (a b c e : Opd) (mode : BitVec 12) (imm : W8) (bp : Pr)
  | mstat (d : Opd) (bp : Pr)
  | mldacc (a b : Opd) (imm : W8) (bp : Pr)
  | msvacc (a b : Opd) (imm : W8) (bp : Pr)
  | mcancel (mode : BitVec 12) (bp : Pr)
  -- class 6 (R78); lo is MODE [5:0], hi is MODE [16:11] of XFM
  | cpy (d a b c e : Opd) (eq : BitVec 3) (mode : BitVec 17) (bp : Pr)
  | cpyt (d a b c e : Opd) (eq : BitVec 3) (mode : BitVec 17) (bp : Pr)
  | cpym (d a b c e : Opd) (eq : BitVec 3) (mode : BitVec 17) (bp : Pr)
  | gath (d a b c e : Opd) (eq : BitVec 3) (mode : BitVec 17) (bp : Pr)
  | scat (d a b c e : Opd) (eq : BitVec 3) (mode : BitVec 17) (bp : Pr)
  | rcpy (d a b c e : Opd) (eq : BitVec 3) (mode : BitVec 17) (bp : Pr)
  | crng (a : Opd) (eq : BitVec 3) (mode : BitVec 17) (bp : Pr)
  | xfmMove (d a b c e : Opd) (eq : BitVec 3) (lo hi : BitVec 6) (bp : Pr)
  | xfmCvt (d a b c e : Opd) (eq : BitVec 3) (lo hi : BitVec 6) (bp : Pr)
  | xfmMxq (d a b c e : Opd) (eq : BitVec 3) (lo hi : BitVec 6) (bp : Pr)
  | xfmMxdq (d a b c e : Opd) (eq : BitVec 3) (lo hi : BitVec 6) (bp : Pr)
  | xfmBdxd (d a b c e : Opd) (eq : BitVec 3) (lo hi : BitVec 6) (bp : Pr)
  | xfmBdxe (d a b c e : Opd) (eq : BitVec 3) (lo hi : BitVec 6) (bp : Pr)
  | xfmCrcg (d a b c e : Opd) (eq : BitVec 3) (lo hi : BitVec 6) (bp : Pr)
  | xfmCrcv (d a b c e : Opd) (eq : BitVec 3) (lo hi : BitVec 6) (bp : Pr)
  | qfence (mask : W8) (bp : Pr)
  | drainScr (bp : Pr)
  | drainL1 (bp : Pr)
  | drainMem (bp : Pr)
  -- class 7 (R79)
  | trig (bp : Pr)
  | svc (d a b : Opd) (bp : Pr)
  | cntr (d a : Opd) (bp : Pr)
  | cntc (d a b : Opd) (bp : Pr)
  | pkw (d a b : Opd) (bp : Pr)
  | dtw (d a b : Opd) (bp : Pr)
  | hinv (d a b : Opd) (bp : Pr)
  | watch (d a : Opd) (bp : Pr)
  | spwtWait (d a : Opd) (bp : Pr)
  | spwtSubmit (d a : Opd) (bp : Pr)
  | spwtReply (d a : Opd) (bp : Pr)
  | spwtKill (d a : Opd) (bp : Pr)
  | ctxs (d a b : Opd) (bp : Pr)
  | ctxr (d a : Opd) (bp : Pr)
  | halt (bp : Pr)
  -- events: lanes, groups, dispatch
  | issueSlot (core lane : Nat)
  | laneWriteback (blk grp : Nat)
  | consumerMaskAccept (blk grp queue : Nat)
  | strandClockTick
  | dispatchClockTick (d : Nat)
  | portClockTick
  | cueOverrun (blk grp : Nat)
  | quantumEnd (d : Nat)
  | worldSwitch (d : Nat)
  | launchBeginDispatch (d lid : Nat)
  | coreSetPlace (d lid : Nat)
  | preemption (d lid : Nat)
  | blockRestore (blk : Nat)
  -- events: access engine
  | partReply (part : Nat)
  | loadDataArrival (part : Nat)
  | icacheFill (core part : Nat)
  | wake (part : Nat)
  | engineWake (part : Nat)
  | brmtArrival (blk off uid tick : Nat)
  -- events: block-transfer, transform and matrix engines
  | engineEntryStart (core eq : Nat)
  | chunk (core eq : Nat)
  | bdxChunkDecode (core eq : Nat)
  | finish (core eq : Nat)
  | completionRecordRetry (core eq : Nat)
  | operandFetch (core op : Nat)
  | tileOpStart (core op : Nat)
  | sectionStep (core op quarter : Nat)
  | tileFault (core op code : Nat)
  -- events: homes
  | homeRead (part : Nat)
  | homeWrite (part : Nat)
  | homeAtomic (part : Nat)
  | retryReply (part : Nat)
  | timestampEvict (home line : Nat)
  | delegate (home line : Nat)
  | ceilingRaise (home line ceiling : Nat)
  | writeThrough (home line first ts : Nat) (bytes : List W8)
  | recall (home line : Nat)
  | lineReturn (home line wts rts : Nat)
  -- events: fabric
  | flitSlot (link : Nat)
  | frameStart (link : Nat)
  | linkSilenceTimeout (link : Nat)
  | linkDown (link : Nat)
  | partTimeout (part : Nat)
  | replyKeepExpiry (src tag : Nat)
  -- events: districts, virtual functions
  -- events: service processor
  | spIssueCycle
  | consumedRecheck (q : Nat)
  -- events: control plane and host ports
  | hanosNoticeDelivery
  -- events: keys, boot, resets, power, monitor, errors
  | warmReset
  | coldReset
  | counterUpdate (d : Nat)
  | hanosLinkDown
  -- events that only the outside world (masters, hosts, links, other devices) posts
  | flitReceive (link : Nat) (f : Flit)
  | packetReceive (link : Nat) (k : Packet)
  | linkTraining (master link rtt plane plaza : Nat)
  | linkStop (master link : Nat)
  | avtWrite (master link group value : Nat)
  | districtForm (master d : Nat)
  | districtDrain (master d : Nat)
  | vfReset (master d v : Nat) (scrub : Bool)
  | vfFlr (f : Nat)
  | queueEnable (master q : Nat)
  | queueDisable (master q : Nat)
  | notify (q value : Nat)
  | notifyPageWrite (f q value tc : Nat) (ide : Option Nat)
  | semaphoreAcquire (master : Nat)
  | semaphoreRelease (master : Nat)
  | semaphoreBreak (master : Nat)
  | controlPlaneWrite (master off size value tc : Nat) (ide : Option Nat)
  | hostMemoryRead (f off len tc tag : Nat) (ide : Option Nat)
  | hostMemoryWrite (f off tc : Nat) (ide : Option Nat) (bytes : List W8)
  | hostAtomicop (f off tc op size operand cmp tag : Nat) (ide : Option Nat)
  | hanosHostRead (stream va len tag : Nat)
  | hanosHostWrite (stream va : Nat) (bytes : List W8)
  | hanosHostAtomic (stream va aop ty operand cmp tag : Nat)
  | keyGen (master slot : Nat)
  | keyLoad (master slot : Nat)
  | keyClear (master slot : Nat)
  | bootFromRecovery (master : Nat)
  | commitSvn (master : Nat)
  | extendMr (master mri : Nat)
  | attestationRequest (f : Nat) (nonce : List W8)
  | ideKeyProgram (stream key : Nat) (funcs : List Nat)
  | powerClockStep (watts : Nat)
  | dcfgWrite (master d i value : Nat)
  | softError (k : SoftKind)
  | hostFrameCompletion (part : Nat) (good : Bool) (bytes : List W8)
  | pcieLinkDown
  | pcieLinkUp
  deriving DecidableEq, Repr

end Sys2Proof
end

