-- ==== Sys2Proof/Machine/Legality.lean ====
section
/-! DEFINITION. The checks at decode of R53 that an instruction's own fields decide: modifiers (trap 0x01) before
operands (trap 0x02); and the part of the operand check that needs the launch (R55, R245). -/

namespace Sys2Proof

/-- Fields of the extension word's OPX and IMM (Table 6 of R59). -/
def Fx.immN (x : Fx) : Nat := x.imm.toNat
def Fx.opxN (x : Fx) : Nat := x.opx.toNat
def Fx.sel (x : Fx) (hi lo : Nat) : Nat := bits x.opx.toNat hi lo
def Fx.i (x : Fx) (hi lo : Nat) : Nat := bits x.imm.toNat hi lo

/-- No rounding, saturation or negation. -/
def Fx.plain (x : Fx) : Bool := x.rm == 0 && !x.sat && !x.na && !x.nb && !x.nc

/-- Rounding modes 4 to 7 are reserved (R60). -/
def Fx.rmOk (x : Fx) : Bool := x.rm.toNat < 4

/-- Bits [31:23] of a consumer-mask word, which must be 0 (R31). -/
def Opd.maskReserved : Opd → Bool
  | .mask x => x.toNat >>> 23 != 0
  | _ => false

namespace Machine

/-- The v register that an operand names, plus one; 0 for none. -/
def vTop : Opd → Nat
  | .v n => n.val + 1
  | .mask x => if (x.toNat >>> 16) % 128 < 64 then (x.toNat >>> 16) % 128 + 1 else 0
  | _ => 0

/-- The type of a source: 32-bit or packed integer, 32-bit or packed float, 64-bit integer, FP64, 128-bit. -/
inductive STy where
  | i32 | f32 | i64 | f64 | i128
  deriving DecidableEq, Repr

/-- The width in bits that a source type reads. -/
def STy.width : STy → Nat
  | .i32 | .f32 => 32
  | .i64 | .f64 => 64
  | .i128 => 128

def STy.isFloat : STy → Bool
  | .f32 | .f64 => true
  | _ => false

/-- A register code that an operand of this width may name (R55). -/
def regOk (bits n : Nat) : Bool :=
  match bits with
  | 64 => n % 2 == 0
  | 128 => n % 4 == 0
  | _ => true

/-- A 7-bit source code in a position of a type (Table 3 of R54, R55, R219). -/
def okSrc7 (t : STy) : Opd → Bool
  | .v n => regOk t.width n.val
  | .w n => regOk t.width n.val
  | .q _ => t.width == 32
  | .zero | .one | .mone | .two | .lit _ => true
  | .half => t.isFloat
  | .strandIdx | .grpWidth => !t.isFloat
  | _ => false

/-- The queues of a consumer mask (R30). -/
def maskQueues (x : W32) : Nat := x.toNat % 65536

/-- The register code of a consumer mask (R30). -/
def maskReg (x : W32) : Nat := (x.toNat >>> 16) % 128

/-- A 7-bit destination code for a result of a width, any kind of destination (R54, R31, R219). -/
def okDst7 (bits : Nat) : Opd → Bool
  | .v n => regOk bits n.val
  | .w n => regOk bits n.val
  | .q _ => bits == 32
  | .zero => true
  | .mask x => bits == 32 && (maskReg x < 96 || (maskReg x == 127 && maskQueues x != 0))
  | _ => false

/-- How an instruction limits its destination beyond R54. -/
inductive DKind where
  /-- any destination of the result's width -/
  | any
  /-- v, w or 112: a compare (R232) -/
  | cmp
  /-- v or w: a packed element kept beside the others (R241, R242) -/
  | packed
  /-- v only, with 112, queue and mask too when the old value is not read (R248) -/
  | pick (open_ : Bool)
  /-- w only (XGET) or v only (XPUT), R251 -/
  | wOnly
  | vOnly
  deriving DecidableEq, Repr

/-- What the operand rules need of a class 0 or class 3 instruction. -/
structure LaneForm where
  d : Opd
  bits : Nat := 32
  dk : DKind := .any
  /-- the destination is read as well as written (R221) -/
  rmw : Bool := false
  srcs : List (STy × Opd)
  /-- predicates read as sources (R55) -/
  preds : List Nat := []
  /-- the predicate written, 0 for none -/
  target : Nat := 0
  /-- the guard; 0 (true) where P is not a guard -/
  guard : Nat := 0
  deriving DecidableEq, Repr

/-- The source type of an element format (R54, R58). -/
def Fmt.sty (f : Fmt) : STy :=
  match f with
  | .n64 | .i64 => .i64
  | .f64 => .f64
  | f => if f.isInt then .i32 else .f32

/-- The element formats of DOT4 and DOT8 (R244). -/
def dot4Fmt : Nat → Option Fmt
  | 0 => some .e4m3 | 1 => some .e5m2 | 2 => some .e2m3 | 3 => some .e3m2 | 4 => some .i8 | 5 => some .n8
  | _ => none

def dot8Fmt : Nat → Option Fmt
  | 0 => some .e2m1 | 1 => some .i4 | 2 => some .n4
  | _ => none

def Opt.sty (f : Option Fmt) : STy :=
  match f with
  | some f => f.sty
  | none => .i32

/-- The combine predicate of a compare, when a combine is selected (R232). -/
def cmpPreds (x : Fx) : List Nat := if x.sel 4 3 = 0 then [] else [x.i 5 3]

/-- An unary or binary form on 32-bit sources with a 32-bit result. -/
def lane1 (t : STy) (d a : Opd) (p : Pr) : LaneForm := { d := d, srcs := [(t, a)], guard := p.val }
def lane2 (t : STy) (d a b : Opd) (p : Pr) : LaneForm := { d := d, srcs := [(t, a), (t, b)], guard := p.val }
def lane3 (t : STy) (d a b c : Opd) (p : Pr) : LaneForm :=
  { d := d, srcs := [(t, a), (t, b), (t, c)], guard := p.val }

def laneCmp (t : STy) (d a b : Opd) (p : Pr) (x : Fx) : LaneForm :=
  { d := d, dk := .cmp, srcs := [(t, a), (t, b)], preds := cmpPreds x, target := x.i 2 0, guard := p.val }

/-- The operand description of the instructions of classes 0 and 3 (chapter 07). -/
def laneForm : Instr → Option LaneForm
  | .iadd d a b p | .isub d a b p | .iaddc d a b p | .imul d a b p | .imulhI d a b p | .imulhN d a b p
  | .iminI d a b p | .iminN d a b p | .imaxI d a b p | .imaxN d a b p
  | .andB d a b p | .orB d a b p | .xorB d a b p | .andn d a b p
  | .shl d a b p | .shr d a b p | .asr d a b p | .rol d a b p => some (lane2 .i32 d a b p)
  | .iabs d a p | .ineg d a p | .notB d a p | .popc d a p | .clz d a p | .brev d a p => some (lane1 .i32 d a p)
  | .imac d a b c p _ | .fshf d a b c p _ => some (lane3 .i32 d a b c p)
  | .imacw d a b c p _ =>
    some { d := d, bits := 64, srcs := [(.i32, a), (.i32, b), (.i64, c)], guard := p.val }
  | .bfxI d a b p x | .bfxN d a b p x =>
    some (if x.sel 0 0 = 1 then lane1 .i32 d a p else lane2 .i32 d a b p)
  | .bfi d a b c p x =>
    some (if x.sel 0 0 = 1 then lane2 .i32 d a c p else lane3 .i32 d a b c p)
  | .mov d a wd p =>
    some (match wd.toNat with
      | 0 => lane1 .i32 d a p
      | 1 => { d := d, bits := 64, srcs := [(.i64, a)], guard := p.val }
      | _ => { d := d, bits := 128, srcs := [(.i128, a)], guard := p.val })
  | .sel d a b s => some { d := d, srcs := [(.i32, a), (.i32, b)], preds := [s.val] }
  | .icmpI d a b p x | .icmpN d a b p x => some (laneCmp .i32 d a b p x)
  | .fcmp d a b p x => some (laneCmp .f32 d a b p x)
  | .dcmp d a b p x => some (laneCmp .f64 d a b p x)
  | .lea d a b p _ => some { d := d, bits := 64, srcs := [(.i32, a), (.i64, b)], guard := p.val }
  | .bsel d a b c p x =>
    some (if x.sel 0 0 = 1 then lane2 .i32 d a b p else lane3 .i32 d a b c p)
  | .plog t a b c p _ =>
    some { d := .zero, srcs := [], preds := [a.val, b.val, c.val], target := t.val, guard := p.val }
  | .pmov d a p =>
    some { d := d, srcs := [(.i32, a)], preds := [1, 2, 3, 4, 5, 6, 7], guard := p.val }
  | .iadd64 d a b p | .isub64 d a b p =>
    some { d := d, bits := 64, srcs := [(.i64, a), (.i64, b)], guard := p.val }
  | .shl64 d a b p | .shr64 d a b p =>
    some { d := d, bits := 64, srcs := [(.i64, a), (.i32, b)], guard := p.val }
  | .fadd d a b p | .fsub d a b p | .fmul d a b p | .fmin d a b p | .fmax d a b p | .fdiv d a b p
  | .duoadd d a b p _ | .duomul d a b p _ => some (lane2 .f32 d a b p)
  | .fneg d a p | .fabs d a p | .frcp d a p | .frsq d a p | .fsqrt d a p | .fex2 d a p | .flg2 d a p
  | .fsin d a p | .fcos d a p => some (lane1 .f32 d a p)
  | .fscale d a b p => some { d := d, srcs := [(.f32, a), (.i32, b)], guard := p.val }
  | .ffma d a b c p _ | .duofma d a b c p _ => some (lane3 .f32 d a b c p)
  | .dadd d a b p | .dmul d a b p =>
    some { d := d, bits := 64, srcs := [(.f64, a), (.f64, b)], guard := p.val }
  | .dfma d a b c p _ =>
    some { d := d, bits := 64, srcs := [(.f64, a), (.f64, b), (.f64, c)], guard := p.val }
  | .cvt d a p x =>
    match Fmt.ofCode (x.i 9 5), Fmt.ofCode (x.i 4 0) with
    | some fr, some ft =>
      some { d := d, bits := if ft.width = 64 then 64 else 32, dk := if ft.width < 32 then .packed else .any,
             rmw := ft.width < 32, srcs := [(fr.sty, a)], guard := p.val }
    | _, _ => some (lane1 .i32 d a p)
  | .pack d a b p x =>
    let t := match Fmt.ofCode (x.sel 4 0) with
      | some f => if f.isInt then STy.i32 else STy.f32
      | none => STy.i32
    some { d := d, dk := .packed, rmw := true, srcs := [(t, a), (t, b)], guard := p.val }
  | .unpk d a p x =>
    some { d := d, bits := 64, srcs := [(Opt.sty (Fmt.ofCode (x.sel 4 0)), a)], guard := p.val }
  | .dot4 d a b c p x =>
    some { d := d, srcs := [(Opt.sty (dot4Fmt (x.sel 2 0)), a), (Opt.sty (dot4Fmt (x.sel 5 3)), b),
             (if x.i 0 0 = 1 then .i32 else .f32, c)], guard := p.val }
  | .dot8 d a b c p x =>
    some { d := d, srcs := [(Opt.sty (dot8Fmt (x.sel 2 0)), a), (Opt.sty (dot8Fmt (x.sel 5 3)), b),
             (if x.i 0 0 = 1 then .i32 else .f32, c)], guard := p.val }
  | .poll d a p x => some { d := d, srcs := [], preds := [a.val], target := x.i 2 0, guard := p.val }
  | .ballot d a b p => some (lane2 .i32 d a b p)
  | .pick d a b c p _ =>
    some { d := d, dk := .pick (c == .mone), rmw := true, srcs := [(.i32, a), (.i32, b), (.i32, c)], guard := p.val }
  | .xget d a b => some { d := d, dk := .wOnly, srcs := [(.i32, a), (.i32, b)] }
  | .xput d a b => some { d := d, dk := .vOnly, srcs := [(.i32, a), (.i32, b)] }
  | .bcast d a b p | .rots d a b p => some (lane2 .i32 d a b p)
  | .redX d a p x | .scan d a p x => some (lane1 (if 9 ≤ x.opxN then .f32 else .i32) d a p)
  | .matchX d a p => some (lane1 .i32 d a p)
  | _ => none

/-- A source that is uniform at decode, with the queues of kind uniform word given (R55). -/
def uniformSrc (qk : Nat → Bool) : Opd → Bool
  | .w _ | .zero | .one | .mone | .two | .half | .grpWidth | .lit _ => true
  | .q n => qk n.val
  | _ => false

def isW : Opd → Bool
  | .w _ => true
  | _ => false

def isV : Opd → Bool
  | .v _ => true
  | _ => false

/-- A destination that holds a w register, directly or in a consumer mask (R55, R31). -/
def namesW : Opd → Bool
  | .w _ => true
  | .mask x => 64 ≤ maskReg x && maskReg x < 96
  | _ => false

/-- The w-destination rule of R55. -/
def LaneForm.wOk (f : LaneForm) (qk : Nat → Bool) : Bool :=
  f.dk == .wOnly || !namesW f.d || (f.srcs.all (fun s => uniformSrc qk s.2) && f.preds.all (· == 0))

def LaneForm.dstOk (f : LaneForm) : Bool :=
  okDst7 f.bits f.d &&
  match f.dk with
  | .any => true
  | .cmp => isV f.d || isW f.d || f.d == .zero
  | .packed => isV f.d || isW f.d
  | .pick op => isV f.d || (op && !isW f.d)
  | .wOnly => isW f.d
  | .vOnly => isV f.d

/-- The operand check of a class 0 or 3 instruction, less what needs the launch. -/
def LaneForm.ok (f : LaneForm) : Bool :=
  f.dstOk && f.srcs.all (fun s => okSrc7 s.1 s.2) && f.wOk (fun _ => true)

/-- A uniform value operand of 7 bits in which a queue is illegal: w, a constant or a literal (R251, R273). -/
def uniVal (o : Opd) : Bool :=
  match o with
  | .w _ | .zero | .one | .mone | .two | .lit _ => true
  | _ => false

/-- XGET and XPUT restrict their sources (R251); BCAST and ROTS need a uniform B (R249). -/
def exchangeOk : Instr → Bool
  | .xget _ a b => isV a && (uniVal b || b == .strandIdx || b == .grpWidth)
  | .xput _ a b => (uniVal a || a == .strandIdx || a == .grpWidth) && (uniVal b || b == .strandIdx || b == .grpWidth)
  | .bcast _ _ b _ | .rots _ _ b _ => uniformSrc (fun _ => true) b
  | _ => true

def fmtCount (code : Nat) : Nat :=
  match Fmt.ofCode code with
  | some f => f.perWord
  | none => 0

/-- The fields that each FX instruction honours and the values that it defines (Table 3 of R225, R60). -/
def fxOk : Instr → Bool
  | .imac _ _ _ _ _ x | .imacw _ _ _ _ _ x =>
    x.rm == 0 && !x.na && !x.nb && !x.nc && x.sel 5 2 == 0 && x.imm == 0
  | .fshf _ _ _ _ _ x => x.plain && x.sel 5 1 == 0 && x.imm == 0
  | .bfxI _ _ b _ x | .bfxN _ _ b _ x | .bfi _ _ b _ _ x =>
    x.plain && x.sel 5 1 == 0 &&
      (if x.sel 0 0 = 1 then x.i 11 11 == 0 && x.i 10 5 ≤ 32 && b == .zero else x.imm == 0)
  | .icmpI _ _ _ _ x | .icmpN _ _ _ _ x =>
    x.plain && x.sel 2 0 ≤ 5 && x.sel 5 5 == 0 && x.i 11 6 == 0 && (x.sel 4 3 != 0 || x.i 5 3 == 0)
  | .fcmp _ _ _ _ x | .dcmp _ _ _ _ x =>
    x.rm == 0 && !x.sat && !x.nc && x.sel 5 5 == 0 && x.i 11 6 == 0 && (x.sel 4 3 != 0 || x.i 5 3 == 0)
  | .lea _ _ _ _ x => x.plain && x.sel 5 1 == 0 && x.i 11 3 == 0
  | .bsel _ _ _ c _ x =>
    x.plain && x.sel 5 2 == 0 && (if x.sel 0 0 = 1 then x.sel 1 1 == 0 && c == .v 0 else x.imm == 0)
  | .plog _ _ _ _ _ x => x.plain && x.opx == 0 && x.i 11 8 == 0
  | .ffma _ _ _ _ _ x | .dfma _ _ _ _ _ x => x.rmOk && x.opx == 0 && x.imm == 0
  | .duoadd _ _ _ _ x | .duomul _ _ _ _ x =>
    x.rmOk && !x.nc && x.sel 2 1 != 3 && x.sel 5 3 == 0 && x.imm == 0
  | .duofma _ _ _ _ _ x => x.rmOk && x.sel 2 1 != 3 && x.sel 5 3 == 0 && x.imm == 0
  | .cvt _ _ _ x =>
    x.rmOk && !x.na && !x.nb && !x.nc && x.i 11 10 == 0 && x.i 9 5 < 20 && x.i 4 0 < 20 && x.i 9 5 != x.i 4 0 &&
      x.sel 2 0 < fmtCount (x.i 9 5) && x.sel 5 3 < fmtCount (x.i 4 0)
  | .pack _ _ _ _ x =>
    x.rmOk && !x.na && !x.nb && !x.nc && x.sel 5 5 == 0 && x.i 11 2 == 0 && x.sel 4 0 != 17 &&
      2 * x.i 1 0 + 1 < fmtCount (x.sel 4 0)
  | .unpk _ _ _ x => x.plain && x.sel 5 5 == 0 && x.i 11 2 == 0 && 2 * x.i 1 0 + 1 < fmtCount (x.sel 4 0)
  | .dot4 _ _ _ _ _ x =>
    !x.na && !x.nb && x.i 11 1 == 0 && (dot4Fmt (x.sel 2 0)).isSome && (dot4Fmt (x.sel 5 3)).isSome &&
      (if x.i 0 0 = 1 then x.rm == 0 && !x.nc && 4 ≤ x.sel 2 0 && 4 ≤ x.sel 5 3 else x.rmOk && !x.sat)
  | .dot8 _ _ _ _ _ x =>
    !x.na && !x.nb && x.i 11 1 == 0 && (dot8Fmt (x.sel 2 0)).isSome && (dot8Fmt (x.sel 5 3)).isSome &&
      (if x.i 0 0 = 1 then x.rm == 0 && !x.nc && 1 ≤ x.sel 2 0 && 1 ≤ x.sel 5 3 else x.rmOk && !x.sat)
  | .poll _ _ _ x => x.plain && x.sel 5 2 == 0 && x.i 11 3 == 0
  | .pick _ _ _ _ _ x => x.plain && x.sel 5 2 == 0 && x.i 11 3 == 0 && x.i 2 0 ≤ 6
  | .redX _ _ _ x =>
    x.opxN ≤ 11 && x.imm == 0 && !x.na && !x.nb && !x.nc && x.rmOk && (x.rm == 0 || x.opxN == 9) &&
      (!x.sat || x.opxN ≤ 1)
  | .scan _ _ _ x =>
    x.opxN ≤ 11 && x.i 11 1 == 0 && !x.na && !x.nb && !x.nc && x.rmOk && (x.rm == 0 || x.opxN == 9) &&
      (!x.sat || x.opxN ≤ 1)
  | .mov _ _ wd _ => wd.toNat ≤ 2
  | _ => true

/-- Sources of the 6-bit formats: w, q, zero, one, mone, literal (Table 4 of R56). -/
def uSrc : Opd → Bool
  | .w _ | .q _ | .zero | .one | .mone | .lit _ => true
  | _ => false

/-- 64-bit sources of the 6-bit formats: an even w code, a constant or a literal (R178, R181). -/
def uSrc64 : Opd → Bool
  | .w n => n.val % 2 == 0
  | .zero | .one | .mone | .lit _ => true
  | _ => false

/-- Destinations of the 6-bit formats (R56). -/
def uDst : Opd → Bool
  | .w _ | .q _ | .zero => true
  | _ => false

def uDst64 : Opd → Bool
  | .w n => n.val % 2 == 0
  | .zero => true
  | _ => false

def evenW : Opd → Bool
  | .w n => n.val % 2 == 0
  | _ => false

def quadW : Opd → Bool
  | .w n => n.val % 4 == 0
  | _ => false

/-- A w code at or below a bound. -/
def wUpTo (m : Nat) : Opd → Bool
  | .w n => n.val ≤ m
  | _ => false

/-- A w code, or zero to discard (R395, R434). -/
def wOrZero : Opd → Bool
  | .w _ | .zero => true
  | _ => false

/-- A value operand of class 7: a w code, 48 to 50 or a literal (R395, R434, R484). -/
def sysVal : Opd → Bool
  | .w _ | .zero | .one | .mone | .lit _ => true
  | _ => false

/-- A length field of class 6 (R316): w, a queue, 48 to 50 or a literal. -/
def lenOk (o : Opd) : Bool := uSrc o

/-- A tag field of class 6 (R316): an even w code, 48 or a literal. -/
def tagOk : Opd → Bool
  | .w n => n.val % 2 == 0
  | .zero | .lit _ => true
  | _ => false

/-- The bits of a 64-bit special register's index (Table 14 of R72). -/
def spr64 (i : Nat) : Bool := (3 ≤ i && i ≤ 8) || i == 0x10 || i == 0x11 || i == 0x14 || i == 0x15

/-- Memory operand fields (R197): a BASE pair in v or w, an INDEX register or none. -/
def baseOk (pair : Bool) : Opd → Bool
  | .v n => !pair || n.val % 2 == 0
  | .w n => !pair || n.val % 2 == 0
  | _ => false

def idxOk : Opd → Bool
  | .v _ | .w _ | .zero => true
  | _ => false

/-- The bits of an access of width code k (R73). -/
def kBits (k : Nat) : Nat := 8 * 2 ^ k

/-- A loaded destination: v or 112 (R197). -/
def ldDst (bits : Nat) : Opd → Bool
  | .v n => regOk bits n.val
  | .zero => true
  | _ => false

/-- A store source: a v or w code, a constant or a literal (R197, R201). -/
def stSrc (t : STy) (o : Opd) : Bool :=
  match o with
  | .q _ => false
  | o => okSrc7 t o

def stSty (k : Nat) : STy := if k = 3 then .i64 else if k = 4 then .i128 else .i32

/-- The type of an atomic operand (Table 16 of R74). -/
def atomSty : Nat → STy
  | 0 | 1 => .i32
  | 2 | 3 => .i64
  | 4 => .f32
  | 5 => .f64
  | _ => .i128

/-- The pairs of TY and AOP that Table 16 of R74 allows. -/
def atomPair (ty aop : Nat) : Bool :=
  match ty with
  | 0 | 2 => aop ≤ 9
  | 1 | 3 => aop ≤ 7
  | 4 | 5 => aop == 0 || aop == 1 || aop == 2 || aop == 6
  | 6 => aop == 6 || aop == 7
  | _ => false

/-- MODE of a copy form less OPM: RING is 0 when REL is 0 (R316). -/
def ringOk (m : Nat) : Bool := bitOf m 1 || bits m 5 2 == 0

/-- XFM MODE [16:6] (Tables 1 and 2 of R340): RM for XOP 1 to 3, SAT for 1 and 3, ZW for 5. -/
def xfmModeOk (xop lo hi : Nat) : Bool :=
  ringOk lo && bits hi 5 5 == 0 &&
  (bits hi 4 3 == 0 || (xop == 5 && bits hi 4 3 != 3)) &&
  (bits hi 2 2 == 0 || xop == 1 || xop == 3) &&
  (bits hi 1 0 == 0 || (1 ≤ xop && xop ≤ 3))

/-- Modifier, type, mode and kind values of the classes other than 0 and 3 (trap 0x01). -/
def modeOk : Instr → Bool
  | .wcmp _ _ _ _ _ => true
  | .ld k _ _ _ _ sx hint _ => (!sx || k.val ≤ 1) && hint.toNat ≤ 3
  | .st _ _ _ _ _ hint _ => hint.toNat ≤ 3
  | .lds k _ _ _ _ sx _ => !sx || k.val ≤ 1
  | .ldw _ _ _ _ ty hint _ | .stw _ _ _ _ ty hint _ =>
    2 ≤ ty.toNat && ty.toNat ≤ 4 && hint.toNat ≤ 3
  | .atom _ _ _ _ _ ty aop hint _ => atomPair ty.toNat aop.toNat && hint.toNat ≤ 3
  | .atoms _ _ _ _ _ ty aop _ => atomPair ty.toNat aop.toNat
  | .red _ _ _ _ ty aop hint _ =>
    atomPair ty.toNat aop.toNat && aop.toNat != 6 && aop.toNat != 7 && hint.toNat ≤ 3
  | .pst _ _ _ _ ty _ => ty.toNat ≤ 4
  | .pref _ _ _ hint _ => hint.toNat ≤ 2
  | .obres _ imm _ | .obrel imm _ => imm.toNat < 8
  | .mbld _ _ mode imm _ =>
    let m := mode.toNat
    bits m 2 0 ≤ 6 && bits m 8 7 ≤ 2 && bits m 10 9 ≤ 2 && bits m 11 11 == 0 && !(bitOf m 3 && 5 ≤ bits m 2 0) &&
      imm.toNat < 16 && imm.toNat + 2 ^ bits m 8 7 * 2 ^ bits m 10 9 ≤ 16
  | .mma _ _ _ mode _ _ =>
    let m := mode.toNat
    bits m 2 0 ≤ 6 && bits m 11 11 == 0 && !(bitOf m 3 && 5 ≤ bits m 2 0)
  | .mdrn _ _ c e mode _ _ =>
    let m := mode.toNat
    bits m 2 0 ≤ 6 && bits m 11 8 == 0 &&
      (if bitOf m 3 then 2 ≤ bits m 2 0 && c != .zero && e != .zero && !bitOf m 6
       else bits m 2 0 < 4 && c == .zero && e == .zero)
  | .mcancel mode _ => mode.toNat < 4
  | .cpy _ _ _ _ _ eq mode _ | .cpyt _ _ _ _ _ eq mode _ =>
    eq.toNat ≤ 3 && ringOk mode.toNat && bits mode.toNat 16 6 == 0
  | .cpym _ _ _ _ _ eq mode _ => eq.toNat ≤ 3 && ringOk mode.toNat && bits mode.toNat 16 14 == 0
  | .gath _ _ _ _ _ eq mode _ | .scat _ _ _ _ _ eq mode _ =>
    eq.toNat ≤ 3 && ringOk mode.toNat && bits mode.toNat 16 9 == 0
  | .rcpy _ _ _ _ _ eq mode _ =>
    let m := mode.toNat
    eq.toNat ≤ 3 && ringOk m && bits m 16 13 == 0 && bits m 9 6 ≤ 5 && !(3 ≤ bits m 9 6 && 4 ≤ bits m 12 10)
  | .crng a eq mode _ =>
    eq.toNat ≤ 5 && mode.toNat ≤ 12 && (a != .zero || mode == 0)
  | .xfmMove _ _ _ _ _ eq lo hi _ => (eq == 4 || eq == 5) && xfmModeOk 0 lo.toNat hi.toNat
  | .xfmCvt _ _ _ _ _ eq lo hi _ => (eq == 4 || eq == 5) && xfmModeOk 1 lo.toNat hi.toNat
  | .xfmMxq _ _ _ _ _ eq lo hi _ => (eq == 4 || eq == 5) && xfmModeOk 2 lo.toNat hi.toNat
  | .xfmMxdq _ _ _ _ _ eq lo hi _ => (eq == 4 || eq == 5) && xfmModeOk 3 lo.toNat hi.toNat
  | .xfmBdxd _ _ _ _ _ eq lo hi _ => (eq == 4 || eq == 5) && xfmModeOk 4 lo.toNat hi.toNat
  | .xfmBdxe _ _ _ _ _ eq lo hi _ => (eq == 4 || eq == 5) && xfmModeOk 5 lo.toNat hi.toNat
  | .xfmCrcg _ _ _ _ _ eq lo hi _ => (eq == 4 || eq == 5) && xfmModeOk 6 lo.toNat hi.toNat
  | .xfmCrcv _ _ _ _ _ eq lo hi _ => (eq == 4 || eq == 5) && xfmModeOk 7 lo.toNat hi.toNat
  | .qfence mask _ => mask != 0
  | _ => true

/-- Operands common to the copy forms: tag and barrier (R316). -/
def tagBar (c e : Opd) : Bool := tagOk c && uSrc e

/-- Operand codes of the classes other than 0 and 3 (trap 0x02). -/
def opdOk : Instr → Bool
  | .brx a _ => evenW a
  | .wmov d a _ | .wpopc d a _ => uDst d && uSrc a
  | .wli d _ _ _ => uDst64 d
  | .wadd d a b _ | .wsub d a b _ | .wmul d a b _ | .wand d a b _ | .wor d a b _ | .wxor d a b _ | .wshl d a b _
  | .wshr d a b _ | .wasr d a b _ | .wmin d a b _ | .wmax d a b _ | .wsel d a b _ => uDst d && uSrc a && uSrc b
  | .wcmp _ _ a b _ => uSrc a && uSrc b
  | .wadd64 d a b _ => uDst64 d && uSrc64 a && uSrc64 b
  | .wrs d i _ => i.toNat ≤ 0x16 && (if spr64 i.toNat then uDst64 d else uDst d)
  | .wws i a _ =>
    (i.toNat == 0x13 && uSrc a) || ((i.toNat == 0x14 || i.toNat == 0x15) && uSrc64 a)
  | .ld k d b x _ _ _ _ => ldDst (kBits k.val) d && baseOk true b && idxOk x
  | .st k d b x _ _ _ => stSrc (stSty k.val) d && baseOk true b && idxOk x
  | .lds k d b x _ _ _ => ldDst (kBits k.val) d && baseOk false b && idxOk x
  | .sts k d b x _ _ => stSrc (stSty k.val) d && baseOk false b && idxOk x
  | .ldw d b x _ ty _ _ =>
    (match d with
      | .w n => regOk (kBits ty.toNat) n.val
      | .zero => true
      | _ => false) && evenW b && wOrZero x
  | .stw d b x _ ty _ _ => stSrc (stSty ty.toNat) d && !isV d && d != .strandIdx && evenW b && wOrZero x
  | .atom d b x c _ ty _ _ _ => ldDst (atomSty ty.toNat).width d && stSrc (atomSty ty.toNat) c && baseOk true b && idxOk x
  | .atoms d b x c _ ty _ _ =>
    ldDst (atomSty ty.toNat).width d && d != .zero && stSrc (atomSty ty.toNat) c && baseOk false b && idxOk x
  | .red d b x _ ty _ _ _ => stSrc (atomSty ty.toNat) d && baseOk true b && idxOk x
  | .pst d b x _ ty _ => stSrc (stSty ty.toNat) d && baseOk true b && idxOk x
  | .pref b x _ _ _ => baseOk true b && idxOk x
  | .mon b x _ _ => baseOk true b && idxOk x
  | .qpeek d q _ | .qcnt d q _ | .sacq d q _ =>
    (isV d || isW d || d == .zero) && (match q with | .q _ => true | _ => false)
  | .qdrop q b _ => (match q with | .q _ => true | _ => false) && uniVal b
  | .srel q _ => (match q with | .q _ => true | _ => false)
  | .binit a b _ | .barx a b _ | .bwait a b _ | .btest _ a b _ => uniVal a && uniVal b
  | .barr a _ => uniVal a
  | .brmt a _ => evenW a
  | .gang a _ => isW a
  | .obres a _ _ => uSrc a
  | .mbld a b _ _ _ | .mldacc a b _ _ | .msvacc a b _ _ => isW a && wUpTo 29 b
  | .mma a b c _ _ _ => isW a && wUpTo 29 b && uSrc c
  | .mdrn a b c e mode _ _ =>
    isW a && wUpTo 29 b && (if bitOf mode.toNat 3 then isW c && wUpTo 29 e else c == .zero && e == .zero)
  | .mstat d _ => uDst d
  | .cpy d a b c e _ _ _ | .rcpy d a b c e _ _ _ => evenW d && evenW a && lenOk b && tagBar c e
  | .cpyt d a b c e _ _ _ => isW d && isW a && wUpTo 23 b && tagBar c e
  | .cpym d a b c e _ _ _ => evenW d && evenW a && lenOk b && tagOk c && uSrc e
  | .gath d a b c e _ _ _ | .scat d a b c e _ _ _ => evenW d && evenW a && evenW b && wUpTo 28 b && tagBar c e
  | .crng a _ _ _ => evenW a || a == .zero
  | .xfmMove d a b c e _ _ _ _ | .xfmCvt d a b c e _ _ _ _ | .xfmMxq d a b c e _ _ _ _
  | .xfmMxdq d a b c e _ _ _ _ => isW d && isW a && wUpTo 23 b && tagBar c e
  | .xfmBdxd d a b c e _ _ _ _ => evenW d && evenW a && evenW b && wUpTo 28 b && tagBar c e
  | .xfmBdxe d a b c e _ _ _ _ | .xfmCrcg d a b c e _ _ _ _ | .xfmCrcv d a b c e _ _ _ _ =>
    evenW d && evenW a && lenOk b && tagBar c e
  | .svc d a b _ | .hinv d a b _ => wOrZero d && evenW a && sysVal b
  | .cntr d a _ => evenW d && sysVal a
  | .cntc d a b _ => wOrZero d && sysVal a && sysVal b
  | .pkw d a b _ => wOrZero d && isW a && sysVal b
  | .dtw d a b _ => wOrZero d && quadW a && sysVal b
  | .watch d a _ => wOrZero d && evenW a
  | .spwtWait d a _ => wOrZero d && wOrZero a
  | .spwtSubmit d a _ => evenW d && quadW a
  | .spwtReply d a _ => wOrZero d && quadW a
  | .spwtKill d a _ => wOrZero d && isW a
  | .ctxs d a b _ => isW d && evenW a && isW b
  | .ctxr d a _ => isW d && evenW a
  | _ => true

/-- The destination of a class 0 or 3 instruction, for the consumer-mask word check of R31. -/
def maskOk (i : Instr) : Bool :=
  match laneForm i with
  | some f => !f.d.maskReserved
  | none => true

/-- The trap code that an instruction's own fields raise at decode, if any: modifiers first (R53 Table 2). -/
def ill (i : Instr) : Option Nat :=
  if !(fxOk i && modeOk i && maskOk i) then some 0x01
  else
    match laneForm i with
    | some f => if f.ok && exchangeOk i then none else some 0x02
    | none => if opdOk i then none else some 0x02

/-- Every operand of a class 2 or class 4 instruction that may name a v register. -/
def accessOpds : Instr → List Opd
  | .ld _ d b x _ _ _ _ | .st _ d b x _ _ _ | .lds _ d b x _ _ _ | .sts _ d b x _ _ | .ldw d b x _ _ _ _
  | .stw d b x _ _ _ _ | .red d b x _ _ _ _ _ | .pst d b x _ _ _ => [d, b, x]
  | .atom d b x c _ _ _ _ _ | .atoms d b x c _ _ _ _ => [d, b, x, c]
  | .pref b x _ _ _ | .mon b x _ _ => [b, x]
  | .qpeek d _ _ | .qcnt d _ _ | .sacq d _ _ => [d]
  | _ => []

/-- Every operand that may name a v register. -/
def vOpds (i : Instr) : List Opd :=
  match laneForm i with
  | some f => f.d :: f.srcs.map Prod.snd
  | none => accessOpds i

/-- The result of BALLOT and MATCH is a pair in a group of 64 strands (R245). -/
def wideMask : Instr → Option Opd
  | .ballot d _ _ _ => some d
  | .matchX d _ _ => some d
  | _ => none

/-- The operand checks that need the launch: declared registers, queue kinds and group width (R55, R245); trap 0x02. -/
def illDyn (vregs width : Nat) (qk : Nat → Bool) (i : Instr) : Bool :=
  (vOpds i).any (fun o => vregs < vTop o) ||
  (match laneForm i with
    | some f => !f.wOk qk
    | none => false) ||
  (match i with
    | .bcast _ _ b _ => !uniformSrc qk b
    | .rots _ _ b _ => !uniformSrc qk b
    | _ => false) ||
  (match wideMask i with
    | some d => width == 64 && !okDst7 64 d
    | none => false)

/-- The class of an encoded instruction (R50); 8 for an event, which has no encoding. -/
def classOf : Instr → Nat
  | .poll .. | .ballot .. | .pick .. | .xget .. | .xput .. | .bcast .. | .redX .. | .scan .. | .matchX .. | .rots .. => 3
  | .nop .. | .bra .. | .brc .. | .brd .. | .brx .. | .call .. | .ret .. | .rjoin .. | .exit .. | .wait .. | .yield ..
  | .trap .. | .rett | .loop .. | .cue .. | .wmov .. | .wli .. | .wadd .. | .wsub .. | .wmul .. | .wand .. | .wor ..
  | .wxor .. | .wshl .. | .wshr .. | .wasr .. | .wmin .. | .wmax .. | .wcmp .. | .wsel .. | .wadd64 .. | .wrs ..
  | .wws .. | .wpopc .. => 1
  | .ld .. | .st .. | .lds .. | .sts .. | .ldw .. | .stw .. | .atom .. | .atoms .. | .red .. | .pst .. | .pref ..
  | .fenceP .. | .fenceH .. | .fenceA .. | .mon .. | .sleep .. => 2
  | .qpeek .. | .qcnt .. | .qdrop .. | .binit .. | .barr .. | .barx .. | .brmt .. | .bwait .. | .btest .. | .gsync ..
  | .sacq .. | .srel .. => 4
  | .gang .. | .obres .. | .obrel .. | .mbld .. | .mma .. | .mzero .. | .mdrn .. | .mstat .. | .mldacc .. | .msvacc ..
  | .mcancel .. => 5
  | .cpy .. | .cpyt .. | .cpym .. | .gath .. | .scat .. | .rcpy .. | .crng .. | .xfmMove .. | .xfmCvt .. | .xfmMxq ..
  | .xfmMxdq .. | .xfmBdxd .. | .xfmBdxe .. | .xfmCrcg .. | .xfmCrcv .. | .qfence .. | .drainScr .. | .drainL1 ..
  | .drainMem .. => 6
  | .trig .. | .svc .. | .cntr .. | .cntc .. | .pkw .. | .dtw .. | .hinv .. | .watch .. | .spwtWait .. | .spwtSubmit ..
  | .spwtReply .. | .spwtKill .. | .ctxs .. | .ctxr .. | .halt .. => 7
  | i => if (laneForm i).isSome then 0 else 8

/-- The control transfers of R52, which must stand last in their clause. -/
def isTransfer : Instr → Bool
  | .bra .. | .brc .. | .brd .. | .brx .. | .call .. | .ret .. | .rjoin .. | .exit .. | .trap .. | .rett | .loop .. => true
  | _ => false

end Machine

end Sys2Proof
end

