-- ==== Sys2Proof/WellFormed.lean ====
section
/-! DEFINITION. Well-formed instructions: those whose own fields pass every check at decode (R53, R54 to R79). -/

namespace Sys2Proof

/-- No modifier and no operand code is illegal by itself; what the launch adds is Machine.illDyn. -/
def WellFormed (i : Instr) : Prop := Machine.ill i = none

/-- The same as a test. -/
def wellFormed (i : Instr) : Bool := (Machine.ill i).isNone

/-- An instruction that has an encoding. -/
def encoded (i : Instr) : Bool := Machine.classOf i < 8

end Sys2Proof
end

