-- ==== Sys2Proof/Decode.lean ====
section
/-! DEFINITION. Decoding of clause headers and of instructions from the words of their clause (R48 to R80), total on any
words and rejecting by name; and the encoder written from the same tables. -/

namespace Sys2Proof

/-- Why words do not decode: each is one row of Table 2 of R53 that the words alone decide. -/
inductive DecodeReject where
  /-- the words run past the clause (R52): trap 0x03 -/
  | overrun
  /-- a control transfer that is not last in its clause (R52): trap 0x03 -/
  | notLast
  /-- an opcode that the class does not assign (R80): trap 0x01 -/
  | badOpcode
  /-- a reserved or unused field that is not 0, or a kind value not defined (R69): trap 0x01 -/
  | badField
  deriving DecidableEq, Repr

/-- The trap code of a rejection (R53). -/
def DecodeReject.trap : DecodeReject → Nat
  | .overrun => 0x03
  | .notLast => 0x03
  | .badOpcode => 0x01
  | .badField => 0x01

/-- A clause header (Table 1 of R50). -/
structure Header where
  cue : Nat
  dual : Bool
  yieldAfter : Bool
  join : Bool
  wt : Nat
  wc : Nat
  ws : Nat
  wl : Nat
  cls : Nat
  n : Nat
  deriving DecidableEq, Repr

/-- A header word, or none where R51 raises trap 0x03. -/
def decodeHeader (w : W32) : Option Header :=
  let x := w.toNat
  let h : Header := {
    cue := bits x 29 22, dual := bitOf x 21, yieldAfter := bitOf x 20, join := bitOf x 19,
    wt := bits x 18 16, wc := bits x 15 13, ws := bits x 12 10, wl := bits x 9 7, cls := bits x 6 4, n := bits x 3 0 }
  if h.n = 0 ∨ bits x 31 30 ≠ 0 ∨ (h.dual = true ∧ h.cls ≠ 0 ∧ h.cls ≠ 2 ∧ h.cls ≠ 3) then none else some h

/-- The header word of a header. -/
def encodeHeader (h : Header) : W32 :=
  BitVec.ofNat 32 (h.n + h.cls * 2 ^ 4 + h.wl * 2 ^ 7 + h.ws * 2 ^ 10 + h.wc * 2 ^ 13 + h.wt * 2 ^ 16 +
    h.join.toNat * 2 ^ 19 + h.yieldAfter.toNat * 2 ^ 20 + h.dual.toNat * 2 ^ 21 + h.cue * 2 ^ 22)

/-- What reading fields gives: a value and the words left, or a rejection. -/
abbrev Taken (α : Type) := Except DecodeReject (α × List W32)

/-- A predicate index from the low three bits. -/
def prOf (x : Nat) : Pr := ⟨x % 8, Nat.mod_lt _ (by decide)⟩

/-- A 7-bit operand code that takes no word of its own (Table 3 of R54). -/
def reg7 (c : Nat) : Opd :=
  if h : c < 64 then .v ⟨c, h⟩
  else if h : c - 64 < 32 then .w ⟨c - 64, h⟩
  else if h : c - 96 < 16 then .q ⟨c - 96, h⟩
  else
    match c with
    | 112 => .zero | 113 => .one | 114 => .mone | 115 => .two | 116 => .half | 117 => .strandIdx | 118 => .grpWidth
    | _ => .bad c

/-- A 6-bit operand code that takes no word of its own (Table 4 of R56). -/
def reg6 (c : Nat) : Opd :=
  if h : c < 32 then .w ⟨c, h⟩
  else if h : c - 32 < 16 then .q ⟨c - 32, h⟩
  else
    match c with
    | 48 => .zero | 49 => .one | 50 => .mone
    | _ => .bad c

/-- The next word of the clause. -/
def takeWord : List W32 → Taken W32
  | [] => .error .overrun
  | x :: r => .ok (x, r)

/-- A 7-bit source field: code 120 takes a literal word (R57). -/
def src7 (c : Nat) (r : List W32) : Taken Opd :=
  if c = 120 then
    match r with
    | [] => .error .overrun
    | x :: r => .ok (.lit x, r)
  else .ok (reg7 c, r)

/-- A 7-bit destination field: code 121 takes a consumer-mask word (R57). -/
def dst7 (c : Nat) (r : List W32) : Taken Opd :=
  if c = 121 then
    match r with
    | [] => .error .overrun
    | x :: r => .ok (.mask x, r)
  else .ok (reg7 c, r)

/-- A 6-bit source field: code 51 takes a literal word (R57). -/
def src6 (c : Nat) (r : List W32) : Taken Opd :=
  if c = 51 then
    match r with
    | [] => .error .overrun
    | x :: r => .ok (.lit x, r)
  else .ok (reg6 c, r)

/-- A builder reads the words after the first. -/
abbrev Bld := Nat → List W32 → Taken Instr

/-- Field cut of the first word. -/
def opcOf (w : Nat) : Nat := bits w 31 24
def d7 (w : Nat) : Nat := bits w 23 17
def a7 (w : Nat) : Nat := bits w 16 10
def b7 (w : Nat) : Nat := bits w 9 3
def pOf (w : Nat) : Pr := prOf (bits w 2 0)
def d6 (w : Nat) : Nat := bits w 23 18
def a6 (w : Nat) : Nat := bits w 17 12
def b6 (w : Nat) : Nat := bits w 11 6
def bpOf (w : Nat) : Pr := prOf (bits w 5 3)

/-- Answers the instruction if every field that must be 0 is 0. -/
def need (ok : Bool) (i : Instr) (r : List W32) : Taken Instr := if ok then .ok (i, r) else .error .badField

/-- F3, three operands (Table 5 of R59). -/
def f3 (k : Opd → Opd → Opd → Pr → Instr) : Bld := fun w r =>
  match dst7 (d7 w) r with
  | .error e => .error e
  | .ok (d, r) =>
    match src7 (a7 w) r with
    | .error e => .error e
    | .ok (a, r) =>
      match src7 (b7 w) r with
      | .error e => .error e
      | .ok (b, r) => .ok (k d a b (pOf w), r)

/-- F3, single source: B is 0 (R70). -/
def f3u (k : Opd → Opd → Pr → Instr) : Bld := fun w r =>
  match dst7 (d7 w) r with
  | .error e => .error e
  | .ok (d, r) =>
    match src7 (a7 w) r with
    | .error e => .error e
    | .ok (a, r) => need (b7 w == 0) (k d a (pOf w)) r

/-- MOV: B holds the width code (R231). -/
def f3mov : Bld := fun w r =>
  match dst7 (d7 w) r with
  | .error e => .error e
  | .ok (d, r) =>
    match src7 (a7 w) r with
    | .error e => .error e
    | .ok (a, r) => .ok (.mov d a (BitVec.ofNat 7 (b7 w)) (pOf w), r)

/-- XGET and XPUT: P is 0 (R251). -/
def f3x (k : Opd → Opd → Opd → Instr) : Bld := fun w r =>
  match dst7 (d7 w) r with
  | .error e => .error e
  | .ok (d, r) =>
    match src7 (a7 w) r with
    | .error e => .error e
    | .ok (a, r) =>
      match src7 (b7 w) r with
      | .error e => .error e
      | .ok (b, r) => need (bits w 2 0 == 0) (k d a b) r

/-- The extension word of an FX instruction less C (Table 6 of R59). -/
def fxOf (x : Nat) : Fx :=
  { rm := BitVec.ofNat 3 (bits x 24 22), sat := bitOf x 21, na := bitOf x 20, nb := bitOf x 19, nc := bitOf x 18,
    opx := BitVec.ofNat 6 (bits x 17 12), imm := BitVec.ofNat 12 (bits x 11 0) }

/-- FX with three sources. -/
def fx3 (k : Opd → Opd → Opd → Opd → Pr → Fx → Instr) : Bld := fun w r =>
  match takeWord r with
  | .error e => .error e
  | .ok (x, r) =>
    match dst7 (d7 w) r with
    | .error e => .error e
    | .ok (d, r) =>
      match src7 (a7 w) r with
      | .error e => .error e
      | .ok (a, r) =>
        match src7 (b7 w) r with
        | .error e => .error e
        | .ok (b, r) =>
          match src7 (bits x.toNat 31 25) r with
          | .error e => .error e
          | .ok (c, r) => .ok (k d a b c (pOf w) (fxOf x.toNat), r)

/-- FX with two sources: C is 0. -/
def fx2 (k : Opd → Opd → Opd → Pr → Fx → Instr) : Bld := fun w r =>
  match takeWord r with
  | .error e => .error e
  | .ok (x, r) =>
    match dst7 (d7 w) r with
    | .error e => .error e
    | .ok (d, r) =>
      match src7 (a7 w) r with
      | .error e => .error e
      | .ok (a, r) =>
        match src7 (b7 w) r with
        | .error e => .error e
        | .ok (b, r) => need (bits x.toNat 31 25 == 0) (k d a b (pOf w) (fxOf x.toNat)) r

/-- FX with one source: B and C are 0. -/
def fx1 (k : Opd → Opd → Pr → Fx → Instr) : Bld := fun w r =>
  match takeWord r with
  | .error e => .error e
  | .ok (x, r) =>
    match dst7 (d7 w) r with
    | .error e => .error e
    | .ok (d, r) =>
      match src7 (a7 w) r with
      | .error e => .error e
      | .ok (a, r) => need (b7 w == 0 && bits x.toNat 31 25 == 0) (k d a (pOf w) (fxOf x.toNat)) r

/-- PLOG: fields D, A, B and C hold predicate indices (R235). -/
def fxPlog : Bld := fun w r =>
  match takeWord r with
  | .error e => .error e
  | .ok (x, r) =>
    need (d7 w < 8 && a7 w < 8 && b7 w < 8 && bits x.toNat 31 25 < 8)
      (.plog (prOf (d7 w)) (prOf (a7 w)) (prOf (b7 w)) (prOf (bits x.toNat 31 25)) (pOf w) (fxOf x.toNat)) r

/-- POLL: A holds a predicate index, B and C are 0 (R246). -/
def fxPoll : Bld := fun w r =>
  match takeWord r with
  | .error e => .error e
  | .ok (x, r) =>
    match dst7 (d7 w) r with
    | .error e => .error e
    | .ok (d, r) =>
      need (a7 w < 8 && b7 w == 0 && bits x.toNat 31 25 == 0) (.poll d (prOf (a7 w)) (pOf w) (fxOf x.toNat)) r

/-- Class 0 (Table 13a of R70). -/
def class0 : Nat → Option Bld
  | 0x01 => some (f3 .iadd) | 0x02 => some (f3 .isub) | 0x03 => some (f3 .iaddc) | 0x04 => some (f3 .imul)
  | 0x05 => some (f3 .imulhI) | 0x06 => some (f3 .imulhN) | 0x07 => some (fx3 .imac) | 0x08 => some (fx3 .imacw)
  | 0x09 => some (f3 .iminI) | 0x0a => some (f3 .iminN) | 0x0b => some (f3 .imaxI) | 0x0c => some (f3 .imaxN)
  | 0x0d => some (f3u .iabs) | 0x0e => some (f3u .ineg)
  | 0x10 => some (f3 .andB) | 0x11 => some (f3 .orB) | 0x12 => some (f3 .xorB) | 0x13 => some (f3 .andn)
  | 0x14 => some (f3u .notB) | 0x15 => some (f3 .shl) | 0x16 => some (f3 .shr) | 0x17 => some (f3 .asr)
  | 0x18 => some (f3 .rol) | 0x19 => some (fx3 .fshf) | 0x1a => some (fx2 .bfxI) | 0x1b => some (fx2 .bfxN)
  | 0x1c => some (fx3 .bfi) | 0x1d => some (f3u .popc) | 0x1e => some (f3u .clz) | 0x1f => some (f3u .brev)
  | 0x20 => some f3mov | 0x21 => some (f3 .sel) | 0x22 => some (fx2 .icmpI) | 0x23 => some (fx2 .icmpN)
  | 0x24 => some (fx2 .lea) | 0x25 => some (fx3 .bsel) | 0x26 => some fxPlog | 0x27 => some (f3u .pmov)
  | 0x28 => some (f3 .iadd64) | 0x29 => some (f3 .isub64) | 0x2a => some (f3 .shl64) | 0x2b => some (f3 .shr64)
  | 0x30 => some (f3 .fadd) | 0x31 => some (f3 .fsub) | 0x32 => some (f3 .fmul) | 0x33 => some (fx3 .ffma)
  | 0x34 => some (f3 .fmin) | 0x35 => some (f3 .fmax) | 0x36 => some (fx2 .fcmp) | 0x37 => some (f3u .fneg)
  | 0x38 => some (f3u .fabs) | 0x39 => some (f3u .frcp) | 0x3a => some (f3u .frsq) | 0x3b => some (f3u .fsqrt)
  | 0x3c => some (f3 .fdiv) | 0x3d => some (f3u .fex2) | 0x3e => some (f3u .flg2) | 0x3f => some (f3u .fsin)
  | 0x40 => some (f3u .fcos) | 0x41 => some (f3 .fscale)
  | 0x44 => some (fx2 .duoadd) | 0x45 => some (fx2 .duomul) | 0x46 => some (fx3 .duofma)
  | 0x48 => some (f3 .dadd) | 0x49 => some (f3 .dmul) | 0x4a => some (fx3 .dfma) | 0x4b => some (fx2 .dcmp)
  | 0x50 => some (fx1 .cvt) | 0x51 => some (fx2 .pack) | 0x52 => some (fx1 .unpk)
  | 0x58 => some (fx3 .dot4) | 0x59 => some (fx3 .dot8)
  | _ => none

/-- Class 3 (R75). -/
def class3 : Nat → Option Bld
  | 0x00 => some fxPoll | 0x01 => some (f3 .ballot) | 0x02 => some (fx3 .pick) | 0x03 => some (f3x .xget)
  | 0x04 => some (f3x .xput) | 0x05 => some (f3 .bcast) | 0x06 => some (fx1 .redX) | 0x07 => some (fx1 .scan)
  | 0x08 => some (f3u .matchX) | 0x09 => some (f3 .rots)
  | _ => none

/-- FU with no operand (Table 9 of R63). -/
def fu0 (k : Pr → Instr) : Bld := fun w r => need (bits w 23 6 == 0 && bits w 2 0 == 0) (k (bpOf w)) r

/-- FU with D, A and B. -/
def fu3 (k : Opd → Opd → Opd → Pr → Instr) : Bld := fun w r =>
  match src6 (a6 w) r with
  | .error e => .error e
  | .ok (a, r) =>
    match src6 (b6 w) r with
    | .error e => .error e
    | .ok (b, r) => need (bits w 2 0 == 0) (k (reg6 (d6 w)) a b (bpOf w)) r

/-- FU with D and A. -/
def fu2 (k : Opd → Opd → Pr → Instr) : Bld := fun w r =>
  match src6 (a6 w) r with
  | .error e => .error e
  | .ok (a, r) => need (b6 w == 0 && bits w 2 0 == 0) (k (reg6 (d6 w)) a (bpOf w)) r

/-- FU with A alone. -/
def fuA (k : Opd → Pr → Instr) : Bld := fun w r =>
  match src6 (a6 w) r with
  | .error e => .error e
  | .ok (a, r) => need (d6 w == 0 && b6 w == 0 && bits w 2 0 == 0) (k a (bpOf w)) r

/-- FU K form with an 8-bit argument (R71). -/
def fuK (k : BitVec 8 → Pr → Instr) : Bld := fun w r =>
  need (bits w 23 20 == 0 && b6 w == 0 && bits w 2 0 == 0) (k (BitVec.ofNat 8 (bits w 19 12)) (bpOf w)) r

def fuWait : Bld := fun w r =>
  need (b6 w == 0 && bits w 2 0 == 0)
    (.wait (BitVec.ofNat 3 (bits w 23 21)) (BitVec.ofNat 3 (bits w 20 18)) (BitVec.ofNat 3 (bits w 17 15))
      (BitVec.ofNat 3 (bits w 14 12)) (bpOf w)) r

def fuWli : Bld := fun w r =>
  match takeWord r with
  | .error e => .error e
  | .ok (lo, r) =>
    match takeWord r with
    | .error e => .error e
    | .ok (hi, r) =>
      need (a6 w == 0 && b6 w == 0 && bits w 2 0 == 0) (.wli (reg6 (d6 w)) lo hi (bpOf w)) r

/-- WCMP: D[5:3] the condition, D[2:0] the target (R71). -/
def fuCmp : Bld := fun w r =>
  match src6 (a6 w) r with
  | .error e => .error e
  | .ok (a, r) =>
    match src6 (b6 w) r with
    | .error e => .error e
    | .ok (b, r) =>
      need (bits w 2 0 == 0) (.wcmp (BitVec.ofNat 3 (bits w 23 21)) (prOf (bits w 20 18)) a b (bpOf w)) r

def fuWrs : Bld := fun w r =>
  need (b6 w == 0 && bits w 2 0 == 0) (.wrs (reg6 (d6 w)) (BitVec.ofNat 6 (a6 w)) (bpOf w)) r

def fuWws : Bld := fun w r =>
  match src6 (a6 w) r with
  | .error e => .error e
  | .ok (a, r) => need (b6 w == 0 && bits w 2 0 == 0) (.wws (BitVec.ofNat 6 (d6 w)) a (bpOf w)) r

/-- FB (Table 10 of R64). -/
def fb (k : Pr → Pr → BitVec 18 → Instr) : Bld := fun w r =>
  .ok (k (prOf (bits w 23 21)) (prOf (bits w 20 18)) (BitVec.ofNat 18 (bits w 17 0)), r)

def fbCall : Bld := fun w r =>
  need (bits w 20 18 == 0) (.call (prOf (bits w 23 21)) (BitVec.ofNat 18 (bits w 17 0))) r

def fuRett : Bld := fun w r => need (bits w 23 0 == 0) .rett r

/-- Class 1 (Table 13b of R71). -/
def class1 : Nat → Option Bld
  | 0x00 => some (fu0 .nop) | 0x01 => some (fb .bra) | 0x02 => some (fb .brc) | 0x03 => some (fb .brd)
  | 0x04 => some (fuA .brx) | 0x05 => some fbCall | 0x06 => some (fu0 .ret) | 0x07 => some (fu0 .rjoin)
  | 0x08 => some (fu0 .exit) | 0x09 => some fuWait | 0x0a => some (fu0 .yield) | 0x0b => some (fuK .trap)
  | 0x0c => some fuRett | 0x0d => some (fb .loop) | 0x0e => some (fuK .cue)
  | 0x20 => some (fu2 .wmov) | 0x21 => some fuWli | 0x22 => some (fu3 .wadd) | 0x23 => some (fu3 .wsub)
  | 0x24 => some (fu3 .wmul) | 0x25 => some (fu3 .wand) | 0x26 => some (fu3 .wor) | 0x27 => some (fu3 .wxor)
  | 0x28 => some (fu3 .wshl) | 0x29 => some (fu3 .wshr) | 0x2a => some (fu3 .wasr) | 0x2b => some (fu3 .wmin)
  | 0x2c => some (fu3 .wmax) | 0x2d => some fuCmp | 0x2e => some (fu3 .wsel) | 0x2f => some (fu3 .wadd64)
  | 0x30 => some fuWrs | 0x31 => some fuWws | 0x32 => some (fu2 .wpopc)
  | _ => none

/-- The fields of the FA extension word (Table 8 of R61). -/
def xC (x : Nat) : Nat := bits x 31 25
def xFK (x : Nat) : Nat := bits x 24 23
def xTY (x : Nat) : Nat := bits x 22 20
def xAOP (x : Nat) : Nat := bits x 19 16
def xSX (x : Nat) : Nat := bits x 15 15
def xHINT (x : Nat) : Nat := bits x 14 12
def xOFF (x : Nat) : BitVec 12 := BitVec.ofNat 12 (bits x 11 0)

/-- FA whose DATA is a destination: no field takes a word. -/
def faLd (ok : Nat → Bool) (k : Opd → Opd → Opd → Pr → Nat → Instr) : Bld := fun w r =>
  match takeWord r with
  | .error e => .error e
  | .ok (x, r) => need (ok x.toNat) (k (reg7 (d7 w)) (reg7 (a7 w)) (reg7 (b7 w)) (pOf w) x.toNat) r

/-- FA whose DATA is a source. -/
def faSt (ok : Nat → Bool) (k : Opd → Opd → Opd → Pr → Nat → Instr) : Bld := fun w r =>
  match takeWord r with
  | .error e => .error e
  | .ok (x, r) =>
    match src7 (d7 w) r with
    | .error e => .error e
    | .ok (d, r) => need (ok x.toNat) (k d (reg7 (a7 w)) (reg7 (b7 w)) (pOf w) x.toNat) r

/-- FA with DATA a destination and C a source. -/
def faAt (ok : Nat → Bool) (k : Opd → Opd → Opd → Opd → Pr → Nat → Instr) : Bld := fun w r =>
  match takeWord r with
  | .error e => .error e
  | .ok (x, r) =>
    match src7 (xC x.toNat) r with
    | .error e => .error e
    | .ok (c, r) => need (ok x.toNat) (k (reg7 (d7 w)) (reg7 (a7 w)) (reg7 (b7 w)) c (pOf w) x.toNat) r

/-- FA whose DATA is unused. -/
def faNo (ok : Nat → Bool) (k : Opd → Opd → Pr → Nat → Instr) : Bld := fun w r =>
  match takeWord r with
  | .error e => .error e
  | .ok (x, r) => need (d7 w == 0 && ok x.toNat) (k (reg7 (a7 w)) (reg7 (b7 w)) (pOf w) x.toNat) r

/-- FENCE and SLEEP: every field but P and FK is 0. -/
def faFence (w : Nat) (r : List W32) : Taken Instr :=
  match takeWord r with
  | .error e => .error e
  | .ok (x, r) =>
    let k : Instr := match xFK x.toNat with
      | 0 => .fenceP (pOf w)
      | 1 => .fenceH (pOf w)
      | _ => .fenceA (pOf w)
    need (bits w 23 3 == 0 && xC x.toNat == 0 && bits x.toNat 22 0 == 0 && xFK x.toNat != 3) k r

def faSleep : Bld := fun w r =>
  match takeWord r with
  | .error e => .error e
  | .ok (x, r) => need (bits w 23 3 == 0 && x.toNat == 0) (.sleep (pOf w)) r

/-- A width code 0 to 4. -/
def w5 (n : Nat) : Fin 5 := ⟨n % 5, Nat.mod_lt _ (by decide)⟩

def bv3 (n : Nat) : BitVec 3 := BitVec.ofNat 3 n
def bv4 (n : Nat) : BitVec 4 := BitVec.ofNat 4 n

def fLd (k : Nat) : Bld :=
  faLd (fun x => xC x == 0 && xFK x == 0 && xTY x == 0 && xAOP x == 0)
    fun d b i p x => .ld (w5 k) d b i p (xSX x == 1) (bv3 (xHINT x)) (xOFF x)

def fSt (k : Nat) : Bld :=
  faSt (fun x => xC x == 0 && xFK x == 0 && xTY x == 0 && xAOP x == 0 && xSX x == 0)
    fun d b i p x => .st (w5 k) d b i p (bv3 (xHINT x)) (xOFF x)

def fLds (k : Nat) : Bld :=
  faLd (fun x => xC x == 0 && xFK x == 0 && xTY x == 0 && xAOP x == 0 && xHINT x == 0)
    fun d b i p x => .lds (w5 k) d b i p (xSX x == 1) (xOFF x)

def fSts (k : Nat) : Bld :=
  faSt (fun x => xC x == 0 && xFK x == 0 && xTY x == 0 && xAOP x == 0 && xSX x == 0 && xHINT x == 0)
    fun d b i p x => .sts (w5 k) d b i p (xOFF x)

/-- Class 2 (Table 15 of R73). -/
def class2 : Nat → Option Bld
  | 0x00 => some (fLd 0) | 0x01 => some (fLd 1) | 0x02 => some (fLd 2) | 0x03 => some (fLd 3) | 0x04 => some (fLd 4)
  | 0x08 => some (fSt 0) | 0x09 => some (fSt 1) | 0x0a => some (fSt 2) | 0x0b => some (fSt 3) | 0x0c => some (fSt 4)
  | 0x10 => some (fLds 0) | 0x11 => some (fLds 1) | 0x12 => some (fLds 2) | 0x13 => some (fLds 3) | 0x14 => some (fLds 4)
  | 0x18 => some (fSts 0) | 0x19 => some (fSts 1) | 0x1a => some (fSts 2) | 0x1b => some (fSts 3) | 0x1c => some (fSts 4)
  | 0x20 => some (faLd (fun x => xC x == 0 && xFK x == 0 && xAOP x == 0 && xSX x == 0)
      fun d b i p x => .ldw d b i p (bv3 (xTY x)) (bv3 (xHINT x)) (xOFF x))
  | 0x21 => some (faSt (fun x => xC x == 0 && xFK x == 0 && xAOP x == 0 && xSX x == 0)
      fun d b i p x => .stw d b i p (bv3 (xTY x)) (bv3 (xHINT x)) (xOFF x))
  | 0x28 => some (faAt (fun x => xFK x == 0 && xSX x == 0)
      fun d b i c p x => .atom d b i c p (bv3 (xTY x)) (bv4 (xAOP x)) (bv3 (xHINT x)) (xOFF x))
  | 0x29 => some (faAt (fun x => xFK x == 0 && xSX x == 0 && xHINT x == 0)
      fun d b i c p x => .atoms d b i c p (bv3 (xTY x)) (bv4 (xAOP x)) (xOFF x))
  | 0x2a => some (faSt (fun x => xC x == 0 && xFK x == 0 && xSX x == 0)
      fun d b i p x => .red d b i p (bv3 (xTY x)) (bv4 (xAOP x)) (bv3 (xHINT x)) (xOFF x))
  | 0x30 => some (faSt (fun x => xC x == 0 && xFK x == 0 && xAOP x == 0 && xSX x == 0 && xHINT x == 0)
      fun d b i p x => .pst d b i p (bv3 (xTY x)) (xOFF x))
  | 0x31 => some (faNo (fun x => xC x == 0 && xFK x == 0 && xTY x == 0 && xAOP x == 0 && xSX x == 0)
      fun b i p x => .pref b i p (bv3 (xHINT x)) (xOFF x))
  | 0x38 => some faFence
  | 0x39 => some (faNo (fun x => xC x == 0 && xFK x == 0 && xTY x == 0 && xAOP x == 0 && xSX x == 0 && xHINT x == 0)
      fun b i p x => .mon b i p (xOFF x))
  | 0x3a => some faSleep
  | _ => none

/-- FQ with D and a queue in A (Table 17 of R76); B is 0. -/
def fqDA (k : Opd → Opd → Pr → Instr) : Bld := fun w r =>
  match src7 (a7 w) r with
  | .error e => .error e
  | .ok (a, r) => need (b7 w == 0) (k (reg7 (d7 w)) a (pOf w)) r

/-- FQ with A and B; D is 0. -/
def fqAB (k : Opd → Opd → Pr → Instr) : Bld := fun w r =>
  match src7 (a7 w) r with
  | .error e => .error e
  | .ok (a, r) =>
    match src7 (b7 w) r with
    | .error e => .error e
    | .ok (b, r) => need (d7 w == 0) (k a b (pOf w)) r

/-- FQ with A alone. -/
def fqA (k : Opd → Pr → Instr) : Bld := fun w r =>
  match src7 (a7 w) r with
  | .error e => .error e
  | .ok (a, r) => need (d7 w == 0 && b7 w == 0) (k a (pOf w)) r

def fqBtest : Bld := fun w r =>
  match src7 (a7 w) r with
  | .error e => .error e
  | .ok (a, r) =>
    match src7 (b7 w) r with
    | .error e => .error e
    | .ok (b, r) => need (bits w 23 20 == 0) (.btest (prOf (bits w 19 17)) a b (pOf w)) r

def fqGsync : Bld := fun w r => need (bits w 23 3 == 0) (.gsync (pOf w)) r

/-- Class 4 (Table 17 of R76, Table 6 of R273). -/
def class4 : Nat → Option Bld
  | 0x01 => some (fqDA .qpeek) | 0x02 => some (fqDA .qcnt) | 0x03 => some (fqAB .qdrop) | 0x08 => some (fqAB .binit)
  | 0x09 => some (fqA .barr) | 0x0a => some (fqAB .barx) | 0x0b => some (fqA .brmt) | 0x0c => some (fqAB .bwait)
  | 0x0d => some fqBtest | 0x0e => some fqGsync | 0x10 => some (fqDA .sacq) | 0x11 => some (fqA .srel)
  | _ => none

/-- The fields of the FM and FY extension words (Table 12 of R66). -/
def yC (x : Nat) : Nat := bits x 31 26
def yE (x : Nat) : Nat := bits x 25 20
def yEQ (x : Nat) : BitVec 3 := BitVec.ofNat 3 (bits x 19 17)
def mMODE (x : Nat) : BitVec 12 := BitVec.ofNat 12 (bits x 19 8)
def mIMM (x : Nat) : W8 := BitVec.ofNat 8 (bits x 7 0)
def yMODE (x : Nat) : BitVec 17 := BitVec.ofNat 17 (bits x 16 0)

/-- FM with A, B, C and E read as sources, each taken only where the form uses it; unused fields are 0. -/
def fm (useD useA useB useC useE : Bool) (ok : Nat → Bool) (k : Opd → Opd → Opd → Opd → Opd → Pr → Nat → Instr) : Bld :=
  fun w r =>
  match takeWord r with
  | .error e => .error e
  | .ok (x, r) =>
    match src6 (if useA then a6 w else 48) r with
    | .error e => .error e
    | .ok (a, r) =>
      match src6 (if useB then b6 w else 48) r with
      | .error e => .error e
      | .ok (b, r) =>
        match src6 (if useC then yC x.toNat else 48) r with
        | .error e => .error e
        | .ok (c, r) =>
          match src6 (if useE then yE x.toNat else 48) r with
          | .error e => .error e
          | .ok (e, r) =>
            need (bits w 2 0 == 0 && (useD || d6 w == 0) && (useA || a6 w == 0) && (useB || b6 w == 0) &&
                (useC || yC x.toNat == 0) && (useE || yE x.toNat == 0) && ok x.toNat)
              (k (reg6 (d6 w)) a b c e (bpOf w) x.toNat) r

/-- MODE is 0; MODE and IMM are 0. -/
def noMode (x : Nat) : Bool := bits x 19 8 == 0
def noModeImm (x : Nat) : Bool := bits x 19 0 == 0

/-- Class 5 (Table 7 of R305). -/
def class5 : Nat → Option Bld
  | 0x00 => some (fm false true false false false noModeImm fun _ a _ _ _ p _ => .gang a p)
  | 0x01 => some (fm false true false false false noMode fun _ a _ _ _ p x => .obres a (mIMM x) p)
  | 0x02 => some (fm false false false false false noMode fun _ _ _ _ _ p x => .obrel (mIMM x) p)
  | 0x03 => some (fm false true true false false (fun _ => true) fun _ a b _ _ p x => .mbld a b (mMODE x) (mIMM x) p)
  | 0x04 => some (fm false true true true false (fun _ => true) fun _ a b c _ p x => .mma a b c (mMODE x) (mIMM x) p)
  | 0x05 => some (fm false false false false false noMode fun _ _ _ _ _ p x => .mzero (mIMM x) p)
  | 0x06 => some (fm false true true true true (fun _ => true) fun _ a b c e p x => .mdrn a b c e (mMODE x) (mIMM x) p)
  | 0x07 => some (fm true false false false false noModeImm fun d _ _ _ _ p _ => .mstat d p)
  | 0x08 => some (fm false true true false false noMode fun _ a b _ _ p x => .mldacc a b (mIMM x) p)
  | 0x09 => some (fm false true true false false noMode fun _ a b _ _ p x => .msvacc a b (mIMM x) p)
  | 0x0a => some (fm false false false false false (fun x => bits x 7 0 == 0) fun _ _ _ _ _ p x => .mcancel (mMODE x) p)
  | _ => none

/-- FY with all five operands. -/
def fy (k : Opd → Opd → Opd → Opd → Opd → BitVec 3 → BitVec 17 → Pr → Instr) : Bld := fun w r =>
  fm true true true true true (fun _ => true) (fun d a b c e p x => k d a b c e (yEQ x) (yMODE x) p) w r

/-- XFM: the transform opcode stands in MODE [10:6] (R340). -/
def xfmOf (xop : Nat) : Option (Opd → Opd → Opd → Opd → Opd → BitVec 3 → BitVec 6 → BitVec 6 → Pr → Instr) :=
  match xop with
  | 0 => some .xfmMove | 1 => some .xfmCvt | 2 => some .xfmMxq | 3 => some .xfmMxdq
  | 4 => some .xfmBdxd | 5 => some .xfmBdxe | 6 => some .xfmCrcg | 7 => some .xfmCrcv
  | _ => none

def fyXfm : Bld := fun w r =>
  fm true true true true true (fun x => (xfmOf (bits x 10 6)).isSome)
    (fun d a b c e p x =>
      match xfmOf (bits x 10 6) with
      | some k => k d a b c e (yEQ x) (BitVec.ofNat 6 (bits x 5 0)) (BitVec.ofNat 6 (bits x 16 11)) p
      | none => .nop p) w r

/-- DRAIN: MODE [1:0] names the path, 3 is reserved (R336). -/
def fyDrain : Bld := fun w r =>
  fm false false false false false (fun x => bits x 19 2 == 0 && bits x 1 0 != 3)
    (fun _ _ _ _ _ p x =>
      match bits x 1 0 with
      | 0 => .drainScr p
      | 1 => .drainL1 p
      | _ => .drainMem p) w r

/-- Class 6 (Table 19 of R78). -/
def class6 : Nat → Option Bld
  | 0x00 => some (fy .cpy) | 0x01 => some (fy .cpyt) | 0x02 => some (fy .cpym) | 0x03 => some (fy .gath)
  | 0x04 => some (fy .scat) | 0x05 => some (fy .rcpy)
  | 0x06 => some (fm false true false false false (fun _ => true) fun _ a _ _ _ p x => .crng a (yEQ x) (yMODE x) p)
  | 0x08 => some fyXfm
  | 0x0c => some (fm false false false false false (fun x => bits x 19 8 == 0) fun _ _ _ _ _ p x => .qfence (mIMM x) p)
  | 0x0d => some fyDrain
  | _ => none

/-- SPWT: B holds the port number (R435). -/
def fsSpwt : Bld := fun w r =>
  match src6 (a6 w) r with
  | .error e => .error e
  | .ok (a, r) =>
    let k : Opd → Opd → Pr → Instr := match b6 w with
      | 0 => .spwtWait
      | 1 => .spwtSubmit
      | 2 => .spwtReply
      | _ => .spwtKill
    need (b6 w < 4 && bits w 2 0 == 0) (k (reg6 (d6 w)) a (bpOf w)) r

/-- Class 7 (Table 20 of R79). -/
def class7 : Nat → Option Bld
  | 0x00 => some (fu0 .trig) | 0x01 => some (fu3 .svc) | 0x02 => some (fu2 .cntr) | 0x03 => some (fu3 .cntc)
  | 0x04 => some (fu3 .pkw) | 0x05 => some (fu3 .dtw) | 0x06 => some (fu3 .hinv) | 0x07 => some (fu2 .watch)
  | 0x08 => some fsSpwt | 0x0b => some (fu3 .ctxs) | 0x0c => some (fu2 .ctxr) | 0x0d => some (fu0 .halt)
  | _ => none

/-- The builder of an opcode in a class. -/
def opcode (cls opc : Nat) : Option Bld :=
  match cls with
  | 0 => class0 opc
  | 1 => class1 opc
  | 2 => class2 opc
  | 3 => class3 opc
  | 4 => class4 opc
  | 5 => class5 opc
  | 6 => class6 opc
  | 7 => class7 opc
  | _ => none

/-- The opcodes of class 1 that are control transfers (R52). -/
def transferOpc (cls opc : Nat) : Bool :=
  cls == 1 && ((1 ≤ opc && opc ≤ 8) || opc == 0x0b || opc == 0x0c || opc == 0x0d)

/-- A transfer that is not last raises trap 0x03 before a field fault raises 0x01 (Table 2 of R53); BRX may hold a
literal word of its own. -/
def fieldReject (cls w : Nat) (r : List W32) (e : DecodeReject) : DecodeReject :=
  let own := if opcOf w == 0x04 && a6 w == 51 then 1 else 0
  if e == .badField && transferOpc cls (opcOf w) && own < r.length then .notLast else e

/-- Decodes the instruction at the head of the words that its clause still holds: the instruction and the words it
takes, with the checks of R53 that the words decide, in their order. -/
def decode (cls : Nat) (ws : List W32) : Except DecodeReject (Instr × Nat) :=
  match ws with
  | [] => .error .overrun
  | w :: r =>
    match opcode cls (opcOf w.toNat) with
    | none => .error .badOpcode
    | some k =>
      match k w.toNat r with
      | .error e => .error (fieldReject cls w.toNat r e)
      | .ok (i, r') =>
        if Machine.isTransfer i && !r'.isEmpty then .error .notLast else .ok (i, ws.length - r'.length)

/-- The 7-bit code of an operand. -/
def code7 : Opd → Nat
  | .v n => n.val
  | .w n => 64 + n.val
  | .q n => 96 + n.val
  | .zero => 112 | .one => 113 | .mone => 114 | .two => 115 | .half => 116 | .strandIdx => 117 | .grpWidth => 118
  | .lit _ => 120
  | .mask _ => 121
  | .bad c => c

/-- The 6-bit code of an operand. -/
def code6 : Opd → Nat
  | .w n => n.val
  | .q n => 32 + n.val
  | .zero => 48 | .one => 49 | .mone => 50
  | .lit _ => 51
  | .bad c => c
  | _ => 63

/-- The words of its own that an operand takes (R57). -/
def litOf : Opd → List W32
  | .lit x => [x]
  | .mask x => [x]
  | _ => []

def word (n : Nat) : W32 := BitVec.ofNat 32 n

/-- First words of the formats. -/
def w7 (opc d a b p : Nat) : W32 := word (opc * 2 ^ 24 + d * 2 ^ 17 + a * 2 ^ 10 + b * 2 ^ 3 + p)
def w6 (opc d a b p : Nat) : W32 := word (opc * 2 ^ 24 + d * 2 ^ 18 + a * 2 ^ 12 + b * 2 ^ 6 + p * 2 ^ 3)
def wB (opc bp ps : Nat) (off : BitVec 18) : W32 := word (opc * 2 ^ 24 + bp * 2 ^ 21 + ps * 2 ^ 18 + off.toNat)

/-- The extension word of FX. -/
def xw (c : Nat) (x : Fx) : W32 :=
  word (c * 2 ^ 25 + x.rm.toNat * 2 ^ 22 + x.sat.toNat * 2 ^ 21 + x.na.toNat * 2 ^ 20 + x.nb.toNat * 2 ^ 19 +
    x.nc.toNat * 2 ^ 18 + x.opx.toNat * 2 ^ 12 + x.imm.toNat)

/-- The extension word of FA. -/
def aw (c fk ty aop sx hint : Nat) (off : BitVec 12) : W32 :=
  word (c * 2 ^ 25 + fk * 2 ^ 23 + ty * 2 ^ 20 + aop * 2 ^ 16 + sx * 2 ^ 15 + hint * 2 ^ 12 + off.toNat)

/-- The extension words of FM and FY. -/
def mw (c e : Nat) (mode : BitVec 12) (imm : W8) : W32 :=
  word (c * 2 ^ 26 + e * 2 ^ 20 + mode.toNat * 2 ^ 8 + imm.toNat)
def yw (c e eq mode : Nat) : W32 := word (c * 2 ^ 26 + e * 2 ^ 20 + eq * 2 ^ 17 + mode)

/-- Encoders of the shapes. -/
def e3 (opc : Nat) (d a b : Opd) (p : Pr) : List W32 :=
  w7 opc (code7 d) (code7 a) (code7 b) p.val :: (litOf d ++ litOf a ++ litOf b)
def e3u (opc : Nat) (d a : Opd) (p : Pr) : List W32 := w7 opc (code7 d) (code7 a) 0 p.val :: (litOf d ++ litOf a)
def ex3 (opc : Nat) (d a b c : Opd) (p : Pr) (x : Fx) : List W32 :=
  w7 opc (code7 d) (code7 a) (code7 b) p.val :: xw (code7 c) x :: (litOf d ++ litOf a ++ litOf b ++ litOf c)
def ex2 (opc : Nat) (d a b : Opd) (p : Pr) (x : Fx) : List W32 :=
  w7 opc (code7 d) (code7 a) (code7 b) p.val :: xw 0 x :: (litOf d ++ litOf a ++ litOf b)
def ex1 (opc : Nat) (d a : Opd) (p : Pr) (x : Fx) : List W32 :=
  w7 opc (code7 d) (code7 a) 0 p.val :: xw 0 x :: (litOf d ++ litOf a)
def eu0 (opc : Nat) (p : Pr) : List W32 := [w6 opc 0 0 0 p.val]
def eu2 (opc : Nat) (d a : Opd) (p : Pr) : List W32 := w6 opc (code6 d) (code6 a) 0 p.val :: litOf a
def eu3 (opc : Nat) (d a b : Opd) (p : Pr) : List W32 :=
  w6 opc (code6 d) (code6 a) (code6 b) p.val :: (litOf a ++ litOf b)
def eA (opc : Nat) (d b x : Opd) (p : Pr) (ext : W32) : List W32 :=
  w7 opc (code7 d) (code7 b) (code7 x) p.val :: ext :: litOf d
def eAc (opc : Nat) (d b x c : Opd) (p : Pr) (ext : W32) : List W32 :=
  w7 opc (code7 d) (code7 b) (code7 x) p.val :: ext :: litOf c
def eDA (opc : Nat) (d a : Opd) (p : Pr) : List W32 := w7 opc (code7 d) (code7 a) 0 p.val :: litOf a
def eAB (opc : Nat) (a b : Opd) (p : Pr) : List W32 := w7 opc 0 (code7 a) (code7 b) p.val :: (litOf a ++ litOf b)
def eY (opc : Nat) (d a b c e : Opd) (eq : BitVec 3) (mode : Nat) (p : Pr) : List W32 :=
  w6 opc (code6 d) (code6 a) (code6 b) p.val :: yw (code6 c) (code6 e) eq.toNat mode ::
    (litOf a ++ litOf b ++ litOf c ++ litOf e)
def eX (xop : Nat) (d a b c e : Opd) (eq : BitVec 3) (lo hi : BitVec 6) (p : Pr) : List W32 :=
  eY 0x08 d a b c e eq (lo.toNat + xop * 2 ^ 6 + hi.toNat * 2 ^ 11) p

/-- The words of an instruction, written from Tables 5 to 20 of chapter 02; an event has none. -/
def encode : Instr → List W32
  | .iadd d a b p => e3 0x01 d a b p
  | .isub d a b p => e3 0x02 d a b p
  | .iaddc d a b p => e3 0x03 d a b p
  | .imul d a b p => e3 0x04 d a b p
  | .imulhI d a b p => e3 0x05 d a b p
  | .imulhN d a b p => e3 0x06 d a b p
  | .imac d a b c p x => ex3 0x07 d a b c p x
  | .imacw d a b c p x => ex3 0x08 d a b c p x
  | .iminI d a b p => e3 0x09 d a b p
  | .iminN d a b p => e3 0x0a d a b p
  | .imaxI d a b p => e3 0x0b d a b p
  | .imaxN d a b p => e3 0x0c d a b p
  | .iabs d a p => e3u 0x0d d a p
  | .ineg d a p => e3u 0x0e d a p
  | .andB d a b p => e3 0x10 d a b p
  | .orB d a b p => e3 0x11 d a b p
  | .xorB d a b p => e3 0x12 d a b p
  | .andn d a b p => e3 0x13 d a b p
  | .notB d a p => e3u 0x14 d a p
  | .shl d a b p => e3 0x15 d a b p
  | .shr d a b p => e3 0x16 d a b p
  | .asr d a b p => e3 0x17 d a b p
  | .rol d a b p => e3 0x18 d a b p
  | .fshf d a b c p x => ex3 0x19 d a b c p x
  | .bfxI d a b p x => ex2 0x1a d a b p x
  | .bfxN d a b p x => ex2 0x1b d a b p x
  | .bfi d a b c p x => ex3 0x1c d a b c p x
  | .popc d a p => e3u 0x1d d a p
  | .clz d a p => e3u 0x1e d a p
  | .brev d a p => e3u 0x1f d a p
  | .mov d a width p => w7 0x20 (code7 d) (code7 a) width.toNat p.val :: (litOf d ++ litOf a)
  | .sel d a b s => e3 0x21 d a b s
  | .icmpI d a b p x => ex2 0x22 d a b p x
  | .icmpN d a b p x => ex2 0x23 d a b p x
  | .lea d a b p x => ex2 0x24 d a b p x
  | .bsel d a b c p x => ex3 0x25 d a b c p x
  | .plog t a b c p x => [w7 0x26 t.val a.val b.val p.val, xw c.val x]
  | .pmov d a p => e3u 0x27 d a p
  | .iadd64 d a b p => e3 0x28 d a b p
  | .isub64 d a b p => e3 0x29 d a b p
  | .shl64 d a b p => e3 0x2a d a b p
  | .shr64 d a b p => e3 0x2b d a b p
  | .fadd d a b p => e3 0x30 d a b p
  | .fsub d a b p => e3 0x31 d a b p
  | .fmul d a b p => e3 0x32 d a b p
  | .ffma d a b c p x => ex3 0x33 d a b c p x
  | .fmin d a b p => e3 0x34 d a b p
  | .fmax d a b p => e3 0x35 d a b p
  | .fcmp d a b p x => ex2 0x36 d a b p x
  | .fneg d a p => e3u 0x37 d a p
  | .fabs d a p => e3u 0x38 d a p
  | .frcp d a p => e3u 0x39 d a p
  | .frsq d a p => e3u 0x3a d a p
  | .fsqrt d a p => e3u 0x3b d a p
  | .fdiv d a b p => e3 0x3c d a b p
  | .fex2 d a p => e3u 0x3d d a p
  | .flg2 d a p => e3u 0x3e d a p
  | .fsin d a p => e3u 0x3f d a p
  | .fcos d a p => e3u 0x40 d a p
  | .fscale d a b p => e3 0x41 d a b p
  | .duoadd d a b p x => ex2 0x44 d a b p x
  | .duomul d a b p x => ex2 0x45 d a b p x
  | .duofma d a b c p x => ex3 0x46 d a b c p x
  | .dadd d a b p => e3 0x48 d a b p
  | .dmul d a b p => e3 0x49 d a b p
  | .dfma d a b c p x => ex3 0x4a d a b c p x
  | .dcmp d a b p x => ex2 0x4b d a b p x
  | .cvt d a p x => ex1 0x50 d a p x
  | .pack d a b p x => ex2 0x51 d a b p x
  | .unpk d a p x => ex1 0x52 d a p x
  | .dot4 d a b c p x => ex3 0x58 d a b c p x
  | .dot8 d a b c p x => ex3 0x59 d a b c p x
  | .poll d a p x => w7 0x00 (code7 d) a.val 0 p.val :: xw 0 x :: litOf d
  | .ballot d a b p => e3 0x01 d a b p
  | .pick d a b c p x => ex3 0x02 d a b c p x
  | .xget d a b => e3 0x03 d a b 0
  | .xput d a b => e3 0x04 d a b 0
  | .bcast d a b p => e3 0x05 d a b p
  | .redX d a p x => ex1 0x06 d a p x
  | .scan d a p x => ex1 0x07 d a p x
  | .matchX d a p => e3u 0x08 d a p
  | .rots d a b p => e3 0x09 d a b p
  | .nop bp => eu0 0x00 bp
  | .bra bp ps off => [wB 0x01 bp.val ps.val off]
  | .brc bp ps off => [wB 0x02 bp.val ps.val off]
  | .brd bp ps off => [wB 0x03 bp.val ps.val off]
  | .brx a bp => w6 0x04 0 (code6 a) 0 bp.val :: litOf a
  | .call bp off => [wB 0x05 bp.val 0 off]
  | .ret bp => eu0 0x06 bp
  | .rjoin bp => eu0 0x07 bp
  | .exit bp => eu0 0x08 bp
  | .wait wl ws wc wt bp =>
    [word (0x09 * 2 ^ 24 + wl.toNat * 2 ^ 21 + ws.toNat * 2 ^ 18 + wc.toNat * 2 ^ 15 + wt.toNat * 2 ^ 12 + bp.val * 2 ^ 3)]
  | .yield bp => eu0 0x0a bp
  | .trap k bp => [word (0x0b * 2 ^ 24 + k.toNat * 2 ^ 12 + bp.val * 2 ^ 3)]
  | .rett => [word (0x0c * 2 ^ 24)]
  | .loop bp cr off => [wB 0x0d bp.val cr.val off]
  | .cue k bp => [word (0x0e * 2 ^ 24 + k.toNat * 2 ^ 12 + bp.val * 2 ^ 3)]
  | .wmov d a bp => eu2 0x20 d a bp
  | .wli d lo hi bp => [w6 0x21 (code6 d) 0 0 bp.val, lo, hi]
  | .wadd d a b bp => eu3 0x22 d a b bp
  | .wsub d a b bp => eu3 0x23 d a b bp
  | .wmul d a b bp => eu3 0x24 d a b bp
  | .wand d a b bp => eu3 0x25 d a b bp
  | .wor d a b bp => eu3 0x26 d a b bp
  | .wxor d a b bp => eu3 0x27 d a b bp
  | .wshl d a b bp => eu3 0x28 d a b bp
  | .wshr d a b bp => eu3 0x29 d a b bp
  | .wasr d a b bp => eu3 0x2a d a b bp
  | .wmin d a b bp => eu3 0x2b d a b bp
  | .wmax d a b bp => eu3 0x2c d a b bp
  | .wcmp c t a b bp => w6 0x2d (c.toNat * 8 + t.val) (code6 a) (code6 b) bp.val :: (litOf a ++ litOf b)
  | .wsel d a b s => eu3 0x2e d a b s
  | .wadd64 d a b bp => eu3 0x2f d a b bp
  | .wrs d i bp => [w6 0x30 (code6 d) i.toNat 0 bp.val]
  | .wws i a bp => w6 0x31 i.toNat (code6 a) 0 bp.val :: litOf a
  | .wpopc d a bp => eu2 0x32 d a bp
  | .ld k d b x p sx hint off => eA k.val d b x p (aw 0 0 0 0 sx.toNat hint.toNat off)
  | .st k d b x p hint off => eA (0x08 + k.val) d b x p (aw 0 0 0 0 0 hint.toNat off)
  | .lds k d b x p sx off => eA (0x10 + k.val) d b x p (aw 0 0 0 0 sx.toNat 0 off)
  | .sts k d b x p off => eA (0x18 + k.val) d b x p (aw 0 0 0 0 0 0 off)
  | .ldw d b x p ty hint off => eA 0x20 d b x p (aw 0 0 ty.toNat 0 0 hint.toNat off)
  | .stw d b x p ty hint off => eA 0x21 d b x p (aw 0 0 ty.toNat 0 0 hint.toNat off)
  | .atom d b x c p ty aop hint off => eAc 0x28 d b x c p (aw (code7 c) 0 ty.toNat aop.toNat 0 hint.toNat off)
  | .atoms d b x c p ty aop off => eAc 0x29 d b x c p (aw (code7 c) 0 ty.toNat aop.toNat 0 0 off)
  | .red d b x p ty aop hint off => eA 0x2a d b x p (aw 0 0 ty.toNat aop.toNat 0 hint.toNat off)
  | .pst d b x p ty off => eA 0x30 d b x p (aw 0 0 ty.toNat 0 0 0 off)
  | .pref b x p hint off => [w7 0x31 0 (code7 b) (code7 x) p.val, aw 0 0 0 0 0 hint.toNat off]
  | .fenceP p => [w7 0x38 0 0 0 p.val, aw 0 0 0 0 0 0 0]
  | .fenceH p => [w7 0x38 0 0 0 p.val, aw 0 1 0 0 0 0 0]
  | .fenceA p => [w7 0x38 0 0 0 p.val, aw 0 2 0 0 0 0 0]
  | .mon b x p off => [w7 0x39 0 (code7 b) (code7 x) p.val, aw 0 0 0 0 0 0 off]
  | .sleep p => [w7 0x3a 0 0 0 p.val, word 0]
  | .qpeek d q bp => eDA 0x01 d q bp
  | .qcnt d q bp => eDA 0x02 d q bp
  | .qdrop q b bp => eAB 0x03 q b bp
  | .binit a b bp => eAB 0x08 a b bp
  | .barr a bp => w7 0x09 0 (code7 a) 0 bp.val :: litOf a
  | .barx a b bp => eAB 0x0a a b bp
  | .brmt a bp => w7 0x0b 0 (code7 a) 0 bp.val :: litOf a
  | .bwait a b bp => eAB 0x0c a b bp
  | .btest t a b bp => w7 0x0d t.val (code7 a) (code7 b) bp.val :: (litOf a ++ litOf b)
  | .gsync bp => [w7 0x0e 0 0 0 bp.val]
  | .sacq d q bp => eDA 0x10 d q bp
  | .srel q bp => w7 0x11 0 (code7 q) 0 bp.val :: litOf q
  | .gang a bp => w6 0x00 0 (code6 a) 0 bp.val :: mw 0 0 0 0 :: litOf a
  | .obres a imm bp => w6 0x01 0 (code6 a) 0 bp.val :: mw 0 0 0 imm :: litOf a
  | .obrel imm bp => [w6 0x02 0 0 0 bp.val, mw 0 0 0 imm]
  | .mbld a b mode imm bp => w6 0x03 0 (code6 a) (code6 b) bp.val :: mw 0 0 mode imm :: (litOf a ++ litOf b)
  | .mma a b c mode imm bp =>
    w6 0x04 0 (code6 a) (code6 b) bp.val :: mw (code6 c) 0 mode imm :: (litOf a ++ litOf b ++ litOf c)
  | .mzero imm bp => [w6 0x05 0 0 0 bp.val, mw 0 0 0 imm]
  | .mdrn a b c e mode imm bp =>
    w6 0x06 0 (code6 a) (code6 b) bp.val :: mw (code6 c) (code6 e) mode imm ::
      (litOf a ++ litOf b ++ litOf c ++ litOf e)
  | .mstat d bp => [w6 0x07 (code6 d) 0 0 bp.val, mw 0 0 0 0]
  | .mldacc a b imm bp => w6 0x08 0 (code6 a) (code6 b) bp.val :: mw 0 0 0 imm :: (litOf a ++ litOf b)
  | .msvacc a b imm bp => w6 0x09 0 (code6 a) (code6 b) bp.val :: mw 0 0 0 imm :: (litOf a ++ litOf b)
  | .mcancel mode bp => [w6 0x0a 0 0 0 bp.val, mw 0 0 mode 0]
  | .cpy d a b c e eq mode bp => eY 0x00 d a b c e eq mode.toNat bp
  | .cpyt d a b c e eq mode bp => eY 0x01 d a b c e eq mode.toNat bp
  | .cpym d a b c e eq mode bp => eY 0x02 d a b c e eq mode.toNat bp
  | .gath d a b c e eq mode bp => eY 0x03 d a b c e eq mode.toNat bp
  | .scat d a b c e eq mode bp => eY 0x04 d a b c e eq mode.toNat bp
  | .rcpy d a b c e eq mode bp => eY 0x05 d a b c e eq mode.toNat bp
  | .crng a eq mode bp => w6 0x06 0 (code6 a) 0 bp.val :: yw 0 0 eq.toNat mode.toNat :: litOf a
  | .xfmMove d a b c e eq lo hi bp => eX 0 d a b c e eq lo hi bp
  | .xfmCvt d a b c e eq lo hi bp => eX 1 d a b c e eq lo hi bp
  | .xfmMxq d a b c e eq lo hi bp => eX 2 d a b c e eq lo hi bp
  | .xfmMxdq d a b c e eq lo hi bp => eX 3 d a b c e eq lo hi bp
  | .xfmBdxd d a b c e eq lo hi bp => eX 4 d a b c e eq lo hi bp
  | .xfmBdxe d a b c e eq lo hi bp => eX 5 d a b c e eq lo hi bp
  | .xfmCrcg d a b c e eq lo hi bp => eX 6 d a b c e eq lo hi bp
  | .xfmCrcv d a b c e eq lo hi bp => eX 7 d a b c e eq lo hi bp
  | .qfence mask bp => [w6 0x0c 0 0 0 bp.val, mw 0 0 0 mask]
  | .drainScr bp => [w6 0x0d 0 0 0 bp.val, word 0]
  | .drainL1 bp => [w6 0x0d 0 0 0 bp.val, word 1]
  | .drainMem bp => [w6 0x0d 0 0 0 bp.val, word 2]
  | .trig bp => eu0 0x00 bp
  | .svc d a b bp => eu3 0x01 d a b bp
  | .cntr d a bp => eu2 0x02 d a bp
  | .cntc d a b bp => eu3 0x03 d a b bp
  | .pkw d a b bp => eu3 0x04 d a b bp
  | .dtw d a b bp => eu3 0x05 d a b bp
  | .hinv d a b bp => eu3 0x06 d a b bp
  | .watch d a bp => eu2 0x07 d a bp
  | .spwtWait d a bp => w6 0x08 (code6 d) (code6 a) 0 bp.val :: litOf a
  | .spwtSubmit d a bp => w6 0x08 (code6 d) (code6 a) 1 bp.val :: litOf a
  | .spwtReply d a bp => w6 0x08 (code6 d) (code6 a) 2 bp.val :: litOf a
  | .spwtKill d a bp => w6 0x08 (code6 d) (code6 a) 3 bp.val :: litOf a
  | .ctxs d a b bp => eu3 0x0b d a b bp
  | .ctxr d a bp => eu2 0x0c d a bp
  | .halt bp => eu0 0x0d bp
  | _ => []

/-- Words of zeros that follow a table word: the longest instruction takes six words. -/
def zeroWords : Nat → List W32
  | 0 => []
  | n + 1 => 0 :: zeroWords n

/-- The words of a table word: the first is the low 32 bits, and later ones count on (R8, R48). -/
def tableWords (nbits w : Nat) : List W32 :=
  let n := (nbits + 31) / 32
  (List.range n).map (fun k => BitVec.ofNat 32 (w >>> (32 * k))) ++ zeroWords (6 - n)

/-- The class in which a table word is read.  The opcode table does not tell the class of a word, and the same word is an
instruction of several classes: the classes are tried in the order 0, 1, 3, 4, 7 with one-word instructions, then 2, 5, 6
(log entry 5). -/
def tryClasses (ws : List W32) (one : Bool) : List Nat → Option (Nat × Instr)
  | [] => none
  | c :: r =>
    let cut := match decode c ws with
      | .ok (_, n) => ws.take n
      | .error _ => ws.take 1
    match decode c cut with
    | .ok (i, n) => if wellFormed i && (!one || n = 1) then some (c, i) else tryClasses ws one r
    | .error _ => tryClasses ws one r

def tableClass (nbits w : Nat) : Option (Nat × Instr) :=
  let ws := tableWords nbits w
  match tryClasses ws true [0, 1, 3, 4, 7] with
  | some a => some a
  | none => tryClasses ws false [2, 5, 6, 0, 1, 3, 4, 7]

/-- The instruction that the decoder reads from a word of the opcode table. -/
def decodeTableWord (nbits w : Nat) : Option Instr := (tableClass nbits w).map Prod.snd

end Sys2Proof
end

