-- ==== Sys2Proof/Machine/State.lean ====
section
/-! DEFINITION. The state of one PX-9800 device, as plain data: every piece of state that spec/ names (INVENTORY.md lists
each with its rule and reset value), the work in flight, and the model's own schedule. -/

namespace Sys2Proof.Machine

/-- What stops the machine for good.  No rule of the spec stops the device itself, so no step raises one: every trap,
fatal reply and error status of the spec is a next state. -/
inductive Fault where
  /-- raised by nothing; kept because the interface asks for a closed type (safe) -/
  | none
  deriving DecidableEq, Repr

/-- Why an instruction has no meaning here. -/
inductive Refusal where
  /-- an instruction of the opcode table that has no meaning yet, by its mnemonic; raised by Dispatch only (safe) -/
  | notModelled (mnemonic : String)
  deriving DecidableEq, Repr

/-- Bytes of a memory or of a pool: addresses strictly rising, no entry equal to 0, which an unlisted address reads. -/
abbrev Cells := List Host.Cell

/-- One register of a group: a base and one delta per strand, all of one width (R213). -/
structure VReg where
  base : W32 := 0
  deltas : List W32 := []
  width : Nat := 0
  deriving DecidableEq, Repr

/-- What the present instruction acts for. -/
inductive FocusKind where
  | none
  | path (blk grp : Nat) (strands : List Nat)
  | handler (blk grp : Nat)
  | thread (q : Nat)
  deriving DecidableEq, Repr

/-- The place of the present instruction: counter, clause header, word index, words of the clause, length in words. -/
structure Focus where
  kind : FocusKind := .none
  pc : Nat := 0
  hdr : Nat := 0
  idx : Nat := 0
  n : Nat := 0
  len : Nat := 1
  yieldAfter : Bool := false
  /-- the second path of a two-path pass: the first path's results are no earlier ones (R152, R221) -/
  second : Bool := false
  /-- a second path follows in the same pass, whose end is theirs in common (R153, R161) -/
  more : Bool := false
  /-- a kept operation of the group, which goes on without its path (R161) -/
  kept : Bool := false
  /-- the events of the issuer's district that stood before those of this pass (R483) -/
  before : Nat := 0
  /-- by strand, the core cycle in which it has its first lane-cycle, and that in which its result is written (R194, R222) -/
  wb : List (Nat × Nat × Nat) := []
  deriving DecidableEq, Repr

/-- What a path, the handler or a thread would do next. -/
inductive Look where
  /-- not ready (R132) -/
  | blocked
  /-- a trap at fetch, at the header or at decode of a word that no instruction has: its address, the place that its strands keep
  (counter, header, index; R158) and the header's D bit -/
  | trap (code addr pc hdr idx : Nat) (dual : Bool)
  /-- its instruction, the place of it, and the header's D bit and cue -/
  | go (i : Instr) (f : Focus) (dual : Bool) (cue : Nat)
  deriving DecidableEq, Repr

/-- What the scheduler has placed in the present slots. -/
inductive PlanItem where
  /-- a group's pass: the core cycle in which it begins and the lane-cycles that it may take (R133) -/
  | group (blk grp start cost : Nat)
  /-- the second path of a pass that has begun: what it does, its strands and their cycles (R153) -/
  | second (blk grp : Nat) (l : Look) (ks : List Nat) (wb : List (Nat × Nat × Nat))
  /-- the operation that a group is blocked in while its handler runs, or after its path has left it (R161) -/
  | kept (blk grp : Nat)
  | thread (q : Nat)
  deriving DecidableEq, Repr

/-- Why a parked strand is parked (R158). -/
inductive StrandSt where
  | active
  /-- replayable understudy: the fill it awaits has not been reported, or has been while replays were held -/
  | replay (woken : Bool)
  /-- fatal understudy with the recorded code, TRAP argument and trap address -/
  | fatal (code arg addr : Nat)
  | exited
  deriving DecidableEq, Repr

/-- What a path waits in, inside an instruction that has not completed (R154, R170, R208, R211, R271, R330, R336). -/
inductive Wait where
  | none
  /-- RJOIN, in a clause of so many words -/
  | rjoin (n : Nat)
  /-- GSYNC, in a clause of so many words -/
  | gsync (n : Nat)
  | sleep
  /-- SLEEP, of which the write at `ts` has woken the path (R211) -/
  | woken (ts : Nat)
  /-- BWAIT on the object at `off`, against a parity (R270) -/
  | bwait (off : Nat) (b : Bool)
  /-- BWAIT whose phase has completed, at a time (R34, R270) -/
  | bdone (tc : Nat)
  /-- a consumer mask that is being retired: the instruction's words and its clause's (R30) -/
  | mask (len n : Nat)
  /-- FENCE: every operation of the group numbered below `upto`, or its posted stores alone; `ts` is the newest write of them so far -/
  | fence (upto ts : Nat) (pst : Bool)
  /-- DRAIN, by its path (0 .scr, 1 .l1, 2 .mem), and CRNG (3): the numbers of the entries that stood in the queues -/
  | drain (ids : List Nat) (path : Nat)
  /-- BRMT, in a clause of so many words: until its arrival, known by its number, has been applied (R269) -/
  | brmt (id n : Nat)
  /-- an instruction that has taken effect and whose off-core engine has not answered -/
  | system
  deriving DecidableEq, Repr

/-- Operands of a replayed part, as the wake returns them (R159, R195). -/
structure Replay where
  va : Nat
  data : List W8
  cmp : List W8
  deriving DecidableEq, Repr

structure Strand where
  pc : Nat := 0
  hdr : Nat := 0
  idx : Nat := 0
  preds : W8 := 0
  tick : Nat := 0
  age : Nat := 0
  st : StrandSt := .active
  wait : Wait := .none
  triggered : Bool := false
  replay : Option Replay := none
  deriving DecidableEq, Repr

/-- An entry of the call stack (R169); a handler entry has an empty mask. -/
structure CallEntry where
  ret : Nat
  mask : List Nat
  handler : Bool := false
  deriving DecidableEq, Repr

/-- The handler's own path (R161), with the state its group kept. -/
structure Handler where
  pc : Nat
  hdr : Nat
  idx : Nat
  deriving DecidableEq, Repr

/-- A consumer mask being retired: the queues that have not accepted, the element (R30, R32). -/
structure MaskProg where
  queues : List Nat
  vecBytes : List W8
  word : W32
  /-- the core cycle of the instruction's write-back, before which no element is written (R257) -/
  due : Nat
  strands : List Nat
  deriving DecidableEq, Repr

/-- A result of class 0, class 3 or class 4 that awaits its write-back (R220 to R222). -/
structure WriteBack where
  /-- destination register words: register number and the word of each written strand -/
  vWrites : List (Nat × List (Nat × W32)) := []
  /-- a predicate and its new value per strand -/
  pWrites : List (Nat × List (Nat × Bool)) := []
  /-- w registers of the group and their words (R273) -/
  wWrites : List (Nat × W32) := []
  /-- a reserved queue element: queue, ticket number, bytes, strands of the path -/
  push : Option (Nat × Nat × List W8 × List Nat) := none
  /-- the core cycle in which its results are written -/
  due : Nat := 0
  /-- the pass that made it, by its core cycle (R215) -/
  pass : Nat := 0
  deriving DecidableEq, Repr

/-- How a group lives (R171). -/
inductive GroupSt where
  | live
  | exitPending
  | exited
  deriving DecidableEq, Repr

/-- A group-wide block in the scheduler (R154, R305, R434). -/
inductive Busy where
  | none
  /-- held at the curtain latch by a joint operation (R294) -/
  | latch
  /-- an off-core engine serves a class 7 instruction, or a class 5 instruction of R305 is in progress -/
  | system
  deriving DecidableEq, Repr

structure Group where
  w : List W32 := []
  b : W8 := 0
  vregs : List VReg := []
  strands : List Strand := []
  ld : Nat := 0
  st : Nat := 0
  cp : Nat := 0
  tl : Nat := 0
  trapc : W32 := 0
  trapm : W64 := 0
  trapa : W64 := 0
  /-- the value of trapa that trap entry wrote (R175) -/
  trapaEntry : W64 := 0
  handler : Option Handler := none
  /-- the newest write of the completed operations that LD, ST, CP and TL counted (R46, R299) -/
  ctrTs : List Nat := [0, 0, 0, 0]
  /-- the newest write of its posted stores (R208) -/
  pstTs : Nat := 0
  /-- what a waiting class 5 instruction waits for: tile operations numbered below (R305) -/
  upto : Nat := 0
  gang : W32 := 0
  gangSeq : Nat := 0
  cue : W32 := 0
  cueTimer : Option Nat := none
  calls : List CallEntry := []
  monLines : List Nat := []
  woke : Bool := false
  overF : Bool := false
  wokeTs : Nat := 0
  maskProg : Option MaskProg := none
  /-- where the operation stands that its path has left by a handler (R161): counter, header, index -/
  kept : Option (Nat × Nat × Nat) := none
  /-- traps of engine entries and tile operations that await a pass boundary: code and address (R301, R329) -/
  pendTraps : List (Nat × Nat × Option Nat) := []
  /-- the layout record of the MLDACC or MSVACC that the group is blocked in, as it was read at issue (R40, R309) -/
  imageRec : List W8 := []
  pendWb : List WriteBack := []
  life : GroupSt := .live
  busy : Busy := .none
  lane : Nat := 0
  role : Nat := 3
  lastSlot : Nat := 0
  yielded : Bool := false
  /-- register soft errors that nothing has read (R218): register, strands, whether they have been counted -/
  soft : List (Nat × List Nat × Bool) := []
  /-- correctable register errors that nothing has read (R218): the registers -/
  softOk : List Nat := []
  deriving DecidableEq, Repr

/-- A reserved element that is not yet poppable: its ticket, and its push time once written (R257). -/
structure QElem where
  ticket : Nat
  time : Option Nat
  deriving DecidableEq, Repr

/-- Queue state (Table 1 of R254) with its descriptor (R122) and the logical times of R259. -/
structure Queue where
  kind : Nat := 0
  depth : Nat := 0
  base : Nat := 0
  head : Nat := 0
  tail : Nat := 0
  count : Nat := 0
  relcnt : W32 := 0
  resv : Nat := 0
  /-- poppable elements' push times, oldest first -/
  times : List Nat := []
  /-- reserved elements, oldest first (kinds 1 and 2) -/
  waiting : List QElem := []
  nextTicket : Nat := 0
  /-- the core cycle behind that of its last operation: it serves one in a cycle (R258) -/
  served : Nat := 0
  /-- kind 3: reserved releases in issue order, with the entry and, once it has ended, its time (R265) -/
  releases : List (Nat × Option Nat) := []
  deriving DecidableEq, Repr

/-- A completion ring (R330). -/
structure Ring where
  va : Nat
  size : Nat
  written : Nat
  deriving DecidableEq, Repr

/-- A remote arrival that waits for its target block (R269). -/
structure HeldArrival where
  id : Nat
  off : Nat
  tick : Nat
  deriving DecidableEq, Repr

/-- A layout record as read (R35). -/
abbrev Record := List W8

/-- How an entry stands (R324 to R329). -/
inductive EntrySt where
  | queued
  | running
  /-- it has ended but for its completion record and the steps behind it (R329) -/
  | ended
  deriving DecidableEq, Repr

/-- A guard block as an entry has read it (R349): its number, whether it failed, how many of its bytes it covers, and those bytes. -/
structure Guard where
  num : Nat
  failed : Bool
  cover : Nat := 0
  bytes : List W8
  deriving DecidableEq, Repr

/-- An entry of eq0 to eq5 (R317, R341). -/
structure Entry where
  id : Nat
  instr : Instr
  blk : Nat
  grp : Nat
  /-- the word of the instruction and the strands of the path that issued it -/
  pc : Nat := 0
  ks : List Nat := []
  clk : Nat := 0
  /-- operands as read: destination, source, index list or sidecar, stream length -/
  dst : Nat := 0
  src : Nat := 0
  idx : Nat := 0
  len : Nat := 0
  words : List W32 := []
  recs : List Record := []
  tag : Nat := 0
  bar : Option Nat := none
  /-- blocks that the entry writes and whose barriers it debits: identifiers -/
  targets : List Nat := []
  isRec : Bool := false
  rel : Option Nat := none
  /-- chunks performed -/
  cursor : Nat := 0
  drops : Nat := 0
  /-- the first uncorrectable source line -/
  badVa : Option Nat := none
  /-- failed chunks or guard blocks, the lowest of them and its code (R356) -/
  failures : Nat := 0
  /-- the addresses of the blocks and payloads that failed (R349, R356) -/
  failVas : List Nat := []
  firstFail : Nat := 0
  failCode : Nat := 0
  guards : List Guard := []
  /-- the BDX header as read: NCHUNK, ZW, DLEN, DIROFF -/
  bdx : List Nat := []
  /-- decoded chunks in output buffers: number, failure code or 0, bytes (R339) -/
  bufs : List (Nat × Nat × List W8) := []
  /-- the next payload offset of BDXE (R358) -/
  next : Nat := 0
  status : Nat := 0
  fcode : Nat := 0
  fva : Nat := 0
  done : Nat := 0
  st : EntrySt := .queued
  cancel : Bool := false
  /-- step 1 of its end is over: its record is written, or lost (R329) -/
  posted : Bool := false
  /-- an operand fetch: its tile operation and the unit that it brings (R334) -/
  fetch : Option (Nat × Nat) := none
  /-- when it was put back into its queue, as numbers of entries count (R137, R335) -/
  back : Nat := 0
  deriving DecidableEq, Repr

/-- A QFENCE marker (R335): entries of the named queues that are younger wait for those ahead and for the path's accesses. -/
structure Fence where
  id : Nat
  mask : Nat
  ahead : List Nat
  /-- the newest write of what it has waited for -/
  clk : Nat := 0
  blk : Nat
  grp : Nat
  ks : List Nat
  back : Nat := 0
  deriving DecidableEq, Repr

/-- A posted store in eq7: one entry of parts (R204). -/
structure PstEntry where
  id : Nat
  blk : Nat
  grp : Nat
  parts : List Nat
  deriving DecidableEq, Repr

/-- One issuing group of a tile operation, with what its own instruction names (R294). -/
structure TileMember where
  grp : Nat
  pc : Nat := 0
  ks : List Nat := []
  clk : Nat := 0
  tile : Nat := 0
  handle : Record := []
  scale : Record := []
  origin : List Int := []
  scaleOrigin : List Int := []
  deriving DecidableEq, Repr

/-- A row of operand bytes in a reservation: its number, element patterns and scale bytes. -/
structure OpRow where
  num : Nat
  elems : List Nat
  scales : List Nat
  /-- whether the row's section of each K-quarter is skippable, found as the row buffer fills (R284) -/
  skip : List Bool := []
  deriving DecidableEq, Repr

/-- A tile operation of the matrix engine: MBLD, MMA or MDRN (R297 to R308). -/
structure TileOp where
  id : Nat
  instr : Instr
  blk : Nat
  members : List TileMember
  joint : Bool := false
  clk : Nat := 0
  rows : Nat := 0
  cursor : Nat := 0
  started : Bool := false
  /-- sections finished by each K-quarter, in rows (R285) -/
  quarters : List Nat := []
  /-- rows fetched and not retired, and the next row to fetch (R290) -/
  buf : List OpRow := []
  next : Nat := 0
  /-- the last retired row's skippable sections, for its f16 mate (R284) -/
  mate : List Bool := []
  cancel : Bool := false
  /-- paused at a row boundary for a fill (R300) -/
  paused : Bool := false
  /-- suspended by a tile fault, with its code (R301) -/
  fault : Option Nat := none
  /-- members that have left their handlers since the fault (R302) -/
  back : List Nat := []
  /-- when it was put back into its queue (R137, R335) -/
  place : Nat := 0
  deriving DecidableEq, Repr

/-- A tile that macros hold (R297). -/
structure Tile where
  first : Nat
  kc : Nat
  nc : Nat
  fmt : Nat
  mx : Bool
  /-- element patterns, one list per k (R281); the scales stand in the side plane (R282) -/
  elems : List (List Nat)
  blk : Nat
  /-- the macros that its MBLD marked special (R284) -/
  marks : List Nat := []
  deriving DecidableEq, Repr

/-- A cached line of the L1 or of an L2 slice, most recent first in its list (R187, R489). -/
structure CacheLine where
  line : Nat
  data : List W8
  wts : Nat
  rts : Nat
  grant : Nat
  kept : Bool := false
  owner : Nat := 0
  /-- a soft error that nothing has read: 1 correctable, 2 not (R190) -/
  err : Nat := 0
  /-- a store has updated the copy since its data came (an L2 slice's copies, R477) -/
  stored : Bool := false
  deriving DecidableEq, Repr

/-- A domain slot (R184): the domain and its sixteen entries. -/
structure DomainSlot where
  dist : Nat
  domain : Nat
  entries : List W32
  deriving DecidableEq, Repr

/-- One entry of a distribution table, its 128 bits (R363). -/
abbrev DistEntry := BitVec 128

/-- Who last used an SRAM unit (R126). -/
structure UnitOwner where
  vf : Nat
  domain : Nat
  deriving DecidableEq, Repr

/-- A member of a joint operation that waits at the curtain latch (R294). -/
structure LatchArrival where
  blk : Nat
  grp : Nat
  seq : Nat
  gang : W32
  instr : Instr
  /-- operand values that must agree (R294) -/
  vals : List Nat
  rows : Nat
  /-- where the member stands -/
  place : Focus
  self : TileMember
  deriving DecidableEq, Repr

/-- A scratchpad access of a pass that has not been performed (R194): its strands, its lane-cycle, its bytes, what it does (0 load,
1 store, 2 atomic) with which operands, the cycle of its result, and its instruction's place and destination. -/
structure ScrOp where
  blk : Nat
  grp : Nat
  ks : List Nat
  cyc : Nat
  off : Nat
  size : Nat
  act : Nat
  data : List W8 := []
  cmp : List W8 := []
  aop : Nat := 0
  ty : Nat := 0
  due : Nat := 0
  dest : Opd := .zero
  bits : Nat := 32
  sx : Bool := false
  /-- the second path of its pass -/
  second : Bool := false
  deriving DecidableEq, Repr

structure CoreSt where
  sram : Cells := []
  owners : Tbl UnitOwner := []
  tiles : List Tile := []
  slots : List (Option DomainSlot) := [none, none, none, none]
  dist : List DistEntry := []
  l1 : List CacheLine := []
  /-- lines of code by line number, newest first: 2,048 of them at most (R2, R155) -/
  icache : List (Nat × List W8) := []
  eqs : List (List Entry) := [[], [], [], [], [], []]
  /-- joint operations that have not reached the engine (R297) -/
  eq6 : List TileOp := []
  eq7 : List PstEntry := []
  fences : List Fence := []
  /-- by queue, the newest write of what stood before its next entry (R28, R335) -/
  floors : List Nat := [0, 0, 0, 0, 0, 0, 0, 0]
  /-- operations in the order in which they reached the engine -/
  tileOps : List TileOp := []
  latch : List LatchArrival := []
  /-- uncorrectable macro words that nothing has read (R303): macro, row, first of its eight slots -/
  soft : List (Nat × Nat × Nat) := []
  deriving DecidableEq, Repr

/-- The dispatch engine's work on a block's image in the district's save area (R136, R137): it writes the bytes, or reads them
back.  With `seat` the block holds its room on its core meanwhile. -/
structure SaveJob where
  write : Bool
  seat : Bool := true
  len : Nat
  off : Nat := 0
  bytes : List W8 := []
  /-- a read that brought no bytes -/
  lost : Bool := false
  deriving DecidableEq, Repr

structure Block where
  dist : Nat := 0
  vf : Nat := 0
  lid : Nat := 0
  ident : Nat := 0
  core : Nat := 0
  resident : Bool := true
  /-- its groups issue no further pass: it is being taken off its core (step 1 of Table 7 of R136) -/
  stop : Bool := false
  /-- its state stands in the save area of a CTXS, so that the dispatch engine does not restore it (R142) -/
  image : Bool := false
  prio : Nat := 0
  order : Nat := 0
  scr : List Nat := []
  acc : List Nat := []
  reg : List Nat := []
  queues : List Queue := []
  rings : List (Option Ring) := [none, none, none, none, none, none]
  obres : List (Option Nat) := [none, none, none, none, none, none, none, none]
  macs : List Nat := []
  clk : Nat := 0
  barTimes : Tbl Nat := []
  held : List HeldArrival := []
  groups : List Group := []
  /-- uncorrectable accumulator elements that nothing has read (R303), by ACC offset -/
  softAcc : List Nat := []
  /-- the shares and engine work of a block that is not resident (R136, R140) -/
  saveScr : Cells := []
  saveAcc : Cells := []
  saveEqs : List (Nat × Entry) := []
  saveFences : List Fence := []
  saveTiles : List Tile := []
  saveOps : List TileOp := []
  saveLatch : List LatchArrival := []
  /-- its image in its VF's region of the save area: the offset, none where it stands in no such place, and its bytes (R141) -/
  saveOff : Option Nat := none
  saveLen : Nat := 0
  saveJob : Option SaveJob := none
  /-- a world switch has taken it off its core (R147) -/
  switched : Bool := false
  deriving DecidableEq, Repr

inductive LaunchSt where
  | queued
  /-- its count record, parameter block and record table are being read (R124) -/
  | reading
  | dispatching
  | saved
  | split
  deriving DecidableEq, Repr

/-- A launch (R118 to R129). -/
structure Launch where
  lid : Nat
  vf : Nat
  prio : Nat
  header : List W8
  st : LaunchSt := .queued
  counts : List Nat := []
  params : List W8 := []
  records : List W8 := []
  cues : List W32 := []
  start : Nat := 0
  /-- block identifiers not yet started, counted by their index among non-surplus blocks -/
  cursor : Nat := 0
  exited : Nat := 0
  reply : Nat := 0
  /-- the domain under which the reply line is written (R437) -/
  domain : Nat := 0
  tag : Nat := 0
  /-- strands of non-surplus blocks that are neither triggered nor exited (R129) -/
  untrig : Nat := 0
  /-- CTXS or CTXR acts on it -/
  acting : Bool := false
  /-- the area of a split launch, the map of its saved blocks and their images (R142) -/
  image : Nat := 0
  splitMap : Nat := 0
  splitBytes : List W8 := []
  /-- the end that awaits its blocks: status, code, trap address, work identifier (R149, R163) -/
  kill : Option (Nat × Nat × Nat × Nat) := none
  deriving DecidableEq, Repr

/-- The counters of one VF (R475 to R481): value, overflow flag and configuration. -/
structure Counter where
  value : Nat := 0
  ovf : Bool := false
  cfg : W32 := 0
  deriving DecidableEq, Repr

structure Vf where
  keyslot : Nat := 0
  quantum : Nat := 0
  busy : Bool := false
  imageKey : Nat := 0
  /-- a reset in progress, and whether it is of the scrub kind (R149) -/
  reset : Option Bool := none
  /-- steps 3 to 5 of it are over, and step 6 -/
  closed : Bool := false
  scrubbed : Bool := false
  deriving DecidableEq, Repr

/-- CTXS or CTXR in progress (R142, R143, R148): who issued it, what it acts on, and its cursor. -/
structure CtxOp where
  restore : Bool
  blk : Nat
  grp : Nat
  handler : Bool
  /-- the issuer's launch and VF -/
  own : Nat
  vf : Nat
  area : Nat
  lid : Nat
  clk : Nat
  phase : Nat := 0
  /-- the bound of the image, as checked -/
  need : Nat := 0
  /-- bytes that stand in the area, or have been read from it, and bytes of the image as far as they are made -/
  off : Nat := 0
  bytes : List W8 := []
  todo : List Nat := []
  saved : Nat := 0
  count : Nat := 0
  /-- bytes of the blocks that SAVED names -/
  done : Nat := 0
  result : Option Nat := none
  deriving DecidableEq, Repr

/-- A launch image that CTXS has written: its bytes, and the launch and blocks that they hold (R139). -/
structure SavedImage where
  vf : Nat
  bytes : List W8
  launch : Launch
  blocks : List (Nat × Block)
  deriving DecidableEq, Repr

structure District where
  clusters : W64 := 0
  hbmch : W16 := 0
  ddrch : BitVec 12 := 0
  /-- the homes whose fault records are held, in fault order (R488) -/
  faultHomes : List Nat := []
  err : Nat := 0
  state : Nat := 0
  policy : BitVec 3 := 0
  lease : Nat := 32
  saveva : Nat := 0
  savelen : Nat := 0
  vfcount : Nat := 0
  vfs : Tbl Vf := []
  curVf : Option Nat := none
  /-- the VF of a world switch in progress, and whether it has blocks to save (R117, R147) -/
  switchTo : Option (Nat × Bool) := none
  /-- the cycle from which the quantum counts; none until groups are schedulable (R117) -/
  quantumStart : Option Nat := none
  /-- the blocks of the incoming VF are coming back: the last part of a world switch (R147) -/
  restoring : Bool := false
  /-- groups of the current VF have become schedulable since it was made current (event 0x01 of R476) -/
  counting : Bool := false
  clock : Nat := 0
  nextLid : Nat := 1
  launches : List Launch := []
  dtab : Tbl DistEntry := []
  mon : Tbl Counter := []
  monErr : Tbl Nat := []
  events : List (Nat × Nat × Nat) := []
  /-- how many of them have occurred in earlier cycles (R483) -/
  aged : Nat := 0
  ctxOps : List CtxOp := []
  images : List SavedImage := []
  /-- the live set of VF counters, of the current VF (R475) -/
  live : List Counter := [{}, {}, {}, {}]
  deriving DecidableEq, Repr

/-- What a reply brings back (R191). -/
inductive Reply where
  /-- the line of a load or the old value of an atomic, its times, and the uncorrectable words of the line (a mask) -/
  | accept (data : List W8) (wts rts bad : Nat)
  | negative
  | fatal (code : Nat)
  deriving DecidableEq, Repr

inductive PartKind where
  | load | store | atom | red | pst | mon | pref | fetch
  deriving DecidableEq, Repr

/-- Who sent a part, and who takes its reply. -/
inductive PartSrc where
  /-- strands of a path; none for the handler's own LDW and STW -/
  | strands (blk grp : Nat) (ks : List Nat)
  | engine (core eq entry : Nat)
  | tile (core op : Nat)
  | icache (core : Nat)
  /-- a system instruction of a group -/
  | sys (blk grp : Nat)
  | thread (q : Nat)
  | dispatch (d lid : Nat)
  /-- the service processor's own reads and posts of a ring (R433, R488) -/
  | ring (q : Nat)
  /-- the device's own writes of one chain, in order -/
  | chain (k : Nat)
  | remote (dev tag : Nat)
  /-- the PCIe port: function, traffic class, request tag -/
  | pcie (f tc tag : Nat)
  /-- the Hanos port: stream, request tag -/
  | hanos (stream tag : Nat)
  deriving DecidableEq, Repr

inductive PartSt where
  /-- on its way to its home, or refused for want of room and to be sent again -/
  | sent
  /-- a negative reply was given; the home keeps it until the fill -/
  | parked
  | replied (r : Reply)
  /-- accepted; its data is on the way -/
  | data (bytes : List W8)
  /-- a posted write that its home holds until release (R205) -/
  | held
  /-- a posted write that its home may now perform -/
  | released
  /-- the fill has come; the wake is on its way -/
  | woken
  /-- at a host port, or at another device: what comes next comes from outside (R458, R420) -/
  | atHost
  deriving DecidableEq, Repr

/-- One access on behalf of a requester: R183, R191. -/
structure Part where
  id : Nat := 0
  issue : Nat := 0
  src : PartSrc
  kind : PartKind
  va : Nat
  len : Nat
  data : List W8 := []
  cmp : List W8 := []
  aop : Nat := 0
  ty : Nat := 0
  hint : Nat := 0
  /-- requester: device VF (0xfff for host ports), district, domain, launch privilege or a service thread's PRIV -/
  vf : Nat := 0
  dist : Nat := 0
  domain : Nat := 0
  priv : Bool := false
  /-- writer code of Table 7 of R392 -/
  writer : Nat := 0
  /-- POLICY [0] may promote it (R383) -/
  promo : Bool := false
  /-- requester clock and lease length -/
  clk : Nat := 0
  lam : Nat := 1
  dev : Nat := 0
  home : Nat := 0
  st : PartSt := .sent
  due : Nat := 0
  /-- core cycle of the last request (R381) -/
  sentAt : Nat := 0
  /-- when it left for another device (R421) -/
  sentTime : Nat := 0
  tag : Nat := 0
  /-- the kind of the packet that brought it from another device (R402) -/
  op : Nat := 0
  /-- the wake has come before the negative reply was taken -/
  early : Bool := false
  /-- the page under which the home accepted a held write: entry, where the entry stands, byte on its controller -/
  frame : Option (Nat × Nat × Nat) := none
  /-- a held write that has been released -/
  rel : Bool := false
  /-- writes released after the others of their chunk (R342, R354) -/
  wave : Nat := 0
  /-- a PCIe write: the newest write that its class performed before it (R460) -/
  above : Nat := 0
  /-- the port at which it waits: 14 Hanos, 15 PCIe, 0 none (R458) -/
  port : Nat := 0
  /-- where its instruction stands, for strands that come back to it (R158, R195) -/
  pc : Nat := 0
  hdr : Nat := 0
  idx : Nat := 0
  /-- the L1 has answered it (R188) -/
  l1 : Bool := false
  /-- its home has sent it on to the plaza of its line, which performs it at its release (R417) -/
  fwd : Bool := false
  deriving DecidableEq, Repr

/-- A write of the device itself, performed after the earlier writes of its chain. -/
structure SysWrite where
  chain : Nat
  dist : Nat
  domain : Nat
  vf : Nat
  va : Nat
  data : List W8
  clk : Nat
  writer : Nat := 8
  /-- where the address itself is to be read first: the REPLY of a host-fed record (R438) -/
  via : Option Nat := none
  /-- a completion record that its ring must have room for: the ring's address, its entries and the record's number (R331) -/
  room : Option (Nat × Nat × Nat) := none
  deriving DecidableEq, Repr

/-- A counted access instruction in flight (R22). -/
structure Issue where
  id : Nat
  blk : Nat
  grp : Nat
  /-- 0 LD, 1 ST -/
  ctr : Nat
  dest : Opd := .zero
  bits : Nat := 32
  sx : Bool := false
  /-- width in bytes of one part -/
  size : Nat := 4
  /-- parts that are not complete -/
  left : List Nat := []
  pst : Bool := false
  /-- where the instruction stands, for strands that come back to it (R158) -/
  pc : Nat := 0
  hdr : Nat := 0
  idx : Nat := 0
  deriving DecidableEq, Repr

/-- A part that waits at its home for a fill, in the home's park table (R370). -/
structure Parked where
  part : Nat
  page : Nat
  deriving DecidableEq, Repr

/-- Who is armed on a line: a group, a service thread or a group of another device (R389). -/
inductive Armed where
  | grp (blk grp : Nat)
  | thread (q : Nat)
  | remote (dev tag avd vf : Nat)
  deriving DecidableEq, Repr

structure MonLine where
  line : Nat
  who : Armed
  deriving DecidableEq, Repr

/-- A watchpoint (R390, R391): first line, lines, its ring and the reports written to it. -/
structure WatchPt where
  line : Nat
  lines : Nat
  index : Nat
  stop : Bool
  ring : Nat
  size : Nat
  dist : Nat
  domain : Nat
  vf : Nat
  /-- where the ring lies, as resolved at issue (R391) -/
  rdev : Nat := 0
  rhome : Nat := 0
  written : Nat := 0
  lost : Nat := 0
  deriving DecidableEq, Repr

structure LineTs where
  wts : Nat
  rts : Nat
  deriving DecidableEq, Repr

/-- A delegated line (R416): its plaza's ceiling, the newest write-through and the cycle of the last coherent part from here. -/
structure Delegated where
  ceiling : Nat
  recalled : Bool := false
  /-- the avenue of the request that the home's messages about the line answer (R412) -/
  avd : Nat := 0
  deriving DecidableEq, Repr

structure Home where
  kdir : Nat := 0
  floor : Nat := 0
  enable : Bool := false
  parked : List Parked := []
  /-- pages with a fault record outstanding, and records not yet posted with their REQVF -/
  fills : List Nat := []
  held : List (List W8 × Nat) := []
  lines : Tbl LineTs := []
  deleg : Tbl Delegated := []
  /-- the avenue of the request that a DELEGATE is about to answer, by line (R412) -/
  asked : Tbl Nat := []
  /-- addresses of the parts that have met uncorrectable words, newest first (R196, R383) -/
  errLog : List Nat := []
  /-- cycle of the last part from this device or a host, by line (R416) -/
  touched : Tbl Nat := []
  monitors : List MonLine := []
  watches : List WatchPt := []
  deriving DecidableEq, Repr

structure KeyList where
  dist : Nat
  domain : Nat
  vf : Nat
  entries : List W32
  deriving DecidableEq, Repr

structure Thread where
  w : List W32 := []
  b : W8 := 0
  pc : Nat := 0
  hdr : Nat := 0
  idx : Nat := 0
  tick : Nat := 0
  calls : List Nat := []
  monLines : List Nat := []
  woke : Bool := false
  overF : Bool := false
  wokeTs : Nat := 0
  waiting : Bool := false
  /-- the thread awaits a reply -/
  busy : Bool := false
  /-- the NOTIFY value at which a WAIT holds the thread (R436) -/
  seen : Option Nat := none
  /-- the first cycle in which it may issue again (R444) -/
  next : Nat := 0
  deriving DecidableEq, Repr

structure SQueue where
  ring : Nat := 0
  domain : Nat := 0
  owner : Nat := 0
  district : Nat := 0
  shared : Bool := false
  priv : Bool := false
  kind : Nat := 0
  size : Nat := 0
  entry : Nat := 0
  scratch : Nat := 0
  produced : Nat := 0
  notify : Nat := 0
  fpc : Nat := 0
  enable : Bool := false
  fcode : Nat := 0
  tstate : Nat := 0
  thread : Thread := {}
  /-- outstanding records: number, reply VA, submitting VF, tag -/
  outstanding : List (Nat × Nat × Nat × Nat) := []
  /-- who posts to it now: a block and its group (R433) -/
  posting : Option (Nat × Nat) := none
  /-- who posts next: their checks are made (R434) -/
  waitPost : List (Nat × Nat) := []
  /-- the state that its thread enters when its present instruction ends (R429, R440) -/
  stopping : Option Nat := none
  /-- the record that REPLY is closing (R438) -/
  closing : Option (Nat × Nat × Nat × Nat) := none
  /-- the largest timestamp that a post has taken (R488) -/
  postTs : Nat := 0
  deriving DecidableEq, Repr

/-- A packet that waits on a link: flits sent, and whether it began as owned (R410). -/
structure TxPacket where
  pkt : Packet
  sent : Nat := 0
  own : Option Bool := none
  deriving DecidableEq, Repr

/-- A packet that is arriving: its priority, district and OWN value, its header, flits so far and their bodies (R410). -/
structure RxPacket where
  fpri : Nat
  avd : Nat
  own : Bool
  head : Packet
  flits : Nat
  bytes : List W8
  deriving DecidableEq, Repr

/-- A link with its control block (Table 5 of R413) and its two directions. -/
structure Link where
  err : Nat := 0
  state : Nat := 0
  plaza : Nat := 0
  rtt : Nat := 0
  bufs : List Nat := [1024, 1024, 1024, 1024, 1024, 1024, 1024, 1024]
  shrs : List Nat := [1024, 1024, 1024, 1024, 1024, 1024, 1024, 1024]
  replay : Nat := 0
  crcerr : Nat := 0
  dropped : Nat := 0
  downs : Nat := 0
  elog : List W8 := []
  /-- the last whole packet of each sequence of flits: a further flit says that its LEN is wrong (R402) -/
  last : List RxPacket := []
  /-- avenue table by slot group; an entry not listed is 0 -/
  avt : Tbl Nat := []
  pendAvt : Option (Tbl Nat) := none
  sendSeq : Nat := 0
  expectSeq : Nat := 0
  /-- a drop has not been answered with NAK yet; NAKs sent for the present SEQ -/
  nakDue : Bool := false
  naks : Nat := 0
  /-- flits that no ACK covers, with their packets, and those to be sent again -/
  kept : List (Flit × Packet) := []
  again : List (Flit × Packet) := []
  sendQ : List TxPacket := []
  /-- the district that sent last as shared, by priority -/
  turns : Tbl Nat := []
  recv : List RxPacket := []
  txSlot : Nat := 0
  rxSlot : Nat := 0
  /-- when the last flit came -/
  heard : Nat := 0
  /-- STOPS of the last trailer, STOPO by district, and districts stopped in the present frame -/
  stops : Nat := 0
  stopo : Tbl Nat := []
  stopSeen : List Nat := []
  /-- the flit slot of the last good trailer -/
  rxFrom : Nat := 0
  /-- the stop bits of this device's own buffers, shared and by district (R407) -/
  halt : Nat := 0
  haltO : Tbl Nat := []
  /-- what stands on the wire -/
  wire : Flit := {}
  deriving DecidableEq, Repr

/-- Notices for the host management agent (R149, R457, R485). -/
inductive Notice where
  | vfReset (vf : Nat)
  | overflow (d counter : Nat)
  deriving DecidableEq, Repr

/-- What the device hands to the outside: one item per message of R430, R452, R457 and R470. -/
inductive Output where
  | completion (va : Nat) (bytes : List W8)
  /-- a PCIe completion of one line: status 0 successful, 1 Unsupported Request, 4 Completer Abort, 16 successful with EP -/
  | hostReadReply (tag : Nat) (bytes : List W8) (status : Nat)
  /-- a part at a port (14 Hanos, 15 PCIe), address at the port: a write may have a mask, an atomic has its operation and type -/
  | hostReq (port addr : Nat) (kind : PartKind) (len : Nat) (bytes cmp : List W8) (aop ty : Nat) (part : Nat)
  | interrupt (f vector : Nat)
  | notice (n : Notice)
  /-- a link has gone down, to the fabric manager (R422) -/
  | downNotice (link : Nat)
  | report (bytes : List W8)
  | packet (k : Packet)
  /-- the reply to a Hanos part: code 0, or the code of an error -/
  | hanosReply (stream tag : Nat) (bytes : List W8) (code : Nat)
  deriving DecidableEq, Repr

/-- An MSI-X vector of a function as PCIe lays it out (R453): the message's address and data, and its mask and pending bits. -/
structure MsixVec where
  addr : Nat := 0
  data : Nat := 0
  masked : Bool := true
  pending : Bool := false
  deriving DecidableEq, Repr

structure KeySlot where
  loaded : Bool := false
  key : List W8 := []
  deriving DecidableEq, Repr

/-- A write that waits at a port (R432, R448, R461): its page (0 the control plane of PCIe, 8192 + n that of Hanos stream n, else
function + 1), its class, the number
below which writes of the class go first (0 none), and the write: the offset or the queue, the bytes, the value. -/
structure PortWrite where
  page : Nat
  tc : Nat
  bound : Nat
  off : Nat
  size : Nat
  value : Nat
  deriving DecidableEq, Repr

/-- The device control block and the rest of the device-wide state (R449, R450, R454 to R474). -/
structure Device where
  devnum : Nat := 0
  breaks : Nat := 0
  owner : Nat := 0
  semviol : Nat := 0
  breakms : Nat := 1000
  idereq : Nat := 0
  flrscrub : Nat := 1
  svn : Nat := 0
  berr : Nat := 0
  bstate : Nat := 2
  pwrnow : Nat := 0
  pwrcap : Nat := 2600
  clkmhz : Nat := 1300
  hdistrict : Nat := 0
  hdomain : Nat := 0
  hbasep : Nat := 0
  hbaseh : Nat := 0
  hostfloor : Nat := 0
  lastHolder : Nat := 2
  /-- when a master last wrote the control plane (R450) -/
  lastWrite : Tbl Nat := []
  /-- control-plane and notify-page writes that wait at the PCIe port -/
  portQ : List PortWrite := []
  /-- host requests dropped and counted against the device (R453, R455, R472) -/
  hostDrops : Nat := 0
  apertures : Tbl (Tbl (BitVec 128)) := []
  tcClocks : Tbl Nat := []
  streamClocks : Tbl Nat := []
  ideKeys : Tbl (Nat × List Nat) := []
  hanosUp : Bool := true
  /-- notices that wait for the Hanos link, and those that were dropped (R457) -/
  notices : List Notice := []
  noticesLost : Nat := 0
  pcieUp : Bool := true
  /-- the write-only fields SLOT and MRI, as they were last written (R10, R464, R466) -/
  kslot : Nat := 0
  mri : Nat := 0
  kdata : List W8 := []
  kstat : Nat := 0
  reason : Nat := 0
  slots : Tbl KeySlot := []
  mdata : List W8 := []
  mrs : Tbl (List W8) := []
  svnmin : Nat := 0
  flash : List Cells := []
  recovery : Cells := []
  /-- the image whose body stands in the controller's SRAM (R468, R472) -/
  running : Option Cells := none
  /-- a key command that waits for the parts accepted under the old state (R465): CMD, slot, key -/
  keyCmd : Option (Nat × Nat × List W8) := none
  /-- replies that are kept for packets that come again: source, tag, phase, the reply, when it was sent (R420) -/
  replies : List (Nat × Nat × Nat × Packet × Nat) := []
  /-- wakes that have not been acknowledged (R420) -/
  wakes : List Packet := []
  /-- posted releases that came before their writes: source and tag (R405) -/
  early : List (Nat × Nat) := []
  /-- requests and posted releases that have left and have no reply yet, with their links (R420, R423) -/
  sent : List (Nat × Packet) := []
  /-- posted writes of other devices that wait at plazas for their releases: source and tag (R417) -/
  forwarded : List (Nat × Nat) := []
  /-- watchpoints that domains of this device have armed at homes of other devices (R391) -/
  farWatches : List WatchPt := []
  /-- MSI-X vectors by 8 * function + vector (R453) -/
  msix : Tbl MsixVec := []
  /-- one above the newest timestamp of the writes of a PCIe class (R460) -/
  tcAbove : Tbl Nat := []
  /-- the stage of a cold boot (Table 12 of R473): 1 fuses, 2 bank A, 3 bank B, 4 memory, 5 links, 6 the end, 0 none -/
  boot : Nat := 0
  deriving DecidableEq, Repr

structure State where
  /-- core cycles (the clock register of R72) -/
  cycle : Nat := 0
  /-- the time since reset, in units of which a microsecond has usUnits: a core cycle lasts as CLKMHZ then says (R474) -/
  time : Nat := 0
  mem : Cells := []
  /-- uncorrectable 8-byte words of memory (R383) -/
  bad : List Nat := []
  cores : Tbl CoreSt := []
  /-- L2 slices by cluster (R489) -/
  l2 : Tbl (List CacheLine) := []
  districts : Tbl District := []
  blocks : Tbl Block := []
  homes : Tbl Home := []
  parts : List Part := []
  writes : List SysWrite := []
  /-- watch reports that have not reached their rings: home, domain, index and the 32 bytes less LOST -/
  reports : List (Nat × Nat × Nat × List W8) := []
  issues : List Issue := []
  keyLists : List KeyList := []
  squeues : Tbl SQueue := []
  spLast : Nat := 0
  links : Tbl Link := []
  /-- counter images by device VF (R481) -/
  images : Tbl (List Counter) := []
  dev : Device := {}
  out : List Output := []
  /-- packets that have no link yet -/
  outbox : List Packet := []
  nextUid : Nat := 1
  nextId : Nat := 1
  fresh : Nat := 0
  plan : List PlanItem := []
  /-- scratchpad accesses of the present pass that await its end (R194) -/
  scrOps : List ScrOp := []
  agenda : List Instr := []
  focus : Focus := {}
  deriving DecidableEq, Repr

/-- The machine right after a cold reset and boot (R473): everything off, memory zero, BSTATE 2; every field at the value of
INVENTORY.md. -/
def State.reset : State := {}

end Sys2Proof.Machine
end

