-- ==== Sys2Proof/Machine/Ops.lean ====
section
/-! DEFINITION. The named operations over the state: sparse bytes, cores, blocks, groups, strands, registers, the scratchpad,
the focus of the present instruction, and the movement of counters. -/

namespace Sys2Proof.Machine

/-- What an unlisted byte of memory or of a pool reads as: zero (R114, R473). -/
def emptyByte : W8 := 0

/-- The byte at an address. -/
def cellGet (a : Nat) : Cells → W8
  | [] => emptyByte
  | (k, b) :: r => if k = a then b else if a < k then emptyByte else cellGet a r

/-- Writes one byte and keeps the canonical form: writing the empty byte removes the entry. -/
def cellPut (a : Nat) (v : W8) : Cells → Cells
  | [] => if v = emptyByte then [] else [(a, v)]
  | (k, b) :: r =>
    if a < k then (if v = emptyByte then (k, b) :: r else (a, v) :: (k, b) :: r)
    else if k = a then (if v = emptyByte then r else (k, v) :: r)
    else (k, b) :: cellPut a v r

/-- Addresses above a bound, strictly rising, no entry that reads as an unlisted one. -/
def cellsAbove (lo : Nat) : Cells → Bool
  | [] => true
  | (k, b) :: r => decide (lo ≤ k) && decide (b ≠ emptyByte) && cellsAbove (k + 1) r

/-- The canonical form of a byte list. -/
def Memory.wf (c : Cells) : Bool := cellsAbove 0 c

def cellsRead (c : Cells) (a : Nat) : Nat → List W8
  | 0 => []
  | n + 1 => cellGet a c :: cellsRead c (a + 1) n

def cellsWrite (a : Nat) : List W8 → Cells → Cells
  | [], c => c
  | b :: bs, c => cellsWrite (a + 1) bs (cellPut a b c)

/-- Writes n zero bytes from an address. -/
def cellsZero (a n : Nat) (c : Cells) : Cells := c.filter fun e => !(decide (a ≤ e.1) && decide (e.1 < a + n))

/-! Cores, blocks, groups, strands -/

def State.core (s : State) (c : Nat) : CoreSt := Tbl.getD c s.cores {}
def State.onCore (s : State) (c : Nat) (f : CoreSt → CoreSt) : State :=
  { s with cores := Tbl.put c (f (s.core c)) s.cores }

def State.district (s : State) (d : Nat) : District := Tbl.getD d s.districts {}
def State.onDistrict (s : State) (d : Nat) (f : District → District) : State :=
  { s with districts := Tbl.put d (f (s.district d)) s.districts }

def State.home (s : State) (h : Nat) : Home := Tbl.getD h s.homes {}
def State.onHome (s : State) (h : Nat) (f : Home → Home) : State :=
  { s with homes := Tbl.put h (f (s.home h)) s.homes }

def State.squeue (s : State) (q : Nat) : SQueue := Tbl.getD q s.squeues {}
def State.onSqueue (s : State) (q : Nat) (f : SQueue → SQueue) : State :=
  { s with squeues := Tbl.put q (f (s.squeue q)) s.squeues }

def State.link (s : State) (l : Nat) : Link := Tbl.getD l s.links {}
def State.onLink (s : State) (l : Nat) (f : Link → Link) : State :=
  { s with links := Tbl.put l (f (s.link l)) s.links }

def State.block (s : State) (u : Nat) : Block := Tbl.getD u s.blocks {}
def State.onBlock (s : State) (u : Nat) (f : Block → Block) : State :=
  { s with blocks := Tbl.upd u f s.blocks }

def Block.group (b : Block) (g : Nat) : Group := b.groups.getD g {}
def Block.onGroup (b : Block) (g : Nat) (f : Group → Group) : Block :=
  { b with groups := b.groups.modify g f }

def State.grp (s : State) (u g : Nat) : Group := (s.block u).group g
def State.onGrp (s : State) (u g : Nat) (f : Group → Group) : State := s.onBlock u fun b => b.onGroup g f

def Group.strand (x : Group) (k : Nat) : Strand := x.strands.getD k {}
def Group.onStrand (x : Group) (k : Nat) (f : Strand → Strand) : Group := { x with strands := x.strands.modify k f }
def Group.onStrands (x : Group) (ks : List Nat) (f : Strand → Strand) : Group :=
  ks.foldl (fun x k => x.onStrand k f) x
def State.onStrands (s : State) (u g : Nat) (ks : List Nat) (f : Strand → Strand) : State :=
  s.onGrp u g fun x => x.onStrands ks f

/-- The group's width (R17). -/
def Group.width (x : Group) : Nat := x.strands.length

/-- All strand indices of a group. -/
def Group.all (x : Group) : List Nat := List.range x.width

def Strand.isExited (t : Strand) : Bool := t.st == .exited
def Strand.isParked (t : Strand) : Bool :=
  match t.st with
  | .replay _ => true
  | .fatal _ _ _ => true
  | _ => false

/-- Strands that are not exited. -/
def Group.living (x : Group) : List Nat := x.all.filter fun k => !(x.strand k).isExited

def Group.anyParked (x : Group) : Bool := x.strands.any Strand.isParked

/-- A mask word of a list of strands. -/
def maskOf (ks : List Nat) : Nat := ks.foldl (fun a k => a ||| 2 ^ k) 0

/-- The strands that a mask word names below a width. -/
def strandsOf (m w : Nat) : List Nat := (List.range w).filter fun k => m.testBit k

/-! Registers -/

def Group.getW (x : Group) (n : Nat) : W32 := x.w.getD n 0
def Group.setW (x : Group) (n : Nat) (v : W32) : Group := { x with w := listSet x.w n v }

/-- b0 reads as true (R14). -/
def Group.getB (x : Group) (n : Nat) : Bool := n = 0 || x.b.getLsbD n
def setBit8 (b : W8) (n : Nat) (v : Bool) : W8 :=
  if v then b ||| BitVec.ofNat 8 (2 ^ n) else b &&& ~~~ BitVec.ofNat 8 (2 ^ n)
/-- A write of b0 is discarded (R71). -/
def Group.setB (x : Group) (n : Nat) (v : Bool) : Group := if n = 0 then x else { x with b := setBit8 x.b n v }

/-- p0 reads as true (R16). -/
def Strand.getP (t : Strand) (n : Nat) : Bool := n = 0 || t.preds.getLsbD n
/-- A write of p0 is discarded (R232). -/
def Strand.setP (t : Strand) (n : Nat) (v : Bool) : Strand :=
  if n = 0 then t else { t with preds := setBit8 t.preds n v }

/-- The value of a register in a strand (R213). -/
def VReg.get (v : VReg) (k : Nat) : W32 := v.base + v.deltas.getD k 0

/-- The smallest delta width that holds a delta (R214). -/
def deltaWidth (d : W32) : Nat :=
  let x := d.toInt
  if x = 0 then 0 else if -8 ≤ x ∧ x ≤ 7 then 4 else if -128 ≤ x ∧ x ≤ 127 then 8
  else if -32768 ≤ x ∧ x ≤ 32767 then 16 else 32

/-- A write between compressions widens the register at once if it must (R215). -/
def VReg.set (v : VReg) (k : Nat) (x : W32) : VReg :=
  let d := x - v.base
  { v with deltas := listSet v.deltas k d, width := max v.width (deltaWidth d) }

/-- Compression (R213 to R215): the base of the lowest non-exited strand, deltas of the others, the smallest width. -/
def VReg.compress (v : VReg) (w : Nat) (living : List Nat) : VReg :=
  match living with
  | [] => { base := v.base, deltas := List.replicate w 0, width := 0 }
  | k :: _ =>
    let b := v.get k
    let ds := (List.range w).map fun j => if living.contains j then v.get j - b else 0
    { base := b, deltas := ds, width := ds.foldl (fun a d => max a (deltaWidth d)) 0 }

def Group.getV (x : Group) (r k : Nat) : W32 := (x.vregs.getD r {}).get k
/-- A write of a register makes its word good. -/
def clearSoft (r k : Nat) (l : List (Nat × List Nat × Bool)) : List (Nat × List Nat × Bool) :=
  (l.map fun e => if e.1 = r then (e.1, e.2.1.filter (· != k), e.2.2) else e).filter fun e => !e.2.1.isEmpty
def Group.setV (x : Group) (r k : Nat) (v : W32) : Group :=
  { x with vregs := x.vregs.modify r fun y => y.set k v, soft := clearSoft r k x.soft }
def Group.compressV (x : Group) (r : Nat) : Group :=
  { x with vregs := x.vregs.modify r fun y => y.compress x.width x.living }
def Group.compressAll (x : Group) : Group :=
  { x with vregs := x.vregs.map fun y => y.compress x.width x.living }

/-- The words of an n-word operand from a register, low first, as one number. -/
def wordsNat : List W32 → Nat
  | [] => 0
  | a :: r => a.toNat + 2 ^ 32 * wordsNat r

def natWords : Nat → Nat → List W32
  | 0, _ => []
  | n + 1, x => BitVec.ofNat 32 x :: natWords n (x / 2 ^ 32)

/-! The pool of a core and a block's shares in it (R121, R126) -/

/-- Physical byte of an offset in a share, none beyond it. -/
def shareByte (units : List Nat) (off : Nat) : Option Nat :=
  match units[off / 2048]? with
  | some u => some (u * 2048 + off % 2048)
  | none => none

def shareRead (c : Cells) (units : List Nat) (off : Nat) : Nat → List W8
  | 0 => []
  | n + 1 =>
    (match shareByte units off with
      | some a => cellGet a c
      | none => 0) :: shareRead c units (off + 1) n

def shareWrite (units : List Nat) (off : Nat) : List W8 → Cells → Cells
  | [], c => c
  | b :: bs, c =>
    shareWrite units (off + 1) bs (match shareByte units off with
      | some a => cellPut a b c
      | none => c)

/-- Bytes of a block's SCR share. -/
def State.scrRead (s : State) (u off n : Nat) : List W8 :=
  let b := s.block u
  shareRead (s.core b.core).sram b.scr off n
def State.scrWrite (s : State) (u off : Nat) (bs : List W8) : State :=
  let b := s.block u
  s.onCore b.core fun c => { c with sram := shareWrite b.scr off bs c.sram }

/-- Bytes of a block's ACC share. -/
def State.accRead (s : State) (u off n : Nat) : List W8 :=
  let b := s.block u
  shareRead (s.core b.core).sram b.acc off n
def State.accWrite (s : State) (u off : Nat) (bs : List W8) : State :=
  let b := s.block u
  (s.onCore b.core fun c => { c with sram := shareWrite b.acc off bs c.sram }).onBlock u fun b =>
    { b with softAcc := b.softAcc.filter fun o => !(decide (off ≤ o) && decide (o + 12 ≤ off + bs.length)) }

/-- The size of a block's SCR share in bytes (R183). -/
def Block.scrBytes (b : Block) : Nat := 2048 * b.scr.length
def Block.accBytes (b : Block) : Nat := 2048 * b.acc.length

/-! Launches and headers -/

/-- A little-endian field of a byte list. -/
def fieldLe (bs : List W8) (off n : Nat) : Nat := ofLe ((bs.drop off).take n)

/-- The launch of a block. -/
def State.launchOf (s : State) (b : Block) : Option Launch :=
  firstWith (fun l => l.lid == b.lid) (s.district b.dist).launches

def State.launchHdr (s : State) (b : Block) : List W8 :=
  match s.launchOf b with
  | some l => l.header
  | none => []

def State.onLaunch (s : State) (d lid : Nat) (f : Launch → Launch) : State :=
  s.onDistrict d fun x => { x with launches := updWhere (fun l => l.lid == lid) f x.launches }

/-- Fields of the launch header (Table 2 of R118). -/
def hEntry (h : List W8) : Nat := fieldLe h 0 8
def hFw (h : List W8) (i : Nat) : Nat := bits (fieldLe h 8 8) (6 * i + 5) (6 * i)
def hCoreRes (h : List W8) : Nat := bits (fieldLe h 8 8) 39 36
def hClRes (h : List W8) : Nat := bits (fieldLe h 8 8) 43 40
def hCountP (h : List W8) : Nat := fieldLe h 0x10 8
def hGw (h : List W8) : Nat := bits (fieldLe h 0x18 8) 1 0
def hWidth (h : List W8) : Nat := 8 * 2 ^ hGw h
def hVregs (h : List W8) : Nat := bits (fieldLe h 0x18 8) 8 2
def hCueMargin (h : List W8) : Nat := bits (fieldLe h 0x18 8) 31 16
def hSram (h : List W8) : Nat := fieldLe h 0x1c 4
def hReg (h : List W8) : Nat := bits (hSram h) 9 0
def hScr (h : List W8) : Nat := bits (hSram h) 19 10
def hAcc (h : List W8) : Nat := bits (hSram h) 29 20
def hRoles (h : List W8) : Nat := fieldLe h 0x20 8
def hQdesc (h : List W8) (k : Nat) : Nat := fieldLe h (0x28 + 4 * k) 4
def hCueP (h : List W8) : Nat := fieldLe h 0x68 8
def hParamP (h : List W8) : Nat := fieldLe h 0x70 8
def hDomain (h : List W8) : Nat := fieldLe h 0x78 2
def hPrio (h : List W8) : Nat := fieldLe h 0x7e 1
def hFlush (h : List W8) : Bool := bitOf (fieldLe h 0x7f 1) 0
def hPriv (h : List W8) : Bool := bitOf (fieldLe h 0x7f 1) 1
def hProd (h : List W8) (i : Nat) : Nat := fieldLe h (0x80 + 4 * i) 4
def hTrapE (h : List W8) : Nat := fieldLe h 0x90 8
def hRecWord (h : List W8) : Nat := fieldLe h 0x98 8
/-- The number of layout records (Table 2 of R118). -/
def hRecCount (h : List W8) : Nat := if hRecWord h = 0 then 0 else hRecWord h % 256 + 1
def hRecP (h : List W8) : Nat := hRecWord h / 256 * 256

/-- Groups per block (R119). -/
def hGroups (h : List W8) : Nat := 2 ^ hFw h 1

/-- The lowest bit of field i of a work identifier (R119). -/
def hLow (h : List W8) (i : Nat) : Nat := (List.range i).foldl (fun a j => a + hFw h j) 0

/-- Field i of a work identifier (R19, R119). -/
def hField (h : List W8) (wid i : Nat) : Nat := wid / 2 ^ hLow h i % 2 ^ hFw h i

/-- The blocks of a launch that are not surplus, numbered in increasing block identifier (R124): `counts` are the effective
counts of the fields f2 to f5. -/
def blockTotal (counts : List Nat) : Nat := counts.foldl (· * ·) 1

/-- The identifier of block n. -/
def blockAt (h : List W8) (counts : List Nat) (n : Nat) : Nat :=
  ((List.range 4).foldl (fun (a : Nat × Nat) i =>
    (a.1 + a.2 % counts.getD i 1 * 2 ^ hLow h (i + 2), a.2 / counts.getD i 1)) (0, n)).1

/-- The number of a block identifier. -/
def blockNumber (h : List W8) (counts : List Nat) (ident : Nat) : Nat :=
  ((List.range 4).foldl (fun (a : Nat × Nat) i =>
    (a.1 + hField h ident (i + 2) * a.2, a.2 * counts.getD i 1)) (0, 1)).1

/-- Blocks of a set whose members agree on the fields from `bound` up (R119); they have consecutive numbers. -/
def setBlocks (counts : List Nat) (bound : Nat) : Nat := (counts.take (bound - 2)).foldl (· * ·) 1

/-- The role of a group index (Table 2 of R118: all ones means no role map). -/
def hRole (h : List W8) (g : Nat) : Nat :=
  if hRoles h = 2 ^ 64 - 1 then 3 else bits (hRoles h) (2 * (g % 32) + 1) (2 * (g % 32))

/-- Classes that a role permits (Table 3 of R20). -/
def roleAllows (role cls : Nat) : Bool :=
  match role with
  | 0 => cls == 1 || cls == 4 || cls == 6 || cls == 7
  | 1 => cls == 1 || cls == 4 || cls == 5 || cls == 7
  | 2 => cls == 0 || cls == 1 || cls == 2 || cls == 3 || cls == 4 || cls == 7
  | _ => cls < 8

/-- The device-wide number of a VF (R116). -/
def vfNum (d v : Nat) : Nat := 64 * d + v

/-! Free numbers -/

/-- The next operation number. -/
def State.newId (s : State) : Nat × State := (s.nextId, { s with nextId := s.nextId + 1 })

/-- A logical time is a 64-bit count (R9): one that is full stays (log entry 100). -/
def tick64 (n : Nat) : Nat := min n (2 ^ 64 - 1)

/-- A value that the spec leaves open, of some bits; each use has its own number. -/
def State.free (s : State) (bitsN : Nat) : Nat × State :=
  (Config.freeValue s.fresh % 2 ^ bitsN, { s with fresh := s.fresh + 1 })

/-- Puts an event at the end of the agenda. -/
def State.post (s : State) (e : Instr) : State := { s with agenda := s.agenda ++ [e] }

def State.output (s : State) (o : Output) : State := { s with out := s.out ++ [o] }

/-! Key tables (R184) -/

/-- The rights bits of Table 2 of R184. -/
def rightRD : Nat := 2
def rightW : Nat := 4
def rightX : Nat := 8
def rightA : Nat := 16

/-- The rights that a list of entries grants for a key: the lowest-numbered valid entry with the key decides. -/
def rightsIn (es : List W32) (key : Nat) : Nat :=
  match firstWith (fun e => bitOf e.toNat 0 && e.toNat >>> 16 == key) es with
  | some e => e.toNat % 32
  | none => 0

def hasRights (granted need : Nat) : Bool := granted &&& need == need

/-- The entries of a domain in a core's slots. -/
def CoreSt.domainEntries (c : CoreSt) (dist domain : Nat) : List W32 :=
  match firstWith (fun o => match o with
    | some d => d.dist == dist && d.domain == domain
    | none => false) c.slots with
  | some (some d) => d.entries
  | _ => []

/-- The key list of a domain (R387). -/
def State.keyEntries (s : State) (dist domain : Nat) : List W32 :=
  match firstWith (fun k => k.dist == dist && k.domain == domain) s.keyLists with
  | some k => k.entries
  | none => []

/-! The focus of the present instruction -/

/-- The block and group that the present instruction acts for, and whether its handler issues it. -/
def State.who (s : State) : Option (Nat × Nat × Bool) :=
  match s.focus.kind with
  | .path u g _ => some (u, g, false)
  | .handler u g => some (u, g, true)
  | _ => none

/-- The strands of the path; the handler has none of its own (R161). -/
def State.pathStrands (s : State) : List Nat :=
  match s.focus.kind with
  | .path _ _ ks => ks
  | _ => []

/-- Sets a w register of the group or of the service thread. -/
def State.putW (s : State) (n : Nat) (v : W32) : State :=
  match s.focus.kind with
  | .path u g _ => s.onGrp u g fun x => x.setW n v
  | .handler u g => s.onGrp u g fun x => x.setW n v
  | .thread q => s.onSqueue q fun x => { x with thread := { x.thread with w := listSet x.thread.w n v } }
  | .none => s

def State.readW (s : State) (n : Nat) : W32 :=
  match s.focus.kind with
  | .path u g _ => (s.grp u g).getW n
  | .handler u g => (s.grp u g).getW n
  | .thread q => (s.squeue q).thread.w.getD n 0
  | .none => 0

def State.readB (s : State) (n : Nat) : Bool :=
  match s.focus.kind with
  | .path u g _ => (s.grp u g).getB n
  | .handler u g => (s.grp u g).getB n
  | .thread q => n = 0 || (s.squeue q).thread.b.getLsbD n
  | .none => n = 0

def State.putB (s : State) (n : Nat) (v : Bool) : State :=
  match s.focus.kind with
  | .path u g _ => s.onGrp u g fun x => x.setB n v
  | .handler u g => s.onGrp u g fun x => x.setB n v
  | .thread q =>
    if n = 0 then s else s.onSqueue q fun x => { x with thread := { x.thread with b := setBit8 x.thread.b n v } }
  | .none => s

/-- A w pair as a 64-bit number, low word first (R55). -/
def State.readW64 (s : State) (n : Nat) : Nat := (s.readW n).toNat + 2 ^ 32 * (s.readW (n + 1)).toNat
def State.putW64 (s : State) (n v : Nat) : State :=
  (s.putW n (BitVec.ofNat 32 v)).putW (n + 1) (BitVec.ofNat 32 (v / 2 ^ 32))

/-! Movement of counters -/

/-- The header of the clause after the present one (R167). -/
def Focus.nextClause (f : Focus) : Nat := (f.hdr + 4 * (f.n + 1)) % 2 ^ 64

/-- A strand's counter at a clause header (R150). -/
def Strand.goto (t : Strand) (va : Nat) : Strand := { t with pc := va, hdr := va, idx := 0 }

/-- A strand past the present instruction. -/
def Strand.past (t : Strand) (f : Focus) : Strand :=
  if f.idx + f.len ≤ f.n then { t with pc := (f.pc + 4 * f.len) % 2 ^ 64, idx := f.idx + f.len, hdr := f.hdr }
  else t.goto f.nextClause

/-- A strand past the instruction at which it waits: of so many words, in a clause of so many. -/
def Strand.pastWait (t : Strand) (len n : Nat) : Strand :=
  { t.past { pc := t.pc, hdr := t.hdr, idx := t.idx, n := n, len := len } with wait := .none }

/-- Whether a strand's instruction holds it until a consumer mask has retired (R30). -/
def Wait.isMask : Wait → Bool
  | .mask _ _ => true
  | _ => false

/-- Moves the strands given past the present instruction; parked and exited ones stay (R158), and those whose consumer mask has not
retired. -/
def Group.advance (x : Group) (f : Focus) (ks : List Nat) : Group :=
  x.onStrands ks fun t =>
    if t.st == .active then if t.wait.isMask then { t with replay := none } else { t.past f with wait := .none, replay := none } else t

/-- Sends strands to a clause header. -/
def Group.sendTo (x : Group) (ks : List Nat) (va : Nat) : Group :=
  x.onStrands ks fun t => if t.st == .active then { t.goto va with wait := .none } else t

def Handler.past (h : Handler) (f : Focus) : Handler :=
  if f.idx + f.len ≤ f.n then { h with pc := (f.pc + 4 * f.len) % 2 ^ 64, idx := f.idx + f.len }
  else { pc := f.nextClause, hdr := f.nextClause, idx := 0 }

/-- Past the present instruction: the path's strands, the handler or the service thread. -/
def State.advance (s : State) : State :=
  match s.focus.kind with
  | .path u g ks => s.onGrp u g fun x => x.advance s.focus ks
  | .handler u g => s.onGrp u g fun x => { x with handler := x.handler.map fun h => h.past s.focus }
  | .thread q => s.onSqueue q fun x =>
      let h : Handler := ⟨x.thread.pc, x.thread.hdr, x.thread.idx⟩
      let h := h.past s.focus
      { x with thread := { x.thread with pc := h.pc, hdr := h.hdr, idx := h.idx } }
  | .none => s

/-- The whole path (handler, thread) to a clause header. -/
def State.goto (s : State) (va : Nat) : State :=
  match s.focus.kind with
  | .path u g ks => s.onGrp u g fun x => x.sendTo ks va
  | .handler u g => s.onGrp u g fun x => { x with handler := some ⟨va, va, 0⟩ }
  | .thread q => s.onSqueue q fun x => { x with thread := { x.thread with pc := va, hdr := va, idx := 0 } }
  | .none => s

/-- A sequential transfer that is not taken (R167). -/
def State.nextClause (s : State) : State := s.goto s.focus.nextClause

/-! The distribution table (R363, R364, R186) -/

def deV (e : DistEntry) : Bool := bitOf e.toNat 0
def deHmask (e : DistEntry) : Nat := bits e.toNat 27 12
def deKind (e : DistEntry) : Nat := bits e.toNat 28 28
def deG (e : DistEntry) : Nat := bits e.toNat 29 29
def deDev (e : DistEntry) : Nat := bits e.toNat 43 32
def deKey (e : DistEntry) : Nat := bits e.toNat 63 48
def deFirst (e : DistEntry) : Nat := bits e.toNat 90 64
def deLast (e : DistEntry) : Nat := bits e.toNat 122 96

/-- The key and the offset of an address (R62). -/
def keyOf (va : Nat) : Nat := bits va 63 48
def offOf (va : Nat) : Nat := bits va 47 0
/-- The line of an address (R187). -/
def lineOf (va : Nat) : Nat := va / 64

def deCovers (e : DistEntry) (va : Nat) : Bool :=
  deV e && deKey e == keyOf va && deFirst e ≤ bits va 47 21 && bits va 47 21 ≤ deLast e

/-- The set bits of a number below a bound, lowest first. -/
def setBits (n m : Nat) : List Nat := (List.range m).filter fun k => n.testBit k

/-- home_of of R364: the device and the home code. -/
def homeOf (e : DistEntry) (va : Nat) : Nat × Nat :=
  let hs := setBits (deHmask e) 16
  let g := if deG e = 0 then 12 else 21
  let k := hs.getD (offOf va / 2 ^ g % hs.length) 0
  (deDev e, if deKind e = 0 then k else 16 + k)

/-- A lookup in a district's table (R364). -/
def State.distLookup (s : State) (d va : Nat) : Option DistEntry :=
  firstWith (fun e => deCovers e va) ((s.district d).dtab.map Prod.snd)

/-- A core's lookup: the entry found becomes the most recent of the 256 that the core caches (R186). -/
def State.cacheDist (s : State) (c : Nat) (e : DistEntry) : State :=
  s.onCore c fun k => { k with dist := (e :: k.dist.filter (· != e)).take 256 }

/-- The home of a table-window address (R369): the controller itself. -/
def windowHome (va : Nat) : Nat := (if bits va 45 45 = 0 then 0 else 16) + bits va 44 41

/-- The device and home of an address for a district; none without a distribution entry (check 3 of R183). -/
def State.route (s : State) (d va : Nat) : Option (Nat × Nat) :=
  if keyOf va = 0xfffd then some (s.dev.devnum, windowHome va)
  else
    match s.distLookup d va with
    | some e => some (homeOf e va)
    | none => none

/-! Parts in flight (R191) -/

/-- The event that a part's next step is. -/
def partEvent (p : Part) : Instr :=
  match p.st with
  | .sent | .released =>
    match p.kind with
    | .load | .pref | .fetch | .mon => .homeRead p.id
    | .store | .pst => .homeWrite p.id
    | .atom | .red => .homeAtomic p.id
  | .data _ => .loadDataArrival p.id
  | .woken =>
    match p.src with
    | .icache c => .icacheFill c p.id
    | .engine .. | .tile .. => .engineWake p.id
    | _ => .wake p.id
  | _ =>
    match p.src with
    | .icache c => .icacheFill c p.id
    | _ => .partReply p.id

/-- Whether a part has a step of its own to come. -/
def Part.moves (p : Part) : Bool :=
  match p.st with
  | .sent | .released | .replied _ | .data _ | .woken => true
  | _ => false

def State.part (s : State) (id : Nat) : Option Part := firstWith (fun p => p.id == id) s.parts
def State.onPart (s : State) (id : Nat) (f : Part → Part) : State :=
  { s with parts := updWhere (fun p => p.id == id) f s.parts }
def State.dropPart (s : State) (id : Nat) : State := { s with parts := s.parts.filter fun p => p.id != id }

/-- A part's next step falls due after a time that the spec does not bind (log entry 2). -/
def State.later (s : State) (id : Nat) (st : PartSt) : State :=
  s.onPart id fun p => { p with st := st, due := s.cycle + 1 + Config.latency (s.cycle + id) }

/-- The core whose distribution cache routes a part (R186). -/
def State.coreOf (s : State) (p : Part) : Option Nat :=
  match p.src with
  | .strands u _ _ | .sys u _ => some (s.block u).core
  | .engine c _ _ | .tile c _ | .icache c => some c
  | _ => none

/-- The lookup of a part in its core's distribution cache (R186): an entry that misses is fetched and becomes the most recent; the core
cycles that the part waits for it. -/
def State.lookUp (s : State) (p : Part) : State × Nat :=
  match s.coreOf p, (if keyOf p.va = 0xfffd then none else s.distLookup p.dist p.va) with
  | some c, some e => (s.cacheDist c e, if (s.core c).dist.contains e then 0 else 1 + Config.latency (s.cycle + s.nextId))
  | _, _ => (s, 0)

/-- Sends a part: it gets a number and its first step falls due later. -/
def State.send (s : State) (p : Part) : State :=
  let id := s.nextId
  let (s, wait) := s.lookUp p
  { s with
    nextId := id + 1
    parts := s.parts ++ [{ p with id := id, st := .sent, due := s.cycle + 1 + Config.latency id + wait, sentAt := s.cycle }] }

/-- Puts a write of the device itself at the end of its chain: a reply line, a completion record, a ring counter. -/
def State.sendWrite (s : State) (w : SysWrite) : State := { s with writes := s.writes ++ [w] }

/-- A notice for the host management agent: 4,096 are held at most (R457). -/
def State.postNotice (s : State) (n : Notice) : State :=
  if s.dev.notices.length < 4096 then { s with dev := { s.dev with notices := s.dev.notices ++ [n] } }
  else { s with dev := { s.dev with noticesLost := s.dev.noticesLost + 1 } }

/-- The VF that an event counts for: 4096, which no field names, for one of no device VF (R477, R491). -/
def eventVf (vf : Nat) : Nat := if vf < 1024 then vf else 4096

/-- Counts events for the monitor engine, to be added by COUNTER_UPDATE (R476). -/
def State.count (s : State) (d vf code n : Nat) : State :=
  if n = 0 then s else s.onDistrict d fun x => { x with events := x.events ++ [(eventVf vf, code, n)] }

/-- Adds to an error word of a district's monitor block, which saturates (R485): 0 UNCORR, 1 CORR, 2 REGSOFT, 3 CRCFAIL,
4 OOBDROP, 5 IGNORED. -/
def State.countErr (s : State) (d k n : Nat) : State :=
  if n = 0 then s
  else s.onDistrict d fun x => { x with monErr := Tbl.put k (min (Tbl.getD k x.monErr 0 + n) (2 ^ 48 - 1)) x.monErr }

/-! Time (R2, R474) -/

/-- Units of time in a microsecond: the least number that every clock of R474, from 650 to 1,300 MHz in steps of 25, divides. -/
def usUnits : Nat := 77476112606149917660000

/-- The length of the present core cycle. -/
def State.cycleTime (s : State) : Nat := usUnits / s.dev.clkmhz

/-- Whether so many microseconds have passed since a time. -/
def State.passed (s : State) (since us : Nat) : Bool := since + us * usUnits ≤ s.time

/-! Counted operations (R22) -/

def Group.bump (x : Group) (ctr : Nat) (f : Nat → Nat) : Group :=
  match ctr with
  | 0 => { x with ld := f x.ld }
  | 1 => { x with st := f x.st }
  | 2 => { x with cp := f x.cp }
  | _ => { x with tl := f x.tl }

def Group.ctr (x : Group) (c : Nat) : Nat :=
  match c with
  | 0 => x.ld
  | 1 => x.st
  | 2 => x.cp
  | _ => x.tl

def Group.idle (x : Group) : Bool := x.ld == 0 && x.st == 0 && x.cp == 0 && x.tl == 0 && x.kept.isNone

/-! Replies to submitters and the end of launches (R127, R163, R437) -/

/-- The 64 bytes of a reply line (Table 4 of R438). -/
def replyLine (status code lid tag trapa workid : Nat) : List W8 :=
  leBytes 8 (status + code * 2 ^ 16 + lid * 2 ^ 32) ++ leBytes 8 tag ++ leBytes 16 0 ++ leBytes 8 trapa ++
    leBytes 8 workid ++ leBytes 16 0

/-- Ends a launch: its reply line is written and its record leaves the dispatch engine. -/
def State.endLaunch (s : State) (d lid status code trapa workid : Nat) : State :=
  match firstWith (fun l => l.lid == lid) (s.district d).launches with
  | none => s
  | some l =>
    let s := if l.reply = 0 then s
      else s.sendWrite { chain := l.reply, dist := d, domain := l.domain, vf := vfNum d l.vf, va := l.reply,
                         data := replyLine status code lid l.tag trapa workid, clk := (s.district d).clock }
    s.onDistrict d fun x => { x with launches := x.launches.filter fun m => m.lid != lid }

/-- The 32 bytes of a completion record (Table 9 of R42). -/
def recordBytes (tag status fcode eq done fva : Nat) : List W8 :=
  leBytes 8 tag ++ leBytes 2 status ++ leBytes 2 fcode ++ leBytes 1 eq ++ leBytes 3 0 ++ leBytes 8 done ++ leBytes 8 fva

/-- The chain of the writes of a block's engine queue. -/
def ringChain (u eq : Nat) : Nat := 2 ^ 64 + 8 * u + eq

/-- Sends a completion record to the block's ring of a queue, if one is set, and then its PRODUCED (R42, R331). -/
def State.writeRecord (s : State) (u eq : Nat) (bytes : List W8) (clk : Nat) : State :=
  let b := s.block u
  match (b.rings.getD eq none) with
  | none => s
  | some r =>
    let va := r.va + 64 + 32 * (r.written % r.size)
    let prod := leBytes 8 (r.written + 1)
    let s :=
      if keyOf r.va = 0xfffe then
        if b.resident && (r.written + 2 ^ 64 - ofLe (s.scrRead u (r.va % 2 ^ 32 + 8) 8)) % 2 ^ 64 < r.size then
          (s.scrWrite u (va % 2 ^ 32) bytes).scrWrite u (r.va % 2 ^ 32) prod
        else s
      else
        let w : SysWrite := { chain := ringChain u eq, dist := b.dist, domain := hDomain (s.launchHdr b),
                              vf := vfNum b.dist b.vf, va := va, data := bytes, clk := clk,
                              writer := if eq < 4 then 2 else 3, room := some (r.va, r.size, r.written) }
        (s.sendWrite w).sendWrite { w with va := r.va, data := prod, room := none }
    s.onBlock u fun b => { b with rings := listSet b.rings eq (some { r with written := r.written + 1 }) }

/-- Takes a block's work and shares off its core: its units, lanes, macros and reservations are free; the owners of the units
stay known (R126, R136, R171).  With `zero`, the units are zeroed (R163, R149). -/
def State.leaveCore (s : State) (u : Nat) (zero : Bool) : State :=
  let b := s.block u
  let units := b.scr ++ b.acc ++ b.reg
  let owner : UnitOwner := { vf := vfNum b.dist b.vf, domain := hDomain (s.launchHdr b) }
  let ids := ((s.core b.core).eqs.flatten.filter fun (e : Entry) => e.blk == u).map Entry.id ++
    ((s.core b.core).tileOps.filter fun o => o.blk == u).map TileOp.id
  let s := s.onCore b.core fun c =>
    { c with
      sram := if zero then units.foldl (fun m k => cellsZero (k * 2048) 2048 m) c.sram else c.sram
      owners := units.foldl (fun o k => Tbl.put k owner o) c.owners
      tiles := c.tiles.filter fun t => t.blk != u
      eqs := c.eqs.map fun q => q.filter fun (e : Entry) => e.blk != u
      eq7 := c.eq7.filter fun e => e.blk != u
      fences := c.fences.filter fun f => f.blk != u
      tileOps := c.tileOps.filter fun o => o.blk != u
      eq6 := c.eq6.filter fun o => o.blk != u
      latch := c.latch.filter fun l => l.blk != u }
  { s with
    parts := s.parts.filter fun p => match p.src with
      | .engine _ _ e => !ids.contains e
      | .tile _ o => !ids.contains o
      | .icache _ => p.issue != u
      | .sys v _ => v != u
      | _ => true
    plan := s.plan.filter fun p => match p with
      | .group v _ _ _ => v != u
      | .second v _ _ _ _ => v != u
      | _ => true }

/-- A block holds room on its core: it is there, or its image is being written or read (R136, R137). -/
def Block.seated (b : Block) : Bool := b.resident || b.saveJob.any SaveJob.seat

/-- A domain slot is free when the last block of its domain leaves the core (R184). -/
def State.freeSlot (s : State) (core dist dom : Nat) : State :=
  if s.blocks.any fun e => e.2.seated && e.2.core == core && e.2.dist == dist && hDomain (s.launchHdr e.2) == dom then s
  else s.onCore core fun c =>
    { c with slots := c.slots.map fun o => match o with
        | some d => if d.dist == dist && d.domain == dom then none else some d
        | none => none }

/-- Takes a block off its core for good. -/
def State.freeBlock (s : State) (u : Nat) (zero : Bool) : State :=
  let b := s.block u
  let dom := hDomain (s.launchHdr b)
  let s := s.leaveCore u zero
  -- a PREF or a MON on its way has no core or group to come back to
  ({ s with
     blocks := Tbl.del u s.blocks
     issues := s.issues.filter fun i => i.blk != u
     parts := s.parts.filter fun p => match p.src with
       | .strands v _ _ => v != u || !(p.kind == PartKind.pref || p.kind == PartKind.mon)
       | _ => true }).freeSlot b.core b.dist dom

/-- What a killed launch's entry reports: its own end if it has one, else that it was cancelled (R332). -/
def Entry.lastWord (e : Entry) (eq : Nat) : Option (List W8) :=
  if e.st == .ended then
    if e.posted || (!e.isRec && e.status == 0) then none
    else some (recordBytes e.tag e.status e.fcode eq e.done e.fva)
  else some (recordBytes e.tag 3 0 eq (min (4096 * e.cursor) e.len) 0)

/-- Writes the completion records of a block's cancelled entries (status 0x0003, R332), resident or saved (R145). -/
def State.cancelEntries (s : State) (u : Nat) : State :=
  let b := s.block u
  let mine (q : List Entry × Nat) : List (Nat × Entry) :=
    (q.1.filter fun (e : Entry) => e.blk == u && e.fetch.isNone).map fun e => (q.2, e)
  let es := (if b.resident then (s.core b.core).eqs.zipIdx.flatMap mine else []) ++
    b.saveEqs.filter fun (e : Nat × Entry) => e.2.fetch.isNone
  es.foldl (fun s qe => match qe.2.lastWord qe.1 with
    | some bs => s.writeRecord u qe.1 bs qe.2.clk
    | none => s) s

/-- Stops the blocks that pass a test: they issue no further pass (step 1 of Table 7 of R136). -/
def State.stopBlocks (s : State) (f : Block → Bool) : State :=
  { s with blocks := s.blocks.map fun e => if f e.2 then (e.1, { e.2 with stop := true }) else e }

/-- Kills a launch (R163, R149): its blocks stop, and once they have settled its end is what is kept here. -/
def State.killWith (s : State) (d lid status code trapa workid : Nat) : State :=
  (s.stopBlocks fun b => b.dist == d && b.lid == lid).onLaunch d lid fun l =>
    if l.kill.isSome then l else { l with kill := some (status, code, trapa, workid) }

def State.killLaunch (s : State) (d lid code trapa workid : Nat) : State := s.killWith d lid 0x0013 code trapa workid

/-- Whether the launch of a block is being killed. -/
def State.dying (s : State) (u : Nat) : Bool :=
  match s.launchOf (s.block u) with
  | some l => l.kill.isSome
  | none => false

/-! Traps (R158, R161 to R164) -/

/-- Parks strands of a group as fatal understudies with a code; the trap address is each strand's counter (R158, Table 5).  The
operands of a replay go: the instruction runs again from its registers (log entry 20). -/
def Group.park (x : Group) (ks : List Nat) (code arg : Nat) : Group :=
  x.onStrands ks fun t => if t.st == .active then { t with st := .fatal code arg t.pc, wait := .none, replay := none } else t

/-- The work identifier of a strand (R19, R119). -/
def workId (h : List W8) (ident g k : Nat) : Nat := ident + k + g * 2 ^ hFw h 0

/-- The lowest element of a list by a key. -/
def minBy (f : Nat → Nat) : List Nat → Option Nat
  | [] => none
  | a :: r =>
    match minBy f r with
    | some b => if f b < f a then some b else some a
    | none => some a

/-- The strands that the next trap entry takes: those at the lowest counter that recorded the code of the lowest-indexed of
them (R164). -/
def Group.trapSet (x : Group) : Option (Nat × Nat × Nat × List Nat) :=
  let fatal := x.all.filter fun k => match (x.strand k).st with
    | .fatal _ _ _ => true
    | _ => false
  match minBy (fun k => (x.strand k).pc) fatal with
  | none => none
  | some k0 =>
    let here := fatal.filter fun k => (x.strand k).pc == (x.strand k0).pc
    match here with
    | [] => none
    | k :: _ =>
      match (x.strand k).st with
      | .fatal c a va => some (c, a, va, here.filter fun j => (x.strand j).st == .fatal c a va)
      | _ => none

/-- Writes the trap registers and starts the handler (R161 steps 1 to 3, Table 5); the monitor set is emptied (R209). -/
def Group.enterTrap (x : Group) (code arg trapa trape : Nat) (ks : List Nat) : Group :=
  { x with
    trapc := BitVec.ofNat 32 (code + 256 * (arg % 256))
    trapm := BitVec.ofNat 64 (maskOf ks)
    trapa := BitVec.ofNat 64 trapa
    trapaEntry := BitVec.ofNat 64 trapa
    handler := some { pc := trape, hdr := trape, idx := 0 }
    monLines := [], woke := false, overF := false, wokeTs := 0 }

/-- Trap entry with a code, or the kill of the launch when it has no handler (R161, R163). -/
def State.trapWith (s : State) (u g code arg trapa : Nat) (ks : List Nat) : State :=
  let b := s.block u
  let h := s.launchHdr b
  let s := s.count b.dist (vfNum b.dist b.vf) 0x11 1
  if hTrapE h = 0 then s.killLaunch b.dist b.lid code trapa (workId h b.ident g (ks.headD 0))
  else s.onGrp u g fun x => x.enterTrap code arg trapa (hTrapE h) ks

/-- TAKING AN EXCEPTION: the one shared operation.  Enters the trap of the fatal understudies of a group, if it has any and
is not in its handler already (R161, R164); else the trap of an engine entry or a tile operation that has failed, with every
strand that is not exited (R301, R329), which a group without such a strand only counts.  The first path of a two-path pass leaves
it to the end of the pass. -/
def State.takeTrap (s : State) (u g : Nat) : State :=
  let x := s.grp u g
  if x.handler.isSome || s.dying u || s.focus.more then s
  else
    match x.trapSet with
    | some (code, arg, pc, ks) => s.trapWith u g code arg pc ks
    | none =>
      match x.pendTraps with
      | [] => s
      | (code, addr, _) :: r =>
        if x.living.isEmpty then
          (s.onGrp u g fun y => { y with pendTraps := [] }).countErr (s.block u).dist 5 x.pendTraps.length
        else (s.onGrp u g fun y => { y with pendTraps := r }).trapWith u g code 0 addr x.living

/-- A fault of a service thread (R443). -/
def State.threadFault (s : State) (q code : Nat) : State :=
  s.onSqueue q fun x => { x with tstate := 4, fcode := code, fpc := s.focus.pc }

/-- The present instruction traps: the whole path becomes fatal understudies and the trap is taken; a fault in the handler
kills the launch; a service thread stops (R158, R163, R443). -/
def State.trapPath (s : State) (code : Nat) : State :=
  match s.focus.kind with
  | .path u g ks => (s.onGrp u g fun x => x.park ks code 0).takeTrap u g
  | .handler u g =>
    let b := s.block u
    s.killLaunch b.dist b.lid code (s.grp u g).trapa.toNat
      (workId (s.launchHdr b) b.ident g ((strandsOf (s.grp u g).trapm.toNat (s.grp u g).width).headD 0))
  | .thread q => s.threadFault q code
  | .none => s

/-- A strand waits in an instruction that has taken effect and that another engine serves. -/
def Group.inSystem (x : Group) : Bool := x.strands.any fun t => !t.isExited && t.wait == .system

/-- An operation that the last strand of its path has left completes without it (R161): its place is kept. -/
def Group.leaves (x y : Group) : Group :=
  if y.busy == .system && !y.inSystem then
    match firstWith (fun k => (x.strand k).wait == .system) x.living with
    | some k => { y with kept := some ((x.strand k).pc, (x.strand k).hdr, (x.strand k).idx) }
    | none => y
  else y

/-- Ends the handler (R175): strands of trapm resume at their own counters, or at a trapa that the handler changed;
replayable understudies wait on. -/
def Group.endHandler (x : Group) : Group :=
  let before := x
  let ks := strandsOf x.trapm.toNat x.width
  let keep := x.trapa == x.trapaEntry
  let x := x.onStrands ks fun t =>
    match t.st with
    | .exited => t
    | .replay _ => t
    | _ =>
      let t := if keep then t else { t.goto x.trapa.toNat with wait := .none, replay := none }
      { t with st := .active, age := 0 }
  before.leaves { x with
    handler := none
    busy := if x.busy == .system || x.inSystem then x.busy else .none
    calls := x.calls.filter fun c => !c.handler
    -- replays whose fill came while the handler ran take effect now (R159)
    strands := x.strands.map fun t => if t.st == .replay true then { t with st := .active } else t }

end Sys2Proof.Machine
end

