-- ==== Sys2Proof/Machine/Operands.lean ====
section
/-! DEFINITION. Operand forms: constants, literals, registers and queues as sources and destinations (R54 to R58, R219, R220,
R254 to R260). -/

namespace Sys2Proof.Machine

/-! Queues (R254 to R259) -/

/-- Bytes of one element (R254). -/
def Queue.elemBytes (q : Queue) (w : Nat) : Nat :=
  match q.kind with
  | 1 => 4 * w
  | 2 => 4
  | _ => 8

def Block.queue (b : Block) (k : Nat) : Queue := b.queues.getD k {}
def Block.onQueue (b : Block) (k : Nat) (f : Queue → Queue) : Block := { b with queues := b.queues.modify k f }

/-- The width of a block's groups. -/
def Block.gwidth (b : Block) : Nat := (b.group 0).width

/-- SCR offset of element i of a queue (R254). -/
def Queue.slotOff (q : Queue) (w i : Nat) : Nat := q.base * 2048 + i * q.elemBytes w

/-- Takes the oldest element of a queue: its bytes and the time of its push (R256, R259). -/
def State.popQ (s : State) (u k : Nat) : State × List W8 × Nat :=
  let b := s.block u
  let q := b.queue k
  let w := b.gwidth
  let bytes := s.scrRead u (q.slotOff w q.head) (q.elemBytes w)
  (s.onBlock u fun b => b.onQueue k fun q =>
      { q with head := (q.head + 1) % q.depth, count := q.count - 1, times := q.times.drop 1 },
    bytes, q.times.headD 0)

/-- Reserves the element at TAIL (R256): its ticket. -/
def State.reserveQ (s : State) (u k : Nat) : State × Nat :=
  let q := (s.block u).queue k
  (s.onBlock u fun b => b.onQueue k fun q =>
      { q with tail := (q.tail + 1) % q.depth, resv := q.resv + 1, nextTicket := q.nextTicket + 1
               waiting := q.waiting ++ [{ ticket := q.nextTicket, time := none }] },
    q.nextTicket)

/-- Elements written at the front of the reserved ones become poppable (R257). -/
def settleQ : Nat → Queue → Queue
  | 0, q => q
  | n + 1, q =>
    match q.waiting with
    | e :: r =>
      match e.time with
      | some t => settleQ n { q with waiting := r, count := q.count + 1, resv := q.resv - 1, times := q.times ++ [t] }
      | none => q
    | [] => q

/-- The place of a ticket among the reserved elements. -/
def ticketPos (t : Nat) : List QElem → Nat
  | [] => 0
  | e :: r => if e.ticket = t then 0 else 1 + ticketPos t r

/-- Writes a reserved element; it takes a logical time of the path (R257, R259). -/
def State.fillQ (s : State) (u k ticket : Nat) (bytes : List W8) (time : Nat) : State :=
  let b := s.block u
  let q := b.queue k
  let w := b.gwidth
  let t := max time b.clk
  let i := (q.head + q.count + ticketPos ticket q.waiting) % q.depth
  let s := s.scrWrite u (q.slotOff w i) (bytes.take (q.elemBytes w))
  s.onBlock u fun b =>
    { b with clk := t }.onQueue k fun q =>
      settleQ q.waiting.length
        { q with waiting := updWhere (fun e => e.ticket == ticket) (fun e => { e with time := some t }) q.waiting }

/-- The largest tick of some strands: the path time of R259. -/
def Group.pathTime (x : Group) (ks : List Nat) : Nat := ks.foldl (fun a k => max a (x.strand k).tick) 0

/-- Raises the ticks of strands to a time. -/
def Group.raise (x : Group) (ks : List Nat) (t : Nat) : Group :=
  x.onStrands ks fun y => { y with tick := max y.tick t }

/-- A scratchpad access of a path takes a logical time that becomes the scratchpad clock and raises the strands
(R194, R259); `also` is a time that it must not precede. -/
def State.scrTime (s : State) (u g : Nat) (ks : List Nat) (also : Nat) : State × Nat :=
  let t := max (max ((s.grp u g).pathTime ks) (s.block u).clk) also
  ((s.onBlock u fun b => { b with clk := t }).onGrp u g fun x => x.raise ks t, t)

/-! Sources and destination of an instruction, in the order A, B, C, E (R57) -/

def srcs : Instr → List Opd
  | .wmov _ a _ | .wpopc _ a _ | .wws _ a _ | .obres a _ _ => [a]
  | .wadd _ a b _ | .wsub _ a b _ | .wmul _ a b _ | .wand _ a b _ | .wor _ a b _ | .wxor _ a b _ | .wshl _ a b _
  | .wshr _ a b _ | .wasr _ a b _ | .wmin _ a b _ | .wmax _ a b _ | .wcmp _ _ a b _ | .wsel _ a b _ => [a, b]
  | .mma _ _ c _ _ _ => [c]
  | .cpy _ _ b _ e _ _ _ | .rcpy _ _ b _ e _ _ _ | .cpym _ _ b _ e _ _ _ => [b, e]
  | .cpyt _ _ _ _ e _ _ _ | .gath _ _ _ _ e _ _ _ | .scat _ _ _ _ e _ _ _ => [e]
  | .xfmMove _ _ _ _ e _ _ _ _ | .xfmCvt _ _ _ _ e _ _ _ _ | .xfmMxq _ _ _ _ e _ _ _ _
  | .xfmMxdq _ _ _ _ e _ _ _ _ | .xfmBdxd _ _ _ _ e _ _ _ _ => [e]
  | .xfmBdxe _ _ b _ e _ _ _ _ | .xfmCrcg _ _ b _ e _ _ _ _ | .xfmCrcv _ _ b _ e _ _ _ _ => [b, e]
  | i =>
    match laneForm i with
    | some f => f.srcs.map Prod.snd
    | none => []

def dst : Instr → Opd
  | .wmov d _ _ | .wpopc d _ _ | .wrs d _ _ | .mstat d _ => d
  | .wadd d _ _ _ | .wsub d _ _ _ | .wmul d _ _ _ | .wand d _ _ _ | .wor d _ _ _ | .wxor d _ _ _ | .wshl d _ _ _
  | .wshr d _ _ _ | .wasr d _ _ _ | .wmin d _ _ _ | .wmax d _ _ _ | .wsel d _ _ _ => d
  | i =>
    match laneForm i with
    | some f => f.d
    | none => .zero

/-- The queues that source fields name, once per field. -/
def srcQueues (i : Instr) : List Nat :=
  (srcs i).filterMap fun o => match o with
    | .q n => some n.val
    | _ => none

def dstQueue (i : Instr) : Option Nat :=
  match dst i with
  | .q n => some n.val
  | _ => none

/-- The queues of a consumer mask in the destination. -/
def dstMask (i : Instr) : List Nat :=
  match dst i with
  | .mask x => setBits (maskQueues x) 16
  | _ => []

/-- The queue kinds that a class accepts as plain sources and destinations (Table 2 of R260). -/
def kindOk (cls kind : Nat) : Bool :=
  match cls with
  | 0 | 3 => kind == 1 || kind == 2
  | _ => kind == 2

/-- The stage ring that an engine's instruction releases at its end, from bits [5:0] of its MODE (R316). -/
def ringOf (lo : Nat) : Option Nat := if bitOf lo 1 then some (bits lo 5 2) else none
def relOf : Instr → Option Nat
  | .cpy _ _ _ _ _ _ m _ | .cpyt _ _ _ _ _ _ m _ | .cpym _ _ _ _ _ _ m _ | .gath _ _ _ _ _ _ m _
  | .scat _ _ _ _ _ _ m _ | .rcpy _ _ _ _ _ _ m _ => ringOf (bits m.toNat 5 0)
  | .xfmMove _ _ _ _ _ _ lo _ _ | .xfmCvt _ _ _ _ _ _ lo _ _ | .xfmMxq _ _ _ _ _ _ lo _ _ | .xfmMxdq _ _ _ _ _ _ lo _ _
  | .xfmBdxd _ _ _ _ _ _ lo _ _ | .xfmBdxe _ _ _ _ _ _ lo _ _ | .xfmCrcg _ _ _ _ _ _ lo _ _
  | .xfmCrcv _ _ _ _ _ _ lo _ _ => ringOf lo.toNat
  | _ => none

/-- A queue in a position that its kind forbids, or a ring to release that is none (R317): trap 0x0d (R260, R31, R274). -/
def queueFault (b : Block) (i : Instr) : Bool :=
  let c := classOf i
  (srcQueues i).any (fun k => !kindOk c (b.queue k).kind) ||
  (match dstQueue i with
    | some k => !kindOk c (b.queue k).kind
    | none => false) ||
  ((dstMask i).any fun k => !kindOk 0 (b.queue k).kind) ||
  (relOf i).any fun k => (b.queue k).kind != 3

/-- Room and elements for every plain queue operand (R256). -/
def queuesReady (b : Block) (i : Instr) : Bool :=
  let qs := srcQueues i
  qs.all (fun k => qs.count k ≤ (b.queue k).count) &&
  match dstQueue i with
  | some k => (b.queue k).count + (b.queue k).resv + 1 ≤ (b.queue k).depth
  | none => true

/-- What a source delivers beside registers: the element that its queue gave. -/
abbrev Elem := Option (Nat × List W8)

/-- Pops one element for each source that names a queue, in order; the path takes the time of R259. -/
def State.popSrcs (s : State) (u g : Nat) (ks : List Nat) : List Opd → State × List Elem
  | [] => (s, [])
  | o :: r =>
    match o with
    | .q n =>
      let kind := ((s.block u).queue n.val).kind
      let (s, bytes, t) := s.popQ u n.val
      let (s, _) := s.scrTime u g ks t
      let (s, es) := State.popSrcs s u g ks r
      (s, some (kind, bytes) :: es)
    | _ =>
      let (s, es) := State.popSrcs s u g ks r
      (s, none :: es)

/-- A pattern in every element of a packed register; whole for the wider formats (R58, R99). -/
def replicatePat (f : Fmt) (pat : Nat) : Nat :=
  if 32 ≤ f.width then pat
  else (List.range f.perWord).foldl (fun a k => a + pat * 2 ^ (k * f.storage)) 0

/-- A constant of an element format (R54, R58). -/
def constVal (f : Fmt) (neg : Bool) (m : Nat) (e : Int) : Nat := replicatePat f (f.ofSmall neg m e)

/-- A literal in an operand of a format (R58). -/
def litVal (f : Fmt) (x : W32) : Nat :=
  match f with
  | .i64 => wrapN x.toInt 64
  | .f64 => convert .f32 .f64 0 false x.toNat
  | _ => x.toNat

/-- The value of a lane source in a strand, as the pattern of its format's whole operand (R54, R58, R219). -/
def laneVal (x : Group) (f : Fmt) (o : Opd) (e : Elem) (k : Nat) : Nat :=
  let wide := f.width = 64
  match o with
  | .v n => if wide then wordsNat [x.getV n.val k, x.getV (n.val + 1) k] else (x.getV n.val k).toNat
  | .w n => if wide then wordsNat [x.getW n.val, x.getW (n.val + 1)] else (x.getW n.val).toNat
  | .q _ =>
    match e with
    | some (1, bytes) => fieldLe bytes (4 * k) 4
    | some (_, bytes) => fieldLe bytes 0 4
    | none => 0
  | .zero => 0
  | .one => constVal f false 1 0
  | .mone => constVal f true 1 0
  | .two => constVal f false 2 0
  | .half => constVal f false 1 (-1)
  | .strandIdx => replicatePat f (k % 2 ^ f.width)
  | .grpWidth => replicatePat f (x.width % 2 ^ f.width)
  | .lit y => litVal f y
  | .mask _ => 0
  | .bad _ => 0

/-- The value of a 128-bit source (R55, R231): signed constants and literals in the whole width. -/
def laneVal128 (x : Group) (o : Opd) (signExt : Bool) (k : Nat) : Nat :=
  match o with
  | .v n => wordsNat ((List.range 4).map fun j => x.getV (n.val + j) k)
  | .w n => wordsNat ((List.range 4).map fun j => x.getW (n.val + j))
  | .one => 1
  | .mone => 2 ^ 128 - 1
  | .two => 2
  | .strandIdx => k
  | .grpWidth => x.width
  | .lit y => if signExt then wrapN y.toInt 128 else y.toNat
  | _ => 0

/-- Uniform sources of the 6-bit and class 4 forms: a word (R178, R273). -/
def State.uniWord (s : State) (o : Opd) (e : Elem) : W32 :=
  match o with
  | .w n => s.readW n.val
  | .q _ =>
    match e with
    | some (_, bytes) => BitVec.ofNat 32 (fieldLe bytes 0 4)
    | none => 0
  | .one => 1
  | .mone => 0xffffffff#32
  | .two => 2
  | .lit x => x
  | _ => 0

/-- Uniform 64-bit sources: constants 0, 1 and -1, a literal sign- or zero-extended (R58, R181, R182). -/
def State.uniWord64 (s : State) (o : Opd) (signed : Bool) : Nat :=
  match o with
  | .w n => s.readW64 n.val
  | .one => 1
  | .mone => 2 ^ 64 - 1
  | .lit x => if signed then wrapN x.toInt 64 else x.toNat
  | _ => 0

/-- Writes a uniform result: a w register, a queue of kind uniform word, or nothing (R178). -/
def State.putUni (s : State) (d : Opd) (v : W32) : State :=
  match d with
  | .w n => s.putW n.val v
  | .q n =>
    match s.who with
    | some (u, g, _) =>
      let ks := s.pathStrands
      let (s, t) := s.reserveQ u n.val
      let s := s.fillQ u n.val t (leBytes 4 v.toNat) ((s.grp u g).pathTime ks)
      s.onGrp u g fun x => x.raise ks (s.block u).clk
    | none => s
  | _ => s

def State.putUni64 (s : State) (d : Opd) (v : Nat) : State :=
  match d with
  | .w n => s.putW64 n.val v
  | _ => s

end Sys2Proof.Machine
end

