-- ==== Sys2Proof/Machine/Flags.lean ====
section
/-! DEFINITION. Predicates and conditions: integer, float and uniform compares, combines, and what a branch tests
(R71, R168, R232, R235). -/

namespace Sys2Proof.Machine

/-- The integer conditions of Table 6 of R232 on exact values. -/
def intCond (c : Nat) (a b : Int) : Bool :=
  match c with
  | 0 => a == b
  | 1 => a != b
  | 2 => a < b
  | 3 => a ≤ b
  | 4 => b < a
  | _ => b ≤ a

/-- The combine of a compare (R232): 0 none, 1 and, 2 or, 3 xor. -/
def combine (k : Nat) (res p : Bool) : Bool :=
  match k with
  | 0 => res
  | 1 => res && p
  | 2 => res || p
  | _ => res != p

/-- The WCMP conditions of R71. -/
def wcmpCond (c : Nat) (x y : W32) : Bool :=
  match c with
  | 0 => x == y
  | 1 => x != y
  | 2 => x.toInt < y.toInt
  | 3 => y.toInt ≤ x.toInt
  | 4 => x.toNat < y.toNat
  | 5 => y.toNat ≤ x.toNat
  | 6 => x &&& y != 0
  | _ => x &&& y == 0

/-- The predicate truth table of PLOG (R235). -/
def plogBit (lut : Nat) (a b c : Bool) : Bool := lut.testBit (a.toNat * 4 + b.toNat * 2 + c.toNat)

/-- The result word of a compare with a register destination (R232). -/
def boolWord (b : Bool) : Nat := if b then 2 ^ 32 - 1 else 0

/-- The strands of a path that hold a predicate (R168). -/
def Group.holding (x : Group) (ks : List Nat) (p : Nat) : List Nat := ks.filter fun k => (x.strand k).getP p

/-- The strands that a handler's branch tests: the non-exited strands of trapm (R168). -/
def Group.trapStrands (x : Group) : List Nat :=
  (strandsOf x.trapm.toNat x.width).filter fun k => !(x.strand k).isExited

/-- PMOV's read of p0 to p7, with p0 true (R236). -/
def predWord (t : Strand) : Nat := (t.preds.toNat ||| 1) % 256

/-- PMOV's load of p1 to p7 from the low byte of a word (R236). -/
def predLoad (x : Nat) : List (Nat × Bool) := [1, 2, 3, 4, 5, 6, 7].map fun k => (k, x.testBit k)

end Sys2Proof.Machine
end

