-- ==== Sys2Proof/Machine/Home.lean ====
section
/-! DEFINITION. The home engine: the walk, logical time, the atomic unit, encryption, uncorrectable words, the park table,
monitors and watchpoints (R361 to R394), and the L2 slices in front of it (R489, R477). -/

namespace Sys2Proof.Machine

/-! Memory by controller -/

/-- A byte address of a controller: HBM stacks below 2^48, DDR channels above (log entry 7). -/
def physAddr (tier ctrl off : Nat) : Nat :=
  if tier = 0 then ctrl * 2 ^ 36 + off else 2 ^ 48 + ctrl * 2 ^ 38 + off

/-- The capacity of a controller in bytes (R1). -/
def ctrlBytes (tier : Nat) : Nat := if tier = 0 then 48 * 2 ^ 30 else 256 * 2 ^ 30
def ctrlCount (tier : Nat) : Nat := if tier = 0 then 16 else 12

/-- A mask of the uncorrectable 8-byte words among n words from a word-aligned address. -/
def State.badMask (s : State) (a n : Nat) : Nat :=
  maskOf ((List.range n).filter fun k => s.bad.contains (a / 8 + k))

def State.clearBad (s : State) (ws : List Nat) : State :=
  { s with bad := s.bad.filter fun w => !ws.contains w }

/-- A mask's words of eight bytes read as zeros. -/
def zeroWords (mask : Nat) (bs : List W8) : List W8 :=
  bs.zipIdx.map fun e => if mask.testBit (e.2 / 8) then 0 else e.1

/-- Words of eight bytes that the bytes [off, off + n) touch. -/
def touchMask (off n : Nat) : Nat :=
  if n = 0 then 0 else maskOf ((List.range ((off + n - 1) / 8 + 1)).filter fun k => off / 8 ≤ k)

/-- Words of eight bytes that the bytes [off, off + n) cover whole. -/
def coverMask (off n : Nat) : Nat := maskOf ((List.range 8).filter fun k => off ≤ 8 * k && 8 * k + 8 ≤ off + n)

/-! Districts of homes -/

/-- The on district that owns a home (R361). -/
def State.homeDistrict (s : State) (h : Nat) : Option Nat :=
  (firstWith (fun e => e.2.state != 0 &&
    (if h < 16 then e.2.hbmch.getLsbD h else e.2.ddrch.getLsbD (h - 16))) s.districts).map Prod.fst

/-- Whether a district owns a controller (R367). -/
def District.owns (d : District) (tier ctrl : Nat) : Bool :=
  if tier = 0 then d.hbmch.getLsbD ctrl else ctrl < 12 && d.ddrch.getLsbD ctrl

/-! The walk (R366, R367) -/

def pteType (e : Nat) : Nat := bits e 63 62
def pteM (e : Nat) : Bool := bitOf e 61
def pteFlag (e : Nat) : Bool := bitOf e 60
def pteFill (e : Nat) : Bool := bitOf e 59
def pteOwner (e : Nat) : Nat := bits e 57 46
def pteSlot (e : Nat) : Nat := bits e 45 34
def pteTier (e : Nat) : Nat := bits e 33 33
def pteCtrl (e : Nat) : Nat := bits e 32 29
def pteFrame (e : Nat) : Nat := bits e 25 0
/-- A page of host memory (R458). -/
def pteHost (e : Nat) : Bool := pteTier e = 1 && 14 ≤ pteCtrl e

inductive Walk where
  | absent (level entry : Nat)
  | fatal (level entry : Nat)
  /-- an uncorrectable table word -/
  | bad
  /-- the page entry, where it stands in memory, and the byte on its controller -/
  | page (entry addr off : Nat)
  deriving DecidableEq, Repr

/-- Whether an entry's frames lie on a controller that the district owns (R367). -/
def frameOk (d : District) (e frames : Nat) : Bool :=
  if pteHost e then pteType e = 2
  else d.owns (pteTier e) (pteCtrl e) && (pteFrame e + frames) * 4096 ≤ ctrlBytes (pteTier e)

/-- The index x(j) of the table at level j. -/
def walkIndex (va j : Nat) : Nat := bits va (47 - 9 * (j - 1)) (39 - 9 * (j - 1))

def walkFrom (s : State) (d : District) (va : Nat) : Nat → Nat → Nat → Walk
  | 0, j, _ => .fatal j 0
  | n + 1, j, addr =>
    let e := ofLe (cellsRead s.mem addr 8)
    if s.bad.contains (addr / 8) then .bad
    else if pteType e = 0 then .absent j e
    else if pteType e = 3 then .fatal j e
    else if bits e 28 26 ≠ 0 ∨ (pteType e = 1 ∧ bits e 61 34 ≠ 0) then .fatal j e
    else if pteType e = 2 then
      if j = 4 then if frameOk d e 1 then .page e addr (4096 * pteFrame e + bits va 11 0) else .fatal j e
      else if j = 3 ∧ pteFrame e % 512 = 0 then
        if frameOk d e 512 then .page e addr (4096 * pteFrame e + bits va 20 0) else .fatal j e
      else .fatal j e
    else if j = 4 ∨ !frameOk d e 1 then .fatal j e
    else walkFrom s d va n (j + 1) (physAddr (pteTier e) (pteCtrl e) (4096 * pteFrame e) + 8 * walkIndex va (j + 1))

/-- The walk of an address at a home of a district. -/
def State.walk (s : State) (h : Home) (d : District) (va : Nat) : Walk :=
  walkFrom s d va 6 0 (physAddr (bits h.kdir 33 33) (bits h.kdir 32 29) (4096 * bits h.kdir 25 0) + 8 * keyOf va)

/-! Lines -/

/-- The key pair of a slot, if it is loaded (R385). -/
def State.slotKey (s : State) (k : Nat) : Option (List W8) :=
  let x := Tbl.getD k s.dev.slots {}
  if x.loaded then some x.key else none

/-- Where the line of a page stands in memory. -/
def lineAddr (e off : Nat) : Nat := physAddr (pteTier e) (pteCtrl e) (off / 64 * 64)

/-- The plaintext of a line, with its uncorrectable words as zeros (R383, R385). -/
def State.plainLine (s : State) (key : List W8) (va addr : Nat) : List W8 :=
  zeroWords (s.badMask addr 8) (xtsDecrypt key va (cellsRead s.mem addr 64))

/-- Writes plaintext bytes at an offset of a line; the uncorrectable words that they touch are good afterwards. -/
def State.putPlain (s : State) (key : List W8) (va addr off : Nat) (bytes : List W8) : State :=
  let line := s.plainLine key va addr
  let new := line.take off ++ bytes ++ line.drop (off + bytes.length)
  let m := s.badMask addr 8 &&& touchMask off bytes.length
  { s with mem := cellsWrite addr (xtsEncrypt key va new) s.mem }.clearBad
    (((List.range 8).filter fun k => m.testBit k).map fun k => addr / 8 + k)

/-- The times of a line at its home (R376). -/
def Home.times (h : Home) (line : Nat) : LineTs := Tbl.getD line h.lines ⟨h.floor, h.floor⟩

/-- A read of a line (R377). -/
def State.stampRead (s : State) (h line pts lam : Nat) : State × LineTs :=
  let x := (s.home h).times line
  let t := max pts x.wts
  let y : LineTs := ⟨x.wts, max x.rts (tick64 (t + lam - 1))⟩
  (s.onHome h fun m => { m with lines := Tbl.put line y m.lines }, y)

/-- A write of a line (R378); a compare that fails leaves wts. -/
def State.stampWrite (s : State) (h line pts : Nat) (wrote : Bool) : State × Nat :=
  let x := (s.home h).times line
  let ts := tick64 (max (pts + 1) (x.rts + 1))
  (s.onHome h fun m => { m with lines := Tbl.put line ⟨if wrote then ts else x.wts, ts⟩ m.lines }, ts)

/-- Sets DIRTY in the page's entry (R368). -/
def State.setDirty (s : State) (e addr : Nat) : State :=
  let now := ofLe (cellsRead s.mem addr 8)
  if pteType now = 2 ∧ pteTier now = pteTier e ∧ pteCtrl now = pteCtrl e ∧ pteFrame now = pteFrame e then
    { s with mem := cellsWrite addr (leBytes 8 (now ||| 2 ^ 58)) s.mem }
  else s

/-! The atomic unit (R202, R382) -/

def atomFmt (ty : Nat) : Fmt :=
  match ty with
  | 0 => .n32 | 1 => .i32 | 2 => .n64 | 3 => .i64 | 4 => .f32 | 5 => .f64 | 8 => .bf16 | 9 => .f16 | _ => .n64

/-- Bytes of an atomic type; 8 and 9 are the bf16 and f16 of RCPY (R323). -/
def atomSize (ty : Nat) : Nat :=
  match ty with
  | 8 | 9 => 2
  | 0 | 1 | 4 => 4
  | 6 => 16
  | _ => 8

/-- The result of an atomic and whether it writes: `old` memory, `x` the operand, `cmp` the compare value. -/
def atomicOp (aop ty old x cmp : Nat) : Nat × Bool :=
  let n := 8 * atomSize ty
  let f := atomFmt ty
  let isF := ty = 4 || ty = 5 || 8 ≤ ty
  let sgn := ty = 1 || ty = 3
  let lt (a b : Nat) : Bool := if sgn then sext a n < sext b n else a < b
  match aop with
  | 0 => (if isF then f.round 0 false (Ex.add false (f.value old) (f.value x)) else (old + x) % 2 ^ n, true)
  | 1 => (if isF then f.round 0 false (Ex.pick false (f.value old) (f.value x)) else if lt x old then x else old, true)
  | 2 => (if isF then f.round 0 false (Ex.pick true (f.value old) (f.value x)) else if lt old x then x else old, true)
  | 3 => (old &&& x, true)
  | 4 => (old ||| x, true)
  | 5 => (old ^^^ x, true)
  | 6 => (x, true)
  | 7 => (if old = cmp then x else old, old = cmp)
  | 8 => (if x = 0 then (old + 1) % 2 ^ n else (old + 1) % x, true)
  | _ => (if x = 0 then (old + 2 ^ n - 1) % 2 ^ n else (((old : Int) + x - 1) % x).toNat, true)

/-- The device that a part comes from. -/
def Part.origin (p : Part) : Nat := match p.src with
  | .remote d _ => d
  | _ => p.dev

/-! What a write part writes -/

/-- Elements of a source combined into elements of a destination (R323). -/
def rcpyBytes (op ty : Nat) : Nat → List W8 → List W8 → List W8
  | 0, _, _ => []
  | n + 1, old, x =>
    let z := atomSize ty
    leBytes z (atomicOp op ty (ofLe (old.take z)) (ofLe (x.take z)) 0).1 ++ rcpyBytes op ty n (old.drop z) (x.drop z)

/-- Bytes under a mask of their bits (R36): an engine's write of a line may leave bytes, or the other half of one, as they are. -/
def mergeBytes (mask old new : List W8) : List W8 :=
  mask.zipIdx.map fun e => ((old.getD e.2 0) &&& ~~~ e.1) ||| ((new.getD e.2 0) &&& e.1)

/-- Whether a part is a combining write of RCPY; its operation is 16 below. -/
def Part.combines (p : Part) : Bool := p.kind == .pst && 16 ≤ p.aop

/-- The bytes that a write part leaves where it writes, from those that it finds. -/
def Part.newBytes (p : Part) (old : List W8) : List W8 :=
  if p.combines then rcpyBytes (p.aop - 16) p.ty (p.len / atomSize p.ty) old p.data
  else if p.kind == .pst && !p.cmp.isEmpty then mergeBytes p.cmp old p.data
  else p.data

/-- The bytes of its span that a write part writes. -/
def Part.mask (p : Part) : List W8 := if p.kind == .pst && !p.cmp.isEmpty then p.cmp else List.replicate p.len 0xff

/-- Words of eight bytes that a mask of bytes from an offset touches, or covers whole. -/
def maskTouch (off : Nat) (m : List W8) : Nat := m.zipIdx.foldl (fun a e => if e.1 = 0 then a else a ||| 2 ^ ((off + e.2) / 8)) 0
def maskCover (off : Nat) (m : List W8) : Nat :=
  maskOf ((List.range 8).filter fun k => (List.range 8).all fun j =>
    off ≤ 8 * k + j && m.getD (8 * k + j - off) 0 == 0xff)

/-- Bytes that a write part writes, for its report. -/
def Part.written (p : Part) : Nat := (p.mask.filter (· != 0)).length

/-! Monitors and watchpoints (R389, R392) -/

/-- Wakes one armed party with the time of the waking write. -/
def State.wakeArmed (s : State) (line ts : Nat) (a : Armed) : State :=
  match a with
  | .grp u g => s.onGrp u g fun x =>
      -- every path that sleeps is woken by the write (R211)
      let wake (t : Strand) : Strand := if t.wait == .sleep then { t with wait := .woken ts } else t
      if x.monLines.contains line then { x with woke := true, wokeTs := max x.wokeTs ts, strands := x.strands.map wake } else x
  | .thread q => s.onSqueue q fun x =>
      if x.thread.monLines.contains line then
        { x with thread := { x.thread with woke := true, wokeTs := max x.thread.wokeTs ts } }
      else x
  | .remote dev tag avd vf =>
    { s with outbox := s.outbox ++ [{ va := 64 * line, op := 0x1b, fpri := 6, avd := avd, src := s.dev.devnum, dst := dev,
                                       clk := ts, reqvf := vf, tag := tag, home := 31 }] }

/-- A write to a line wakes every party armed on it and frees the entry. -/
def State.wakeMonitors (s : State) (h line ts : Nat) : State :=
  let (on, off) := (s.home h).monitors.partition fun m => m.line == line
  on.foldl (fun s m => s.wakeArmed line ts m.who) (s.onHome h fun x => { x with monitors := off })

/-- The 32 bytes of a watch report, less LOST (Table 7). -/
def watchReport (w : WatchPt) (va ts writer dev n : Nat) (stopped : Bool) : List W8 :=
  leBytes 8 va ++ leBytes 8 ts ++
    leBytes 8 (w.index * 2 ^ 20 + writer * 2 ^ 16 + (if stopped then 2 ^ 12 else 0) + dev) ++ leBytes 8 n

/-- The part of a write that lies in a watchpoint's span: every line of the span is watched whole. -/
def WatchPt.covers (w : WatchPt) (line : Nat) : Bool := w.line ≤ line && line < w.line + w.lines

/-- Reports a write, or a refused one, to every watchpoint that covers its line. -/
def State.watchHits (s : State) (h : Nat) (p : Part) (ts : Nat) (stopped : Bool) : State :=
  (s.home h).watches.foldl (fun s w =>
    if w.covers (lineOf p.va) && w.ring != 0 && (!stopped || w.stop) then
      { s with reports := s.reports ++
          [(h, w.domain, w.index, watchReport w p.va (if stopped then 0 else ts) p.writer p.origin p.written stopped)] }
    else s) s

/-- A write of a strand: its store, its posted store, its atomic or its RED, by the writer code of Table 7. -/
def Part.byStrand (p : Part) : Bool := p.writer ≤ 1 || p.writer == 5

/-- Whether a strand's write meets a watchpoint with STOP (R393). -/
def State.stopped (s : State) (h : Nat) (p : Part) : Bool :=
  p.byStrand && (s.home h).watches.any fun w => w.stop && w.covers (lineOf p.va)

/-! Serving a part -/

inductive HAns where
  | reply (r : Reply)
  /-- the park table is full, or the line is delegated: the part is sent again -/
  | retry
  /-- the page maps a host frame: port (14 Hanos, 15 PCIe), byte on that port -/
  | host (port addr : Nat)
  /-- the line's authority is a plaza, which answers the requester (R417) -/
  | forward
  deriving DecidableEq, Repr

/-- A host part (R455, R457). -/
def Part.fromHost (p : Part) : Bool := match p.src with
  | .pcie .. => true
  | .hanos .. => true
  | _ => false

/-- The kind of a fault record (Table 4 of R371). -/
def faultKind (p : Part) : Nat :=
  let hostSrc := p.fromHost
  let eng := match p.src with
    | .engine .. => true
    | .tile .. => true
    | _ => p.writer = 2 || p.writer = 3 || p.writer = 4
  match p.kind with
  | .load | .pref | .fetch | .mon => if hostSrc then 6 else if eng then 4 else 0
  | .store => if hostSrc then 7 else if eng then 5 else 1
  | .atom | .red => if hostSrc then 8 else if eng then 5 else 2
  | .pst => if eng then 5 else 3

/-- The 32 bytes of a fault record (Table 4 of R371). -/
def faultRecord (p : Part) (h level entry : Nat) : List W8 :=
  leBytes 8 (p.va / 64 * 64) ++
    leBytes 8 (faultKind p * 2 ^ 60 + p.origin * 2 ^ 48 + p.vf * 2 ^ 36 + h * 8 + level) ++
    leBytes 8 entry ++ leBytes 8 0

/-- A part of this device has a negative reply (event 0x0d of R476). -/
def State.countParked (s : State) (p : Part) : State := s.count p.dist p.vf 0x0d 1

/-- A part meets a page that is absent, moving or being filled (R370). -/
def State.park (s : State) (h : Nat) (p : Part) (absent : Option (Nat × Nat)) : State × HAns :=
  let x := s.home h
  let page := p.va / 4096
  if p.kind == .pref then (if p.origin = s.dev.devnum then s.countParked p else s, .reply .negative)
  else if 16384 ≤ x.parked.length then (s, .retry)
  else
    let s := s.onHome h fun x => { x with parked := x.parked ++ [{ part := p.id, page := page }] }
    let s := if p.origin = s.dev.devnum then s.countParked p else s
    match absent with
    | some (level, entry) =>
      if x.fills.contains page then (s, .reply .negative)
      else
        let s := s.onHome h fun x => { x with fills := x.fills ++ [page], held := x.held ++ [(faultRecord p h level entry, p.vf)] }
        (match s.homeDistrict h with
          | some d => s.onDistrict d fun x => { x with faultHomes := x.faultHomes ++ [h] }
          | none => s, .reply .negative)
    | none => (s, .reply .negative)

/-- A table-window part (R369): raw bytes at a controller, no timestamp. -/
def State.windowPart (s : State) (p : Part) : State × HAns :=
  let tier := bits p.va 45 45
  let ctrl := bits p.va 44 41
  let off := bits p.va 40 0
  if bits p.va 47 46 ≠ 0 ∨ ctrlCount tier ≤ ctrl ∨ ctrlBytes tier < off + p.len then (s, .reply (.fatal 7))
  else
    let a := physAddr tier ctrl off
    let base := a / 64 * 64
    let badM := s.badMask base 8
    let line := zeroWords badM (cellsRead s.mem base 64)
    let put (s : State) (bytes : List W8) : State :=
      let o := a % 64
      let new := line.take o ++ bytes ++ line.drop (o + bytes.length)
      { s with mem := cellsWrite (base + o / 8 * 8) ((new.drop (o / 8 * 8)).take ((o % 8 + bytes.length + 7) / 8 * 8)) s.mem
               }.clearBad (((List.range 8).filter fun k => (badM &&& touchMask o bytes.length).testBit k).map fun k =>
          base / 8 + k)
    match p.kind with
    | .load | .fetch | .pref | .mon => (s, .reply (.accept line p.clk p.clk badM))
    | .store | .pst =>
      if p.kind == .pst && !p.rel then (s, .reply (.accept [] 0 0 0))
      else (put s (p.newBytes ((line.drop (a % 64)).take p.len)), .reply (.accept [] p.clk p.clk 0))
    | .atom | .red =>
      let old := (line.drop (a % 64)).take p.len
      let (r, w) := atomicOp p.aop p.ty (ofLe old) (ofLe p.data) (ofLe p.cmp)
      (if w then put s (leBytes p.len r) else s, .reply (.accept old p.clk p.clk 0))

/-- A part has met an uncorrectable word: it counts against the district that owns the page, and its address is logged (R196,
R383). -/
def State.countBad (s : State) (h : Nat) (p : Part) (d : Nat) : State :=
  (s.countErr d 0 1).onHome h fun x => { x with errLog := p.va :: x.errLog }

/-- POLICY [0] of the district that owns a page (R383). -/
def State.promotes (s : State) (owner : Nat) : Bool := (s.district (owner / 64)).policy.getLsbD 0

/-- The bytes of a write are performed on a present page of device memory: contents, time, monitors, watchpoints. -/
def State.performWrite (s : State) (h : Nat) (p : Part) (e addr off : Nat) (key : List W8) (bytes : List W8) :
    State × Nat :=
  let a := lineAddr e off
  let line := lineOf p.va
  let s := s.putPlain key p.va a (p.va % 64) bytes
  let s := s.setDirty e addr
  let (s, ts) := s.stampWrite h line p.clk true
  ((s.wakeMonitors h line ts).watchHits h p ts false, ts)

/-- A part at a page of device memory. -/
def State.servePage (s : State) (h : Nat) (p : Part) (e addr off : Nat) (key : List W8) : State × HAns :=
  let a := lineAddr e off
  let line := lineOf p.va
  let badM := s.badMask a 8
  let hit := badM &&& touchMask (p.va % 64) p.len
  let owner := pteOwner e
  let d := owner / 64
  match p.kind with
  | .load | .fetch | .pref =>
    let hit := if p.kind == .fetch then badM else hit
    if p.promo ∧ hit ≠ 0 ∧ s.promotes owner then (s.countBad h p d, .reply (.fatal 0x10))
    else
      let s := if hit ≠ 0 ∧ p.kind != .pref then s.countBad h p d else s
      let (s, x) := s.stampRead h line p.clk p.lam
      (s, .reply (.accept (s.plainLine key p.va a) x.wts x.rts badM))
  | .mon => (s, .reply (.accept [] ((s.home h).times line).wts 0 0))
  | .pst =>
    -- accepted and held; the write is performed at its release (R205)
    let part := badM &&& maskTouch (p.va % 64) p.mask &&& (badM ^^^ maskCover (p.va % 64) p.mask)
    if s.stopped h p then (s.watchHits h p 0 true, .reply (.fatal 0x0c))
    else if p.promo ∧ part ≠ 0 ∧ s.promotes owner then (s.countBad h p d, .reply (.fatal 0x10))
    else (s.onPart p.id fun q => { q with frame := some (e, addr, off) }, .reply (.accept [] 0 0 0))
  | .store =>
    let part := hit &&& (hit ^^^ coverMask (p.va % 64) p.len)
    if s.stopped h p then (s.watchHits h p 0 true, .reply (.fatal 0x0c))
    else if p.promo ∧ part ≠ 0 ∧ s.promotes owner then (s.countBad h p d, .reply (.fatal 0x10))
    else
      let s := if part ≠ 0 then s.countBad h p d else s
      let (s, ts) := s.performWrite h p e addr off key p.data
      (s, .reply (.accept [] ts ts 0))
  | .atom | .red =>
    let old := if hit ≠ 0 then 0 else ofLe (((s.plainLine key p.va a).drop (p.va % 64)).take p.len)
    let (r, wrote) := atomicOp p.aop p.ty old (ofLe p.data) (ofLe p.cmp)
    if wrote ∧ s.stopped h p then (s.watchHits h p 0 true, .reply (.fatal 0x0c))
    else if p.promo ∧ hit ≠ 0 ∧ s.promotes owner then (s.countBad h p d, .reply (.fatal 0x10))
    else
      let s := if hit ≠ 0 then s.countBad h p d else s
      if wrote then
        let (s, ts) := s.performWrite h { p with writer := if p.writer = 0 then 5 else p.writer } e addr off key
          (leBytes p.len r)
        (s, .reply (.accept (leBytes p.len old) ts ts 0))
      else
        let (s, ts) := s.stampWrite h line p.clk false
        (s, .reply (.accept (leBytes p.len old) ts ts 0))

/-- Whether KSLOT is the key slot of the VF that owns the page, where OWNER names a VF of an on district (R385). -/
def State.slotMatches (s : State) (e : Nat) : Bool :=
  let d := s.district (pteOwner e / 64)
  if d.state ≠ 0 ∧ pteOwner e % 64 < d.vfcount then
    (Tbl.getD (pteOwner e % 64) d.vfs {}).keyslot = pteSlot e
  else true

/-- Earlier posted writes of a class that have not been performed (R384, R460). -/
def State.classWrites (s : State) (tc bound : Nat) : Bool :=
  s.parts.any fun q => q.id < bound && q.kind == .store && match q.src with
    | .pcie _ c _ => c == tc
    | _ => false

/-- A host part that waits at its port: a read or an atomic behind its class's writes (R460), a Hanos write or atomic behind its
stream (R461). -/
def State.portHolds (s : State) (p : Part) : Bool :=
  match p.src with
  | .pcie _ tc _ => p.kind != .store && s.classWrites tc p.id
  | .hanos st _ => p.kind != .load && (s.dev.portQ.any (fun w => w.page == 8192 + st && w.bound ≤ p.id) || s.parts.any fun q =>
      q.id < p.id && match q.src with
      | .hanos c _ => c == st
      | _ => false)
  | _ => false

/-- A PCIe write to a page whose FLAG is 1 waits for the earlier writes of its class (R384, R460). -/
def State.flagHolds (s : State) (p : Part) (e : Nat) : Bool :=
  match p.src with
  | .pcie _ tc _ => p.kind == .store && pteFlag e && s.classWrites tc p.id
  | _ => false

/-- A PCIe write to a page whose FLAG is 1 comes after the earlier writes of its class. -/
def Part.placed (p : Part) (e : Nat) : Part := if pteFlag e then { p with clk := max p.clk p.above } else p

/-- Whether a watchpoint with STOP refuses a write to a host frame; the host performs an atomic, so that a CAS, which may fail, is
not refused (log entry 9). -/
def State.hostStopped (s : State) (p : Part) : Bool :=
  let writes := match p.kind with
    | .store | .pst => true
    | .atom | .red => p.aop != 7
    | _ => false
  writes && s.stopped p.home p

/-- A part at a page of a host's memory (R458): a posted write is held first, as on a page of the device. -/
def State.serveHost (s : State) (p : Part) (e addr off : Nat) : State × HAns :=
  let up := if pteCtrl e = 14 then s.dev.hanosUp else s.dev.pcieUp
  let atomic := p.kind == .atom || p.kind == .red || p.combines
  if !up ∨ pteCtrl e = 15 ∧ atomic then (s, .reply (.fatal 7))
  else if s.hostStopped p then (s.watchHits p.home p 0 true, .reply (.fatal 0x0c))
  else if p.kind == .pst then (s.onPart p.id fun q => { q with frame := some (e, addr, off) }, .reply (.accept [] 0 0 0))
  else (s.onPart p.id fun q => { q with frame := some (e, addr, off) }, .host (pteCtrl e) off)

/-- A part from the home's own device, or from one of its hosts, has touched a line (R416). -/
def State.touch (s : State) (h : Nat) (p : Part) : State :=
  if p.origin = s.dev.devnum then s.onHome h fun x => { x with touched := Tbl.put (lineOf p.va) s.cycle x.touched } else s

/-- A read of a plaza, which has lost a line that it holds (R419). -/
def Part.rereads (p : Part) : Bool :=
  p.vf == 0xfff && p.kind == .load && match p.src with
    | .remote .. => true
    | _ => false

/-- The home answers a plaza from its own copy of a delegated line; the times are the plaza's (R419). -/
def State.readCopy (s : State) (h : Nat) (p : Part) (e off : Nat) (key : List W8) : State × HAns :=
  let a := lineAddr e off
  let x := (s.home h).times (lineOf p.va)
  let badM := s.badMask a 8
  let s := if badM &&& touchMask (p.va % 64) p.len ≠ 0 then s.countBad h p (pteOwner e / 64) else s
  (s, .reply (.accept (s.plainLine key p.va a) x.wts x.rts badM))

/-- A part at its home (R361, R367, R370, R385, R416). -/
def State.serve (s : State) (h : Nat) (p : Part) : State × HAns :=
  if keyOf p.va = 0xfffd then s.windowPart p
  else if s.portHolds p then (s, .retry)
  else
    let m := s.home h
    match s.homeDistrict h with
    | none => (s, .reply (.fatal 7))
    | some hd =>
      if !m.enable then (s, .reply (.fatal 7))
      else if p.kind == .mon then
        -- arming follows virtual lines and never receives a negative reply (R210); a delegated line is called back (R418)
        let s := s.touch h p
        if (Tbl.find (lineOf p.va) m.deleg).isSome then (s.post (.recall h (lineOf p.va)), .retry)
        else (s, .reply (.accept [] (m.times (lineOf p.va)).wts 0 0))
      else
        match s.walk m (s.district hd) p.va with
        | .absent level entry => s.park h p (some (level, entry))
        | .fatal _ _ => (s, .reply (.fatal 7))
        | .bad => (s.countErr hd 0 1, .reply (.fatal 7))
        | .page e addr off =>
          if pteM e then s.park h p none
          else if pteFill e ∧ !(p.priv && p.dist = hd && p.origin = s.dev.devnum) then s.park h p none
          else if s.flagHolds p e then (s, .retry)
          else if pteHost e then s.serveHost (p.placed e) e addr off
          else
            match s.slotKey (pteSlot e) with
            | none => (s, .reply (.fatal 7))
            | some key =>
              if !s.slotMatches e then (s, .reply (.fatal 7))
              else if (Tbl.find (lineOf p.va) m.deleg).isSome then
                -- a host part calls the line back first (R418)
                if p.fromHost then (s.post (.recall h (lineOf p.va)), .retry)
                else if p.rereads then s.readCopy h p e off key
                else (s.touch h p, .forward)
              else (s.touch h p).servePage h (p.placed e) e addr off key

/-- The home performs a posted write at its release, in the page under which it was accepted (R205, R325): its time. -/
def State.performPst (s : State) (p : Part) : State × Nat :=
  match p.frame with
  | none => if keyOf p.va = 0xfffd then ((s.windowPart { p with rel := true }).1, p.clk) else (s, p.clk)
  | some (e, addr, off) =>
    match s.slotKey (pteSlot e) with
    | none => (s, p.clk)
    | some key =>
      let a := lineAddr e off
      let hit := s.badMask a 8 &&& maskTouch (p.va % 64) p.mask
      let part := if p.combines then hit else hit &&& (hit ^^^ maskCover (p.va % 64) p.mask)
      let s := if part ≠ 0 then s.countBad p.home p (pteOwner e / 64) else s
      let old := ((s.plainLine key p.va a).drop (p.va % 64)).take p.len
      (s.touch p.home p).performWrite p.home p e addr off key (p.newBytes old)

/-! L2 slices (R489) -/

def l2Set (va : Nat) : Nat := bits va 16 6

/-- A copy serves a load placed at max(clk, wts) while its rts and its age allow (R188, R381). -/
def CacheLine.serves (c : CacheLine) (clk lam cycle : Nat) : Bool :=
  max clk c.wts ≤ c.rts && cycle < c.grant + 16 * lam

/-- The newest copies come first; a set keeps `ways` of them, kept lines last to go (R187, R189). -/
def trimSet (set ways : Nat) (same : Nat → Nat) (ls : List CacheLine) : List CacheLine :=
  let mine := ls.filter fun c => same c.line = set
  if mine.length ≤ ways then ls
  else
    -- a kept line goes only when every way holds one: the newcomer takes the place of the oldest of them (R189)
    let old := mine.drop 1
    let victim := match (old.filter fun c => !c.kept).getLast? with
      | some c => some c.line
      | none => old.getLast?.map CacheLine.line
    match victim with
    | some v => ls.filter fun c => c.line != v
    | none => ls

def State.slice (s : State) (cl : Nat) : List CacheLine := Tbl.getD cl s.l2 []
def State.setL2 (s : State) (cl : Nat) (ls : List CacheLine) : State := { s with l2 := Tbl.put cl ls s.l2 }

def State.l2Find (s : State) (cl va : Nat) : Option CacheLine := firstWith (fun c => c.line == lineOf va) (s.slice cl)

/-- A line enters a slice, or its copy takes new data and times (R489, R477). -/
def State.l2Fill (s : State) (cl va : Nat) (data : List W8) (wts rts owner grant : Nat) : State :=
  let rest := (s.slice cl).filter fun c => c.line != lineOf va
  let line : CacheLine := { line := lineOf va, data := data, wts := wts, rts := rts, grant := grant, owner := owner }
  s.setL2 cl (trimSet (l2Set va) 16 (fun l => l % 2048) (line :: rest))

/-- A copy is renewed: it takes the lease of a reply that names its own wts (R377, R477). -/
def State.l2Renew (s : State) (cl : Nat) (c : CacheLine) (rts grant : Nat) : State :=
  s.setL2 cl ({ c with rts := max c.rts rts, grant := grant } :: (s.slice cl).filter fun y => y.line != c.line)

/-- A store part updates the slice's copy, an atomic removes it (R489).  A copy that a store has updated serves no read and is not
renewed: the next read brings the line's data (log entry 110). -/
def State.l2Store (s : State) (cl va : Nat) (bytes : List W8) (ts : Nat) : State :=
  s.setL2 cl (updWhere (fun c => c.line == lineOf va)
    (fun c => { c with data := c.data.take (va % 64) ++ bytes ++ c.data.drop (va % 64 + bytes.length)
                       wts := ts, rts := ts, stored := true }) (s.slice cl))
/-- As l2Store, for a posted or an engine's write; a combining write removes the copy, as an atomic does. -/
def State.l2Posted (s : State) (cl : Nat) (p : Part) (ts : Nat) : State :=
  if p.combines then s.setL2 cl ((s.slice cl).filter fun c => c.line != lineOf p.va)
  else
    match s.l2Find cl p.va with
    | some c => s.l2Store cl p.va (p.newBytes ((c.data.drop (p.va % 64)).take p.len)) ts
    | none => s
def State.l2Drop (s : State) (cl va : Nat) : State := s.setL2 cl ((s.slice cl).filter fun c => c.line != lineOf va)

/-! L1 caches (R187 to R190) -/

def State.l1Find (s : State) (c va : Nat) : Option CacheLine := firstWith (fun x => x.line == lineOf va) (s.core c).l1

/-- A hit makes a line the most recent; the access's hint may mark it kept (R189). -/
def State.l1Touch (s : State) (c va hint : Nat) : State :=
  s.onCore c fun k =>
    match firstWith (fun x => x.line == lineOf va) k.l1 with
    | some x => { k with l1 := { x with kept := x.kept || hint = 2 } :: k.l1.filter fun y => y.line != lineOf va }
    | none => k

/-- An access fills the L1, or does not (hint 3); a streamed line enters as least recent. -/
def State.l1Fill (s : State) (c va hint : Nat) (data : List W8) (wts rts grant : Nat) : State :=
  if hint = 3 then s
  else s.onCore c fun k =>
    let rest := k.l1.filter fun x => x.line != lineOf va
    let was := match firstWith (fun x => x.line == lineOf va) k.l1 with
      | some x => x.kept
      | none => false
    let line : CacheLine := { line := lineOf va, data := data, wts := wts, rts := rts, grant := grant,
                              kept := was || hint = 2 }
    -- room is made before a streamed line enters behind the others
    let ls := trimSet (lineOf va % 512) 10 (fun l => l % 512) (line :: rest)
    let ls := if hint = 1 then (ls.filter fun x => x.line != line.line) ++ [line] else ls
    { k with l1 := ls }

/-- An accepted store updates an L1 copy, which its hint may mark kept; an accepted atomic removes it (R189). -/
def State.l1Store (s : State) (c va hint : Nat) (bytes : List W8) (ts : Nat) : State :=
  let upd (x : CacheLine) : CacheLine :=
    { x with data := x.data.take (va % 64) ++ bytes ++ x.data.drop (va % 64 + bytes.length), wts := ts, rts := ts,
             kept := x.kept || hint = 2 }
  s.onCore c fun k => { k with l1 := updWhere (fun x => x.line == lineOf va) upd k.l1 }
def State.l1Drop (s : State) (c va : Nat) : State :=
  s.onCore c fun k => { k with l1 := k.l1.filter fun x => x.line != lineOf va }

/-! The park table empties -/

/-- Wakes every part parked on the pages that a test names, in park order, and closes their records (R372). -/
def State.wakePages (s : State) (h : Nat) (cover : Nat → Bool) : State :=
  let (go, stay) := (s.home h).parked.partition fun k => cover k.page
  let s := s.onHome h fun x => { x with parked := stay, fills := x.fills.filter fun g => !cover g }
  go.foldl (fun s k =>
    match s.part k.part with
    | some p =>
      if p.st == .parked then s.onPart k.part fun q => { q with st := .woken, due := s.cycle + 1 + Config.latency s.cycle }
      else s.onPart k.part fun q => { q with early := true }
    | none => s) s

end Sys2Proof.Machine
end

