-- ==== Sys2Proof/Machine/TileSet.lean ====
section
/-! DEFINITION. Formats, tiles, slices, extents and conflicts of tile operations (R279 to R282, R287, R288, R295, R297). -/

namespace Sys2Proof.Machine

/-! Formats (Table 2 of R279, R308) -/

def matFmt (f : Nat) : Fmt := [.e4m3, .e5m2, .e2m3, .e3m2, .e2m1, .bf16, .f16].getD f .e4m3
def matCode (f : Nat) : Nat := [0x0c, 0x0d, 0x0e, 0x0f, 0x10, 0x09, 0x08].getD f 0
def drnFmt (f : Nat) : Fmt := [.f32, .bf16, .e4m3, .e5m2, .e2m3, .e3m2, .e2m1].getD f .f32
def drnCode (f : Nat) : Nat := [0x0a, 0x09, 0x0c, 0x0d, 0x0e, 0x0f, 0x10].getD f 0

/-- Formats of A and B that one MMA may have (R280). -/
def fmtPair (a b : Nat) : Bool := (a ≤ 4 && b ≤ 4) || a == b

/-- Columns of one macro (R280). -/
def macroCols (f : Nat) : Nat := if f = 4 then 256 else if f = 6 then 64 else 128

/-! Gangs (R292) -/

def gangMask (w : W32) : Nat := bits w.toNat 14 9
def gangBase (w : W32) : Nat := bits w.toNat 8 0
def gangMembers (w : W32) : List Nat := (setBits (gangMask w) 6).map fun i => gangBase w + i

/-! Tiles -/

def Tile.macros (t : Tile) : List Nat := (List.range (t.kc * t.nc)).map (t.first + ·)
def Tile.cols (t : Tile) : Nat := macroCols t.fmt * t.nc
def Tile.depth (t : Tile) : Nat := 64 * t.kc
/-- A tile that uses the side plane (R282). -/
def Tile.sided (t : Tile) : Bool := t.fmt == 5 || t.mx

/-- A block's tile whose first macro is m (R298). -/
def CoreSt.tileAt (c : CoreSt) (blk m : Nat) : Option Tile := firstWith (fun t => t.blk == blk && t.first == m) c.tiles

/-- SIDE(m) of R282 for an ACC share of some bytes. -/
def sideOff (acc m : Nat) : Nat := acc - 131072 + 8192 * m

/-- Bytes of an accumulator tile, and where tile t begins (R287). -/
def accTile : Nat := 24576
def Block.accTiles (b : Block) : Nat := b.accBytes / accTile

/-- Accumulator tile t overlaps the side-plane part of macro m. -/
def onSide (acc t m : Nat) : Bool := accTile * t < sideOff acc m + 8192 && sideOff acc m < accTile * (t + 1)

/-- Some tiles, given by first and number, overlap a side-plane part that a tile of the block uses (R282, R298). -/
def CoreSt.sideHit (c : CoreSt) (blk acc : Nat) (ext : List (Nat × Nat)) : Bool :=
  c.tiles.any fun t => t.blk == blk && t.sided && t.macros.any fun m =>
    ext.any fun e => (List.range e.2).any fun k => onSide acc (e.1 + k) m

/-! Operations -/

def TileOp.isMbld (o : TileOp) : Bool := match o.instr with
  | .mbld .. => true
  | _ => false
def TileOp.isMma (o : TileOp) : Bool := match o.instr with
  | .mma .. => true
  | _ => false
def TileOp.isMdrn (o : TileOp) : Bool := match o.instr with
  | .mdrn .. => true
  | _ => false
def TileOp.mode (o : TileOp) : Nat := match o.instr with
  | .mbld _ _ m _ _ => m.toNat
  | .mma _ _ _ m _ _ => m.toNat
  | .mdrn _ _ _ _ m _ _ => m.toNat
  | _ => 0
def TileOp.fmt (o : TileOp) : Nat := bits o.mode 2 0
def TileOp.mx (o : TileOp) : Bool := bitOf o.mode 3
/-- The reservation that it names (R306, R307). -/
def TileOp.resv (o : TileOp) : Option Nat := if o.isMdrn then none else some (bits o.mode 6 4)
/-- The first macro: IMM of MBLD, MODE of MMA. -/
def TileOp.first (o : TileOp) : Nat := match o.instr with
  | .mbld _ _ _ imm _ => imm.toNat
  | _ => bits o.mode 10 7
def TileOp.kc (o : TileOp) : Nat := 2 ^ bits o.mode 8 7
def TileOp.nc (o : TileOp) : Nat := 2 ^ bits o.mode 10 9
/-- What an MBLD loads. -/
def TileOp.loads (o : TileOp) : Tile :=
  { first := o.first, kc := o.kc, nc := o.nc, fmt := o.fmt, mx := o.mx, elems := [], blk := o.blk }

/-- Tile operations of a core that have not completed: those that have reached the engine, then those of eq6. -/
def CoreSt.allOps (c : CoreSt) : List TileOp := c.tileOps ++ c.eq6

/-- Whether a group issued a tile operation. -/
def TileOp.has (o : TileOp) (g : Nat) : Bool := o.members.any fun m => m.grp == g

/-- The tile that an MMA multiplies by, as far as it is known: that of the newest earlier MBLD of its block that names its first
macro and has not completed, else the loaded one (R291, R297, DEDUCED). -/
def CoreSt.tileFor (c : CoreSt) (o : TileOp) : Option Tile :=
  let lds := c.allOps.filter fun p => p.isMbld && p.blk == o.blk && p.id < o.id && p.loads.macros.contains o.first
  match lds.getLast? with
  | some p => some p.loads
  | none => c.tileAt o.blk o.first

/-- Columns of the whole tile when none is known (R291). -/
def widest (a : Nat) : Nat := 4 * macroCols a

/-- Slice of a member by its rank among g members: first column and width (R288, R295). -/
def sliceOf (n g rank : Nat) : Nat × Nat :=
  if g ≤ 1 then (0, n)
  else
    let u := n / 32
    let width (i : Nat) : Nat := u / g + (if i < u % g then 1 else 0)
    (32 * (List.range rank).foldl (fun a i => a + width i) 0, 32 * width rank)

/-- Accumulator tiles of an MMA: the first and their number (R288). -/
def extentFrom (t rows width : Nat) : Nat × Nat := (t, ceilDiv rows 16 * ceilDiv width 128)

/-- Members of an MMA with their slices of n columns; members stand in increasing group index. -/
def TileOp.slices (o : TileOp) (n : Nat) : List (TileMember × Nat × Nat) :=
  o.members.zipIdx.map fun m => (m.1, sliceOf n o.members.length m.2)

/-- The accumulator tiles that an operation names. -/
def CoreSt.extent (c : CoreSt) (o : TileOp) : List (Nat × Nat) :=
  if o.isMbld then []
  else if o.isMdrn then o.members.map fun m => (m.tile, 1)
  else
    let n := match c.tileFor o with
      | some t => t.cols
      | none => widest o.fmt
    (o.slices n).map fun m => extentFrom m.1.tile o.rows m.2.2

/-- Whether it writes its accumulator tiles. -/
def TileOp.writesAcc (o : TileOp) : Bool := o.isMma || (o.isMdrn && bitOf o.mode 7)

/-- The macros that it names or reads. -/
def CoreSt.macrosOf (c : CoreSt) (o : TileOp) : List Nat :=
  if o.isMbld then o.loads.macros
  else if o.isMma then
    match c.tileFor o with
    | some t => t.macros
    | none => [o.first]
  else []

def extentsMeet (a b : List (Nat × Nat)) : Bool := a.any fun x => b.any fun y => x.1 < y.1 + y.2 && y.1 < x.1 + x.2

/-- Two operations of one block conflict (R297). -/
def CoreSt.conflict (c : CoreSt) (o p : TileOp) : Bool :=
  o.blk == p.blk &&
  (((o.isMbld || p.isMbld) && (c.macrosOf o).any (c.macrosOf p).contains) ||
   ((o.writesAcc || p.writesAcc) && extentsMeet (c.extent o) (c.extent p)))

/-- An operation of a block, numbered below a bound, conflicts with an access to accumulator tile t (R309). -/
def CoreSt.tileBusy (c : CoreSt) (blk t upto : Nat) (writes : Bool) : Bool :=
  c.allOps.any fun o => o.blk == blk && o.id < upto && (writes || o.writesAcc) && extentsMeet (c.extent o) [(t, 1)]

end Sys2Proof.Machine
end

