-- ==== Sys2Proof/Machine/Issue.lean ====
section
/-! DEFINITION. What surrounds the meaning of an encoded instruction: checks at decode and at execution, the guard, readiness,
queue pops, the move past the instruction, and what a pass leaves to settle (R53, R69, R132, R157, R162, R170, R171, R442). -/

namespace Sys2Proof.Machine

/-- The uniform predicate that guards an instruction; none where a per-strand predicate does, or where BP selects (R61, R180). -/
def bpOf : Instr → Option Pr
  | .nop p | .bra p _ _ | .brc p _ _ | .brd p _ _ | .brx _ p | .call p _ | .ret p | .rjoin p | .exit p | .wait _ _ _ _ p
  | .yield p | .trap _ p | .loop p _ _ | .cue _ p | .wmov _ _ p | .wli _ _ _ p | .wadd _ _ _ p | .wsub _ _ _ p
  | .wmul _ _ _ p | .wand _ _ _ p | .wor _ _ _ p | .wxor _ _ _ p | .wshl _ _ _ p | .wshr _ _ _ p | .wasr _ _ _ p
  | .wmin _ _ _ p | .wmax _ _ _ p | .wcmp _ _ _ _ p | .wadd64 _ _ _ p | .wrs _ _ p | .wws _ _ p | .wpopc _ _ p
  | .qpeek _ _ p | .qcnt _ _ p | .qdrop _ _ p | .binit _ _ p | .barr _ p | .barx _ _ p | .brmt _ p | .bwait _ _ p
  | .btest _ _ _ p | .gsync p | .sacq _ _ p | .srel _ p | .gang _ p | .obres _ _ p | .obrel _ p | .mbld _ _ _ _ p
  | .mma _ _ _ _ _ p | .mzero _ p | .mdrn _ _ _ _ _ _ p | .mstat _ p | .mldacc _ _ _ p | .msvacc _ _ _ p | .mcancel _ p
  | .cpy _ _ _ _ _ _ _ p | .cpyt _ _ _ _ _ _ _ p | .cpym _ _ _ _ _ _ _ p | .gath _ _ _ _ _ _ _ p
  | .scat _ _ _ _ _ _ _ p | .rcpy _ _ _ _ _ _ _ p | .crng _ _ _ p | .xfmMove _ _ _ _ _ _ _ _ p
  | .xfmCvt _ _ _ _ _ _ _ _ p | .xfmMxq _ _ _ _ _ _ _ _ p | .xfmMxdq _ _ _ _ _ _ _ _ p | .xfmBdxd _ _ _ _ _ _ _ _ p
  | .xfmBdxe _ _ _ _ _ _ _ _ p | .xfmCrcg _ _ _ _ _ _ _ _ p | .xfmCrcv _ _ _ _ _ _ _ _ p | .qfence _ p | .drainScr p
  | .drainL1 p | .drainMem p | .trig p | .svc _ _ _ p | .cntr _ _ p | .cntc _ _ _ p | .pkw _ _ _ p | .dtw _ _ _ p
  | .hinv _ _ _ p | .watch _ _ p | .spwtWait _ _ p | .spwtSubmit _ _ p | .spwtReply _ _ p | .spwtKill _ _ p
  | .ctxs _ _ _ p | .ctxr _ _ p | .halt p => some p
  | _ => none

/-- The per-strand guard of an instruction; p0 where it has none. -/
def predOf : Instr → Pr
  | .ld _ _ _ _ p _ _ _ | .st _ _ _ _ p _ _ | .lds _ _ _ _ p _ _ | .sts _ _ _ _ p _ | .ldw _ _ _ p _ _ _
  | .stw _ _ _ p _ _ _ | .atom _ _ _ _ p _ _ _ _ | .atoms _ _ _ _ p _ _ _ | .red _ _ _ p _ _ _ _ | .pst _ _ _ p _ _
  | .pref _ _ p _ _ | .fenceP p | .fenceH p | .fenceA p | .mon _ _ p _ | .sleep p => p
  | i =>
    match laneForm i with
    | some f => if h : f.guard < 8 then ⟨f.guard, h⟩ else 0
    | none => 0

/-- The strands that a predicate covers (R198, R245); the handler has none of its own. -/
def State.covered (s : State) (p : Pr) : List Nat :=
  match s.focus.kind with
  | .path u g ks => (s.grp u g).holding ks p.val
  | _ => []

/-- The strands that an instruction's queue operations and register reads act for: the covered ones in classes 0, 2 and 3, else the
path (R218, R259). -/
def State.coverOf (s : State) (i : Instr) : List Nat :=
  if (laneForm i).isSome || classOf i == 2 then s.covered (predOf i) else s.pathStrands

/-- Whether an instruction that executes once for its path executes (R198, R208): the handler tests the strands of trapm as its
branches do (R168, DEDUCED), a service thread has no predicates. -/
def State.anyCovered (s : State) (p : Pr) : Bool :=
  match s.focus.kind with
  | .path u g ks => !((s.grp u g).holding ks p.val).isEmpty
  | .handler u g => p = 0 || !((s.grp u g).holding (s.grp u g).trapStrands p.val).isEmpty
  | _ => p = 0

/-- The wait that a path is in: none where a strand of it has yet to issue the instruction (R151). -/
def Group.waitOf (x : Group) : List Nat → Wait
  | [] => .none
  | k :: r => if r.all fun j => (x.strand j).wait == (x.strand k).wait then (x.strand k).wait else .none

/-- The wait that the focus is in; an operation that goes on without its path is in its own. -/
def State.pathWait (s : State) : Wait :=
  match s.focus.kind with
  | .path u g ks => if s.focus.kept then .system else (s.grp u g).waitOf ks
  | _ => .none

/-- A guard that excludes the whole path (R69); an instruction that its path waits in has passed it. -/
def guardOff (i : Instr) (s : State) : Bool :=
  s.pathWait == .none && match bpOf i with
  | some p => !s.readB p.val
  | none => !s.anyCovered (predOf i)

/-! Checks at decode (R53, R162, R442) -/

/-- What the handler may issue (R162). -/
def handlerMay (i : Instr) : Bool :=
  match i with
  | .xget .. | .xput .. | .ldw .. | .stw .. | .fenceP .. | .fenceH .. | .fenceA .. => true
  | i => classOf i == 1 || classOf i == 7

/-- What a service thread may issue (R442). -/
def threadMay (i : Instr) : Bool :=
  match i with
  | .trap .. | .rett | .cue .. | .rjoin .. => false
  | .ldw .. | .stw .. | .fenceP .. | .fenceH .. | .fenceA .. | .mon .. | .sleep .. => true
  | .spwtWait .. | .spwtSubmit .. | .spwtReply .. | .spwtKill .. | .halt .. | .watch .. | .cntr .. | .cntc .. => true
  | .pkw .. | .dtw .. | .hinv .. => true
  | i => classOf i == 1

/-- Instructions of launch privilege, and of a service thread (Table 20 of R79). -/
def needsPriv : Instr → Bool
  | .pkw .. | .dtw .. | .hinv .. => true
  | _ => false
def threadOnly : Instr → Bool
  | .spwtWait .. | .spwtSubmit .. | .spwtReply .. | .spwtKill .. | .halt .. => true
  | _ => false

/-- The trap that an instruction raises at decode where it stands, in the order of Table 2 of R53. -/
def decodeTrap (i : Instr) (s : State) : Option Nat :=
  if isTransfer i && s.focus.idx + s.focus.len ≤ s.focus.n then some 0x03
  else
    match s.focus.kind with
    | .path u _ _ =>
      let b := s.block u
      let h := s.launchHdr b
      match ill i with
      | some c => some c
      | none =>
        if illDyn (hVregs h) b.gwidth (fun k => (b.queue k).kind == 2) i then some 0x02
        else if (needsPriv i && !hPriv h) || threadOnly i then some 0x0f
        else none
    | .handler u _ =>
      let b := s.block u
      let h := s.launchHdr b
      match ill i with
      | some c => some c
      | none =>
        if illDyn (hVregs h) b.gwidth (fun k => (b.queue k).kind == 2) i then some 0x02
        else if (needsPriv i && !hPriv h) || threadOnly i then some 0x0f
        else none
    | .thread q =>
      if !threadMay i then some 0x01
      else
        match ill i with
        | some c => some c
        | none =>
          -- a thread has no v registers
          if (vOpds i).any fun o => 0 < vTop o then some 0x02
          else if needsPriv i && !(s.squeue q).priv then some 0x0f else none
    | .none => none

/-- What the handler's own instruction raises because the handler may not issue it (R162): the spec gives the fault no code, so
the report carries a free value. -/
def handlerFault (i : Instr) (s : State) : Bool :=
  match s.focus.kind with
  | .handler .. => !handlerMay i
  | _ => false

/-! Checks at execution -/

/-- Whether every non-exited strand of a group stands with the path and none is parked (R157). -/
def Group.converged (x : Group) (ks : List Nat) : Bool :=
  !x.anyParked && match ks with
    | [] => false
    | k :: _ => x.living.all fun j =>
        (x.strand j).pc == (x.strand k).pc && (x.strand j).wait == .none

/-- The convergent instructions (R157). -/
def convergent (i : Instr) (x : Group) : Bool :=
  match i with
  | .poll .. | .ballot .. | .pick .. | .bcast .. | .redX .. | .scan .. | .matchX .. | .rots .. => true
  | .mbld .. | .mma .. | .mdrn .. => gangMask x.gang != 0
  | _ => false

/-- The trap that an instruction raises at issue whatever its operands' values: convergence, XGET and XPUT outside the handler,
a queue of the wrong kind (R157, R251, R219, R178, R260, R31). -/
def execTrap (i : Instr) (s : State) : Option Nat :=
  match s.focus.kind with
  | .path u g ks =>
    let x := s.grp u g
    match i with
    | .xget .. => some 0x05
    | .xput .. => some 0x05
    | .rett => some 0x05
    | i =>
      if convergent i x && !x.converged ks then some 0x05
      else if queueFault (s.block u) i then some 0x0d
      else none
  | .handler u _ => if queueFault (s.block u) i then some 0x0d else none
  | .thread _ => if !(srcQueues i).isEmpty || (dstQueue i).isSome then some 0x0d else none
  | .none => none

/-! Readiness (R132) -/

/-- The v registers of an operand of so many words. -/
def opdRegs (o : Opd) (words : Nat) : List Nat :=
  match o with
  | .v n => (List.range words).map (n.val + ·)
  | _ => []

/-- The v registers that an instruction reads. -/
def vReads (i : Instr) : List Nat :=
  match laneForm i with
  | some f => (if f.rmw then opdRegs f.d (f.bits / 32) else []) ++ f.srcs.flatMap fun e => opdRegs e.2 (e.1.width / 32)
  | none =>
    match i with
    | .ld _ _ b x _ _ _ _ => opdRegs b 2 ++ opdRegs x 1
    | .lds _ _ b x _ _ _ => opdRegs b 1 ++ opdRegs x 1
    | .st k d b x _ _ _ => opdRegs d (ceilDiv (2 ^ k.val) 4) ++ opdRegs b 2 ++ opdRegs x 1
    | .sts k d b x _ _ => opdRegs d (ceilDiv (2 ^ k.val) 4) ++ opdRegs b 1 ++ opdRegs x 1
    | .atom d b x c _ ty aop _ _ =>
      let n := if ty = 6 then 4 else if ty = 0 ∨ ty = 1 ∨ ty = 4 then 1 else 2
      opdRegs c n ++ (if aop = 7 then opdRegs d n else []) ++ opdRegs b 2 ++ opdRegs x 1
    | .atoms d b x c _ ty aop _ =>
      let n := if ty = 6 then 4 else if ty = 0 ∨ ty = 1 ∨ ty = 4 then 1 else 2
      opdRegs c n ++ (if aop = 7 then opdRegs d n else []) ++ opdRegs b 1 ++ opdRegs x 1
    | .red d b x _ ty _ _ _ => opdRegs d (if ty = 0 ∨ ty = 1 ∨ ty = 4 then 1 else 2) ++ opdRegs b 2 ++ opdRegs x 1
    | .pst d b x _ ty _ => opdRegs d (if ty.toNat = 3 then 2 else if ty.toNat = 4 then 4 else 1) ++ opdRegs b 2 ++ opdRegs x 1
    | .pref b x _ _ _ | .mon b x _ _ => opdRegs b 2 ++ opdRegs x 1
    | _ => []

/-- The v registers that an instruction outside classes 0 and 3 writes. -/
def vDests (i : Instr) : List Nat :=
  match i with
  | .ld k d _ _ _ _ _ _ | .lds k d _ _ _ _ _ => opdRegs d (ceilDiv (2 ^ k.val) 4)
  | .atom d _ _ _ _ ty _ _ _ | .atoms d _ _ _ _ ty _ _ => opdRegs d (if ty = 6 then 4 else if ty = 0 ∨ ty = 1 ∨ ty = 4 then 1 else 2)
  | .qpeek d _ _ | .qcnt d _ _ | .sacq d _ _ => opdRegs d 1
  | _ => []

/-- Registers and predicates that an instruction reads or writes, against those that await a write-back (R221). -/
def LaneForm.regs (f : LaneForm) : List Nat :=
  ((f.d, f.bits) :: f.srcs.map fun e => (e.2, e.1.width)).flatMap fun e =>
    match e.1 with
    | .v n => (List.range (e.2 / 32)).map (n.val + ·)
    | .mask x => if maskReg x < 64 then [maskReg x] else []
    | _ => []

/-- The form of a class 0 or class 3 instruction in a group: BALLOT and MATCH write a pair in a group of 64 strands (R245). -/
def Group.form (x : Group) (i : Instr) : Option LaneForm :=
  (laneForm i).map fun f => if (wideMask i).isSome && x.width == 64 then { f with bits := 64 } else f

def Group.awaits (x : Group) (f : LaneForm) : Bool :=
  x.pendWb.any fun b =>
    b.vWrites.any (fun e => f.regs.contains e.1) ||
    b.pWrites.any fun e => (f.target :: f.guard :: f.preds).contains e.1

/-- Predicates that an instruction outside classes 0 and 3 reads or writes per strand. -/
def predUse : Instr → List Nat
  | .bra _ p _ | .brc _ p _ | .brd _ p _ => [p.val]
  | i => if classOf i == 2 then [(predOf i).val] else []

/-- An instruction would read or write a register or a predicate that awaits a write-back (R221).  R221 does not speak of w registers:
here nothing of the group issues while one of them awaits the write-back of R273 (DESIGN CHOICE, log entry 14). -/
def Group.holdsBack (x : Group) (i : Instr) : Bool :=
  (x.pendWb.any fun w => !w.wWrites.isEmpty) ||
  match x.form i with
  | some f => x.awaits f
  | none =>
    ((predUse i).any fun p => x.pendWb.any fun w => w.pWrites.any fun e => e.1 == p) ||
    (vReads i ++ vDests i).any fun r => x.pendWb.any fun w => w.vWrites.any fun e => e.1 == r

/-- Parts of a strand, or of the handler, that have had no reply (R192). -/
def State.unreplied (s : State) (u g : Nat) (ks : List Nat) : Bool :=
  s.parts.any fun p => p.kind != .pref && p.kind != .fetch && match p.src with
    | .strands v h js => v == u && h == g && (if ks.isEmpty then js.isEmpty else js.any ks.contains) &&
        (match p.st with
          | .sent | .atHost | .replied _ => true
          | .woken => ks.isEmpty
          | .parked => ks.isEmpty
          | _ => false)
    | _ => false

/-- The counters of R22 that the issue of an instruction raises. -/
def counterOf : Instr → Option Nat
  | .ld .. | .lds .. | .ldw .. | .atom .. | .atoms .. => some 0
  | .st .. | .sts .. | .stw .. | .red .. | .pst .. => some 1
  | .cpy .. | .cpyt .. | .cpym .. | .gath .. | .scat .. | .rcpy .. | .xfmMove .. | .xfmCvt .. | .xfmMxq .. | .xfmMxdq ..
  | .xfmBdxd .. | .xfmBdxe .. | .xfmCrcg .. | .xfmCrcv .. => some 2
  | .mbld .. | .mma .. | .mdrn .. => some 3
  | _ => none

/-- Wait limits against counters (R25, R172). -/
def waitOk (x : Group) (wl ws wc wt : Nat) : Bool :=
  (wl = 7 || x.ld ≤ wl) && (ws = 7 || x.st ≤ ws) && (wc = 7 || x.cp ≤ wc) && (wt = 7 || x.tl ≤ wt)

/-- A group's counters less the accesses that its other paths alone have in flight (R172); its handler has no other path beside it. -/
def State.countersOf (s : State) (u g : Nat) (ks : List Nat) : Group :=
  let x := s.grp u g
  let other (p : Part) : Bool := match p.src with
    | .strands _ _ js => !js.isEmpty && js.all fun k => !ks.contains k
    | _ => false
  let others (c : Nat) : Nat := (s.issues.filter fun e => e.blk == u && e.grp == g && e.ctr == c &&
    s.parts.all fun p => !e.left.contains p.id || other p).length
  if ks.isEmpty then x else { x with ld := x.ld - others 0, st := x.st - others 1 }

/-- Entries in an engine queue of a core (R27); a fence takes no place (R335). -/
def CoreSt.eqCount (c : CoreSt) (k : Nat) : Nat :=
  match k with
  | 6 => c.eq6.length
  | 7 => c.eq7.length
  | k => (c.eqs.getD k []).length

/-- The engine queue that an instruction enters, where it names one. -/
def eqOf : Instr → Option Nat
  | .pst .. => some 7
  | .cpy _ _ _ _ _ e _ _ | .cpyt _ _ _ _ _ e _ _ | .cpym _ _ _ _ _ e _ _ | .gath _ _ _ _ _ e _ _
  | .scat _ _ _ _ _ e _ _ | .rcpy _ _ _ _ _ e _ _ => some e.toNat
  | .xfmMove _ _ _ _ _ e _ _ _ | .xfmCvt _ _ _ _ _ e _ _ _ | .xfmMxq _ _ _ _ _ e _ _ _ | .xfmMxdq _ _ _ _ _ e _ _ _
  | .xfmBdxd _ _ _ _ _ e _ _ _ | .xfmBdxe _ _ _ _ _ e _ _ _ | .xfmCrcg _ _ _ _ _ e _ _ _
  | .xfmCrcv _ _ _ _ _ e _ _ _ => some e.toNat
  | _ => none

/-- Whether an entry writes the scratchpad; `dst` holds an address of what it writes. -/
def Entry.toScr (e : Entry) : Bool := keyOf e.dst == 0xfffe
/-- Whether an entry writes nothing. -/
def Entry.reads (e : Entry) : Bool :=
  match e.instr with
  | .xfmCrcv .. => true
  | _ => false

/-- Whether an entry's writes are of a DRAIN's path: 0 .scr, 1 .l1, 2 .mem (R336). -/
def Entry.into (e : Entry) (path : Nat) : Bool :=
  match path with
  | 0 => e.toScr
  | 1 => !e.toScr && !e.reads
  | 2 => true
  | _ => false

/-- The path of a DRAIN; that of CRNG has no writes. -/
def drainPath : Instr → Nat
  | .drainScr _ => 0
  | .drainL1 _ => 1
  | .drainMem _ => 2
  | _ => 3

/-- The entries that stand in the queues of a core, of which a DRAIN or a CRNG waits for some (R330, R336), by number; fetches are no
entries of a program. -/
def State.drainIds (s : State) (u : Nat) (i : Instr) : List Nat :=
  let c := s.core (s.block u).core
  let es : List Entry := match i with
    | .crng _ k _ _ => (c.eqs.getD k.toNat []).filter fun e => e.blk == u
    | _ => c.eqs.flatten
  (es.filter fun e => e.fetch.isNone).map Entry.id

/-- The entries of some numbers, wherever they are: those that went with a block from its core among them (R136, R137). -/
def State.entriesIn (s : State) (ids : List Nat) : List Entry :=
  ((s.cores.flatMap fun k => k.2.eqs.flatten) ++ s.blocks.flatMap fun b => b.2.saveEqs.map Prod.snd).filter fun e => ids.contains e.id

/-- What a DRAIN, or a CRNG, still waits for among the entries of some numbers (R330, R336). -/
def State.drainHolds (s : State) (ids : List Nat) (i : Instr) : Bool :=
  match i with
  | .crng .. | .drainMem _ => !(s.entriesIn ids).isEmpty
  | _ => (s.entriesIn ids).any fun e => e.st != .ended && e.into (drainPath i)

def eqDepth (k : Nat) : Nat := if k = 6 then 8 else if k = 7 then 64 else 16

/-- Ordinary accesses of a path numbered below a bound that have not been performed (R299, R324, R335): those of strands that
became understudies are no longer the path's. -/
def State.pathAccesses (s : State) (u g : Nat) (ks : List Nat) (upto : Nat) : Bool :=
  s.parts.any fun p => p.issue < upto &&
    (p.kind == .load || p.kind == .store || p.kind == .atom || p.kind == .red) && match p.src with
    | .strands v h js => v == u && h == g && (if ks.isEmpty then js.isEmpty else js.any ks.contains) && (match p.st with
        | .parked | .woken => ks.isEmpty
        | _ => true)
    | _ => false

/-- Places in the queues, in order of entry: what a restore has put back stands behind what was there (R137). -/
def Entry.spot (e : Entry) : Nat := max e.id e.back
def Fence.spot (f : Fence) : Nat := max f.id f.back
def TileOp.spot (o : TileOp) : Nat := max o.id o.place

/-- The numbers of all that has not ended in the engine queues of every core, or is saved with a block: what a block has taken with it
may stand on another core now (R137). -/
def State.workIds (s : State) : List Nat :=
  (s.cores.flatMap fun k => k.2.eqs.flatten.map Entry.id ++ k.2.eq7.map PstEntry.id ++ k.2.allOps.map TileOp.id) ++
    s.blocks.flatMap fun b => b.2.saveEqs.map (fun e => e.2.id) ++ b.2.saveOps.map TileOp.id

/-- Whether a fence still holds what is behind it (R335): work ahead of it that has not ended, be it in its queue or saved with its
block, or an ordinary access that its group issued before it (R46). -/
def State.fenceOpen (s : State) (f : Fence) : Bool :=
  !(f.ahead.any s.workIds.contains) && !s.pathAccesses f.blk f.grp f.ks f.id

/-- Whether a fence holds an operation of a queue, 0 to 7, by its number and its place: none that stood ahead of it, wherever a restore
has put it. -/
def State.fencedOff (s : State) (c k id spot : Nat) : Bool :=
  (s.core c).fences.any fun f => bitOf f.mask k && f.spot < spot && !f.ahead.contains id && !s.fenceOpen f

/-- What stands in the queues of a mask. -/
def CoreSt.aheadOf (k : CoreSt) (m : Nat) : List Nat :=
  ((setBits m 6).flatMap fun q => (k.eqs.getD q []).map Entry.id) ++
    (if bitOf m 6 then k.allOps.map TileOp.id else []) ++ (if bitOf m 7 then k.eq7.map PstEntry.id else [])

/-- Work numbered `id` has written at a time: the fences that wait for it know, and so does the next entry of its queue. -/
def State.sawWork (s : State) (core eq id t : Nat) : State :=
  let see (f : Fence) : Fence := if f.ahead.contains id then { f with clk := max f.clk t } else f
  let s := { s with cores := s.cores.map fun (k : Nat × CoreSt) => (k.1, { k.2 with fences := k.2.fences.map see })
                    blocks := s.blocks.map fun (b : Nat × Block) => (b.1, { b.2 with saveFences := b.2.saveFences.map see }) }
  s.onCore core fun c => { c with floors := c.floors.modify eq (max t) }

/-- Fences that no longer hold anything go; what they waited for comes before the next entries of their queues (R335). -/
def State.settleFences (s : State) (core : Nat) : State :=
  let (gone, stay) := (s.core core).fences.partition fun f => s.fenceOpen f
  let raiseBy (l : List Nat) (f : Fence) : List Nat :=
    let t := max f.clk ((s.grp f.blk f.grp).pathTime f.ks)
    l.zipIdx.map fun e => if bitOf f.mask e.2 then max e.1 t else e.1
  if gone.isEmpty then s
  else s.onCore core fun c => { c with fences := stay, floors := gone.foldl raiseBy c.floors }

/-- Whether an operation of a group numbered below a bound is still unperformed (R208): 0 posted stores, 1 all accesses and
entries, 2 writes to host frames besides. -/
def State.fenceHolds (s : State) (u g upto : Nat) (pstOnly : Bool) : Bool :=
  (s.issues.any fun e => e.blk == u && e.grp == g && e.id < upto && (e.pst || !pstOnly)) ||
  (!pstOnly && (
    ((s.core (s.block u).core).eqs.any fun q => q.any fun e => e.blk == u && e.grp == g && e.id < upto && e.fetch.isNone) ||
    ((s.core (s.block u).core).allOps.any fun o => o.blk == u && o.has g && o.id < upto) ||
    (List.range 6).any fun k => s.writes.any fun w => w.chain == ringChain u k))

/-- A w register or a literal as a class 4 operand (R273). -/
def Group.uniOpd (x : Group) (o : Opd) : W32 :=
  match o with
  | .w n => x.getW n.val
  | .one => 1
  | .mone => 0xffffffff#32
  | .two => 2
  | .lit y => y
  | _ => 0

/-! Ring slots and barrier objects (R33, R262 to R264, R266) -/

/-- Lap phase of a ring position (R262). -/
def Queue.lap (q : Queue) (x : Nat) : Bool := x < q.depth

/-- Released slots that are not acquired (R262). -/
def Queue.released (q : Queue) : Nat := (q.tail + 2 * q.depth - q.head) % (2 * q.depth)

/-- A release has room (R263, R265). -/
def Queue.hasRoom (q : Queue) : Bool := q.released + q.resv < q.depth

/-- The slot of a ring position is full (R264). -/
def State.slotFull (s : State) (u k x : Nat) : Bool :=
  let q := (s.block u).queue k
  bitOf (ofLe (s.scrRead u (q.base * 2048 + x % q.depth * 8) 8)) 32 == q.lap x

/-- QPEEK's wait (R272). -/
def State.peekReady (s : State) (u k : Nat) : Bool :=
  let q := (s.block u).queue k
  match q.kind with
  | 1 | 2 => 1 ≤ q.count
  | 3 => s.slotFull u k q.head
  | _ => true

/-- A barrier object (Table 6 of R33); XBYTES as its 32 bits. -/
structure Barrier where
  expected : Nat
  pending : Nat
  xbytes : Nat
  phase : Bool
  deriving DecidableEq, Repr

def State.barrier (s : State) (u off : Nat) : Barrier :=
  let x := ofLe (s.scrRead u off 16)
  { expected := bits x 15 0, pending := bits x 31 16, xbytes := bits x 63 32, phase := bitOf x 64 }

/-- The checks of R266. -/
def Block.barFault (b : Block) (off : Nat) : Option Nat :=
  if off % 16 ≠ 0 then some 0x08 else if b.scrBytes < off + 16 then some 0x06 else none

/-- Whether every part of a source has its answer. -/
def State.answeredBy (s : State) (src : PartSrc) : Bool :=
  s.parts.all fun p => p.src != src || match p.st with
    | .replied (.accept ..) => true
    | .replied (.fatal _) => true
    | _ => false

/-- The source of the requests that one path's system instruction makes while the group's other paths go on. -/
def State.pathSys (_ : State) (u g : Nat) (ks : List Nat) : PartSrc := .sys u (g + 2 ^ 20 * (ks.headD 0 + 1))

/-- An answer has come for an instruction of a group that waits inside itself. -/
def State.sysAnswered (s : State) (u g : Nat) : Bool :=
  s.parts.any fun p => match p.src, p.st with
    | .sys v h, .replied _ => v == u && h % 2 ^ 16 == g
    | _, _ => false

/-- A stopped block's group issues nothing, but to take the answers of an instruction that has begun (R136). -/
def State.frozen (s : State) (u g : Nat) : Bool := (s.block u).stop && (s.dying u || !s.sysAnswered u g)

/-- Units of 4,096 bytes of the operand buffer that a core has left (R289). -/
def State.bufferLeft (s : State) (c : Nat) : Nat :=
  64 - s.blocks.foldl (fun a e => if e.2.core = c ∧ e.2.seated then
    a + e.2.obres.foldl (fun a o => a + o.getD 0) 0 else a) 0

/-- The value that a class 5 or class 6 source has, or would pop. -/
def State.peekOpd (s : State) (u : Nat) (o : Opd) : W32 :=
  match o with
  | .q k =>
    let b := s.block u
    BitVec.ofNat 32 (ofLe (s.scrRead u ((b.queue k.val).slotOff b.gwidth (b.queue k.val).head) 4))
  | o => s.uniWord o none

/-- OBRES waits for room, unless it traps (R312). -/
def State.obresReady (s : State) (u : Nat) (a : Opd) (r : Nat) : Bool :=
  let n := (s.peekOpd u a).toNat
  n = 0 || 262144 < n || ((s.block u).obres.getD r none).isSome || ceilDiv n 4096 ≤ s.bufferLeft (s.block u).core

/-- An operation of a block that has not completed names a reservation, held at the latch or not (R312). -/
def CoreSt.resvBusy (c : CoreSt) (u r : Nat) : Bool :=
  (c.allOps.any fun o => o.blk == u && o.resv == some r) ||
    c.latch.any fun l => l.blk == u && ({ id := 0, instr := l.instr, blk := u, members := [] } : TileOp).resv == some r

/-- A cancelled operation of a group numbered below a bound has not stopped (R311). -/
def CoreSt.cancelling (c : CoreSt) (u g upto : Nat) : Bool :=
  c.allOps.any fun o => o.blk == u && o.has g && o.id < upto && o.cancel

/-- The newest write that the limits of a WAIT or of a header join: those of counters that must be zero (R46, R299). -/
def Group.joinTime (x : Group) (ws wc wt : Nat) : Nat :=
  [(ws, 1), (wc, 2), (wt, 3)].foldl (fun a e => if e.1 = 0 then max a (x.ctrTs.getD e.2 0) else a) 0

/-- A completed operation that a counter counted has written at a time. -/
def Group.sawCtr (x : Group) (k ts : Nat) : Group := { x with ctrTs := x.ctrTs.modify k (max ts) }

/-- The newest write of the operations of a group that have been performed, or of its posted stores (R208). -/
def Group.newest (x : Group) (pst : Bool) : Nat := if pst then x.pstTs else x.ctrTs.foldl max 0

/-- Whether an instruction of a path may issue now: queues, pending write-backs, counters, engine queues, and the waits of the
instructions that wait (R132, R192, R221, R256, R263, R264, R270 to R272, R208, R211, R336). -/
def ready (i : Instr) (s : State) : Bool :=
  match s.focus.kind with
  | .path u g ks =>
    let b := s.block u
    let x := s.grp u g
    let c := s.core b.core
    (s.focus.second || !x.holdsBack i) &&
    queuesReady b i &&
    (x.maskProg.isNone || (dstMask i).isEmpty) &&
    (match counterOf i with
      | some k => x.ctr k < 63
      | none => true) &&
    (match eqOf i with
      | some k => c.eqCount k < eqDepth k
      | none => true) &&
    (match i with
      | .wait wl ws wc wt _ => waitOk (s.countersOf u g ks) wl.toNat ws.toNat wc.toNat wt.toNat
      | .cntr .. => x.pendWb.isEmpty
      | .st .. | .stw .. | .atom .. | .red .. | .pst .. | .mon .. | .lds .. | .sts .. | .atoms .. => !s.unreplied u g ks
      | .fenceP _ => match s.pathWait with
        | .fence n _ _ => !s.fenceHolds u g n true
        | _ => true
      | .fenceH _ | .fenceA _ => match s.pathWait with
        | .fence n _ _ => !s.fenceHolds u g n false
        | _ => true
      | .sleep _ => match s.pathWait with
        | .sleep => x.woke || x.monLines.isEmpty
        | _ => true
      | .qpeek _ (.q n) _ => s.peekReady u n.val
      | .sacq _ (.q n) _ => (b.queue n.val).kind != 3 || s.slotFull u n.val (b.queue n.val).head
      | .srel (.q n) _ => (b.queue n.val).kind != 3 || (b.queue n.val).hasRoom
      | .bwait .. => match s.pathWait with
        | .bwait off k => (s.barrier u off).phase != k
        | _ => true
      | .brmt _ _ => match s.pathWait with
        | .brmt _ _ => false
        | _ => true
      | .gsync _ => match s.pathWait with
        | .gsync _ => false
        | _ => true
      | .rjoin _ => match s.pathWait with
        | .rjoin _ => false
        | _ => true
      | .crng .. | .drainScr _ | .drainL1 _ | .drainMem _ => match s.pathWait with
        | .drain ids _ => !s.drainHolds ids i && s.answeredBy (s.pathSys u g ks)
        | _ => true
      | .obres a imm _ => s.obresReady u a (imm.toNat % 8)
      | .mzero t _ | .mldacc _ _ t _ => s.pathWait != .system || !c.tileBusy u t.toNat x.upto true
      | .msvacc _ _ t _ => s.pathWait != .system || !c.tileBusy u t.toNat x.upto false
      | .obrel r _ => s.pathWait != .system || !c.resvBusy u (r.toNat % 8)
      | .mcancel _ _ => s.pathWait != .system || !c.cancelling u g x.upto
      | .trig _ | .svc .. | .pkw .. | .dtw .. | .ctxs .. | .ctxr .. => !s.pathAccesses u g ks s.nextId
      | .hinv .. => !s.pathAccesses u g ks s.nextId && !s.fenceHolds u g s.nextId true
      | i =>
        match relOf i with
        | some k => (b.queue k).kind != 3 || (b.queue k).hasRoom
        | none => true)
  | .handler u g =>
    let x := s.grp u g
    !x.holdsBack i &&
    (match counterOf i with
      | some k => x.ctr k < 63
      | none => true) &&
    (match i with
      | .wait wl ws wc wt _ => waitOk x wl.toNat ws.toNat wc.toNat wt.toNat
      | .cntr .. => x.pendWb.isEmpty
      | .ldw .. | .stw .. => !s.unreplied u g []
      | .fenceP _ => !s.fenceHolds u g s.nextId true
      | .fenceH _ | .fenceA _ => !s.fenceHolds u g s.nextId false
      | .trig _ | .svc .. | .pkw .. | .dtw .. | .hinv .. | .ctxs .. | .ctxr .. => !s.pathAccesses u g [] s.nextId
      | _ => queuesReady (s.block u) i)
  | .thread _ => true
  | .none => false

/-! What a pass leaves to settle -/

/-- A wait at an RJOIN, or at a GSYNC. -/
def Wait.isJoin : Wait → Bool
  | .rjoin _ => true
  | _ => false
def Wait.isSync : Wait → Bool
  | .gsync _ => true
  | _ => false

/-- A strand past the RJOIN, GSYNC, BRMT or consumer mask at which it waits. -/
def Strand.goOn (t : Strand) : Strand :=
  match t.wait with
  | .rjoin n | .gsync n | .brmt _ n => t.pastWait 1 n
  | .mask len n => t.pastWait len n
  | _ => t

/-- Strands waiting at an RJOIN. -/
def Group.joiners (x : Group) : List Nat := x.living.filter fun k => (x.strand k).wait.isJoin

/-- RJOIN's release and deadlock (R170): all wait at one address, and none is parked: to the next clause; at several: the
lowest take trap 0x05. -/
def Group.settleJoin (x : Group) : Group :=
  let js := x.joiners
  if js.isEmpty || x.anyParked || js.length != x.living.length then x
  else
    match minBy (fun k => (x.strand k).pc) js with
    | none => x
    | some k0 =>
      let at0 := js.filter fun k => (x.strand k).pc == (x.strand k0).pc
      if at0.length = js.length then x.onStrands js Strand.goOn
      else x.park at0 5 0

/-- Groups of a block that are neither exited nor exit-pending. -/
def Block.liveGroups (b : Block) : List Nat := (List.range b.groups.length).filter fun g => (b.group g).life == .live

/-- A group has arrived at GSYNC (R271). -/
def Group.arrived (x : Group) : Bool :=
  !x.anyParked && x.handler.isNone && x.living.all fun k => (x.strand k).wait.isSync

/-- GSYNC's release (R271): every strand goes on behind its own GSYNC, at the largest tick of all. -/
def Block.settleSync (b : Block) : Block :=
  let gs := b.liveGroups
  if gs.isEmpty || !gs.all fun g => (b.group g).arrived then b
  else
    let t := gs.foldl (fun a g => max a ((b.group g).pathTime (b.group g).living)) 0
    gs.foldl (fun b g => b.onGroup g fun x =>
      x.onStrands x.living fun y => { y.goOn with tick := max y.tick t }) b

/-- The word of code at an address, if the core's instruction cache holds its line (R155). -/
def CoreSt.codeWord (c : CoreSt) (va : Nat) : Option W32 :=
  match firstWith (fun e => e.1 == lineOf va) c.icache with
  | some e => some (BitVec.ofNat 32 (fieldLe e.2 (va % 64) 4))
  | none => none

/-- Exits of blocks and launches (R127): the launch completes when every non-surplus block has exited. -/
def State.launchSettle (s : State) (d lid : Nat) : State :=
  match firstWith (fun l => l.lid == lid) (s.district d).launches with
  | none => s
  | some l =>
    let total := l.counts.foldl (· * ·) 1
    if l.st == .dispatching && l.kill.isNone && l.exited = total then s.endLaunch d lid 0x0012 0 0 0 else s

/-- Releases a block whose groups have all exited (R171); engine entries of it have ended, for its counters are zero. -/
def State.blockSettle (s : State) (u : Nat) : State :=
  match Tbl.find u s.blocks with
  | none => s
  | some b =>
    if !b.groups.isEmpty && b.groups.all fun x => x.life == .exited then
      let s := s.onLaunch b.dist b.lid fun l => { l with exited := l.exited + 1 }
      (s.freeBlock u false).launchSettle b.dist b.lid
    else s

/-- A group none of whose strands is left becomes exit-pending, or exits when its counters are zero (R171). -/
def State.exitSettle (s : State) (u g : Nat) : State :=
  let x := s.grp u g
  if x.width != 0 && x.living.isEmpty && x.life != .exited then
    let s := s.onGrp u g fun x => { x with life := if x.idle then .exited else .exitPending, cueTimer := none }
    let s := s.onBlock u Block.settleSync
    if x.idle then
      -- what the group has written since its EXIT comes before the launch's completion (R45, R437)
      (s.onDistrict (s.block u).dist fun y => { y with clock := max y.clock (x.newest false) }).blockSettle u
    else s
  else s

/-- A member's path goes on from the latch, or takes a trap there; its TL falls with a trap (R294, R296, R311). -/
def State.leaveLatch (s : State) (u : Nat) (l : LatchArrival) (trap : Option Nat) (tlFalls : Bool) : State :=
  let s := s.onGrp u l.grp fun y =>
    let ks := l.self.ks.filter fun k => (y.strand k).wait == .system && (y.strand k).pc == l.place.pc
    let y := { y with busy := .none, tl := if tlFalls then y.tl - 1 else y.tl }
    match trap with
    | some c => y.park ks c 0
    | none => y.onStrands ks fun t => { t.past l.place with wait := .none }
  s.takeTrap u l.grp

/-- Members at the latch for a number that a group which has left its gang had not reached take trap 0x0e (R296). -/
def State.latchSettle (s : State) (u g : Nat) : State :=
  let x := s.grp u g
  if x.life == .live then s
  else
    let b := s.block u
    let c := s.core b.core
    let (hit, stay) := c.latch.partition fun l =>
      l.blk == u && (gangMembers l.gang).contains g && x.gangSeq ≤ l.seq && l.grp != g
    hit.foldl (fun s l => s.leaveLatch u l (some 0x0e) true)
      (s.onCore b.core fun c => { c with latch := stay })

/-- A tile operation leaves the engine, and TL falls in each of its issuing groups; its fetches go with it (R301, R311, R334). -/
def State.dropOp (s : State) (c id : Nat) : State :=
  match firstWith (fun o => o.id == id) (s.core c).allOps with
  | none => s
  | some o =>
    let mine (e : Entry) : Bool := match e.fetch with
      | some (k, _) => k == id
      | none => false
    let es := ((s.core c).eqs.flatten.filter mine).map Entry.id
    let s := s.onCore c fun k =>
      { k with tileOps := k.tileOps.filter fun p => p.id != id, eq6 := k.eq6.filter fun p => p.id != id,
               eqs := k.eqs.map fun q => q.filter fun e => !mine e }
    let s := { s with parts := s.parts.filter fun p => match p.src with
      | .engine d _ e => d != c || !es.contains e
      | .tile d k => d != c || k != id
      | _ => true }
    o.members.foldl (fun s m => s.onGrp o.blk m.grp fun x => { x with tl := x.tl - 1 }.sawCtr 3 o.clk) s

/-- The suspended tile operations of a group (R301). -/
def State.suspended (s : State) (u g : Nat) : List TileOp :=
  (s.core (s.block u).core).tileOps.filter fun o => o.blk == u && o.has g && o.fault.isSome

/-- The other groups that issued an operation. -/
def TileOp.others (o : TileOp) (g : Nat) : List Nat := (o.members.map TileMember.grp).filter (· != g)

/-- A suspended operation is changed, and resumes when every member has left its handler, or left the gang (R302). -/
def State.onSuspended (s : State) (core id : Nat) (f : TileOp → TileOp) : State :=
  let go (p : TileOp) : TileOp :=
    let p := f p
    if p.members.all fun m => p.back.contains m.grp || (s.grp p.blk m.grp).life != .live || (s.grp p.blk m.grp).living.isEmpty then
      { p with fault := none, back := [] }
    else p
  s.onCore core fun k => { k with tileOps := updWhere (fun p => p.id == id) go k.tileOps }

/-- A group that has no strand left outside a handler: its suspended solo operations are cancelled, a joint one waits for the
other members alone, and is cancelled where none of them has a strand left (R301, R302). -/
def State.leaveOps (s : State) (u g : Nat) : State :=
  let x := s.grp u g
  if x.width = 0 || !x.living.isEmpty then s
  else
    let c := (s.block u).core
    (s.suspended u g).foldl (fun s o =>
      if o.members.all fun m => (s.grp u m.grp).living.isEmpty then s.dropOp c o.id
      else s.onSuspended c o.id id) s

/-- After a pass, or after an event that may have ended what a group waits for. -/
def State.settle (s : State) (u g : Nat) : State :=
  if (Tbl.find u s.blocks).isNone || s.focus.more then s
  else
    let s := (s.onGrp u g Group.settleJoin).onBlock u Block.settleSync
    let s := ((s.leaveOps u g).exitSettle u g).latchSettle u g
    if (Tbl.find u s.blocks).isNone then s else s.takeTrap u g

/-! Scratchpad accesses (R194) -/

/-- What a scratchpad access writes where it found `old`. -/
def ScrOp.writes (o : ScrOp) (old : List W8) : Option (List W8) :=
  match o.act with
  | 0 => none
  | 1 => some o.data
  | _ =>
    let (r, wrote) := atomicOp o.aop o.ty (ofLe old) (ofLe o.data) (ofLe o.cmp)
    if wrote then some (leBytes o.size r) else none

/-- One scratchpad access is performed: what it found. -/
def State.scrPart (s : State) (o : ScrOp) : State × List W8 :=
  let old := s.scrRead o.blk o.off o.size
  let s := match o.writes old with
    | some bs => s.scrWrite o.blk o.off bs
    | none => s
  ((s.scrTime o.blk o.grp o.ks 0).1, old)

def State.scrParts (s : State) : List ScrOp → State × List (ScrOp × List W8)
  | [] => (s, [])
  | o :: r =>
    let (s, old) := s.scrPart o
    let (s, l) := State.scrParts s r
    (s, (o, old) :: l)

/-- Results of a scratchpad instruction arrive by themselves (R194): they count in LD until then. -/
def State.scrResults (s : State) : List (ScrOp × List W8) → State
  | [] => s
  | (o, d) :: r =>
    let l := (o, d) :: r
    let (n, s) := s.newId
    let ps := l.zipIdx.map fun q =>
      ({ id := s.nextId + q.2, issue := n, src := .strands o.blk o.grp q.1.1.ks, kind := .load, va := 0, len := o.size,
         dev := s.dev.devnum, st := .data q.1.2, due := max (s.cycle + 1) q.1.1.due } : Part)
    let s := { s with
      nextId := s.nextId + l.length
      parts := s.parts ++ ps
      issues := s.issues ++ [({ id := n, blk := o.blk, grp := o.grp, ctr := 0, dest := o.dest, bits := o.bits, sx := o.sx,
                                size := o.size, left := ps.map Part.id } : Issue)] }
    s.onGrp o.blk o.grp fun x => x.bump 0 (· + 1)

/-- Puts an access among those of a pass, in lane-cycle order. -/
def insertScr (o : ScrOp) : List ScrOp → List ScrOp
  | [] => [o]
  | p :: r => if o.cyc < p.cyc then o :: p :: r else p :: insertScr o r

/-- The scratchpad accesses of a pass, both paths included, are performed in lane-cycle order. -/
def State.performScr (s : State) : State :=
  let (s, l) := State.scrParts { s with scrOps := [] } s.scrOps
  let l := l.filter fun e => e.1.act != 1
  (s.scrResults (l.filter fun e => !e.1.second)).scrResults (l.filter fun e => e.1.second)

/-- The pass has executed its instruction for a strand: it did not fault, and it waits for nothing of its own (R156). -/
def Strand.executed (t : Strand) : Bool :=
  match t.st with
  | .fatal .. => false
  | _ => match t.wait with
    | .sleep | .bwait .. | .fence .. | .drain .. | .system => false
    | _ => true

/-- The end of the present pass: its scratchpad accesses, the mark of a Y bit whose last word it has executed (R156, R173) and what it
leaves to settle.  The first path of a two-path pass leaves all but the mark to the second. -/
def State.endPass (s : State) : State :=
  let last := s.focus.n < s.focus.idx + s.focus.len
  let mark (u g : Nat) (done : Bool) : State :=
    if s.focus.yieldAfter && last && done then s.onGrp u g fun x => { x with yielded := true } else s
  match s.focus.kind with
  | .path u g ks =>
    let s := mark u g (ks.any fun k => ((s.grp u g).strand k).executed)
    let s := if s.focus.kept && (s.grp u g).busy == .none then s.onGrp u g fun x => { x with kept := none } else s
    if s.focus.more then s else s.performScr.settle u g
  | .handler u g => (mark u g (s.grp u g).handler.isSome).settle u g
  | _ => s

/-! Register soft errors (R218) -/

/-- What an instruction finds in the registers that it reads: a correctable error is corrected and counted; an uncorrectable one reads
and is written as zero and is counted, and with POLICY [1] the covered strands that it affects become fatal understudies and leave
the path. -/
def State.softRead (s : State) (u g : Nat) (i : Instr) : State :=
  let x := s.grp u g
  if x.soft.isEmpty && x.softOk.isEmpty then s
  else
    let rs := vReads i
    let hits := x.soft.filter fun e => rs.contains e.1
    let b := s.block u
    let s := (s.countErr b.dist 1 (x.softOk.filter rs.contains).length).onGrp u g fun x =>
      { x with softOk := x.softOk.filter fun r => !rs.contains r }
    let zero (x : Group) : Group := hits.foldl (fun x e => e.2.1.foldl (fun x k => x.setV e.1 k 0) x) x
    let bad := if (s.district b.dist).policy.getLsbD 1 then (hits.flatMap fun e => e.2.1).filter (s.coverOf i).contains else []
    let s := (s.onGrp u g zero).countErr b.dist 2 (hits.filter fun e => !e.2.2).length
    match s.focus.kind with
    | .path _ _ ks =>
      if bad.isEmpty then s
      else
        { s.onGrp u g (fun x => x.park bad 0x10 0) with
          focus := { s.focus with kind := .path u g (ks.filter fun k => !bad.contains k) } }
    | _ => s

/-- One instruction of a path, of a handler or of a service thread: checks at decode, the guard, checks at execution,
readiness, its sources' pops, its effect, and the end of the pass.  `body` moves the path itself. -/
def issueBy (i : Instr) (s : State) (body : List Elem → State → State) : State :=
  match s.focus.kind with
  | .none => s
  | _ =>
    if handlerFault i s then
      let (c, s) := s.free 8
      s.trapPath c
    else
      match decodeTrap i s with
      | some c => (s.trapPath c).endPass
      | none =>
        if guardOff i s then (if isTransfer i then s.nextClause else s.advance).endPass
        else
          match execTrap i s with
          | some c => (s.trapPath c).endPass
          | none =>
            if !ready i s then s
            else
              match s.who with
              | some (u, g, _) =>
                let s := s.softRead u g i
                if s.focus.kind == .path u g [] && !s.focus.kept then s.endPass
                else
                  let (s, es) := s.popSrcs u g (s.coverOf i) (srcs i)
                  (body es s).endPass
              | none => (body [] s).endPass

/-- As issueBy, for an instruction behind which the path goes on. -/
def issue (i : Instr) (s : State) (body : List Elem → State → State) : Host.Outcome State Fault Refusal :=
  .next (issueBy i s fun es s => (body es s).advance)

/-- As issueBy, for an instruction that moves its path itself. -/
def issueMove (i : Instr) (s : State) (body : State → State) : Host.Outcome State Fault Refusal :=
  .next (issueBy i s fun _ s => body s)

end Sys2Proof.Machine
end

