-- ==== Sys2Proof/Machine/Lane.lean ====
section
/-! DEFINITION. Class 0: strand arithmetic (R219 to R244).  One definition per instruction over the shared pass `lanes`. -/

namespace Sys2Proof.Machine

/-! Results -/

/-- Whether the issuing launch flushes subnormals (R93). -/
def State.flushes (s : State) : Bool :=
  match s.who with
  | some (u, _, _) => hFlush (s.launchHdr (s.block u))
  | none => false

/-- The words of a result in consecutive v registers, for strands that have one. -/
def vectorWrites (n words : Nat) (res : List (Nat × Nat)) : List (Nat × List (Nat × W32)) :=
  (List.range words).map fun j => (n + j, res.map fun e => (e.1, BitVec.ofNat 32 (e.2 / 2 ^ (32 * j))))

/-- The bytes of a pushed vector-word element: the words of strands without a result are 0 (R220). -/
def vectorBytes (w : Nat) (res : List (Nat × Nat)) : List W8 :=
  (List.range w).flatMap fun k =>
    match firstWith (fun e => e.1 == k) res with
    | some e => leBytes 4 e.2
    | none => leBytes 4 0

/-- The core cycle in which a strand's result is written (R222): the last of the instruction for a strand that has no lane-cycle of its
own. -/
def Focus.dueOf (f : Focus) (k : Nat) : Nat :=
  match firstWith (fun e => e.1 == k) f.wb with
  | some e => e.2.2
  | none => f.wb.foldl (fun a e => max a e.2.2) 0

/-- The last of the cycles in which some strands' results are written. -/
def Focus.lastOf (f : Focus) (ks : List Nat) : Nat := ks.foldl (fun a k => max a (f.dueOf k)) 0

def insertNat (n : Nat) : List Nat → List Nat
  | [] => [n]
  | m :: r => if n < m then n :: m :: r else if n = m then m :: r else m :: insertNat n r

/-- The strands whose registers or predicates a write-back writes. -/
def WriteBack.strands (wb : WriteBack) : List Nat :=
  (wb.vWrites.flatMap fun e => e.2.map Prod.fst) ++ wb.pWrites.flatMap fun e => e.2.map Prod.fst

/-- What a write-back writes in the strands that a test names. -/
def WriteBack.only (wb : WriteBack) (f : Nat → Bool) : WriteBack :=
  { wb with vWrites := (wb.vWrites.map fun e => (e.1, e.2.filter fun kv => f kv.1)).filter fun e => !e.2.isEmpty
            pWrites := (wb.pWrites.map fun e => (e.1, e.2.filter fun kv => f kv.1)).filter fun e => !e.2.isEmpty
            wWrites := [], push := none }

/-- An instruction's write-back in its cycles: each strand's results in that strand's (R222), a queue element with the last of them
(R257). -/
def WriteBack.split (wb : WriteBack) (f : Focus) (pass : Nat) : List WriteBack :=
  ((wb.strands.foldl (fun l k => insertNat (f.dueOf k) l) []).map fun d =>
    { wb.only (fun k => f.dueOf k == d) with due := d, pass := pass }) ++
  (match wb.push with
    | some (q, t, bytes, ks) => [{ push := some (q, t, bytes, ks), due := f.lastOf ks, pass := pass }]
    | none => []) ++
  if wb.wWrites.isEmpty then [] else [{ wWrites := wb.wWrites, due := f.wb.foldl (fun a e => max a e.2.2) 0, pass := pass }]

/-- Adds a write-back to those that a group awaits; LANE_WRITEBACK lands each part of it when it is due (R222). -/
def State.awaitWb (s : State) (u g : Nat) (wb : WriteBack) : State :=
  s.onGrp u g fun x => { x with pendWb := x.pendWb ++ wb.split s.focus s.cycle }

/-- Starts the retirement of a consumer mask: its queues accept one by one, and the path stays at the instruction until the last has
(R30, R161). -/
def State.startMask (s : State) (u g : Nat) (qs : List Nat) (res : List (Nat × Nat)) (ks : List Nat) : State :=
  if qs.isEmpty then s
  else
    let m : MaskProg := { queues := qs, vecBytes := vectorBytes (s.grp u g).width res,
                          word := BitVec.ofNat 32 ((res.map Prod.snd).headD 0), due := s.focus.lastOf ks, strands := ks }
    let s := s.onGrp u g fun x =>
      Group.onStrands { x with maskProg := some m } s.pathStrands fun t =>
        if t.st == .active then { t with wait := .mask s.focus.len s.focus.n } else t
    qs.foldl (fun s q => s.post (.consumerMaskAccept u g q)) s

/-- Delivers a result of a class 0 or 3 instruction to its destination (R220): `res` gives the covered strands' results in
rising order, `preds` the predicate writes. -/
def State.deliver (s : State) (u g : Nat) (f : LaneForm) (res : List (Nat × Nat)) (preds : List (Nat × List (Nat × Bool))) :
    State :=
  let ks := res.map Prod.fst
  let first := (res.map Prod.snd).headD 0
  let p : WriteBack := { pWrites := preds.filter fun e => e.1 != 0 }
  match f.d with
  | .v n => s.awaitWb u g { p with vWrites := vectorWrites n.val (f.bits / 32) res }
  | .w n => s.awaitWb u g { p with wWrites := (natWords (f.bits / 32) first).zipIdx.map fun e => (n.val + e.2, e.1) }
  | .q n =>
    let (s, t) := s.reserveQ u n.val
    let bytes := if ((s.block u).queue n.val).kind = 1 then vectorBytes (s.grp u g).width res else leBytes 4 first
    s.awaitWb u g { p with push := some (n.val, t, bytes, ks) }
  | .mask x =>
    let s :=
      if maskReg x < 64 then s.awaitWb u g { p with vWrites := vectorWrites (maskReg x) 1 res }
      else if maskReg x < 96 then s.awaitWb u g { p with wWrites := [(maskReg x - 64, BitVec.ofNat 32 first)] }
      else s.awaitWb u g p
    s.startMask u g (setBits (maskQueues x) 16) res ks
  | _ => s.awaitWb u g p

/-- The value of source n of an instruction in a strand, in a format. -/
def srcVal (x : Group) (f : LaneForm) (es : List Elem) (fs : List Fmt) (k n : Nat) : Nat :=
  laneVal x (fs.getD n .n32) ((f.srcs.getD n (.i32, .zero)).2) (es.getD n none) k

/-- The sources of an instruction in a strand. -/
def srcVals (x : Group) (f : LaneForm) (es : List Elem) (fs : List Fmt) (k : Nat) : List Nat :=
  (List.range f.srcs.length).map (srcVal x f es fs k)

/-- One pass of a strand-by-strand instruction: the result of every covered strand, from the registers as the pass finds
them. -/
def State.lanes (s : State) (i : Instr) (es : List Elem) (fs : List Fmt) (op : List Nat → Nat) : State :=
  match s.who, laneForm i with
  | some (u, g, _), some f =>
    let x := s.grp u g
    s.deliver u g f ((s.covered (predOf i)).map fun k => (k, op (srcVals x f es fs k))) []
  | _, _ => s

/-- As `lanes`, with the destination's old word first among the operands (R221). -/
def State.lanesOld (s : State) (i : Instr) (es : List Elem) (fs : List Fmt) (op : Nat → List Nat → Nat) : State :=
  match s.who, laneForm i with
  | some (u, g, _), some f =>
    let x := s.grp u g
    s.deliver u g f
      ((s.covered (predOf i)).map fun k => (k, op (laneVal x .n32 f.d none k) (srcVals x f es fs k))) []
  | _, _ => s

/-- A compare (R232): its condition on the sources, its combine, its target and its register. -/
def State.compares (s : State) (i : Instr) (es : List Elem) (fs : List Fmt) (x : Fx) (cond : Nat → Nat → Bool) : State :=
  match s.who, laneForm i with
  | some (u, g, _), some f =>
    let y := s.grp u g
    let res := (s.covered (predOf i)).map fun k =>
      (k, combine (x.sel 4 3) (cond (srcVal y f es fs k 0) (srcVal y f es fs k 1)) ((y.strand k).getP (x.i 5 3)))
    s.deliver u g f (res.map fun e => (e.1, boolWord e.2)) [(x.i 2 0, res)]
  | _, _ => s

def arg0 (l : List Nat) : Nat := l.getD 0 0
def arg1 (l : List Nat) : Nat := l.getD 1 0
def arg2 (l : List Nat) : Nat := l.getD 2 0

/-- Integer forms on 32-bit patterns, results wrapped. -/
def int1 (i : Instr) (s : State) (op : Nat → Int) : Host.Outcome State Fault Refusal :=
  issue i s fun es s => s.lanes i es [.n32] fun l => wrapN (op (arg0 l)) 32
def int2 (i : Instr) (s : State) (op : Nat → Nat → Int) : Host.Outcome State Fault Refusal :=
  issue i s fun es s => s.lanes i es [.n32, .n32] fun l => wrapN (op (arg0 l) (arg1 l)) 32
def int3 (i : Instr) (s : State) (op : Nat → Nat → Nat → Int) : Host.Outcome State Fault Refusal :=
  issue i s fun es s => s.lanes i es [.n32, .n32, .n32] fun l => wrapN (op (arg0 l) (arg1 l) (arg2 l)) 32

/-! Integer and logic (R226 to R231, R233, R234) -/

def execIadd (d a b : Opd) (p : Pr) (s : State) := int2 (.iadd d a b p) s fun x y => x + y
def execIsub (d a b : Opd) (p : Pr) (s : State) := int2 (.isub d a b p) s fun x y => (x : Int) - y
def execIaddc (d a b : Opd) (p : Pr) (s : State) := int2 (.iaddc d a b p) s fun x y => if 2 ^ 32 ≤ x + y then 1 else 0
def execImul (d a b : Opd) (p : Pr) (s : State) := int2 (.imul d a b p) s fun x y => x * y
def execImulhI (d a b : Opd) (p : Pr) (s : State) :=
  int2 (.imulhI d a b p) s fun x y => sext x 32 * sext y 32 / 2 ^ 32
def execImulhN (d a b : Opd) (p : Pr) (s : State) := int2 (.imulhN d a b p) s fun x y => ((x * y / 2 ^ 32 : Nat) : Int)
def execIminI (d a b : Opd) (p : Pr) (s : State) := int2 (.iminI d a b p) s fun x y => min (sext x 32) (sext y 32)
def execIminN (d a b : Opd) (p : Pr) (s : State) := int2 (.iminN d a b p) s fun x y => (min x y : Nat)
def execImaxI (d a b : Opd) (p : Pr) (s : State) := int2 (.imaxI d a b p) s fun x y => max (sext x 32) (sext y 32)
def execImaxN (d a b : Opd) (p : Pr) (s : State) := int2 (.imaxN d a b p) s fun x y => (max x y : Nat)
def execIabs (d a : Opd) (p : Pr) (s : State) := int1 (.iabs d a p) s fun x => if sext x 32 < 0 then -sext x 32 else sext x 32
def execIneg (d a : Opd) (p : Pr) (s : State) := int1 (.ineg d a p) s fun x => -(x : Int)

/-- The signed or unsigned reading of a pattern. -/
def readInt (sgn : Bool) (x n : Nat) : Int := if sgn then sext x n else ((x % 2 ^ n : Nat) : Int)

/-- The result of a multiply-accumulate (R227): wrapped, or saturated in the sum's signedness. -/
def macResult (sat sr : Bool) (x : Int) (n : Nat) : Nat := if sat then satN sr x n else wrapN x n

def execImac (d a b c : Opd) (p : Pr) (x : Fx) (s : State) : Host.Outcome State Fault Refusal :=
  let i : Instr := .imac d a b c p x
  let sa := x.sel 0 0 = 1
  let sb := x.sel 1 1 = 1
  issue i s fun es s => s.lanes i es [.n32, .n32, .n32] fun l =>
    macResult x.sat (sa || sb)
      (readInt sa (arg0 l) 32 * readInt sb (arg1 l) 32 + readInt (sa || sb) (arg2 l) 32) 32

def execImacw (d a b c : Opd) (p : Pr) (x : Fx) (s : State) : Host.Outcome State Fault Refusal :=
  let i : Instr := .imacw d a b c p x
  let sa := x.sel 0 0 = 1
  let sb := x.sel 1 1 = 1
  issue i s fun es s => s.lanes i es [.n32, .n32, if sa || sb then .i64 else .n64] fun l =>
    macResult x.sat (sa || sb)
      (readInt sa (arg0 l) 32 * readInt sb (arg1 l) 32 + readInt (sa || sb) (arg2 l) 64) 64

def execAndB (d a b : Opd) (p : Pr) (s : State) := int2 (.andB d a b p) s fun x y => (x &&& y : Nat)
def execOrB (d a b : Opd) (p : Pr) (s : State) := int2 (.orB d a b p) s fun x y => (x ||| y : Nat)
def execXorB (d a b : Opd) (p : Pr) (s : State) := int2 (.xorB d a b p) s fun x y => (x ^^^ y : Nat)
def execAndn (d a b : Opd) (p : Pr) (s : State) := int2 (.andn d a b p) s fun x y => (x &&& (2 ^ 32 - 1 - y) : Nat)
def execNotB (d a : Opd) (p : Pr) (s : State) := int1 (.notB d a p) s fun x => -1 - (x : Int)
def execShl (d a b : Opd) (p : Pr) (s : State) := int2 (.shl d a b p) s fun x y => if y < 32 then x * 2 ^ y else 0
def execShr (d a b : Opd) (p : Pr) (s : State) := int2 (.shr d a b p) s fun x y => if y < 32 then (x / 2 ^ y : Nat) else 0
def execAsr (d a b : Opd) (p : Pr) (s : State) := int2 (.asr d a b p) s fun x y => sext x 32 / 2 ^ min y 32
def execRol (d a b : Opd) (p : Pr) (s : State) :=
  int2 (.rol d a b p) s fun x y => (x * 2 ^ (y % 32) + x / 2 ^ (32 - y % 32) : Nat)

def execFshf (d a b c : Opd) (p : Pr) (x : Fx) (s : State) :=
  int3 (.fshf d a b c p x) s fun lo hi n =>
    let v := hi * 2 ^ 32 + lo
    ((if x.sel 0 0 = 0 then v * 2 ^ (n % 32) / 2 ^ 32 else v / 2 ^ (n % 32) : Nat) : Int)

/-- Position and length of a bit field (R230): from IMM, or from the bytes of b. -/
def fieldPos (x : Fx) (b : Nat) : Nat := if x.sel 0 0 = 1 then x.i 4 0 else b % 256
def fieldLen (x : Fx) (b : Nat) : Nat := if x.sel 0 0 = 1 then x.i 10 5 else b / 256 % 256
/-- The bits of the field that exist. -/
def fieldBits (pos len : Nat) : Nat := min len (32 - pos)

/-- An extracted field (R230). -/
def bitField (sgn : Bool) (v pos len : Nat) : Int :=
  let e := fieldBits pos len
  let f := v / 2 ^ pos % 2 ^ e
  if sgn && e != 0 then sext f e else f

/-- With position and length in IMM the register form has one source less; B is then 0. -/
def execBfxI (d a b : Opd) (p : Pr) (x : Fx) (s : State) :=
  int2 (.bfxI d a b p x) s fun v y => bitField true v (fieldPos x y) (fieldLen x y)
def execBfxN (d a b : Opd) (p : Pr) (x : Fx) (s : State) :=
  int2 (.bfxN d a b p x) s fun v y => bitField false v (fieldPos x y) (fieldLen x y)

/-- BFI's result (R230). -/
def bitInsert (v pos len c : Nat) : Nat :=
  let mask := (2 ^ fieldBits pos len - 1) * 2 ^ pos
  (c &&& (2 ^ 32 - 1 - mask)) ||| (v * 2 ^ pos &&& mask)

def execBfi (d a b c : Opd) (p : Pr) (x : Fx) (s : State) :=
  if x.sel 0 0 = 1 then int2 (.bfi d a b c p x) s fun v y => bitInsert v (fieldPos x 0) (fieldLen x 0) y
  else int3 (.bfi d a b c p x) s fun v f y => bitInsert v (fieldPos x f) (fieldLen x f) y

/-- The number of 1 bits below n. -/
def ones (x n : Nat) : Nat := (setBits x n).length

def execPopc (d a : Opd) (p : Pr) (s : State) := int1 (.popc d a p) s fun x => ones x 32
def execClz (d a : Opd) (p : Pr) (s : State) := int1 (.clz d a p) s fun x => if x = 0 then 32 else 31 - Nat.log2 x
def execBrev (d a : Opd) (p : Pr) (s : State) :=
  int1 (.brev d a p) s fun x => (maskOf ((setBits x 32).map fun k => 31 - k) : Nat)

def execMov (d a : Opd) (width : BitVec 7) (p : Pr) (s : State) : Host.Outcome State Fault Refusal :=
  let i : Instr := .mov d a width p
  issue i s fun es s =>
    match width.toNat with
    | 0 => s.lanes i es [.n32] arg0
    | 1 => s.lanes i es [.i64] arg0
    | _ =>
      match s.who, laneForm i with
      | some (u, g, _), some f =>
        let x := s.grp u g
        s.deliver u g f ((s.covered p).map fun k => (k, laneVal128 x a true k)) []
      | _, _ => s

def execSel (d a b : Opd) (c : Pr) (s : State) : Host.Outcome State Fault Refusal :=
  let i : Instr := .sel d a b c
  issue i s fun es s =>
    match s.who, laneForm i with
    | some (u, g, _), some f =>
      let x := s.grp u g
      s.deliver u g f (s.pathStrands.map fun k =>
        (k, if (x.strand k).getP c.val then srcVal x f es [.n32, .n32] k 0 else srcVal x f es [.n32, .n32] k 1)) []
    | _, _ => s

def execIcmpI (d a b : Opd) (p : Pr) (x : Fx) (s : State) : Host.Outcome State Fault Refusal :=
  let i : Instr := .icmpI d a b p x
  issue i s fun es s => s.compares i es [.i32, .i32] x fun v w => intCond (x.sel 2 0) (sext v 32) (sext w 32)
def execIcmpN (d a b : Opd) (p : Pr) (x : Fx) (s : State) : Host.Outcome State Fault Refusal :=
  let i : Instr := .icmpN d a b p x
  issue i s fun es s => s.compares i es [.n32, .n32] x fun v w => intCond (x.sel 2 0) v w

/-- LEA (R233): the key is kept, the offset wraps in 48 bits. -/
def execLea (d a b : Opd) (p : Pr) (x : Fx) (s : State) : Host.Outcome State Fault Refusal :=
  let i : Instr := .lea d a b p x
  issue i s fun es s => s.lanes i es [.n32, .i64] fun l =>
    keyOf (arg1 l) * 2 ^ 48 +
      wrapN ((offOf (arg1 l) : Int) + readInt (x.sel 0 0 = 1) (arg0 l) 32 * 2 ^ x.i 2 0) 48

/-- A byte of the eight of b:a. -/
def byteOf (lo hi k : Nat) : Nat := (hi * 2 ^ 32 + lo) / 2 ^ (8 * k) % 256

/-- BSEL's result (R234). -/
def byteSelect (x : Fx) (lo hi c : Nat) : Nat :=
  (List.range 4).foldl (fun r k =>
    let v :=
      if x.sel 0 0 = 1 then byteOf lo hi (x.i (3 * k + 2) (3 * k))
      else if bitOf c (4 * k + 3) then (if x.sel 1 1 = 1 then 0xff else 0)
      else byteOf lo hi (bits c (4 * k + 2) (4 * k))
    r + v * 2 ^ (8 * k)) 0

def execBsel (d a b c : Opd) (p : Pr) (x : Fx) (s : State) :=
  if x.sel 0 0 = 1 then int2 (.bsel d a b c p x) s fun lo hi => byteSelect x lo hi 0
  else int3 (.bsel d a b c p x) s fun lo hi sel => byteSelect x lo hi sel

def execPlog (t a b c : Pr) (p : Pr) (x : Fx) (s : State) : Host.Outcome State Fault Refusal :=
  let i : Instr := .plog t a b c p x
  issue i s fun _ s =>
    match s.who, laneForm i with
    | some (u, g, _), some f =>
      let y := s.grp u g
      let bit (k : Nat) : Bool :=
        plogBit (x.i 7 0) ((y.strand k).getP a.val) ((y.strand k).getP b.val) ((y.strand k).getP c.val)
      s.deliver u g f ((s.covered p).map fun k => (k, 0)) [(t.val, (s.covered p).map fun k => (k, bit k))]
    | _, _ => s

def execPmov (d a : Opd) (p : Pr) (s : State) : Host.Outcome State Fault Refusal :=
  let i : Instr := .pmov d a p
  issue i s fun es s =>
    match s.who, laneForm i with
    | some (u, g, _), some f =>
      let x := s.grp u g
      let ks := s.covered p
      let loads := if a = .zero then [] else
        [1, 2, 3, 4, 5, 6, 7].map fun n => (n, ks.map fun k => (k, (srcVal x f es [.n32] k 0).testBit n))
      s.deliver u g f (ks.map fun k => (k, predWord (x.strand k))) loads
    | _, _ => s

def execIadd64 (d a b : Opd) (p : Pr) (s : State) : Host.Outcome State Fault Refusal :=
  let i : Instr := .iadd64 d a b p
  issue i s fun es s => s.lanes i es [.i64, .i64] fun l => (arg0 l + arg1 l) % 2 ^ 64
def execIsub64 (d a b : Opd) (p : Pr) (s : State) : Host.Outcome State Fault Refusal :=
  let i : Instr := .isub64 d a b p
  issue i s fun es s => s.lanes i es [.i64, .i64] fun l => wrapN ((arg0 l : Int) - arg1 l) 64
def execShl64 (d a b : Opd) (p : Pr) (s : State) : Host.Outcome State Fault Refusal :=
  let i : Instr := .shl64 d a b p
  issue i s fun es s => s.lanes i es [.i64, .n32] fun l => if arg1 l < 64 then arg0 l * 2 ^ arg1 l % 2 ^ 64 else 0
def execShr64 (d a b : Opd) (p : Pr) (s : State) : Host.Outcome State Fault Refusal :=
  let i : Instr := .shr64 d a b p
  issue i s fun es s => s.lanes i es [.i64, .n32] fun l => if arg1 l < 64 then arg0 l / 2 ^ arg1 l else 0

/-! Float (R237 to R240) -/

/-- The shape of a float format; FP32 for the others, which no caller passes. -/
def Fmt.ffD (f : Fmt) : FF := f.ff.getD ffF32

/-- A pattern as an exact value, flushed first where the launch and the format say so (R93). -/
def inVal (fl : Bool) (f : Fmt) (b : Nat) : Ex := f.ffD.value (f.ffD.flush (fl && f.flushes) b)
/-- An exact value rounded, and flushed afterwards. -/
def outVal (fl : Bool) (f : Fmt) (mode : Nat) (sat : Bool) (x : Ex) : Nat :=
  f.ffD.flush (fl && f.flushes) (f.ffD.round mode sat false x)

/-- A negation by flag. -/
def negIf (n : Bool) (x : Ex) : Ex := if n then x.neg else x

def flt1 (f : Fmt) (i : Instr) (s : State) (op : Ex → Ex) : Host.Outcome State Fault Refusal :=
  issue i s fun es s => s.lanes i es [f] fun l => outVal s.flushes f 0 false (op (inVal s.flushes f (arg0 l)))
def flt2 (f : Fmt) (i : Instr) (s : State) (op : Ex → Ex → Ex) : Host.Outcome State Fault Refusal :=
  issue i s fun es s => s.lanes i es [f, f] fun l =>
    outVal s.flushes f 0 false (op (inVal s.flushes f (arg0 l)) (inVal s.flushes f (arg1 l)))

/-- The fused multiply-add of FFMA, DFMA and the halves of DUOFMA (R106). -/
def fusedMac (fl : Bool) (f : Fmt) (x : Fx) (a b c : Nat) : Nat :=
  outVal fl f x.rm.toNat x.sat
    (Ex.add (x.rm = 2) (Ex.mul (negIf x.na (inVal fl f a)) (negIf x.nb (inVal fl f b))) (negIf x.nc (inVal fl f c)))

def execFadd (d a b : Opd) (p : Pr) (s : State) := flt2 .f32 (.fadd d a b p) s (Ex.add false)
def execFsub (d a b : Opd) (p : Pr) (s : State) := flt2 .f32 (.fsub d a b p) s fun x y => Ex.add false x y.neg
def execFmul (d a b : Opd) (p : Pr) (s : State) := flt2 .f32 (.fmul d a b p) s Ex.mul
def execFfma (d a b c : Opd) (p : Pr) (x : Fx) (s : State) : Host.Outcome State Fault Refusal :=
  let i : Instr := .ffma d a b c p x
  issue i s fun es s => s.lanes i es [.f32, .f32, .f32] fun l => fusedMac s.flushes .f32 x (arg0 l) (arg1 l) (arg2 l)
def execFmin (d a b : Opd) (p : Pr) (s : State) := flt2 .f32 (.fmin d a b p) s (Ex.pick false)
def execFmax (d a b : Opd) (p : Pr) (s : State) := flt2 .f32 (.fmax d a b p) s (Ex.pick true)
def execFcmp (d a b : Opd) (p : Pr) (x : Fx) (s : State) : Host.Outcome State Fault Refusal :=
  let i : Instr := .fcmp d a b p x
  issue i s fun es s => s.compares i es [.f32, .f32] x fun v w =>
    Ex.cond (x.sel 2 0) (negIf x.na (inVal s.flushes .f32 v)) (negIf x.nb (inVal s.flushes .f32 w))
def execFneg (d a : Opd) (p : Pr) (s : State) := flt1 .f32 (.fneg d a p) s Ex.neg
def execFabs (d a : Opd) (p : Pr) (s : State) := flt1 .f32 (.fabs d a p) s Ex.abs
def execFrcp (d a : Opd) (p : Pr) (s : State) := flt1 .f32 (.frcp d a p) s fun x => Ex.div (.fin false 1 0) x
def execFrsq (d a : Opd) (p : Pr) (s : State) := flt1 .f32 (.frsq d a p) s Ex.rsqrt
def execFsqrt (d a : Opd) (p : Pr) (s : State) := flt1 .f32 (.fsqrt d a p) s Ex.sqrt
def execFdiv (d a b : Opd) (p : Pr) (s : State) := flt2 .f32 (.fdiv d a b p) s Ex.div
def execFex2 (d a : Opd) (p : Pr) (s : State) := flt1 .f32 (.fex2 d a p) s Ex.exp2
def execFlg2 (d a : Opd) (p : Pr) (s : State) := flt1 .f32 (.flg2 d a p) s Ex.log2
def execFsin (d a : Opd) (p : Pr) (s : State) := flt1 .f32 (.fsin d a p) s (Ex.trig false)
def execFcos (d a : Opd) (p : Pr) (s : State) := flt1 .f32 (.fcos d a p) s (Ex.trig true)

def execFscale (d a b : Opd) (p : Pr) (s : State) : Host.Outcome State Fault Refusal :=
  let i : Instr := .fscale d a b p
  issue i s fun es s => s.lanes i es [.f32, .i32] fun l =>
    outVal s.flushes .f32 0 false (Ex.scale (sext (arg1 l) 32) (inVal s.flushes .f32 (arg0 l)))

/-! Both halves (R239) -/

def duoFmt (x : Fx) : Fmt := if x.sel 0 0 = 1 then .bf16 else .f16

/-- Half k of a word. -/
def half16 (w k : Nat) : Nat := w / 2 ^ (16 * k) % 2 ^ 16

/-- The half of b that result half k uses. -/
def bHalf (x : Fx) (b k : Nat) : Nat :=
  half16 b (match x.sel 2 1 with
    | 1 => 0
    | 2 => 1
    | _ => k)

/-- A result of two halves. -/
def duoWord (f : Nat → Nat) : Nat := f 0 + f 1 * 2 ^ 16

def execDuoadd (d a b : Opd) (p : Pr) (x : Fx) (s : State) : Host.Outcome State Fault Refusal :=
  let i : Instr := .duoadd d a b p x
  let f := duoFmt x
  issue i s fun es s => s.lanes i es [f, f] fun l => duoWord fun k =>
    outVal s.flushes f x.rm.toNat x.sat (Ex.add (x.rm = 2) (negIf x.na (inVal s.flushes f (half16 (arg0 l) k)))
      (negIf x.nb (inVal s.flushes f (bHalf x (arg1 l) k))))
def execDuomul (d a b : Opd) (p : Pr) (x : Fx) (s : State) : Host.Outcome State Fault Refusal :=
  let i : Instr := .duomul d a b p x
  let f := duoFmt x
  issue i s fun es s => s.lanes i es [f, f] fun l => duoWord fun k =>
    outVal s.flushes f x.rm.toNat x.sat (Ex.mul (negIf x.na (inVal s.flushes f (half16 (arg0 l) k)))
      (negIf x.nb (inVal s.flushes f (bHalf x (arg1 l) k))))
def execDuofma (d a b c : Opd) (p : Pr) (x : Fx) (s : State) : Host.Outcome State Fault Refusal :=
  let i : Instr := .duofma d a b c p x
  let f := duoFmt x
  issue i s fun es s => s.lanes i es [f, f, f] fun l => duoWord fun k =>
    fusedMac s.flushes f x (half16 (arg0 l) k) (bHalf x (arg1 l) k) (half16 (arg2 l) k)

/-! FP64 (R240) -/

def execDadd (d a b : Opd) (p : Pr) (s : State) := flt2 .f64 (.dadd d a b p) s (Ex.add false)
def execDmul (d a b : Opd) (p : Pr) (s : State) := flt2 .f64 (.dmul d a b p) s Ex.mul
def execDfma (d a b c : Opd) (p : Pr) (x : Fx) (s : State) : Host.Outcome State Fault Refusal :=
  let i : Instr := .dfma d a b c p x
  issue i s fun es s => s.lanes i es [.f64, .f64, .f64] fun l => fusedMac false .f64 x (arg0 l) (arg1 l) (arg2 l)
def execDcmp (d a b : Opd) (p : Pr) (x : Fx) (s : State) : Host.Outcome State Fault Refusal :=
  let i : Instr := .dcmp d a b p x
  issue i s fun es s => s.compares i es [.f64, .f64] x fun v w =>
    Ex.cond (x.sel 2 0) (negIf x.na (inVal false .f64 v)) (negIf x.nb (inVal false .f64 w))

/-! Conversions and packed elements (R241 to R244) -/

/-- Element k of a word in a packed format (R99). -/
def elemOf (f : Fmt) (w k : Nat) : Nat :=
  if 32 ≤ f.width then w else w / 2 ^ (k * f.storage) % 2 ^ f.storage % 2 ^ f.width

/-- A word with element k replaced. -/
def elemPut (f : Fmt) (w k v : Nat) : Nat :=
  let lo := 2 ^ (k * f.storage)
  w % lo + (v % 2 ^ f.width) * lo + w / (lo * 2 ^ f.storage) * (lo * 2 ^ f.storage)

/-- Flushes a pattern of FP32, FP16 or BF16 where the launch says so. -/
def flushPat (fl : Bool) (f : Fmt) (b : Nat) : Nat :=
  match f.ff with
  | some ff => ff.flush (fl && f.flushes) b
  | none => b

/-- A conversion of the lane engine: R105 between the flushes of R93. -/
def laneConvert (fl : Bool) (fr ft : Fmt) (mode : Nat) (sat : Bool) (b : Nat) : Nat :=
  flushPat fl ft (convert fr ft mode sat (flushPat fl fr b))

def execCvt (d a : Opd) (p : Pr) (x : Fx) (s : State) : Host.Outcome State Fault Refusal :=
  let i : Instr := .cvt d a p x
  match Fmt.ofCode (x.i 9 5), Fmt.ofCode (x.i 4 0) with
  | some fr, some ft =>
    issue i s fun es s =>
      let conv (w : Nat) : Nat := laneConvert s.flushes fr ft x.rm.toNat x.sat (elemOf fr w (x.sel 2 0))
      if ft.width < 32 then s.lanesOld i es [fr] fun old l => elemPut ft old (x.sel 5 3) (conv (arg0 l))
      else s.lanes i es [fr] fun l => conv (arg0 l)
  | _, _ => issue i s fun _ s => s

def execPack (d a b : Opd) (p : Pr) (x : Fx) (s : State) : Host.Outcome State Fault Refusal :=
  let i : Instr := .pack d a b p x
  match Fmt.ofCode (x.sel 4 0) with
  | some ft =>
    let fr : Fmt := if ft.isInt then .i32 else .f32
    issue i s fun es s => s.lanesOld i es [fr, fr] fun old l =>
      let conv := laneConvert s.flushes fr ft x.rm.toNat x.sat
      elemPut ft (elemPut ft old (2 * x.i 1 0) (conv (arg0 l))) (2 * x.i 1 0 + 1) (conv (arg1 l))
  | none => issue i s fun _ s => s

/-- An element widened exactly (R243). -/
def widen (f : Fmt) (e : Nat) : Nat :=
  if f.isInt then (if f.isSigned then wrapN (sext e f.width) 32 else e) else convert f .f32 0 false e

def execUnpk (d a : Opd) (p : Pr) (x : Fx) (s : State) : Host.Outcome State Fault Refusal :=
  let i : Instr := .unpk d a p x
  match Fmt.ofCode (x.sel 4 0) with
  | some f =>
    issue i s fun es s => s.lanes i es [f] fun l =>
      widen f (elemOf f (arg0 l) (2 * x.i 1 0)) + widen f (elemOf f (arg0 l) (2 * x.i 1 0 + 1)) * 2 ^ 32
  | none => issue i s fun _ s => s

/-- The dot product of n element pairs and an accumulator (R107). -/
def dotResult (fl : Bool) (n : Nat) (fa fb : Fmt) (x : Fx) (a b c : Nat) : Nat :=
  let prods := (List.range n).map fun k => Ex.mul (fa.value (elemOf fa a k)) (fb.value (elemOf fb b k))
  if x.i 0 0 = 1 then
    let t : Int := (List.range n).foldl (fun t k =>
      t + readInt fa.isSigned (elemOf fa a k) fa.width * readInt fb.isSigned (elemOf fb b k) fb.width) (sext c 32)
    macResult x.sat true t 32
  else
    let rdn := x.rm = 2
    outVal fl .f32 x.rm.toNat false
      (Ex.add rdn (Ex.sum rdn (prods.drop 1) (prods.headD (.fin false 0 0))) (negIf x.nc (inVal fl .f32 c)))

def accFmt (x : Fx) : Fmt := if x.i 0 0 = 1 then .i32 else .f32

def execDot4 (d a b c : Opd) (p : Pr) (x : Fx) (s : State) : Host.Outcome State Fault Refusal :=
  let i : Instr := .dot4 d a b c p x
  match dot4Fmt (x.sel 2 0), dot4Fmt (x.sel 5 3) with
  | some fa, some fb =>
    issue i s fun es s => s.lanes i es [fa, fb, accFmt x] fun l =>
      dotResult s.flushes 4 fa fb x (arg0 l) (arg1 l) (arg2 l)
  | _, _ => issue i s fun _ s => s

def execDot8 (d a b c : Opd) (p : Pr) (x : Fx) (s : State) : Host.Outcome State Fault Refusal :=
  let i : Instr := .dot8 d a b c p x
  match dot8Fmt (x.sel 2 0), dot8Fmt (x.sel 5 3) with
  | some fa, some fb =>
    issue i s fun es s => s.lanes i es [fa, fb, accFmt x] fun l =>
      dotResult s.flushes 8 fa fb x (arg0 l) (arg1 l) (arg2 l)
  | _, _ => issue i s fun _ s => s

/-! LANE_WRITEBACK and CONSUMER_MASK_ACCEPT (R222, R257, R30) -/

/-- The registers of a write-back that no later write-back of its pass writes: they are compressed now (R215). -/
def Group.lastRegs (x : Group) (wb : WriteBack) : List Nat :=
  (wb.vWrites.map Prod.fst).filter fun r => !x.pendWb.any fun b => b.pass == wb.pass && b.vWrites.any fun e => e.1 == r

/-- A write-back lands in the registers and predicates. -/
def Group.land (x : Group) (wb : WriteBack) : Group :=
  let x := wb.vWrites.foldl (fun x e => e.2.foldl (fun x kv => x.setV e.1 kv.1 kv.2) x) x
  let x := wb.pWrites.foldl (fun x e => e.2.foldl (fun x kv => x.onStrand kv.1 fun t => t.setP e.1 kv.2) x) x
  let x := wb.wWrites.foldl (fun x e => x.setW e.1 e.2) x
  (x.lastRegs wb).foldl Group.compressV x

/-- Bytes of base and packed deltas of a register (R215, event 0x05 of R476), in units of 4 bytes. -/
def VReg.words (v : VReg) (w : Nat) : Nat := 1 + ceilDiv (w * v.width) 32

/-- A queue has served an operation in this core cycle, and serves no other (R258). -/
def State.hasServed (s : State) (u q : Nat) : Bool := ((s.block u).queue q).served == s.cycle + 1
def State.serveQ (s : State) (u q : Nat) : State :=
  s.onBlock u fun b => b.onQueue q fun x => { x with served := s.cycle + 1 }

/-- The write-back of a group that is due first, the oldest of equals, but for elements whose queue has served: its place among those
awaited. -/
def State.firstWb (s : State) (u g : Nat) : Option Nat :=
  let x := s.grp u g
  minBy (fun j => (x.pendWb.getD j {}).due) ((List.range x.pendWb.length).filter fun j =>
    match (x.pendWb.getD j {}).push with
    | some (q, _) => !s.hasServed u q
    | none => true)

/-- A reserved element is written, at a time that its path takes now (R257, R259). -/
def State.pushNow (s : State) (u g q ticket : Nat) (bytes : List W8) (ks : List Nat) : State :=
  let time := (s.grp u g).pathTime ks
  let s := s.fillQ u q ticket bytes time
  s.onGrp u g fun x => x.raise ks (max time (s.block u).clk)

/-- The first write-back of a group lands if it is due: registers, predicates, and the queue element it pushes. -/
def State.landWb (s : State) (u g : Nat) : State :=
  match s.firstWb u g with
  | none => s
  | some j =>
    let wb := (s.grp u g).pendWb.getD j {}
    if s.cycle < wb.due then s
    else
      let s := s.onGrp u g fun x => { x with pendWb := x.pendWb.eraseIdx j }
      let rs := (s.grp u g).lastRegs wb
      let s := s.onGrp u g fun x => x.land wb
      let b := s.block u
      let n := rs.foldl (fun a r => a + ((s.grp u g).vregs.getD r {}).words (s.grp u g).width) 0
      let s := s.count b.dist (vfNum b.dist b.vf) 0x05 n
      match wb.push with
      | none => s
      | some (q, t, bytes, ks) => (s.serveQ u q).pushNow u g q t bytes ks

def execLaneWriteback (u g : Nat) (s : State) : Host.Outcome State Fault Refusal := .next (s.landWb u g)

/-- A queue of a consumer mask accepts the result when it has room (R30); else it is asked again.  The element is written with the
instruction's write-back, or at once behind it (R257); with the last queue the path goes on. -/
def State.acceptMask (s : State) (u g q : Nat) : State :=
  match (s.grp u g).maskProg with
  | none => s
  | some m =>
    if !m.queues.contains q then s
    else
      let k := (s.block u).queue q
      if k.depth ≤ k.count + k.resv || s.hasServed u q then s
      else
        let (s, t) := (s.serveQ u q).reserveQ u q
        let bytes := if k.kind = 1 then m.vecBytes else leBytes 4 m.word.toNat
        let s := if s.cycle < m.due then
            s.onGrp u g fun x => { x with pendWb := x.pendWb ++ [{ push := some (q, t, bytes, m.strands), due := m.due }] }
          else s.pushNow u g q t bytes m.strands
        let rest := m.queues.filter (· != q)
        s.onGrp u g fun x =>
          if rest.isEmpty then
            { x with maskProg := none, strands := x.strands.map fun y => if y.wait.isMask then y.goOn else y }
          else { x with maskProg := some { m with queues := rest } }

def State.maskTurn (s : State) (u g q : Nat) : State := (s.acceptMask u g q).settle u g

def execConsumerMaskAccept (u g q : Nat) (s : State) : Host.Outcome State Fault Refusal := .next (s.maskTurn u g q)

/-! The turns of lanes (R258) -/

/-- Puts a group behind those of lower lanes and behind those of its own. -/
def insertLane (e : Nat × Nat × Nat) : List (Nat × Nat × Nat) → List (Nat × Nat × Nat)
  | [] => [e]
  | f :: r => if e.1 < f.1 then e :: f :: r else f :: insertLane e r

/-- The groups of a core that have results to write or a consumer mask to retire, with their lanes, in increasing lane number. -/
def State.laneWork (s : State) (core : Nat) : List (Nat × Nat × Nat) :=
  (s.blocks.flatMap fun e =>
    if e.2.core = core ∧ e.2.resident then
      ((List.range e.2.groups.length).filter fun g => !(e.2.group g).pendWb.isEmpty || (e.2.group g).maskProg.isSome).map fun g =>
        ((e.2.group g).lane, e.1, g)
    else []).foldl (fun l e => insertLane e l) []

/-- A lane's turn for a group: its results that are due, then its consumer mask. -/
def State.laneTurn (s : State) (u g : Nat) : State :=
  let s := (s.grp u g).pendWb.foldl (fun s _ => s.landWb u g) s
  match (s.grp u g).maskProg with
  | some m => m.queues.foldl (fun s q => s.maskTurn u g q) s
  | none => s

end Sys2Proof.Machine
end

