-- ==== Sys2Proof/Machine/Exchange.lean ====
section
/-! DEFINITION. Class 3: exchange between the strands of a group (R245 to R251). -/

namespace Sys2Proof.Machine

/-- An exchange over the covered strands: `op` gives each one's result from the group, the sources and the strand; the
predicate writes beside. -/
def State.exchange (s : State) (i : Instr) (ks : List Nat)
    (op : Group → LaneForm → Nat → Nat) (preds : Group → List (Nat × List (Nat × Bool))) : State :=
  match s.who with
  | some (u, g, _) =>
    let x := s.grp u g
    match x.form i with
    | some f => s.deliver u g f (ks.map fun k => (k, op x f k)) (preds x)
    | none => s
  | none => s

/-- POLL's condition (R246) on the covered strands' values. -/
def pollRes (mode : Nat) (vs : List Bool) : Bool :=
  let n := (vs.filter id).length
  match mode with
  | 0 => n = vs.length
  | 1 => n != 0
  | 2 => n = 0 || n = vs.length
  | _ => vs.length < 2 * n

def execPoll (d : Opd) (a : Pr) (p : Pr) (x : Fx) (s : State) : Host.Outcome State Fault Refusal :=
  let i : Instr := .poll d a p x
  issue i s fun _ s =>
    let ks := s.covered p
    let vals (y : Group) : List Bool := ks.map fun k => (y.strand k).getP a.val
    s.exchange i ks (fun y _ _ => ((vals y).filter id).length) fun y =>
      [(x.i 2 0, ks.map fun k => (k, pollRes (x.sel 1 0) (vals y)))]

def execBallot (d a b : Opd) (p : Pr) (s : State) : Host.Outcome State Fault Refusal :=
  let i : Instr := .ballot d a b p
  issue i s fun es s =>
    let ks := s.covered p
    s.exchange i ks (fun x f _ =>
      maskOf (ks.filter fun k => (srcVal x f es [.n32, .n32] k 0).testBit (srcVal x f es [.n32, .n32] k 1 % 32))) fun _ => []

def execMatchX (d a : Opd) (p : Pr) (s : State) : Host.Outcome State Fault Refusal :=
  let i : Instr := .matchX d a p
  issue i s fun es s =>
    let ks := s.covered p
    s.exchange i ks (fun x f k =>
      maskOf (ks.filter fun j => srcVal x f es [.n32] j 0 = srcVal x f es [.n32] k 0)) fun _ => []

/-- The value of source A at a source strand, or the strand's own when the source is exited or out of range (R245). -/
def fromStrand (x : Group) (f : LaneForm) (es : List Elem) (t : Option Nat) (k : Nat) : Nat :=
  match t with
  | some j => if j < x.width && !(x.strand j).isExited then srcVal x f es [.n32] j 0 else srcVal x f es [.n32] k 0
  | none => srcVal x f es [.n32] k 0

/-- The segment size of PICK (R248). -/
def segSize (w code : Nat) : Nat := if code = 0 then w else min (2 ^ code) w

/-- PICK's source strand; none when it is out of range. -/
def pickStrand (mode w code b k : Nat) : Option Nat :=
  let n := segSize w code
  let g := k - k % n
  match mode with
  | 0 => some (g + b % n)
  | 1 => if b ≤ k - g then some (k - b) else none
  | 2 => if k + b < g + n then some (k + b) else none
  | _ => some (k ^^^ b % n)

def execPick (d a b c : Opd) (p : Pr) (x : Fx) (s : State) : Host.Outcome State Fault Refusal :=
  let i : Instr := .pick d a b c p x
  issue i s fun es s =>
    s.exchange i (s.covered p) (fun y f k =>
      let v := fromStrand y f es (pickStrand (x.sel 1 0) y.width (x.i 2 0) (srcVal y f es [.n32, .n32, .n32] k 1) k) k
      let m := srcVal y f es [.n32, .n32, .n32] k 2
      (laneVal y .n32 d none k &&& (2 ^ 32 - 1 - m)) ||| (v &&& m)) fun _ => []

def execBcast (d a b : Opd) (p : Pr) (s : State) : Host.Outcome State Fault Refusal :=
  let i : Instr := .bcast d a b p
  issue i s fun es s =>
    s.exchange i (s.covered p) (fun x f k =>
      fromStrand x f es (some (srcVal x f es [.n32, .n32] k 1 % x.width)) k) fun _ => []

def execRots (d a b : Opd) (p : Pr) (s : State) : Host.Outcome State Fault Refusal :=
  let i : Instr := .rots d a b p
  issue i s fun es s =>
    s.exchange i (s.covered p) (fun x f k =>
      fromStrand x f es (some ((k + x.width - srcVal x f es [.n32, .n32] k 1 % x.width) % x.width)) k) fun _ => []

/-- An FP32 sum of a list (R250): exact, rounded once, with its own rule for an exact zero. -/
def sumF32 (fl : Bool) (rm : Nat) (vs : List Nat) : Nat :=
  match vs.map (inVal fl .f32) with
  | [] => 0
  | v :: r => outVal fl .f32 rm false (Ex.sum (rm = 2) r v)

/-- A reduction over a list of values (Table 9 of R250), the identity for the empty prefix. -/
def reduceOp (fl : Bool) (op rm : Nat) (sat : Bool) (vs : List Nat) : Nat :=
  let ints : List Int := vs.map fun v => sext v 32
  let nsum : Int := vs.foldl (fun (a : Int) (v : Nat) => a + (v : Int)) 0
  let isum : Int := ints.foldl (· + ·) 0
  match op with
  | 0 => if sat then satN false nsum 32 else wrapN nsum 32
  | 1 => if sat then satN true isum 32 else wrapN isum 32
  | 2 => wrapN (ints.foldl min (2 ^ 31 - 1)) 32
  | 3 => vs.foldl min (2 ^ 32 - 1)
  | 4 => wrapN (ints.foldl max (-2 ^ 31)) 32
  | 5 => vs.foldl max 0
  | 6 => vs.foldl (· &&& ·) (2 ^ 32 - 1)
  | 7 => vs.foldl (· ||| ·) 0
  | 8 => vs.foldl (· ^^^ ·) 0
  | 9 => sumF32 fl rm vs
  | k =>
    let wantMax := k != 10
    match vs.map (inVal fl .f32) with
    | [] => if wantMax then 0xff800000 else 0x7f800000
    | v :: r => outVal fl .f32 0 false (r.foldl (Ex.pick wantMax) v)

def redFmt (x : Fx) : Fmt := if 9 ≤ x.opxN then .f32 else .n32

def execRedX (d a : Opd) (p : Pr) (x : Fx) (s : State) : Host.Outcome State Fault Refusal :=
  let i : Instr := .redX d a p x
  issue i s fun es s =>
    let ks := s.covered p
    s.exchange i ks (fun y f _ =>
      reduceOp s.flushes x.opxN x.rm.toNat x.sat (ks.map fun k => srcVal y f es [redFmt x] k 0)) fun _ => []

def execScan (d a : Opd) (p : Pr) (x : Fx) (s : State) : Host.Outcome State Fault Refusal :=
  let i : Instr := .scan d a p x
  issue i s fun es s =>
    let ks := s.covered p
    s.exchange i ks (fun y f k =>
      reduceOp s.flushes x.opxN x.rm.toNat x.sat
        ((ks.filter fun j => if x.i 0 0 = 1 then j < k else j ≤ k).map fun j => srcVal y f es [redFmt x] j 0)) fun _ => []

/-! The handler's reads and writes of one strand (R251) -/

/-- The strand index that XGET and XPUT name. -/
def State.handlerStrand (s : State) (u g : Nat) (b : Opd) : Nat := (laneVal (s.grp u g) .n32 b none 0)

def execXget (d a b : Opd) (s : State) : Host.Outcome State Fault Refusal :=
  issueMove (.xget d a b) s fun s =>
    match s.who, a, d with
    | some (u, g, _), .v r, .w n =>
      let t := s.handlerStrand u g b
      if (s.grp u g).width ≤ t then s.trapPath 0x02
      else (s.awaitWb u g { wWrites := [(n.val, (s.grp u g).getV r.val t)] }).advance
    | _, _, _ => s

def execXput (d a b : Opd) (s : State) : Host.Outcome State Fault Refusal :=
  issueMove (.xput d a b) s fun s =>
    match s.who, d with
    | some (u, g, _), .v r =>
      let t := s.handlerStrand u g b
      let x := s.grp u g
      if x.width ≤ t then s.trapPath 0x02
      else if (x.strand t).isExited then s.advance
      else (s.awaitWb u g { vWrites := [(r.val, [(t, BitVec.ofNat 32 (laneVal x .n32 a none t))])] }).advance
    | _, _ => s

end Sys2Proof.Machine
end

