-- ==== Sys2Proof/Machine/Uniform.lean ====
section
/-! DEFINITION. Class 1: control flow, the trap handler's return, the cue, uniform arithmetic and the special registers
(R165 to R182). -/

namespace Sys2Proof.Machine

/-! Control transfers -/

/-- The target of a branch: its offset counts words from the clause header (R64). -/
def State.target (s : State) (off : BitVec 18) : Nat := (((s.focus.hdr : Int) + 4 * off.toInt) % (2 ^ 64 : Nat)).toNat

/-- Sends strands of the path to the target and the others to the next clause. -/
def State.branch (s : State) (u g : Nat) (ks taken : List Nat) (va : Nat) : State :=
  s.onGrp u g fun x => (x.sendTo taken va).sendTo (ks.filter fun k => !taken.contains k) s.focus.nextClause

/-- Whether the branch of the handler or of a service thread is taken, from its kind and the strands of trapm (R168): 0 BRA and 1 BRC
need every one of them to hold the predicate, 2 BRD one of them.  A service thread is one strand, with p0 alone (R442). -/
def State.soleTaken (s : State) (kind : Nat) (ps : Pr) : Bool :=
  let hs := match s.focus.kind with
    | .handler u g => ((s.grp u g).trapStrands).map fun k => ((s.grp u g).strand k).getP ps.val
    | _ => [ps == 0]
  if kind = 0 && ps = 0 then true else if kind = 2 then hs.any id else hs.all id

/-- BRA, BRC and BRD (R168). -/
def branchBy (kind : Nat) (i : Instr) (ps : Pr) (off : BitVec 18) (s : State) : Host.Outcome State Fault Refusal :=
  issueMove i s fun s =>
    match s.focus.kind with
    | .path u g ks =>
      let hold := (s.grp u g).holding ks ps.val
      match kind with
      | 0 => s.branch u g ks hold (s.target off)
      | 1 => s.branch u g ks (if hold.length = ks.length then ks else []) (s.target off)
      | _ => s.branch u g ks (if hold.isEmpty then [] else ks) (s.target off)
    | _ => if s.soleTaken kind ps then s.goto (s.target off) else s.nextClause

def execNop (bp : Pr) (s : State) := issue (.nop bp) s fun _ s => s
def execBra (bp ps : Pr) (off : BitVec 18) (s : State) := branchBy 0 (.bra bp ps off) ps off s
def execBrc (bp ps : Pr) (off : BitVec 18) (s : State) := branchBy 1 (.brc bp ps off) ps off s
def execBrd (bp ps : Pr) (off : BitVec 18) (s : State) := branchBy 2 (.brd bp ps off) ps off s

def execBrx (a : Opd) (bp : Pr) (s : State) : Host.Outcome State Fault Refusal :=
  issueMove (.brx a bp) s fun s =>
    let va := s.uniWord64 a false
    if va % 4 = 0 then s.goto va else s.trapPath 0x08

/-- Entries whose mask holds no strand that is not exited go; a handler entry stays (R169). -/
def Group.pruneCalls (x : Group) : Group :=
  { x with calls := x.calls.filter fun c => c.handler || c.mask.any fun k => !(x.strand k).isExited }

/-- The call stack is full (R169). -/
def Group.callsFull (x : Group) : Bool := 4 ≤ x.calls.length

def execCall (bp : Pr) (off : BitVec 18) (s : State) : Host.Outcome State Fault Refusal :=
  issueMove (.call bp off) s fun s =>
    let ret := s.focus.nextClause
    match s.focus.kind with
    | .path u g ks =>
      if (s.grp u g).callsFull then s.trapPath 0x05
      else (s.onGrp u g fun x => { x with calls := { ret := ret, mask := ks } :: x.calls }).goto (s.target off)
    | .handler u g =>
      if (s.grp u g).callsFull then s.trapPath 0x05
      else
        (s.onGrp u g fun x => { x with calls := { ret := ret, mask := [], handler := true } :: x.calls }).goto (s.target off)
    | .thread q =>
      if 4 ≤ (s.squeue q).thread.calls.length then s.trapPath 0x05
      else
        (s.onSqueue q fun x => { x with thread := { x.thread with calls := ret :: x.thread.calls } }).goto (s.target off)
    | .none => s

/-- Takes a strand out of the topmost entry that holds it: the return address, and the stack. -/
def popCall (k : Nat) : List CallEntry → Option (Nat × List CallEntry)
  | [] => none
  | c :: r =>
    if !c.handler && c.mask.contains k then some (c.ret, { c with mask := c.mask.filter (· != k) } :: r)
    else
      match popCall k r with
      | some (va, r') => some (va, c :: r')
      | none => none

/-- Returns each strand to its own call's address (R169). -/
def Group.returnAll (x : Group) (ks : List Nat) : Group :=
  (ks.foldl (fun x k =>
    match popCall k x.calls with
    | some (va, cs) => { x with calls := cs }.sendTo [k] va
    | none => x) x).pruneCalls

/-- The topmost handler entry taken off. -/
def popHandlerCall : List CallEntry → Option (Nat × List CallEntry)
  | [] => none
  | c :: r =>
    if c.handler then some (c.ret, r)
    else
      match popHandlerCall r with
      | some (va, r') => some (va, c :: r')
      | none => none

def execRet (bp : Pr) (s : State) : Host.Outcome State Fault Refusal :=
  issueMove (.ret bp) s fun s =>
    match s.focus.kind with
    | .path u g ks =>
      let x := s.grp u g
      let lost := ks.filter fun k => (popCall k x.calls).isNone
      if lost.isEmpty then s.onGrp u g fun x => x.returnAll ks else s.onGrp u g fun x => x.park lost 0x05 0
    | .handler u g =>
      match popHandlerCall (s.grp u g).calls with
      | some (va, cs) => (s.onGrp u g fun x => { x with calls := cs }).goto va
      | none => s.trapPath 0x05
    | .thread q =>
      match (s.squeue q).thread.calls with
      | va :: r => (s.onSqueue q fun x => { x with thread := { x.thread with calls := r } }).goto va
      | [] => s.trapPath 0x05
    | .none => s

/-- Puts the path's strands into a wait at the present instruction. -/
def State.waitIn (s : State) (w : Wait) : State :=
  match s.focus.kind with
  | .path u g ks => s.onGrp u g fun x => x.onStrands ks fun t => if t.st == .active then { t with wait := w } else t
  | _ => s

/-- RJOIN (R170); the end of the pass releases the group's strands when all of them wait here.  The handler is one path with no
strands of its own, so that an RJOIN in it has no strand to hold: it goes on to the next clause (DESIGN CHOICE, log entry 21). -/
def execRjoin (bp : Pr) (s : State) : Host.Outcome State Fault Refusal :=
  issueMove (.rjoin bp) s fun s =>
    match s.focus.kind with
    | .path _ _ _ => s.waitIn (.rjoin s.focus.n)
    | _ => s.nextClause

/-! Triggering and exit -/

/-- Marks strands as triggered and counts those that were not (R129, R131); the dispatch clock takes their ticks (R128). -/
def State.triggerStrands (s : State) (u g : Nat) (ks : List Nat) : State :=
  let b := s.block u
  let x := s.grp u g
  let new := ks.filter fun k => !(x.strand k).triggered
  let t := x.pathTime ks
  let s := s.onLaunch b.dist b.lid fun l => { l with untrig := l.untrig - new.length }
  let s := s.onDistrict b.dist fun d => { d with clock := max d.clock t }
  s.onStrands u g ks fun y => { y with triggered := true }

/-- Makes strands exited (R171): out of every call mask, and the registers are compressed without them (R215). -/
def State.exitStrands (s : State) (u g : Nat) (ks : List Nat) : State :=
  (s.triggerStrands u g ks).onGrp u g fun x =>
    let y := x.onStrands ks fun t => { t with st := .exited, wait := .none, replay := none }
    let y := { y with calls := y.calls.map fun (c : CallEntry) => { c with mask := c.mask.filter fun k => !ks.contains k } }
    x.leaves y.pruneCalls.compressAll

/-- A service thread goes idle (R441, R442). -/
def State.haltThread (s : State) (q : Nat) : State := s.onSqueue q fun x => { x with tstate := 3 }

/-- The end of a handler resumes the suspended tile operations of its group, but for those whose own trap is still to come, or
cancels them when no strand is left; what it cancels has left the other members of its gang too (R301, R302). -/
def State.resumeOps (s : State) (u g : Nat) : State :=
  let c := (s.block u).core
  let hit := s.suspended u g
  if (s.grp u g).living.isEmpty then
    hit.foldl (fun s o =>
      o.others g |>.foldl (fun s h => s.settle u h) ((s.dropOp c o.id).countErr (s.block u).dist 5 1)) s
  else
    hit.foldl (fun s o =>
      if (s.grp u g).pendTraps.any fun t => t.2.2 == some o.id then s
      else s.onSuspended c o.id fun p => { p with back := g :: p.back }) s

/-- EXIT (R171, R175, R442). -/
def execExit (bp : Pr) (s : State) : Host.Outcome State Fault Refusal :=
  issueMove (.exit bp) s fun s =>
    match s.focus.kind with
    | .path u g ks => s.exitStrands u g ks
    | .handler u g => ((s.exitStrands u g (s.grp u g).trapStrands).onGrp u g Group.endHandler).resumeOps u g
    | .thread q => s.haltThread q
    | .none => s

/-- WAIT (R172): the results that it waited for join the path's order (R46). -/
def execWait (wl ws wc wt : BitVec 3) (bp : Pr) (s : State) : Host.Outcome State Fault Refusal :=
  issue (.wait wl ws wc wt bp) s fun _ s =>
    match s.who with
    | some (u, g, b) =>
      s.onGrp u g fun x => x.raise (if b then x.living else s.pathStrands) (x.joinTime ws.toNat wc.toNat wt.toNat)
    | none => s

/-- YIELD (R173): the lane scheduler reads the mark. -/
def execYield (bp : Pr) (s : State) : Host.Outcome State Fault Refusal :=
  issue (.yield bp) s fun _ s =>
    match s.who with
    | some (u, g, _) => s.onGrp u g fun x => { x with yielded := true }
    | none => s

/-- TRAP (R174): the path stands behind its clause, as fatal understudies. -/
def execTrapI (k : BitVec 8) (bp : Pr) (s : State) : Host.Outcome State Fault Refusal :=
  issueMove (.trap k bp) s fun s =>
    match s.focus.kind with
    | .path u g ks => s.onGrp u g fun x => (x.sendTo ks s.focus.nextClause).park ks 0x0a k.toNat
    | _ => s.trapPath 0x0a

/-- Whether RETT sends a strand to an address that can be no clause header (R48, R175). -/
def Group.badReturn (x : Group) : Bool :=
  x.trapa != x.trapaEntry && x.trapa.toNat % 4 != 0 && (strandsOf x.trapm.toNat x.width).any fun k =>
    match (x.strand k).st with
    | .exited => false
    | .replay _ => false
    | _ => true

/-- RETT (R175): the handler ends; the end of the pass enters the next trap, if fatal understudies remain (R164).  A return to an
address that is not a multiple of 4 is a misaligned transfer (R48), and so a fault in the handler. -/
def execRett (s : State) : Host.Outcome State Fault Refusal :=
  issueMove .rett s fun s =>
    match s.focus.kind with
    | .handler u g =>
      if (s.grp u g).badReturn then s.trapPath 0x08 else (s.onGrp u g Group.endHandler).resumeOps u g
    | _ => s

/-- LOOP (R176). -/
def execLoop (bp cr : Pr) (off : BitVec 18) (s : State) : Host.Outcome State Fault Refusal :=
  issueMove (.loop bp cr off) s fun s =>
    let v := s.readW (8 + cr.val) - 1
    let s := s.putW (8 + cr.val) v
    if v = 0 then s.nextClause else s.goto (s.target off)

/-! The cue (R165, R177) -/

/-- Starts phase n: the cue timer takes its budget and the launch's margin, or stays off. -/
def State.startCue (s : State) (u g n : Nat) : State :=
  let h := s.launchHdr (s.block u)
  let budget := match s.launchOf (s.block u) with
    | some l => if n = 0 then 0 else (l.cues.getD (n - 1) 0).toNat
    | none => 0
  s.onGrp u g fun x =>
    { x with cue := BitVec.ofNat 32 n, cueTimer := if budget = 0 then none else some (budget + hCueMargin h) }

def execCue (k : BitVec 8) (bp : Pr) (s : State) : Host.Outcome State Fault Refusal :=
  issue (.cue k bp) s fun _ s =>
    match s.who with
    | some (u, g, _) => s.startCue u g k.toNat
    | none => s

/-! Uniform arithmetic (R178 to R181) -/

def uniOp1 (i : Instr) (d a : Opd) (s : State) (op : W32 → W32) : Host.Outcome State Fault Refusal :=
  issue i s fun es s => s.putUni d (op (s.uniWord a (es.getD 0 none)))
def uniOp2 (i : Instr) (d a b : Opd) (s : State) (op : W32 → W32 → W32) : Host.Outcome State Fault Refusal :=
  issue i s fun es s => s.putUni d (op (s.uniWord a (es.getD 0 none)) (s.uniWord b (es.getD 1 none)))

def execWmov (d a : Opd) (bp : Pr) (s : State) := uniOp1 (.wmov d a bp) d a s fun x => x
def execWli (d : Opd) (lo hi : W32) (bp : Pr) (s : State) : Host.Outcome State Fault Refusal :=
  issue (.wli d lo hi bp) s fun _ s => s.putUni64 d (lo.toNat + 2 ^ 32 * hi.toNat)
def execWadd (d a b : Opd) (bp : Pr) (s : State) := uniOp2 (.wadd d a b bp) d a b s fun x y => x + y
def execWsub (d a b : Opd) (bp : Pr) (s : State) := uniOp2 (.wsub d a b bp) d a b s fun x y => x - y
def execWmul (d a b : Opd) (bp : Pr) (s : State) := uniOp2 (.wmul d a b bp) d a b s fun x y => x * y
def execWand (d a b : Opd) (bp : Pr) (s : State) := uniOp2 (.wand d a b bp) d a b s fun x y => x &&& y
def execWor (d a b : Opd) (bp : Pr) (s : State) := uniOp2 (.wor d a b bp) d a b s fun x y => x ||| y
def execWxor (d a b : Opd) (bp : Pr) (s : State) := uniOp2 (.wxor d a b bp) d a b s fun x y => x ^^^ y
def execWshl (d a b : Opd) (bp : Pr) (s : State) :=
  uniOp2 (.wshl d a b bp) d a b s fun x y => if y.toNat < 32 then x <<< y.toNat else 0
def execWshr (d a b : Opd) (bp : Pr) (s : State) :=
  uniOp2 (.wshr d a b bp) d a b s fun x y => if y.toNat < 32 then x >>> y.toNat else 0
def execWasr (d a b : Opd) (bp : Pr) (s : State) :=
  uniOp2 (.wasr d a b bp) d a b s fun x y => x.sshiftRight (min y.toNat 32)
def execWmin (d a b : Opd) (bp : Pr) (s : State) :=
  uniOp2 (.wmin d a b bp) d a b s fun x y => if y.toInt < x.toInt then y else x
def execWmax (d a b : Opd) (bp : Pr) (s : State) :=
  uniOp2 (.wmax d a b bp) d a b s fun x y => if x.toInt < y.toInt then y else x
def execWpopc (d a : Opd) (bp : Pr) (s : State) :=
  uniOp1 (.wpopc d a bp) d a s fun x => BitVec.ofNat 32 (ones x.toNat 32)

def execWcmp (c : BitVec 3) (t : Pr) (a b : Opd) (bp : Pr) (s : State) : Host.Outcome State Fault Refusal :=
  issue (.wcmp c t a b bp) s fun es s =>
    s.putB t.val (wcmpCond c.toNat (s.uniWord a (es.getD 0 none)) (s.uniWord b (es.getD 1 none)))

def execWsel (d a b : Opd) (c : Pr) (s : State) : Host.Outcome State Fault Refusal :=
  issue (.wsel d a b c) s fun es s =>
    s.putUni d (if s.readB c.val then s.uniWord a (es.getD 0 none) else s.uniWord b (es.getD 1 none))

def execWadd64 (d a b : Opd) (bp : Pr) (s : State) : Host.Outcome State Fault Refusal :=
  issue (.wadd64 d a b bp) s fun _ s => s.putUni64 d ((s.uniWord64 a true + s.uniWord64 b true) % 2 ^ 64)

/-! Special registers (R72, R182) -/

/-- The strand that a per-strand special register is read from: the lowest of the path, or of the strands of trapm in the
handler (DEDUCED, the handler has none of its own). -/
def State.lowStrand (s : State) : Nat :=
  match s.focus.kind with
  | .path _ _ ks => ks.headD 0
  | .handler u g => (s.grp u g).trapStrands.headD 0
  | _ => 0

/-- The value of a special register for a group (Table 14 of R72). -/
def State.sprGroup (s : State) (u g i : Nat) : Nat :=
  let b := s.block u
  let h := s.launchHdr b
  let x := s.grp u g
  let k := s.lowStrand
  let wid := workId h b.ident g k
  match i with
  | 0x00 => k
  | 0x01 => g
  | 0x02 => b.ident / 2 ^ (hFw h 0 + hFw h 1) % 2 ^ 32
  | 0x03 => hField h wid 0
  | 0x04 => hField h wid 1
  | 0x05 => hField h wid 2
  | 0x06 => hField h wid 3
  | 0x07 => hField h wid 4
  | 0x08 => hField h wid 5
  | 0x09 => wid % 2 ^ 32
  | 0x0a => wid / 2 ^ 32 % 2 ^ 32
  | 0x0b => x.lane
  | 0x0c => b.core
  | 0x0d => b.core / 4
  | 0x0e => b.dist
  | 0x0f => hDomain h
  | 0x10 => s.cycle % 2 ^ 64
  | 0x11 => (x.strand k).tick % 2 ^ 64
  | 0x12 => x.cue.toNat
  | 0x13 => x.trapc.toNat
  | 0x14 => x.trapm.toNat
  | 0x15 => x.trapa.toNat
  | _ => x.gang.toNat

/-- What a service thread reads (R442). -/
def State.sprThread (s : State) (q i : Nat) : Nat :=
  let x := s.squeue q
  match i with
  | 0x0e => x.district
  | 0x0f => x.domain
  | 0x10 => s.cycle % 2 ^ 64
  | 0x11 => x.thread.tick % 2 ^ 64
  | _ => 0

def State.readSpr (s : State) (i : Nat) : Nat :=
  match s.focus.kind with
  | .path u g _ => s.sprGroup u g i
  | .handler u g => s.sprGroup u g i
  | .thread q => s.sprThread q i
  | .none => 0

/-- A write of trapc, trapm or trapa (R182); the reserved bits of trapc stay 0 (Table 6 of R161). -/
def Group.putSpr (x : Group) (i v : Nat) : Group :=
  match i with
  | 0x13 => { x with trapc := BitVec.ofNat 32 (v % 2 ^ 16) }
  | 0x14 => { x with trapm := BitVec.ofNat 64 v }
  | 0x15 => { x with trapa := BitVec.ofNat 64 v }
  | _ => x

def execWrs (d : Opd) (i : BitVec 6) (bp : Pr) (s : State) : Host.Outcome State Fault Refusal :=
  issue (.wrs d i bp) s fun _ s =>
    if spr64 i.toNat then s.putUni64 d (s.readSpr i.toNat) else s.putUni d (BitVec.ofNat 32 (s.readSpr i.toNat))

def execWws (i : BitVec 6) (a : Opd) (bp : Pr) (s : State) : Host.Outcome State Fault Refusal :=
  issue (.wws i a bp) s fun es s =>
    let v := if spr64 i.toNat then s.uniWord64 a false else (s.uniWord a (es.getD 0 none)).toNat
    match s.who with
    | some (u, g, _) => s.onGrp u g fun x => x.putSpr i.toNat v
    | none => s

end Sys2Proof.Machine
end

