-- ==== Sys2Proof/Machine/Access.lean ====
section
/-! DEFINITION. Class 2 and the access engine: checks at issue, parts and their replies, scratchpad accesses, fences, monitors,
and the homes' reads, writes and atomics as events (R183 to R211, R377, R378, R382, R416). -/

namespace Sys2Proof.Machine

/-! Addresses and checks -/

/-- ea of R62: the key is never changed. -/
def ea (base : Nat) (index : W32) (off : BitVec 12) (unit : Nat) : Nat :=
  keyOf base * 2 ^ 48 + wrapN ((offOf base : Int) + index.toInt + off.toInt * unit) 48

/-- The same sum on a 32-bit scratchpad offset. -/
def scrEa (base : Nat) (index : W32) (off : BitVec 12) (unit : Nat) : Nat :=
  wrapN ((base : Int) + index.toInt + off.toInt * unit) 32

/-- A base pair or single register in a strand. -/
def baseVal (x : Group) (pair : Bool) (o : Opd) (k : Nat) : Nat :=
  match o with
  | .v n => if pair then wordsNat [x.getV n.val k, x.getV (n.val + 1) k] else (x.getV n.val k).toNat
  | .w n => if pair then wordsNat [x.getW n.val, x.getW (n.val + 1)] else (x.getW n.val).toNat
  | _ => 0

def indexVal (x : Group) (o : Opd) (k : Nat) : W32 :=
  match o with
  | .v n => x.getV n.val k
  | .w n => x.getW n.val
  | _ => 0

/-- Check 2 and check 3 of Table 1 of R183 for entries of a key table, launch privilege and a district: the trap code. -/
def State.mayAccess (s : State) (es : List W32) (priv : Bool) (d va need : Nat) : Option Nat :=
  if keyOf va = 0xfffd then (if priv then none else some 0x06)
  else if 0xfffe ≤ keyOf va then some 0x06
  else if !hasRights (rightsIn es (keyOf va)) need then some 0x06
  else if (s.distLookup d va).isNone then some 0x07
  else none

/-- Table 1 of R183 for a memory form of a block: alignment, key, distribution entry. -/
def State.checkMem (s : State) (u va align need : Nat) : Option Nat :=
  let b := s.block u
  let h := s.launchHdr b
  if va % align ≠ 0 then some 0x08
  else s.mayAccess ((s.core b.core).domainEntries b.dist (hDomain h)) (hPriv h) b.dist va need

/-- The scratchpad form's checks. -/
def Block.checkScr (b : Block) (off size : Nat) : Option Nat :=
  if off % size ≠ 0 then some 0x08 else if b.scrBytes < off + size then some 0x06 else none

/-! Parts -/

/-- The district's default lease (R114, R377). -/
def State.lease (s : State) (d : Nat) : Nat := (s.district d).lease

/-- A part of a path's strands, less its place. -/
def State.strandPart (s : State) (u g : Nat) (ks : List Nat) (kind : PartKind) (va len : Nat) : Part :=
  let b := s.block u
  let h := s.launchHdr b
  let x := s.grp u g
  { src := .strands u g ks, kind := kind, va := va, len := len, vf := vfNum b.dist b.vf, dist := b.dist,
    domain := hDomain h, priv := hPriv h, promo := true, dev := s.dev.devnum,
    writer := if kind == .pst then 1 else if kind == .atom || kind == .red then 5 else 0,
    clk := x.pathTime (if ks.isEmpty then x.living else ks), lam := s.lease b.dist,
    pc := s.focus.pc, hdr := s.focus.hdr, idx := s.focus.idx }

/-- Sends parts, each to the home that its address names (R186, R364); a missing entry was refused before. -/
def State.sendParts (s : State) : List Part → State × List Nat
  | [] => (s, [])
  | p :: r =>
    let (dev, home) := (s.route p.dist p.va).getD (s.dev.devnum, 0)
    let id := s.nextId
    let s := s.count p.dist p.vf 0x07 1
    let s := s.send { p with dev := dev, home := home }
    let (s, ids) := State.sendParts s r
    (s, id :: ids)

/-- A counted instruction starts (R22): its counter rises by one however many parts it has. -/
def State.openIssue (s : State) (e : Issue) (ps : List Part) : State :=
  if ps.isEmpty then s
  else
    let (n, s) := s.newId
    let (s, ids) := s.sendParts (ps.map fun p => { p with issue := n })
    let s := { s with issues := s.issues ++ [{ e with id := n, left := ids, pc := s.focus.pc, hdr := s.focus.hdr,
                                                      idx := s.focus.idx }] }
    s.onGrp e.blk e.grp fun x => x.bump e.ctr (· + 1)

/-- A write has been performed that a FENCE may wait for, a posted store or not: the newest of those that a waiting one waits for
(R208). -/
def Group.fenceSaw (x : Group) (id ts : Nat) (pst : Bool) : Group :=
  { x with pstTs := if pst then max x.pstTs ts else x.pstTs
           strands := x.strands.map fun t =>
             match t.wait with
             | .fence n m p => if id < n && (pst || !p) then { t with wait := .fence n (max m ts) p } else t
             | _ => t }

/-- A part counts as complete (R22, R24): the last one of its instruction lowers the counter. -/
def State.closePart (s : State) (p : Part) (ts : Nat) : State :=
  match firstWith (fun e => e.id == p.issue) s.issues with
  | none => s
  | some e =>
    let s := s.onGrp e.blk e.grp fun x => (x.fenceSaw e.id ts e.pst).sawCtr e.ctr ts
    let left := e.left.filter (· != p.id)
    if left.isEmpty then
      let s := { s with issues := s.issues.filter fun f => f.id != e.id }
      (s.onGrp e.blk e.grp fun x => x.bump e.ctr (· - 1)).settle e.blk e.grp
    else { s with issues := updWhere (fun f => f.id == e.id) (fun f => { f with left := left }) s.issues }

/-- Parts of other sources: the part that answers a request, if it has been sent; it stays until its source drops it. -/
def State.asked (s : State) (p : Part) : Option Part :=
  firstWith (fun q => q.src == p.src && q.va == p.va && q.kind == p.kind && q.len == p.len && q.data == p.data) s.parts

inductive Ans where
  | wait
  | ok (data : List W8) (wts rts bad : Nat)
  | fatal (code : Nat)
  deriving DecidableEq, Repr

/-- Asks for an access on behalf of an engine, a thread or another unit: sends the part the first time, and answers from its
reply afterwards. -/
def State.askAt (s : State) (p : Part) (r : Option (Nat × Nat)) : State × Ans :=
  match s.asked p with
  | none =>
    match r with
    | none => (s, .fatal 7)
    | some (dev, home) => (s.send { p with dev := dev, home := home }, .wait)
  | some q =>
    match q.st with
    | .replied (.accept d w r b) => (s, .ok d w r b)
    | .replied (.fatal c) => (s, .fatal c)
    | _ => (s, .wait)

def State.ask (s : State) (p : Part) : State × Ans := s.askAt p (s.route p.dist p.va)

/-- Drops the answered parts of a source. -/
def State.dropSrc (s : State) (src : PartSrc) : State := { s with parts := s.parts.filter fun p => p.src != src }

/-- Bytes of an answered line. -/
def lineBytes (data : List W8) (va len : Nat) : List W8 := (data.drop (va % 64)).take len

/-! Memory forms -/

/-- Parks one strand at the present instruction with a code. -/
def State.faultStrand (s : State) (u g k code : Nat) : State := s.onGrp u g fun x => x.park [k] code 0

/-- What a covered strand of a memory form accesses: address, data, compare value; a replay brings its own (R159, R195). -/
def Strand.operands (t : Strand) (va : Nat) (data cmp : List W8) : Nat × List W8 × List W8 × Bool :=
  match t.replay with
  | some r => (r.va, r.data, r.cmp, true)
  | none => (va, data, cmp, false)

/-- Checks each covered strand in order: those that fail park, the others give their operands (R183). -/
def State.checkAll (s : State) (u g align need : Nat) (opnds : Nat → Nat × List W8 × List W8) :
    List Nat → State × List (Nat × Nat × List W8 × List W8 × Bool)
  | [] => (s, [])
  | k :: r =>
    let (va, d, c) := opnds k
    let (va, d, c, rep) := ((s.grp u g).strand k).operands va d c
    match s.checkMem u va (if rep then 1 else align) need with
    | some code => State.checkAll (s.faultStrand u g k code) u g align need opnds r
    | none =>
      let (s, l) := State.checkAll s u g align need opnds r
      (s, (k, va, d, c, rep) :: l)

/-- Registers held at delta width 0, w codes, constants (R199). -/
def Group.flat (x : Group) (words : Nat) (o : Opd) : Bool :=
  match o with
  | .v n => (List.range words).all fun j => (x.vregs.getD (n.val + j) {}).width = 0
  | .strandIdx => false
  | _ => true

/-- A collapsed access's strands share one part (R199); the others have one each. -/
def State.partsOf (s : State) (u g : Nat) (kind : PartKind) (size : Nat) (collapse : Bool)
    (l : List (Nat × Nat × List W8 × List W8 × Bool)) : List Part :=
  if collapse then
    -- replayed strands bring the operands of their own part: those with the same are one access again
    (l.map fun e => (e.2.1, e.2.2.1, e.2.2.2.1)).dedup.map fun o =>
      { s.strandPart u g ((l.filter fun e => (e.2.1, e.2.2.1, e.2.2.2.1) == o).map Prod.fst) kind o.1 size with
        data := o.2.1, cmp := o.2.2 }
  else l.map fun e =>
    { s.strandPart u g [e.1] kind e.2.1 size with data := e.2.2.1, cmp := e.2.2.2.1 }

/-- A correctable error of an L1 line is corrected and counted (R190). -/
def State.l1Corrected (s : State) (c va d : Nat) : State :=
  (s.onCore c fun k => { k with l1 := updWhere (fun x => x.line == lineOf va) (fun x => { x with err := 0 }) k.l1 }).countErr d 1 1

/-- A load that the L1 may serve answers from there (R188): its part is as if replied. -/
def State.l1Serve (s : State) (id : Nat) : State :=
  match s.part id with
  | none => s
  | some p =>
    let b := match p.src with
      | .strands u _ _ => s.block u
      | _ => {}
    if keyOf p.va = 0xfffd ∨ p.hint = 3 then s
    else
      match s.l1Find b.core p.va with
      | some c =>
        if c.err = 2 then
          -- an uncorrectable line goes, and the part is a miss (R190)
          ((s.l1Drop b.core p.va).countErr p.dist 1 1).count p.dist p.vf 0x0a 1
        else
          let s := if c.err = 1 then s.l1Corrected b.core p.va p.dist else s
          if c.serves p.clk p.lam s.cycle then
            (((s.l1Touch b.core p.va p.hint).onPart id fun q => { q with sentAt := c.grant, l1 := true }).later id
              (.replied (.accept c.data c.wts c.rts 0))).count p.dist p.vf 0x09 1
          else s.count p.dist p.vf 0x0a 1
      | none => s.count p.dist p.vf 0x0a 1

/-- Collapsed accesses are counted (event 0x08 of R476). -/
def State.countCollapsed (s : State) (u : Nat) (on : Bool) (ps : List Part) : State :=
  let b := s.block u
  if on then s.count b.dist (vfNum b.dist b.vf) 0x08 ps.length else s

/-- LD and ST (R198): checks, collapse, parts, the counter. -/
def State.memAccess (s : State) (e : Issue) (kind : PartKind) (align need : Nat) (collapse : Bool) (p : Pr) (hint aop ty : Nat)
    (opnds : Nat → Nat × List W8 × List W8) : State :=
  let u := e.blk
  let g := e.grp
  let (s, l) := s.checkAll u g align need opnds (s.covered p)
  let ps := (s.partsOf u g kind e.size collapse l).map fun q => { q with hint := hint, aop := aop, ty := ty }
  let s := s.countCollapsed u collapse ps
  let first := s.nextId + 1
  let s := s.openIssue e ps
  if kind == .load then (List.range ps.length).foldl (fun s j => s.l1Serve (first + j)) s else s

/-- Bytes of a store source in a strand (R58, R198). -/
def storeBytes (x : Group) (o : Opd) (n : Nat) (k : Nat) : List W8 :=
  if n = 16 then leBytes 16 (laneVal128 x o false k)
  else if n = 8 then leBytes 8 (laneVal x .n64 o none k % 2 ^ 64)
  else leBytes n (laneVal x .n32 o none k)

def execLd (k : Fin 5) (data base index : Opd) (p : Pr) (sx : Bool) (hint : BitVec 3) (off : BitVec 12) (s : State) :
    Host.Outcome State Fault Refusal :=
  issue (.ld k data base index p sx hint off) s fun _ s =>
    match s.who with
    | some (u, g, _) =>
      let x := s.grp u g
      let n := 2 ^ k.val
      s.memAccess { id := 0, blk := u, grp := g, ctr := 0, dest := data, bits := 8 * n, sx := sx, size := n } .load n rightRD
        (x.flat 2 base && x.flat 1 index) p hint.toNat 0 0
        fun j => (ea (baseVal x true base j) (indexVal x index j) off n, [], [])
    | none => s

def execSt (k : Fin 5) (data base index : Opd) (p : Pr) (hint : BitVec 3) (off : BitVec 12) (s : State) :
    Host.Outcome State Fault Refusal :=
  issue (.st k data base index p hint off) s fun _ s =>
    match s.who with
    | some (u, g, _) =>
      let x := s.grp u g
      let n := 2 ^ k.val
      s.memAccess { id := 0, blk := u, grp := g, ctr := 1, size := n } .store n rightW
        (x.flat 2 base && x.flat 1 index && x.flat (ceilDiv n 4) data) p hint.toNat 0 0
        fun j => (ea (baseVal x true base j) (indexVal x index j) off n, storeBytes x data n j, [])
    | none => s

/-- Bytes of a 32-, 64- or 128-bit atomic operand (R58, R201). -/
def atomBytes (x : Group) (ty : Nat) (o : Opd) (k : Nat) : List W8 :=
  if ty = 6 then leBytes 16 (laneVal128 x o false k) else leBytes (atomSize ty) (laneVal x (atomFmt ty) o none k)

/-- The compare value that DATA holds (R201); 112 compares with 0. -/
def cmpBytes (x : Group) (ty : Nat) (o : Opd) (k : Nat) : List W8 :=
  match o with
  | .v _ => atomBytes x ty o k
  | _ => leBytes (atomSize ty) 0

def execAtom (data base index c : Opd) (p : Pr) (ty : BitVec 3) (aop : BitVec 4) (hint : BitVec 3) (off : BitVec 12)
    (s : State) : Host.Outcome State Fault Refusal :=
  issue (.atom data base index c p ty aop hint off) s fun _ s =>
    match s.who with
    | some (u, g, _) =>
      let x := s.grp u g
      let n := atomSize ty.toNat
      s.memAccess { id := 0, blk := u, grp := g, ctr := 0, dest := data, bits := 8 * n, size := n } .atom n (rightRD + rightA)
        false p hint.toNat aop.toNat ty.toNat
        fun j => (ea (baseVal x true base j) (indexVal x index j) off n, atomBytes x ty.toNat c j, cmpBytes x ty.toNat data j)
    | none => s

def execRed (data base index : Opd) (p : Pr) (ty : BitVec 3) (aop : BitVec 4) (hint : BitVec 3) (off : BitVec 12)
    (s : State) : Host.Outcome State Fault Refusal :=
  issue (.red data base index p ty aop hint off) s fun _ s =>
    match s.who with
    | some (u, g, _) =>
      let x := s.grp u g
      let n := atomSize ty.toNat
      s.memAccess { id := 0, blk := u, grp := g, ctr := 1, size := n } .red n rightA
        false p hint.toNat aop.toNat ty.toNat
        fun j => (ea (baseVal x true base j) (indexVal x index j) off n, atomBytes x ty.toNat data j, [])
    | none => s

/-- PST (R204): one entry of eq7 that holds every covered strand's part. -/
def execPst (data base index : Opd) (p : Pr) (ty : BitVec 3) (off : BitVec 12) (s : State) :
    Host.Outcome State Fault Refusal :=
  issue (.pst data base index p ty off) s fun _ s =>
    match s.who with
    | some (u, g, _) =>
      let x := s.grp u g
      let n := 2 ^ ty.toNat
      let id := s.nextId
      let s := s.memAccess { id := 0, blk := u, grp := g, ctr := 1, size := n, pst := true } .pst n rightW false p 0 0 0
        fun j => (ea (baseVal x true base j) (indexVal x index j) off n, storeBytes x data n j, [])
      match s.issues.getLast? with
      | some e =>
        if e.id = id then
          s.onCore (s.block u).core fun c => { c with eq7 := c.eq7 ++ [{ id := id, blk := u, grp := g, parts := e.left }] }
        else s
      | none => s
    | none => s

/-! LDW and STW, once for the path, the handler or a service thread -/

/-- The entries, privilege and district under which a path, a handler or a service thread accesses memory. -/
def State.accessor (s : State) : List W32 × Bool × Nat :=
  match s.focus.kind with
  | .thread q =>
    let x := s.squeue q
    (s.keyEntries x.district x.domain, x.priv, x.district)
  | _ =>
    match s.who with
    | some (u, _, _) =>
      let b := s.block u
      let h := s.launchHdr b
      ((s.core b.core).domainEntries b.dist (hDomain h), hPriv h, b.dist)
    | none => ([], false, 0)

/-- A part of a service thread; a thread counts as privileged at the homes (R370, R442). -/
def State.threadPart (s : State) (q : Nat) (kind : PartKind) (va len : Nat) (data : List W8) : Part :=
  let x := s.squeue q
  { src := .thread q, kind := kind, va := va, len := len, data := data, vf := x.owner, dist := x.district,
    domain := x.domain, priv := true, dev := s.dev.devnum, writer := 8, clk := x.thread.tick,
    lam := s.lease x.district }

def State.setThread (s : State) (q : Nat) (f : Thread → Thread) : State :=
  s.onSqueue q fun x => { x with thread := f x.thread }

/-- Counts an event of a service thread for its OWNER (R491). -/
def State.countThread (s : State) (q code : Nat) : State :=
  let x := s.squeue q
  s.count x.district x.owner code 1

/-- One access of a service thread: it waits for the reply, and goes on with the data. -/
def State.threadAccess (s : State) (q : Nat) (p : Part) (k : List W8 → State → State) : State :=
  let fresh := (s.asked p).isNone
  let s := if fresh then s.countThread q 0x07 else s
  match s.ask p with
  | (s, .wait) => s.setThread q fun t => { t with busy := true }
  | (s, .fatal c) => (s.dropSrc (.thread q)).threadFault q c
  | (s, .ok d wts _ _) =>
    let s := (s.dropSrc (.thread q)).setThread q fun t => { t with busy := false, tick := max t.tick wts }
    (k d s).advance

/-- The address of LDW and STW. -/
def State.wEa (s : State) (base index : Opd) (off : BitVec 12) (unit : Nat) : Nat :=
  let b := match base with
    | .w n => s.readW64 n.val
    | _ => 0
  let i : W32 := match index with
    | .w n => s.readW n.val
    | _ => 0
  ea b i off unit

/-- Bytes of an STW source (R201, R58). -/
def State.wBytes (s : State) (o : Opd) (n : Nat) : List W8 :=
  match o with
  | .w m => (List.range (n / 4)).flatMap fun j => leBytes 4 (s.readW (m.val + j)).toNat
  | .one => leBytes n 1
  | .mone => List.replicate n 0xff
  | .two => leBytes n 2
  | .grpWidth => leBytes n (match s.who with
    | some (u, g, _) => (s.grp u g).width
    | none => 1)
  | .lit x => leBytes n x.toNat
  | _ => leBytes n 0

/-- The accesses of an LDW or STW: one for the strands that issue it anew, one for those that a wake has brought back with the same
operands (R195, R198); a strand of a part that fails a check parks. -/
def State.wRequests (s : State) (u g : Nat) (kind : PartKind) (va n need : Nat) (data : List W8) :
    List (Option Replay × List Nat) → State × List Part
  | [] => (s, [])
  | (rep, js) :: r =>
    let (va', data', align) := match rep with
      | some o => (o.va, o.data, 1)
      | none => (va, data, n)
    match s.checkMem u va' align need with
    | some c => State.wRequests (s.onGrp u g fun x => x.park js c 0) u g kind va n need data r
    | none =>
      let p := { s.strandPart u g js kind va' n with data := data' }
      let (s, ps) := State.wRequests s u g kind va n need data r
      (s, p :: ps)

/-- The strands of an LDW or STW by the operands that they bring; a handler has none. -/
def Group.byReplay (x : Group) (ks : List Nat) : List (Option Replay × List Nat) :=
  if ks.isEmpty then [(none, [])]
  else (ks.map fun k => (x.strand k).replay).dedup.map fun o => (o, ks.filter fun k => (x.strand k).replay == o)

/-- LDW and STW of a path or a handler. -/
def State.wAccess (s : State) (e : Issue) (kind : PartKind) (va n need : Nat) (data : List W8) (p : Pr) (hint : Nat) : State :=
  let u := e.blk
  let g := e.grp
  match s.focus.kind, s.checkMem u va n need with
  | .handler .., some c => s.trapPath c
  | _, _ =>
    let (s, ps) := s.wRequests u g kind va n need data ((s.grp u g).byReplay (s.covered p))
    let first := s.nextId + 1
    let s := s.openIssue e (ps.map fun q => { q with hint := hint })
    (if kind == .load then (List.range ps.length).foldl (fun s j => s.l1Serve (first + j)) s else s).advance

def putWords (s : State) (d : Opd) (bytes : List W8) : State :=
  match d with
  | .w n => (List.range (bytes.length / 4)).foldl (fun s j => s.putW (n.val + j) (BitVec.ofNat 32 (fieldLe bytes (4 * j) 4))) s
  | _ => s

def execLdw (data base index : Opd) (p : Pr) (ty hint : BitVec 3) (off : BitVec 12) (s : State) :
    Host.Outcome State Fault Refusal :=
  issueMove (.ldw data base index p ty hint off) s fun s =>
    let n := 2 ^ ty.toNat
    let va := s.wEa base index off n
    match s.focus.kind with
    | .thread q =>
      let (es, priv, d) := s.accessor
      match (if va % n ≠ 0 then some 0x08 else s.mayAccess es priv d va rightRD) with
      | some c => s.threadFault q c
      | none => s.threadAccess q (s.threadPart q .load va n []) fun bytes s => putWords s data (lineBytes bytes va n)
    | _ =>
      match s.who with
      | some (u, g, _) =>
        s.wAccess { id := 0, blk := u, grp := g, ctr := 0, dest := data, bits := 8 * n, size := n } .load va n rightRD [] p
          hint.toNat
      | none => s

def execStw (data base index : Opd) (p : Pr) (ty hint : BitVec 3) (off : BitVec 12) (s : State) :
    Host.Outcome State Fault Refusal :=
  issueMove (.stw data base index p ty hint off) s fun s =>
    let n := 2 ^ ty.toNat
    let va := s.wEa base index off n
    let bytes := s.wBytes data n
    match s.focus.kind with
    | .thread q =>
      let (es, priv, d) := s.accessor
      match (if va % n ≠ 0 then some 0x08 else s.mayAccess es priv d va rightW) with
      | some c => s.threadFault q c
      | none =>
        s.threadAccess q (s.threadPart q .store va n bytes) fun _ s =>
          -- a write to the ring's header line makes the pager's held records try again (R488)
          if lineOf va = lineOf (s.squeue q).ring then s.post (.consumedRecheck q) else s
    | _ =>
      match s.who with
      | some (u, g, _) =>
        s.wAccess { id := 0, blk := u, grp := g, ctr := 1, size := n } .store va n rightW bytes p hint.toNat
      | none => s

/-! Scratchpad forms (R194) -/

/-- The accesses of a scratchpad instruction by its covered strands, in the lane-cycles of their strands: a strand that fails a check
parks; collapsed ones are one access, in the first strand's lane-cycle, whose result comes with the last strand's (R194, R199). -/
def State.scrAccess (s : State) (o : ScrOp) (collapse : Bool) (addr : Nat → Nat) (data cmp : Nat → List W8) (ks : List Nat) : State :=
  let (bad, ok) := ks.partition fun k => ((s.block o.blk).checkScr (addr k) o.size).isSome
  let s := bad.foldl (fun s k => s.faultStrand o.blk o.grp k (((s.block o.blk).checkScr (addr k) o.size).getD 0x06)) s
  let at0 (k : Nat) : Nat × Nat := match firstWith (fun e => e.1 == k) s.focus.wb with
    | some e => e.2
    | none => (s.cycle, s.cycle + 6)
  let one (k : Nat) (js : List Nat) : ScrOp :=
    { o with ks := js, cyc := (at0 k).1, due := js.foldl (fun a j => max a (at0 j).2) 0, off := addr k, data := data k, cmp := cmp k,
             second := s.focus.second }
  let ops := match ok with
    | [] => []
    | k :: _ => if collapse then [one k ok] else ok.map fun k => one k [k]
  let s := if collapse then s.count (s.block o.blk).dist (vfNum (s.block o.blk).dist (s.block o.blk).vf) 0x08 ops.length else s
  { s with scrOps := ops.foldl (fun l o => insertScr o l) s.scrOps }

def execLds (k : Fin 5) (data base index : Opd) (p : Pr) (sx : Bool) (off : BitVec 12) (s : State) :
    Host.Outcome State Fault Refusal :=
  issue (.lds k data base index p sx off) s fun _ s =>
    match s.who with
    | some (u, g, _) =>
      let x := s.grp u g
      let n := 2 ^ k.val
      s.scrAccess { blk := u, grp := g, ks := [], cyc := 0, off := 0, size := n, act := 0, dest := data, bits := 8 * n, sx := sx }
        (x.flat 1 base && x.flat 1 index) (fun j => scrEa (baseVal x false base j) (indexVal x index j) off n)
        (fun _ => []) (fun _ => []) (s.covered p)
    | none => s

def execSts (k : Fin 5) (data base index : Opd) (p : Pr) (off : BitVec 12) (s : State) : Host.Outcome State Fault Refusal :=
  issue (.sts k data base index p off) s fun _ s =>
    match s.who with
    | some (u, g, _) =>
      let x := s.grp u g
      let n := 2 ^ k.val
      s.scrAccess { blk := u, grp := g, ks := [], cyc := 0, off := 0, size := n, act := 1 }
        (x.flat 1 base && x.flat 1 index && x.flat (ceilDiv n 4) data)
        (fun j => scrEa (baseVal x false base j) (indexVal x index j) off n)
        (fun j => storeBytes x data n j) (fun _ => []) (s.covered p)
    | none => s

def execAtoms (data base index c : Opd) (p : Pr) (ty : BitVec 3) (aop : BitVec 4) (off : BitVec 12) (s : State) :
    Host.Outcome State Fault Refusal :=
  issue (.atoms data base index c p ty aop off) s fun _ s =>
    match s.who with
    | some (u, g, _) =>
      let x := s.grp u g
      let n := atomSize ty.toNat
      s.scrAccess { blk := u, grp := g, ks := [], cyc := 0, off := 0, size := n, act := 2, aop := aop.toNat, ty := ty.toNat,
                    dest := data, bits := 8 * n }
        false (fun j => scrEa (baseVal x false base j) (indexVal x index j) off n)
        (fun j => atomBytes x ty.toNat c j) (fun j => cmpBytes x ty.toNat data j) (s.covered p)
    | none => s

/-! PREF, FENCE, MON, SLEEP -/

/-- PREF (R207): a part that fails a check is dropped, and nothing waits. -/
def execPref (base index : Opd) (p : Pr) (hint : BitVec 3) (off : BitVec 12) (s : State) : Host.Outcome State Fault Refusal :=
  issue (.pref base index p hint off) s fun _ s =>
    match s.who with
    | some (u, g, _) =>
      let x := s.grp u g
      let vas := (s.covered p).map fun k => (k, ea (baseVal x true base k) (indexVal x index k) off 1)
      let ok := vas.filter fun e => (s.checkMem u e.2 1 rightRD).isNone &&
        (hint != 2 || (s.l1Find (s.block u).core e.2).isSome)
      (s.sendParts (ok.map fun e => { s.strandPart u g [e.1] .pref e.2 1 with hint := hint.toNat })).1
    | none => s

/-- A FENCE waits for what was issued before it, and takes the newest write of that, whether it was performed before the FENCE or
while it waited (R46, R208).  In the handler, whose group has no other order, every strand takes it. -/
def fenceBy (i : Instr) (pstOnly : Bool) (s : State) : Host.Outcome State Fault Refusal :=
  issueMove i s fun s =>
    match s.focus.kind with
    | .path u g ks =>
      let ts := (s.grp u g).newest pstOnly
      match s.pathWait with
      | .fence _ ts _ => (s.onGrp u g fun x => x.raise ks ts).advance
      | _ =>
        if s.fenceHolds u g s.nextId pstOnly then s.waitIn (.fence s.nextId ts pstOnly)
        else (s.onGrp u g fun x => x.raise ks ts).advance
    | .handler u g => (s.onGrp u g fun x => x.raise x.living (x.newest pstOnly)).advance
    | _ => s.advance

def execFenceP (p : Pr) (s : State) := fenceBy (.fenceP p) true s
/-- The home performs a write to a host frame only when it has completed at its port (R458), so FENCE.h waits for what FENCE.a
waits for. -/
def execFenceH (p : Pr) (s : State) := fenceBy (.fenceH p) false s
def execFenceA (p : Pr) (s : State) := fenceBy (.fenceA p) false s

/-- The lines that a MON adds: at most four stand in the set, more set OVER (R210). -/
def addLines : List Nat → List Nat → List Nat × List Nat × Bool
  | [], m => (m, [], false)
  | l :: r, set =>
    if set.contains l then addLines r set
    else if 4 ≤ set.length then
      let (a, b, _) := addLines r set
      (a, b, true)
    else
      let (a, b, o) := addLines r (set ++ [l])
      (a, l :: b, o)

def execMon (base index : Opd) (p : Pr) (off : BitVec 12) (s : State) : Host.Outcome State Fault Refusal :=
  issueMove (.mon base index p off) s fun s =>
    match s.focus.kind with
    | .thread q =>
      let va := s.wEa base index off 1
      let (es, priv, d) := s.accessor
      match s.mayAccess es priv d va rightRD with
      | some c => s.threadFault q c
      | none =>
        let p := s.threadPart q .mon (va / 64 * 64) 1 []
        if (s.asked p).isSome then s.threadAccess q p fun _ s => s
        else
          -- the line stands in the set from the sending on: a write, or a full table, may wake the thread before the reply (R389)
          let (armed, new, ov) := addLines [lineOf va] (s.squeue q).thread.monLines
          let s := s.setThread q fun t => { t with monLines := armed, overF := t.overF || ov }
          if new.isEmpty then s.advance else s.threadAccess q p fun _ s => s
    | _ =>
      match s.who with
      | some (u, g, _) =>
        let x := s.grp u g
        let (s, l) := s.checkAll u g 1 rightRD
          (fun k => (ea (baseVal x true base k) (indexVal x index k) off 1, [], [])) (s.covered p)
        let (armed, new, ov) := addLines (l.map fun e => lineOf e.2.1) x.monLines
        let s := s.onGrp u g fun x => { x with monLines := armed, overF := x.overF || ov }
        let ps := new.map fun m => s.strandPart u g ((l.filter fun e => lineOf e.2.1 == m).map Prod.fst) .mon (64 * m) 1
        (s.sendParts ps).1.advance
      | none => s

/-- Takes a party off the homes' monitor tables (R211). -/
def State.disarm (s : State) (a : Armed) : State :=
  { s with homes := s.homes.map fun e => (e.1, { e.2 with monitors := e.2.monitors.filter fun m => m.who != a }) }

/-- SLEEP (R211). -/
def execSleep (p : Pr) (s : State) : Host.Outcome State Fault Refusal :=
  issueMove (.sleep p) s fun s =>
    match s.focus.kind with
    | .path u g ks =>
      let x := s.grp u g
      let woken := match s.pathWait with
        | .woken ts => some ts
        | _ => none
      if x.monLines.isEmpty || x.overF || x.woke || woken.isSome then
        let s := s.onGrp u g fun x => x.raise ks (woken.getD (if x.woke then x.wokeTs else 0))
        let s := s.onGrp u g fun x => { x with monLines := [], woke := false, overF := false, wokeTs := 0 }
        (s.disarm (.grp u g)).advance
      else s.waitIn .sleep
    | .thread q =>
      let t := (s.squeue q).thread
      if t.monLines.isEmpty || t.overF || t.woke then
        let s := s.setThread q fun t =>
          { t with tick := if t.woke then max t.tick t.wokeTs else t.tick, monLines := [], woke := false, overF := false,
                   wokeTs := 0, waiting := false }
        (s.disarm (.thread q)).advance
      else s.setThread q fun t => { t with waiting := true }
    | _ => s

/-! HOME_READ, HOME_WRITE, HOME_ATOMIC -/

/-- The cluster whose slice a part passes: that of the core that sent it. -/
def State.clusterOf (s : State) (p : Part) : Option Nat :=
  match p.src with
  | .strands u _ _ => some ((s.block u).core / 4)
  | .sys u _ => some ((s.block u).core / 4)
  | .engine c _ _ => some (c / 4)
  | .tile c _ => some (c / 4)
  | .icache c => some (c / 4)
  | _ => none

/-- Whether the data of a part enters the slice of its cluster: that of a load, an LDW or a PREF of strands, and of an engine (R489). -/
def Part.fillsL2 (p : Part) : Bool :=
  match p.src with
  | .strands .. => p.kind == .load || p.kind == .pref
  | .engine .. | .tile .. => p.kind == .load
  | _ => false

/-- Whether the home keeps a part's line out of the caches: the table window and host frames (R369, R458, R489).  What a home of
another device answers comes as a whole line where it may be cached. -/
def State.uncached (s : State) (p : Part) : Bool :=
  keyOf p.va = 0xfffd || p.dev == s.dev.devnum &&
  match s.homeDistrict p.home with
  | some d =>
    match s.walk (s.home p.home) (s.district d) p.va with
    | .page e _ _ => pteHost e
    | _ => true
  | none => true

/-- The priority of a message kind, and whether its route is deterministic (Table 3); none for a kind outside the table. -/
def packetKind (op : Nat) : Option (Nat × Bool) :=
  if 1 ≤ op ∧ op ≤ 4 then some (2, true)
  else if op = 5 ∨ op = 6 ∨ op = 8 ∨ op = 9 then some (1, false)
  else if op = 7 then some (0, false)
  else if 0x10 ≤ op ∧ op ≤ 0x12 then some (5, true)
  else if op = 0x13 ∨ op = 0x14 then some (4, false)
  else if 0x18 ≤ op ∧ op ≤ 0x1b then some (6, true)
  else if 0x20 ≤ op ∧ op ≤ 0x26 then some (3, true)
  else if op = 0x30 ∨ op = 0x31 then some (7, true)
  else none

/-- The message kind of a request and its priority (Table 3 of R402). -/
def requestOp (p : Part) : Nat × Nat :=
  if p.op ≠ 0 then (p.op, ((packetKind p.op).map Prod.fst).getD 0)
  else
  let eng := match p.src with
    | .engine .. => true
    | .tile .. => true
    | _ => false
  match p.kind with
  | .load | .fetch | .pref => if eng then (0x07, 0) else (0x01, 2)
  | .mon => (0x04, 2)
  | .store => if eng then (0x08, 1) else (0x02, 2)
  | .pst => if p.combines then (0x09, 1) else if eng then (0x08, 1) else (0x05, 1)
  | .atom | .red => (0x03, 2)

/-- What a home must know of a requester beside its device and VF: the writer's code of Table 7 of R392, and whether POLICY [0] may
promote the part (R383). -/
def Part.who (p : Part) : Nat := p.writer % 16 + 16 * p.promo.toNat

/-- The data of a request packet; the spec gives no layout for what a request names beside its address (log entry 8): a read's
length, requester, lease and whether it is a prefetch; an atomic's operation, type, requester, operand and compare value; a write's bytes, an engine write's
mask of them, and the requester. -/
def requestData (p : Part) : List W8 :=
  let who := leBytes 1 p.who
  let head (op : Nat) : List W8 := leBytes 1 op ++ leBytes 1 p.ty ++ who ++ leBytes 13 0
  match p.kind with
  | .load | .fetch | .pref => leBytes 2 p.len ++ who ++ leBytes 2 p.lam ++ leBytes 1 (p.kind == .pref).toNat
  | .mon => []
  | .atom | .red =>
    head p.aop ++ p.data ++ List.replicate (16 - p.data.length) 0 ++ p.cmp ++ List.replicate (16 - p.cmp.length) 0
  | .store => p.data ++ who
  | .pst =>
    if p.combines then head (p.aop - 16) ++ p.data
    else if (requestOp p).1 = 8 then p.data ++ p.mask ++ who else p.data ++ who

/-- Flits of a packet with some bytes of data (R401). -/
def packetFlits (n : Nat) : Nat := 1 + if n ≤ 32 then 0 else ceilDiv n 64

/-- A part whose entry names another device goes to the fabric engine (R364, R420). -/
def State.toFabric (s : State) (p : Part) : State :=
  let (op, pri) := if p.st == .released then (0x06, 1) else requestOp p
  let data := if p.st == .released then [] else requestData p
  let tag := p.id % 2 ^ 32
  { s.onPart p.id (fun q => { q with st := .atHost, sentAt := s.cycle, sentTime := s.time, fwd := p.fwd }) with
    outbox := s.outbox ++
      [{ va := p.va, op := op, fpri := pri, avd := p.dist, home := p.home, src := s.dev.devnum, dst := p.dev, clk := p.clk,
         reqvf := p.vf, tag := tag, len := data.length, data := data, flits := packetFlits data.length }] }

/-- The address at a port of a byte of its host frames (R449, R458): Hanos behind HBASEH, PCIe behind HBASEP. -/
def State.hostBase (s : State) (port off : Nat) : Nat := ((if port = 14 then s.dev.hbaseh else s.dev.hbasep) + off) % 2 ^ 64

/-- What the answer of a home does to the part. -/
def State.answer (s : State) (p : Part) (a : HAns) : State :=
  match a with
  | .reply r => s.later p.id (.replied r)
  | .retry =>
    match p.src with
    | .remote dev tag =>
      { s.dropPart p.id with
        outbox := s.outbox ++ [{ va := p.va, op := 0x1a, fpri := 6, avd := p.dist, src := s.dev.devnum, dst := dev, tag := tag,
                                 home := 31, reqvf := p.vf }] }
    | _ => s.onPart p.id fun q => { q with due := s.cycle + 256 }
  | .host port addr =>
    (s.onPart p.id fun q => { q with st := .atHost, port := port }).output
      (.hostReq port (s.hostBase port addr) p.kind p.len p.data p.cmp p.aop p.ty p.id)
  | .forward =>
    match p.src with
    | .remote dev tag =>
      let data := requestData p
      let s := if p.kind == .pst then { s with dev := { s.dev with forwarded := s.dev.forwarded ++ [(dev, tag)] } } else s
      { s.dropPart p.id with
        outbox := s.outbox ++ [{ va := p.va, op := p.op, fpri := (requestOp p).2, avd := p.dist, home := p.home, src := dev,
                                 dst := s.dev.devnum, clk := p.clk, reqvf := p.vf, tag := tag, len := data.length, data := data,
                                 flits := packetFlits data.length }] }
    | _ => s.toFabric { p with fwd := true }

/-- Parts of some strands that were sent before a part and have no acceptance yet (R192, R193). -/
def State.earlier (s : State) (p : Part) (u g : Nat) (ks : List Nat) : Bool :=
  s.parts.any fun q => q.id < p.id && q.kind != .pref && match q.src with
    | .strands v h js => v == u && h == g && js.any ks.contains && (match q.st with
        | .sent | .atHost | .replied _ => true
        | _ => false)
    | _ => false

/-- A part of strands: the slices count no other's reads (R477). -/
def Part.byStrands (p : Part) : Bool :=
  match p.src with
  | .strands .. => true
  | _ => false

/-- A load that the slice has served or renewed counts as a hit on its copy (R477): 0x10b where the copy has another owner. -/
def State.l2Hit (s : State) (p : Part) (c : CacheLine) : State :=
  if p.byStrands && p.kind == .load then s.count p.dist p.vf (if c.owner = p.vf then 0x0b else 0x10b) 1 else s

/-- The slice has received data for a part: a load's miss (R477); a line without an uncorrectable word stays. -/
def State.l2Miss (s : State) (cl : Nat) (p : Part) (d : List W8) (w rts bad : Nat) : State :=
  let s := if p.byStrands && p.kind == .load then s.count p.dist p.vf 0x0c 1 else s
  if bad != 0 || d.length < 64 then s else s.l2Fill cl p.va d w rts p.vf p.sentAt

/-- What a home's or a delegate's reply does to the slice of its requester's cluster (R489, R477). -/
def State.sliceSees (s : State) (p : Part) (r : Reply) : State :=
  match r, s.clusterOf p with
  | .accept d w rts bad, some cl =>
    if keyOf p.va = 0xfffd then s
    else
      match p.kind with
      | .store => s.l2Store cl p.va p.data w
      | .atom | .red => (s.l2Drop cl p.va).count p.dist p.vf 0x0c (if p.byStrands && !s.uncached p then 1 else 0)
      | .pst => if p.rel then s.l2Posted cl p w else s
      | .mon => s
      | _ =>
        if !p.fillsL2 || s.uncached p then s
        else
          match s.l2Find cl p.va with
          | some c =>
            if c.wts = w && !c.stored then (s.l2Hit p c).l2Renew cl c rts p.sentAt else s.l2Miss cl p d w rts bad
          | none => s.l2Miss cl p d w rts bad
  | _, _ => s

/-- The read of a line through the slice of its requester's cluster (R489, R477). -/
def State.readPart (s : State) (p : Part) : State :=
  match (if p.fillsL2 then s.clusterOf p else none) with
  | some cl =>
    let hit := match s.slice cl |> firstWith (fun c => c.line == lineOf p.va) with
      | some c => if keyOf p.va != 0xfffd && p.kind != PartKind.mon && !c.stored && c.serves p.clk p.lam s.cycle then some c else none
      | none => none
    match hit with
    | some c =>
      let s := s.setL2 cl (c :: (s.slice cl).filter fun y => y.line != c.line)
      ((s.l2Hit p c).onPart p.id fun q => { q with sentAt := c.grant }).later p.id (.replied (.accept c.data c.wts c.rts 0))
    | none =>
      if p.dev ≠ s.dev.devnum then s.toFabric p
      else
        let (s, a) := s.serve p.home p
        (match a with
          | .reply r => s.sliceSees p r
          | _ => s).answer p a
  | none =>
    if p.dev ≠ s.dev.devnum then s.toFabric p
    else
      let (s, a) := s.serve p.home p
      s.answer p a

/-- A recorded arming (R210, R389); a full table wakes at once. -/
def State.arm (s : State) (p : Part) : State :=
  let who : Option Armed := match p.src with
    | .strands u g _ => some (.grp u g)
    | .thread q => some (.thread q)
    | .remote d t => some (.remote d t p.dist p.vf)
    | _ => none
  match who with
  | none => s
  | some a =>
    let h := s.home p.home
    let m : MonLine := { line := lineOf p.va, who := a }
    if h.monitors.contains m then s
    else if 8192 ≤ (h.monitors.map MonLine.line).dedup.length then s.wakeArmed (lineOf p.va) (h.times (lineOf p.va)).wts a
    else s.onHome p.home fun h => { h with monitors := h.monitors ++ [m] }

/-- A table-window part of strands that have an earlier part without a reply (R369, R192). -/
def State.windowHolds (s : State) (p : Part) : Bool :=
  keyOf p.va = 0xfffd && match p.src with
    | .strands u g ks => s.earlier p u g ks
    | _ => false

def execHomeRead (id : Nat) (s : State) : Host.Outcome State Fault Refusal :=
  .next (match s.part id with
    | none => s
    | some p =>
      if s.windowHolds p then s.onPart id fun q => { q with due := s.cycle + 1 }
      else if p.kind == PartKind.mon then
        if p.dev ≠ s.dev.devnum then s.toFabric p
        else
          let (s, a) := s.serve p.home p
          match a with
          | .reply (.accept ..) => (s.arm p).answer p a
          | _ => s.answer p a
      else s.readPart p)

/-- A held write is performed. -/
def State.releasePst (s : State) (p : Part) : State :=
  let (s, ts) := s.performPst p
  let s := match s.clusterOf p with
    | some cl => if keyOf p.va = 0xfffd then s else s.l2Posted cl p ts
    | none => s
  s.later p.id (.replied (.accept [] ts ts 0))

def execHomeWrite (id : Nat) (s : State) : Host.Outcome State Fault Refusal :=
  .next (match s.part id with
    | none => s
    | some p =>
      if p.dev ≠ s.dev.devnum ∨ (p.fwd ∧ p.st = .released) then s.toFabric p
      else if p.st == .released then
        match p.frame with
        | some (e, _, off) =>
          if (Tbl.find (lineOf p.va) (s.home p.home).deleg).isSome then
            -- the write was accepted before its line was delegated: the line comes back first
            (s.post (.recall p.home (lineOf p.va))).onPart id fun q => { q with due := s.cycle + 256 }
          else if pteHost e then s.answer p (.host (pteCtrl e) off) else s.releasePst p
        | none => s.releasePst p
      else
        let (s, a) := s.serve p.home p
        (match a with
          | .reply r => s.sliceSees p r
          | _ => s).answer p a)

/-- Two parts touch a byte in common. -/
def Part.overlaps (p q : Part) : Bool := p.va < q.va + q.len && q.va < p.va + p.len

/-- An earlier atomic of the group at the same location is still on its way: the parts of one instruction are performed in
increasing strand index (R202). -/
def State.behind (s : State) (p : Part) : Bool :=
  match p.src with
  | .strands u g _ => s.parts.any fun q => q.id < p.id && (q.kind == .atom || q.kind == .red) && p.overlaps q &&
      (q.st == .sent || q.st == .atHost) && match q.src with
        | .strands v h _ => v == u && h == g
        | _ => false
  | _ => false

def execHomeAtomic (id : Nat) (s : State) : Host.Outcome State Fault Refusal :=
  .next (match s.part id with
    | none => s
    | some p =>
      if s.behind p then s.onPart id fun q => { q with due := s.cycle + 1 }
      else if p.dev ≠ s.dev.devnum then s.toFabric p
      else
        let (s, a) := s.serve p.home p
        (match a with
          | .reply r => s.sliceSees p r
          | _ => s).answer p a)

/-- A part that found the park table full is sent again (R370): its next step falls due at least 256 cycles later. -/
def execRetryReply (id : Nat) (s : State) : Host.Outcome State Fault Refusal :=
  .next (s.onPart id fun p => { p with st := .sent, due := s.cycle + 256 })

/-! PART_REPLY, LOAD_DATA_ARRIVAL, WAKE -/

/-- Withdraws the later parts of strands (R195): they write nothing and count as complete. -/
def State.withdraw (s : State) (u g after : Nat) (ks : List Nat) : State :=
  let hit := s.parts.filter fun q => after < q.id && match q.src with
    | .strands v h js => v == u && h == g && js.any ks.contains && (match q.st with
        | .sent | .atHost | .replied _ => true
        | _ => false)
    | _ => false
  hit.foldl (fun s q =>
    match q.src with
    | .strands _ _ js =>
      let rest := js.filter fun k => !ks.contains k
      if rest.isEmpty then (s.closePart q 0).dropPart q.id
      else s.onPart q.id fun r => { r with src := .strands u g rest }
    | _ => s) s

/-- Where strands come back to the instruction of a part (R158). -/
def State.backTo (s : State) (p : Part) (u g : Nat) (ks : List Nat) (st : StrandSt) : State :=
  s.onGrp u g fun x => x.onStrands ks fun t =>
    if t.st == .active then
      { t with pc := p.pc, hdr := p.hdr, idx := p.idx, wait := .none, replay := none
               st := match st with
                 | .fatal c a _ => .fatal c a p.pc
                 | o => o }
    else t

/-- Releases the parts of the oldest entry of eq7 once its home holds them and no fence holds it, and takes out entries that
are performed (R205, R335). -/
def State.pstRelease (s : State) (core : Nat) : Nat → State
  | 0 => s
  | n + 1 =>
    let s := s.settleFences core
    match (s.core core).eq7 with
    | [] => s
    | e :: r =>
      let ps := s.parts.filter fun p => e.parts.contains p.id && p.st != .parked && p.st != .woken
      if ps.isEmpty then State.pstRelease (s.onCore core fun c => { c with eq7 := r }) core n
      else if s.fencedOff core 7 e.id e.id then s
      -- two parts that touch the same bytes go in increasing strand index (R204)
      else (ps.filter fun p => p.st == .held && !ps.any fun q => q.id < p.id && p.overlaps q).foldl
        -- an entry's writes come behind those of the entry before it (R28)
        (fun s p => (s.onPart p.id fun q => { q with rel := true, clk := max q.clk ((s.core core).floors.getD 7 0) }).later p.id
          .released) s

/-- Sends the reply of a part that came from another device, or answers a host; see Fabric and Host. -/
def replyBytes (p : Part) (r : Reply) : List W8 :=
  match r with
  | .accept d _ _ _ => if p.kind == .load || p.kind == .fetch || p.kind == .pref then lineBytes d p.va p.len else d
  | _ => []

/-- A reply reaches strands (R191 to R196). -/
def State.strandReply (s : State) (p : Part) (u g : Nat) (ks : List Nat) (r : Reply) : State :=
  let core := (s.block u).core
  if s.earlier p u g ks then s.later p.id (.replied r)
  else
    match r with
    | .accept d wts rts bad =>
      let x := s.grp u g
      let who := if ks.isEmpty then x.living else ks
      match p.kind with
      | .load =>
        let t := max (x.pathTime who) wts
        if rts < t ∧ keyOf p.va ≠ 0xfffd then
          -- the lease ends before the part's place: it is renewed (R192)
          s.onPart p.id (fun q => { q with st := .sent, clk := t, due := s.cycle + 1, sentAt := s.cycle, l1 := false })
        else
          let s := if keyOf p.va = 0xfffd then s else s.onGrp u g fun x => x.raise who t
          -- a line from the L1 itself and a host frame enter no cache
          let s := if bad ≠ 0 ∨ p.l1 ∨ d.length < 64 ∨ s.uncached p then s
            else s.l1Fill core p.va p.hint d wts rts p.sentAt
          s.later p.id (.data (lineBytes d p.va p.len))
      | .store =>
        let s := if keyOf p.va = 0xfffd then s
          else (s.onGrp u g fun x => x.raise who wts).l1Store core p.va p.hint p.data wts
        (s.closePart p wts).dropPart p.id
      | .atom =>
        let s := (s.onGrp u g fun x => ((x.raise who wts).fenceSaw p.issue wts false).sawCtr 0 wts).l1Drop core p.va
        s.later p.id (.data d)
      | .red =>
        let s := (s.onGrp u g fun x => x.raise who wts).l1Drop core p.va
        (s.closePart p wts).dropPart p.id
      | .pst =>
        if !p.rel then (s.onPart p.id fun q => { q with st := .held }).pstRelease core 64
        else
          let s := (s.core core).eq7.foldl (fun s e => if e.parts.contains p.id then s.sawWork core 7 e.id wts else s) s
          let s := (s.closePart p wts).dropPart p.id
          s.pstRelease core 64
      | .mon => (s.onGrp u g fun x => x.raise who wts).dropPart p.id
      | .pref =>
        let gone := p.hint = 2 ∧ (s.l1Find core p.va).isNone
        let s := if bad ≠ 0 ∨ p.hint = 1 ∨ gone ∨ d.length < 64 ∨ s.uncached p then s else s.l1Fill core p.va 0 d wts rts p.sentAt
        s.dropPart p.id
      | .fetch => s.dropPart p.id
    | .negative =>
      if p.kind == .pref then s.dropPart p.id
      else
        let s := s.onPart p.id fun q => { q with st := .parked }
        let s := if ks.isEmpty then s
          else
            let s := s.backTo p u g ks (.replay false)
            (s.withdraw u g p.id ks).closePart p 0
        let s := if p.kind == .pst then s.pstRelease core 64 else s
        if p.early then s.later p.id .woken else s
    | .fatal c =>
      if p.kind == .pref then s.dropPart p.id
      else if ks.isEmpty then
        let b := s.block u
        s.killLaunch b.dist b.lid c (s.grp u g).trapa.toNat (workId (s.launchHdr b) b.ident g ((s.grp u g).trapStrands.headD 0))
      else
        let s := s.backTo p u g ks (.fatal c 0 0)
        let s := ((s.withdraw u g p.id ks).closePart p 0).dropPart p.id
        let s := if p.kind == .pst then s.pstRelease core 64 else s
        s.settle u g

/-- The register that a result goes to: the words of R193, sign-extended below 32 bits on request. -/
def loadWords (bits : Nat) (sx : Bool) (bytes : List W8) : List W32 :=
  let v := ofLe bytes
  if bits ≤ 16 then [BitVec.ofNat 32 (if sx then wrapN (sext v bits) 32 else v)] else natWords (bits / 32) v

/-- The data of a part is written in one write-back (R193). -/
def State.writeLoad (s : State) (e : Issue) (ks : List Nat) (bytes : List W8) : State :=
  let ws := (loadWords e.bits e.sx bytes).zipIdx
  s.onGrp e.blk e.grp fun x =>
    match e.dest with
    | .v n =>
      let x := ws.foldl (fun x w => ks.foldl (fun x k => x.setV (n.val + w.2) k w.1) x) x
      ws.foldl (fun x w => x.compressV (n.val + w.2)) x
    | .w n => ws.foldl (fun x w => x.setW (n.val + w.2) w.1) x
    | _ => x

def execLoadDataArrival (id : Nat) (s : State) : Host.Outcome State Fault Refusal :=
  .next (match s.part id with
    | none => s
    | some p =>
      match p.src, p.st, firstWith (fun e => e.id == p.issue) s.issues with
      | .strands u g ks, .data bytes, some e =>
        let s := s.writeLoad e ks bytes
        let n := match e.dest with
          | .v r => (List.range (ceilDiv e.bits 32)).foldl
              (fun a j => a + (((s.grp u g).vregs.getD (r.val + j) {}).words (s.grp u g).width)) 0
          | _ => 0
        let s := s.count (s.block u).dist (vfNum (s.block u).dist (s.block u).vf) 0x05 n
        (s.closePart p 0).dropPart id
      | _, _, _ => s.dropPart id)

/-- WAKE (R159, R195, R373): the fill is complete. -/
def State.wakePart (s : State) (p : Part) : State :=
  match p.src with
  | .strands u g ks =>
    if (Tbl.find u s.blocks).isNone then s.dropPart p.id
    else if ks.isEmpty then s.later p.id .sent
    else
      let held := (s.grp u g).handler.isSome || !(s.block u).resident
      let s := s.onStrands u g ks fun t =>
        match t.st with
        | .replay _ =>
          let t := { t with replay := some { va := p.va, data := p.data, cmp := p.cmp } }
          if held then { t with st := .replay true } else { t with st := .active, age := 0 }
        | _ => t
      (s.dropPart p.id).settle u g
  | .remote dev tag =>
    let data := p.data ++ p.cmp
    { s.dropPart p.id with
      outbox := s.outbox ++ [{ va := p.va, op := 0x1b, fpri := 6, avd := p.dist, src := s.dev.devnum, dst := dev, tag := tag,
                               home := 31, reqvf := p.vf, len := data.length, data := data, flits := packetFlits data.length }] }
  | _ => s.onPart p.id fun q => { q with st := .sent, early := false, due := s.cycle + 1, sentAt := s.cycle }

def execWake (id : Nat) (s : State) : Host.Outcome State Fault Refusal :=
  .next (match s.part id with
    | none => s
    | some p => s.wakePart p)

end Sys2Proof.Machine
end

