-- ==== Sys2Proof/Machine/Layout.lean ====
section
/-! DEFINITION. Layout records and element addresses (R35 to R39, R41, R314, R346), and the reads and writes of the engines:
spans of bytes, lines and their parts, scratchpad bytes (R314, R315, R325). -/

namespace Sys2Proof.Machine

/-! Records (Table 7 of R35) -/

def rBase (r : Record) : Nat := fieldLe r 0 8
def rSide (r : Record) : Nat := fieldLe r 8 8
def rFmtCode (r : Record) : Nat := fieldLe r 0x10 1
def rRank (r : Record) : Nat := fieldLe r 0x11 1
def rOob (r : Record) : Nat := fieldLe r 0x12 1
def rConv (r : Record) : Bool := bitOf (fieldLe r 0x13 1) 0
def rPad (r : Record) : Nat := fieldLe r 0x18 8
def rSize (r : Record) (d : Nat) : Nat := fieldLe r (0x20 + 16 * d) 4
def rFlag (r : Record) (d : Nat) : Nat := fieldLe r (0x24 + 16 * d) 4
def rWrap (r : Record) (d : Nat) : Bool := bitOf (rFlag r d) 0
def rStride (r : Record) (d : Nat) : Int := sext (fieldLe r (0x28 + 16 * d) 8) 64
/-- Filter offset, dilation and stride of d1 (k = 0) or d2 (k = 1). -/
def rFoff (r : Record) (k : Nat) : Int := sext (fieldLe r (0x70 + 2 * k) 2) 16
def rDil (r : Record) (k : Nat) : Nat := fieldLe r (0x74 + k) 1
def rCstr (r : Record) (k : Nat) : Nat := fieldLe r (0x76 + k) 1
def rImages (r : Record) : Nat := fieldLe r 0x78 4

def rFmt (r : Record) : Fmt := (Fmt.ofCode (rFmtCode r)).getD .n8
/-- Bits of storage of an element (R36). -/
def rBits (r : Record) : Nat := (rFmt r).storage

/-- Ill-formed records (R39, R314). -/
def rIll (r : Record) : Bool :=
  let rank := rRank r
  (Fmt.ofCode (rFmtCode r)).isNone || rank = 0 || 5 < rank ||
  (List.range (min rank 5)).any (fun d => rSize r d = 0 || 2 ≤ rFlag r d) ||
  rOob r % 4 = 3 || 4 ≤ rOob r || 2 ≤ fieldLe r 0x13 1 || fieldLe r 0x14 4 ≠ 0 ||
  rBase r % max 1 (rBits r / 8) ≠ 0 || rSide r % 16 ≠ 0 ||
  (keyOf (rBase r) = 0xfffe && bits (rBase r) 47 32 ≠ 0) ||
  (rConv r && (rank < 4 || rDil r 0 = 0 || rDil r 1 = 0 || rCstr r 0 = 0 || rCstr r 1 = 0 || rImages r = 0 ||
    fieldLe r 0x7c 4 ≠ 0))

/-- Coordinate d of a list. -/
def coord (c : List Int) (d : Nat) : Int := c.getD d 0

/-- The convolution view (R346). -/
def convMap (r : Record) (c : List Int) : List Int :=
  if rConv r then
    [coord c 0, coord c 1 * rCstr r 0 + rDil r 0 * rFoff r 0, coord c 2 * rCstr r 1 + rDil r 1 * rFoff r 1, coord c 3,
      coord c 4]
  else c

/-- Wraps the wrapping coordinates (R37). -/
def wrapCoords (r : Record) (c : List Int) : List Int :=
  (List.range (rRank r)).map fun d => if rWrap r d then coord c d % (rSize r d : Int) else coord c d

/-- Whether wrapped record coordinates name an element (R37). -/
def inBounds (r : Record) (c : List Int) : Bool :=
  ((List.range (rRank r)).all fun d => 0 ≤ coord c d && coord c d < rSize r d) && (!rConv r || coord c 3 < rImages r)

/-- The exact offset of an element from BASE, in bits. -/
def elemOff (r : Record) (c : List Int) : Int :=
  ((List.range (rRank r)).foldl (fun a d => a + coord c d * rStride r d) 0) * rBits r

/-- A place of an element: its address, the bit of its byte at which it begins, its exact offset from BASE in bits. -/
structure Loc where
  va : Nat
  bit : Nat
  off : Int
  deriving DecidableEq, Repr

/-- The place of wrapped in-bounds coordinates; none where a scratchpad element passes the share (R314). -/
def placeOf (r : Record) (scr : Nat) (c : List Int) : Option Loc :=
  let off := elemOff r c
  let bitoff : Int := (offOf (rBase r) : Int) * 8 + off
  let o := wrapN (bitoff / 8) 48
  let l : Loc := ⟨keyOf (rBase r) * 2 ^ 48 + o, (bitoff % 8).toNat, off⟩
  if keyOf (rBase r) = 0xfffe ∧ scr < o + max 1 (rBits r / 8) then none else some l

/-- element_location of R37, after the convolution mapping; none is OUT_OF_BOUNDS. -/
def locate (r : Record) (scr : Nat) (c : List Int) : Option Loc :=
  let x := wrapCoords r (convMap r c)
  if inBounds r x then placeOf r scr x else none

/-- Coordinates clamped into the record (policy 2 of R38). -/
def clampCoords (r : Record) (c : List Int) : List Int :=
  let x := (List.range (rRank r)).map fun d => max 0 (min (coord c d) ((rSize r d : Int) - 1))
  if rConv r then x.zipIdx.map fun e => if e.2 = 3 then min e.1 ((rImages r : Int) - 1) else e.1 else x

/-- What a read of an element takes (R38): a place, or a pattern of its own. -/
inductive Src where
  | place (l : Loc)
  | pattern (x : Nat)
  deriving DecidableEq, Repr

/-- The bits of a pattern that an element has (R36): six-bit elements have six. -/
def cutPattern (f : Fmt) (x : Nat) : Nat := x % 2 ^ f.width

def readOf (r : Record) (scr : Nat) (c : List Int) : Src :=
  match locate r scr c with
  | some l => .place l
  | none =>
    match rOob r with
    | 0 => .pattern (cutPattern (rFmt r) (rPad r))
    | 2 =>
      match placeOf r scr (clampCoords r (wrapCoords r (convMap r c))) with
      | some l => .place l
      | none => .pattern 0
    | _ => .pattern 0

/-- A tile origin (R41): five signed coordinates in three words. -/
def originOf (ws : List W32) : List Int :=
  (List.range 5).map fun d => sext ((ws.getD (d / 2) 0).toNat >>> (16 * (d % 2))) 16

/-- An extent: five unsigned sizes in three words (R316). -/
def extentOf (ws : List W32) : List Nat :=
  (List.range 5).map fun d => ((ws.getD (d / 2) 0).toNat >>> (16 * (d % 2))) % 2 ^ 16

/-- Element i of a tile: its index vector, dimension 0 fastest (R319). -/
def indexVec (ext : List Nat) (rank i : Nat) : List Nat :=
  ((List.range rank).foldl (fun (a : List Nat × Nat) d =>
    (a.1 ++ [a.2 % max 1 (ext.getD d 1)], a.2 / max 1 (ext.getD d 1))) ([], i)).1

def addVec (o : List Int) (i : List Nat) : List Int := o.zipIdx.map fun e => e.1 + (i.getD e.2 0 : Int)

/-- The number of elements of a tile. -/
def tileCount (ext : List Nat) (rank : Nat) : Nat := (List.range rank).foldl (fun a d => a * ext.getD d 1) 1

/-! Reads of an engine -/

/-- An address some bytes further, in its region; a scratchpad address moves in its 32 bits (R322). -/
def stepVa (va : Nat) (n : Int) : Nat :=
  if keyOf va = 0xfffe then keyOf va * 2 ^ 48 + wrapN ((va % 2 ^ 32 : Nat) + n) 32
  else keyOf va * 2 ^ 48 + wrapN ((offOf va : Int) + n) 48

/-- Splits a span of bytes at line boundaries: address and bytes. -/
def splitLines : Nat → Nat → Nat → List (Nat × Nat)
  | 0, _, _ => []
  | k + 1, va, n =>
    if n = 0 then []
    else
      let here := min n (64 - va % 64)
      (va, here) :: splitLines k (stepVa va here) (n - here)

def spanLines (va n : Nat) : List (Nat × Nat) := splitLines (n / 64 + 2) va n

/-- The bytes of each line that some spans need: first and one past the last. -/
def coalesce (l : List (Nat × Nat)) : Tbl (Nat × Nat) :=
  (l.flatMap fun e => spanLines e.1 e.2).foldl (fun t e =>
    let line := lineOf e.1
    let a := e.1 % 64
    let z := a + e.2
    match Tbl.find line t with
    | some (a', z') => Tbl.put line (min a a', max z z') t
    | none => Tbl.put line (a, z) t) []

/-- What reads have brought: the lines, the lines with uncorrectable words that the reads touch, and the newest time. -/
structure Got where
  lines : Tbl (List W8) := []
  bad : List Nat := []
  clk : Nat := 0
  deriving DecidableEq, Repr

inductive Fetch where
  | wait
  | fatal (code va : Nat)
  | ok (g : Got)
  deriving DecidableEq, Repr

/-- Asks for each line in turn; nothing is missing only when all have been answered. -/
def State.fetchLines (s : State) (t : Part) : List (Nat × Nat × Nat) → Got → Bool → State × Fetch
  | [], g, miss => (s, if miss then .wait else .ok g)
  | (line, a, z) :: r, g, miss =>
    let p := { t with kind := .load, va := 64 * line + a, len := z - a, data := [], cmp := [] }
    match s.ask p with
    | (s, .wait) => State.fetchLines s t r g true
    | (s, .fatal c) => (s, .fatal c p.va)
    | (s, .ok d w _ bad) =>
      let g := { g with lines := Tbl.put line d g.lines, clk := max g.clk w,
                        bad := if bad &&& touchMask a (z - a) = 0 then g.bad else g.bad ++ [64 * line] }
      State.fetchLines s t r g miss

/-- Reads spans of bytes on behalf of an engine; scratchpad bytes need no part. -/
def State.fetchSpans (s : State) (t : Part) (l : List (Nat × Nat)) : State × Fetch :=
  s.fetchLines t (coalesce (l.filter fun e => keyOf e.1 != 0xfffe)) {} false

/-- A byte that has been brought, or a byte of the block's scratchpad (zero beyond the share). -/
def State.gotByte (s : State) (u : Nat) (g : Got) (va : Nat) : W8 :=
  if keyOf va = 0xfffe then (s.scrRead u (va % 2 ^ 32) 1).headD 0
  else ((Tbl.getD (lineOf va) g.lines []).getD (va % 64) 0)

def State.gotBytes (s : State) (u : Nat) (g : Got) (va n : Nat) : List W8 :=
  (List.range n).map fun (k : Nat) => s.gotByte u g (stepVa va k)

/-- The pattern of an element that has been brought (R36). -/
def State.gotElem (s : State) (u : Nat) (g : Got) (r : Record) (x : Src) : Nat :=
  match x with
  | .pattern p => p
  | .place l =>
    cutPattern (rFmt r) (ofLe (s.gotBytes u g l.va (max 1 (rBits r / 8))) >>> l.bit)

/-- The span of an element's bytes. -/
def srcSpan (r : Record) : Src → List (Nat × Nat)
  | .place l => [(l.va, max 1 (rBits r / 8))]
  | .pattern _ => []

/-! Writes of an engine -/

/-- One byte to write: its address, its bits, the bits that are written. -/
structure WByte where
  va : Nat
  byte : W8
  mask : W8 := 0xff
  deriving DecidableEq, Repr

def byteWrites (va : Nat) (bs : List W8) : List WByte := bs.zipIdx.map fun e => { va := stepVa va e.2, byte := e.1 }

/-- The bytes that a write of an element's pattern writes (R36). -/
def elemWrite (r : Record) (l : Loc) (x : Nat) : List WByte :=
  if rBits r = 4 then
    [{ va := l.va, byte := BitVec.ofNat 8 (x % 16 * 2 ^ l.bit), mask := BitVec.ofNat 8 (15 * 2 ^ l.bit) }]
  else byteWrites l.va (leBytes (rBits r / 8) (cutPattern (rFmt r) x))

/-- Merges a byte into what a line already has to write. -/
def putByte (line : List (W8 × W8)) (off : Nat) (b m : W8) : List (W8 × W8) :=
  line.modify off fun e => ((e.1 &&& ~~~ m) ||| (b &&& m), e.2 ||| m)

/-- The memory lines of some writes, in increasing address. -/
def gatherLines (l : List WByte) : Tbl (List (W8 × W8)) :=
  (l.filter fun w => keyOf w.va != 0xfffe).foldl (fun t w =>
    Tbl.put (lineOf w.va) (putByte (Tbl.getD (lineOf w.va) t (List.replicate 64 (0, 0))) (w.va % 64) w.byte w.mask) t) []

/-- One part for the bytes of one line. -/
def linePart (t : Part) (wave : Nat) (line : Nat) (bs : List (W8 × W8)) : Part :=
  let used := (List.range 64).filter fun k => (bs.getD k (0, 0)).2 != 0
  let a := used.headD 0
  let z := used.foldl max 0 + 1
  let cut := (bs.drop a).take (z - a)
  { t with kind := .pst, va := 64 * line + a, len := z - a, data := cut.map Prod.fst,
           cmp := if cut.all (fun e => e.2 == 0xff) then [] else cut.map Prod.snd, wave := wave }

def lineParts (t : Part) (wave : Nat) (l : List WByte) : List Part :=
  (gatherLines l).map fun e => linePart t wave e.1 e.2

/-- The write parts of an engine's entry or a tile operation. -/
def State.writeParts (s : State) (src : PartSrc) : List Part := s.parts.filter fun p => p.src == src && p.kind == .pst

/-- Sends write parts, each to its home; the first address without a distribution entry. -/
def State.sendWrites (s : State) : List Part → State × Option Nat
  | [] => (s, none)
  | p :: r =>
    match s.route p.dist p.va with
    | none => (s, some p.va)
    | some (dev, home) => State.sendWrites (s.send { p with dev := dev, home := home }) r

def Part.done (p : Part) : Bool :=
  match p.st with
  | .replied (.accept ..) => true
  | .replied (.fatal _) => true
  | _ => false

/-- The first of some parts that has been rejected. -/
def fatalOf : List Part → Option (Nat × Nat)
  | [] => none
  | p :: r =>
    match p.st with
    | .replied (.fatal c) => some (c, p.va)
    | _ => fatalOf r

/-- The newest time that some performed parts have. -/
def newest (l : List Part) : Nat :=
  l.foldl (fun a p => match p.st with
    | .replied (.accept _ w _ _) => max a w
    | _ => a) 0

/-- Releases held parts: their homes perform them now. -/
def State.releaseParts (s : State) (l : List Part) : State :=
  l.foldl (fun s p => (s.onPart p.id fun q => { q with rel := true }).later p.id .released) s

/-- Writes scratchpad bytes in a block at a time (R194). -/
def State.scrApply (s : State) (u t : Nat) (l : List WByte) : State :=
  let mine := l.filter fun w => keyOf w.va == 0xfffe
  if mine.isEmpty then s
  else
    (mine.foldl (fun s w =>
      let o := w.va % 2 ^ 32
      let old := (s.scrRead u o 1).headD 0
      s.scrWrite u o [(old &&& ~~~ w.mask) ||| (w.byte &&& w.mask)]) s).onBlock u fun b => { b with clk := max b.clk t }

/-- Drops the parts of a source that a test names. -/
def State.dropWhere (s : State) (src : PartSrc) (f : Part → Bool) : State :=
  { s with parts := s.parts.filter fun p => p.src != src || !f p }

/-! Checks of engine operands (R184, R291, R314, R317, R341, R369) -/

/-- The key of an engine operand: scratchpad needs none, the table window needs privilege. -/
def State.engineKey (s : State) (u va need : Nat) : Bool :=
  let b := s.block u
  let h := s.launchHdr b
  if keyOf va = 0xfffe then true
  else if keyOf va = 0xffff then false
  else if keyOf va = 0xfffd then hPriv h
  else hasRights (rightsIn ((s.core b.core).domainEntries b.dist (hDomain h)) (keyOf va)) need

/-- The key of the SIDECAR of a record that an engine reads or writes through: the table window needs privilege (R369). -/
def State.sideKey (s : State) (u : Nat) (r : Record) : Bool :=
  keyOf (rSide r) != 0xfffd || hPriv (s.launchHdr (s.block u))

/-- A scratchpad range lies in the share; a memory address has no such bound. -/
def Block.rangeOk (b : Block) (va n : Nat) : Bool :=
  keyOf va != 0xfffe || (bits va 47 32 = 0 && va % 2 ^ 32 + n ≤ b.scrBytes)

/-- The record of a handle, as the block's table holds it; none at or above the count (R40). -/
def State.recordOf (s : State) (u h : Nat) : Option Record :=
  if h < hRecCount (s.launchHdr (s.block u)) then
    let r := s.scrRead u (128 * h) 128
    if rIll r then none else some r
  else none

end Sys2Proof.Machine
end

