-- ==== Sys2Proof/Machine/Queues.lean ====
section
/-! DEFINITION. Class 4: queues, stage rings and barrier objects (R254 to R274), with the arrivals of other blocks. -/

namespace Sys2Proof.Machine

/-! Results -/

/-- Writes a class 4 result at its write-back (R273): a w register, or a v register of every strand of the path. -/
def State.putQueued (s : State) (d : Opd) (f : Nat → W32) : State :=
  match s.who with
  | some (u, g, _) =>
    let ks := s.pathStrands
    match d with
    | .v n => s.awaitWb u g { vWrites := [(n.val, ks.map fun k => (k, f k))] }
    | .w n => s.awaitWb u g { wWrites := [(n.val, f (ks.headD 0))] }
    | _ => s
  | none => s

/-- One class 4 instruction on a queue of a path: the positions of Table 2 of R260, then its effect. -/
def queueOp (i : Instr) (q : Opd) (s : State) (ok : Queue → Bool) (body : Nat → Nat → Nat → State → State) :
    Host.Outcome State Fault Refusal :=
  issueMove i s fun s =>
    match s.who, q with
    | some (u, g, _), .q k =>
      let x := (s.block u).queue k.val
      if x.kind = 0 || !ok x then s.trapPath 0x0d else (body u g k.val s).advance
    | _, _ => s.trapPath 0x0d

/-- The word that SACQ writes for a position (R264). -/
def Queue.acquired (q : Queue) (x : Nat) : W32 := BitVec.ofNat 32 (x % q.depth + 65536 * (q.lap x).toNat)

/-- The element that QPEEK reads, for a strand (R272). -/
def State.peekWord (s : State) (u k j : Nat) : W32 :=
  let b := s.block u
  let q := b.queue k
  let w := b.gwidth
  match q.kind with
  | 1 => BitVec.ofNat 32 (ofLe (s.scrRead u (q.slotOff w q.head + 4 * j) 4))
  | 2 => BitVec.ofNat 32 (ofLe (s.scrRead u (q.slotOff w q.head) 4))
  | _ => q.acquired q.head

/-- Full ring slots in a row from the position to acquire (R272). -/
def State.fullRun (s : State) (u k x : Nat) : Nat → Nat
  | 0 => 0
  | n + 1 =>
    let q := (s.block u).queue k
    if s.slotFull u k x then 1 + State.fullRun s u k ((x + 1) % (2 * q.depth)) n else 0

/-- What QCNT writes (R272). -/
def State.queueCount (s : State) (u k : Nat) : Nat :=
  let q := (s.block u).queue k
  if q.kind = 3 then s.fullRun u k q.head q.depth else q.count

def execQpeek (d q : Opd) (bp : Pr) (s : State) : Host.Outcome State Fault Refusal :=
  queueOp (.qpeek d q bp) q s (fun x => x.kind != 1 || !isW d) fun u g k s =>
    let t := s
    ((s.scrTime u g s.pathStrands (((s.block u).queue k).times.headD 0)).1).putQueued d fun j => t.peekWord u k j

def execQcnt (d q : Opd) (bp : Pr) (s : State) : Host.Outcome State Fault Refusal :=
  queueOp (.qcnt d q bp) q s (fun _ => true) fun u g k s =>
    let n := s.queueCount u k
    ((s.scrTime u g s.pathStrands 0).1).putQueued d fun _ => BitVec.ofNat 32 n

/-- Takes n elements off a queue, or acquires n slots of a ring (R272). -/
def Queue.dropN (q : Queue) (n : Nat) : Queue :=
  if q.kind = 3 then { q with head := (q.head + n) % (2 * q.depth) }
  else { q with head := (q.head + n) % q.depth, count := q.count - n, times := q.times.drop n }

def execQdrop (q k : Opd) (bp : Pr) (s : State) : Host.Outcome State Fault Refusal :=
  queueOp (.qdrop q k bp) q s (fun _ => true) fun u g j s =>
    let n := min (((s.grp u g).uniOpd k).toNat) (s.queueCount u j)
    let t := (((s.block u).queue j).times.take n).foldl max 0
    ((s.scrTime u g s.pathStrands t).1).onBlock u fun b => b.onQueue j fun x => x.dropN n

def execSacq (d q : Opd) (bp : Pr) (s : State) : Host.Outcome State Fault Refusal :=
  queueOp (.sacq d q bp) q s (fun x => x.kind == 3) fun u g k s =>
    let x := (s.block u).queue k
    let v := x.acquired x.head
    (((s.scrTime u g s.pathStrands 0).1).onBlock u fun b => b.onQueue k fun x => x.dropN 1).putQueued d fun _ => v

/-- One release of a ring (R263): the slot is written whole. -/
def State.releaseSlot (s : State) (u k : Nat) : State :=
  let q := (s.block u).queue k
  let slot := leBytes 8 (q.relcnt.toNat + 2 ^ 32 * (q.lap q.tail).toNat)
  (s.scrWrite u (q.base * 2048 + q.tail % q.depth * 8) slot).onBlock u fun b => b.onQueue k fun q =>
    { q with relcnt := q.relcnt + 1, tail := (q.tail + 1) % (2 * q.depth) }

def execSrel (q : Opd) (bp : Pr) (s : State) : Host.Outcome State Fault Refusal :=
  queueOp (.srel q bp) q s (fun x => x.kind == 3) fun u g k s =>
    ((s.scrTime u g s.pathStrands 0).1).releaseSlot u k

/-- Reserves a release for an engine entry (R265). -/
def State.reserveRelease (s : State) (u k entry : Nat) : State :=
  s.onBlock u fun b => b.onQueue k fun q => { q with resv := q.resv + 1, releases := q.releases ++ [(entry, none)] }

/-- Performs the reserved releases whose entries have ended, in issue order, each no earlier than its own entry (R265). -/
def State.performReleases (s : State) (u k : Nat) : Nat → State
  | 0 => s
  | n + 1 =>
    match ((s.block u).queue k).releases with
    | (_, some t) :: _ =>
      let time := max t (s.block u).clk
      let s := (s.onBlock u fun b => { b with clk := time }).releaseSlot u k
      State.performReleases (s.onBlock u fun b => b.onQueue k fun q =>
        { q with resv := q.resv - 1, releases := q.releases.drop 1 }) u k n
    | _ => s

/-- The release of an entry that has ended. -/
def State.endRelease (s : State) (u k entry t : Nat) : State :=
  let s := s.onBlock u fun b => b.onQueue k fun q =>
    { q with releases := updWhere (fun r => r.1 == entry) (fun r => (r.1, some t)) q.releases }
  s.performReleases u k ((s.block u).queue k).releases.length

/-! Barrier objects -/

def Barrier.bytes (x : Barrier) : List W8 :=
  leBytes 2 x.expected ++ leBytes 2 x.pending ++ leBytes 4 x.xbytes ++ leBytes 8 x.phase.toNat

/-- The paths of a block that wait on an object and whose parity its phase no longer has are woken, with its time (R34, R270). -/
def Block.wakeBarrier (b : Block) (off t : Nat) (phase : Bool) : Block :=
  let wake (y : Strand) : Strand := if y.wait == .bwait off (!phase) then { y with wait := .bdone t } else y
  { b with groups := b.groups.map fun x => { x with strands := x.strands.map wake } }

/-- The object takes a phase at a time, and those who wait are tested against it (R34, R267, R270). -/
def State.newPhase (s : State) (u off t : Nat) (x : Barrier) : State :=
  (s.scrWrite u off x.bytes).onBlock u fun b =>
    Block.wakeBarrier { b with barTimes := Tbl.put off t b.barTimes } off t x.phase

/-- One update of a barrier object (R34): the phase completes when nothing is owed, and takes the update's time (R270). -/
def State.setBarrier (s : State) (u off t : Nat) (x : Barrier) : State :=
  if x.pending = 0 ∧ x.xbytes = 0 then s.newPhase u off t { x with phase := !x.phase, pending := x.expected }
  else s.scrWrite u off x.bytes

/-- One instruction on a barrier object: the checks of R266, then its effect. -/
def barrierOp (i : Instr) (a : Opd) (s : State) (body : Nat → Nat → Nat → State → State) : Host.Outcome State Fault Refusal :=
  issueMove i s fun s =>
    match s.who with
    | some (u, g, _) =>
      let off := ((s.grp u g).uniOpd a).toNat
      match (s.block u).barFault off with
      | some c => s.trapPath c
      | none => body u g off s
    | none => s

/-- BINIT (R267). -/
def execBinit (a b : Opd) (bp : Pr) (s : State) : Host.Outcome State Fault Refusal :=
  barrierOp (.binit a b bp) a s fun u g off s =>
    let n := ((s.grp u g).uniOpd b).toNat
    if n = 0 ∨ 65535 < n then s.trapPath 0x0d
    else
      let (s, t) := s.scrTime u g s.pathStrands 0
      (s.newPhase u off t { expected := n, pending := n, xbytes := 0, phase := false }).advance

/-- A local arrival with a credit (R268). -/
def State.arrive (s : State) (u g off credit : Nat) : State :=
  let x := s.barrier u off
  if x.pending = 0 then s.trapPath 0x0d
  else
    let (s, t) := s.scrTime u g s.pathStrands 0
    (s.setBarrier u off t { x with pending := x.pending - 1, xbytes := (x.xbytes + credit) % 2 ^ 32 }).advance

def execBarr (a : Opd) (bp : Pr) (s : State) : Host.Outcome State Fault Refusal :=
  barrierOp (.barr a bp) a s fun u g off s => s.arrive u g off 0

def execBarx (a b : Opd) (bp : Pr) (s : State) : Host.Outcome State Fault Refusal :=
  barrierOp (.barx a b bp) a s fun u g off s => s.arrive u g off ((s.grp u g).uniOpd b).toNat

/-- The bytes of an engine's chunk leave a barrier's balance (R268, R328), at a logical time. -/
def State.debit (s : State) (u off n t : Nat) : State :=
  let x := s.barrier u off
  let time := max t (s.block u).clk
  (s.onBlock u fun b => { b with clk := time }).setBarrier u off time
    { x with xbytes := (x.xbytes + 2 ^ 32 - n % 2 ^ 32) % 2 ^ 32 }

/-- BWAIT returns when the object's phase differs, else its path waits for that (R270). -/
def execBwait (a b : Opd) (bp : Pr) (s : State) : Host.Outcome State Fault Refusal :=
  let back (s : State) (u g t : Nat) : State := (s.onGrp u g fun x => x.raise s.pathStrands t).advance
  -- the operands are read when the path begins to wait
  match s.who, s.pathWait with
  | some (u, g, _), .bdone t => issueMove (.bwait a b bp) s fun s => back s u g t
  | some (u, g, _), .bwait o _ => issueMove (.bwait a b bp) s fun s => back s u g (Tbl.getD o (s.block u).barTimes 0)
  | _, _ =>
    barrierOp (.bwait a b bp) a s fun u g off s =>
      let k := ((s.grp u g).uniOpd b).getLsbD 0
      if (s.barrier u off).phase != k then back s u g (Tbl.getD off (s.block u).barTimes 0) else s.waitIn (.bwait off k)

def execBtest (t : Pr) (a b : Opd) (bp : Pr) (s : State) : Host.Outcome State Fault Refusal :=
  barrierOp (.btest t a b bp) a s fun u g off s =>
    let hit := (s.barrier u off).phase != ((s.grp u g).uniOpd b).getLsbD 0
    let s := s.putB t.val hit
    (if hit then s.onGrp u g fun x => x.raise s.pathStrands (Tbl.getD off (s.block u).barTimes 0) else s).advance

/-- GSYNC (R271): the end of the pass releases the block's groups when all of them have arrived. -/
def execGsync (bp : Pr) (s : State) : Host.Outcome State Fault Refusal :=
  issueMove (.gsync bp) s fun s => s.waitIn (.gsync s.focus.n)

/-! Arrivals in another block (R269) -/

/-- The blocks of the issuer's cluster set, or core set: their boundary (R119, R269). -/
def hBound (h : List W8) : Nat := if hClRes h = 0 then hCoreRes h else hClRes h

/-- The member at a position of a block's set: its number among the launch's blocks. -/
def State.member (s : State) (u pos : Nat) : Option Nat :=
  let b := s.block u
  match s.launchOf b with
  | none => none
  | some l =>
    let n := setBlocks l.counts (hBound l.header)
    let first := blockNumber l.header l.counts b.ident / n * n
    if pos < n then some (blockAt l.header l.counts (first + pos)) else none

/-- The block of a launch with an identifier. -/
def State.blockOf (s : State) (d lid ident : Nat) : Option Nat :=
  (firstWith (fun e => e.2.dist == d && e.2.lid == lid && e.2.ident == ident) s.blocks).map Prod.fst

/-- Waits for an arrival. -/
def Wait.isArrival (w : Wait) (id : Nat) : Bool :=
  match w with
  | .brmt k _ => k == id
  | _ => false

/-- The district of the block whose path waits for an arrival. -/
def State.brmtFrom (s : State) (id : Nat) : Option Nat :=
  (firstWith (fun e => e.2.groups.any fun x => x.strands.any fun t => t.wait.isArrival id) s.blocks).map fun e => e.2.dist

/-- A BRMT dropped because its target has exited counts in the errors of the district that sent it (R485). -/
def State.brmtLost (s : State) (id : Nat) : State :=
  match s.brmtFrom id with
  | some d => s.countErr d 5 1
  | none => s

/-- The path that waits for an arrival goes on (R269). -/
def State.brmtDone (s : State) (id : Nat) : State :=
  let us := s.blocks.map Prod.fst
  us.foldl (fun s u =>
    let gs := (List.range (s.block u).groups.length).filter fun g => (s.grp u g).strands.any fun t => t.wait.isArrival id
    gs.foldl (fun s g =>
      (s.onGrp u g fun x => { x with strands := x.strands.map fun t => if t.wait.isArrival id then t.goOn else t }).settle u g) s) s

/-- One arrival is applied at its target; an arrival at PENDING 0 is dropped and counted, and still accepted. -/
def State.applyArrival (s : State) (u off id tick : Nat) : State :=
  let x := s.barrier u off
  let s :=
    if x.pending = 0 then s.countErr (s.block u).dist 5 1
    else
      let t := max tick (s.block u).clk
      (s.onBlock u fun b => { b with clk := t }).setBarrier u off t { x with pending := x.pending - 1 }
  s.brmtDone id

/-- BRMT_ARRIVAL: at a target that is not resident the arrival is held; a target that has exited takes none. -/
def execBrmtArrival (blk off uid tick : Nat) (s : State) : Host.Outcome State Fault Refusal :=
  .next (match Tbl.find blk s.blocks with
    | none => (s.brmtLost uid).brmtDone uid
    | some b =>
      if b.resident then s.applyArrival blk off uid tick
      else s.onBlock blk fun b => { b with held := b.held ++ [{ id := uid, off := off, tick := tick }] })

/-- BRMT: the checks of R269 in their order, then the arrival travels and the path waits for it. -/
def execBrmt (a : Opd) (bp : Pr) (s : State) : Host.Outcome State Fault Refusal :=
  issueMove (.brmt a bp) s fun s =>
    match s.who with
    | some (u, g, _) =>
      let va := s.uniWord64 a false
      let off := va % 2 ^ 32
      let b := s.block u
      if keyOf va ≠ 0xffff ∨ bits va 47 40 ≠ 0 then s.trapPath 0x06
      else
        match s.member u (bits va 39 32) with
        | none => s.trapPath 0x06
        | some ident =>
          if off % 16 ≠ 0 then s.trapPath 0x08
          else if b.scrBytes < off + 16 then s.trapPath 0x06
          else
            let (id, s) := s.newId
            let t := (s.grp u g).pathTime s.pathStrands
            let s := s.waitIn (.brmt id s.focus.n)
            match s.blockOf b.dist b.lid ident with
            | some v => s.post (.brmtArrival v off id t)
            | none => (s.countErr b.dist 5 1).brmtDone id
    | none => s

end Sys2Proof.Machine
end

