-- ==== Sys2Proof/Machine/Copies.lean ====
section
/-! DEFINITION. The block-transfer engine: the issue of its copies, rings and fences, and what one chunk of a copy reads and
writes (R314 to R323, R330, R335, R336). -/

namespace Sys2Proof.Machine

/-! Operands (R316) -/

def State.tagOf (s : State) (o : Opd) : Nat :=
  match o with
  | .w n => s.readW64 n.val
  | .lit x => x.toNat
  | _ => 0

def State.pairOf (s : State) (o : Opd) : Nat :=
  match o with
  | .w n => s.readW64 n.val
  | _ => 0

/-- Words from a register on. -/
def State.wordsAt (s : State) (o : Opd) (n : Nat) : List W32 :=
  match o with
  | .w k => (List.range n).map fun j => s.readW (k.val + j)
  | _ => []

/-- The barrier operand: 48 is none. -/
def State.barOf (s : State) (o : Opd) (e : Elem) : Option Nat :=
  match o with
  | .zero => none
  | o => some (s.uniWord o e).toNat

/-- A whole barrier object lies in the share and is aligned (Table 4 of R317): the trap, alignment first. -/
def barAlign (bar : Option Nat) : Bool := bar.all fun o => o % 16 = 0
def Block.barInside (b : Block) (bar : Option Nat) : Bool := bar.all fun o => o + 16 ≤ b.scrBytes

/-- The first failing check of some, in order. -/
def firstTrap : List (Bool × Nat) → Option Nat
  | [] => none
  | (ok, c) :: r => if ok then firstTrap r else some c

/-- An entry of a path: its operands follow. -/
def State.newEntry (s : State) (i : Instr) (u g : Nat) (lo : Nat) : Entry :=
  { id := 0, instr := i, blk := u, grp := g, pc := s.focus.pc, ks := s.pathStrands,
    clk := (s.grp u g).pathTime s.pathStrands, isRec := bitOf lo 0, rel := ringOf lo,
    targets := [(s.block u).ident] }

/-- Issue of an entry (R317, R341): the checks, then the entry, CP and the reserved release. -/
def State.enqueue (s : State) (k : Nat) (e : Entry) (checks : List (Bool × Nat)) : State :=
  match firstTrap checks with
  | some c => s.trapPath c
  | none =>
    let (id, s) := s.newId
    let s := s.onCore (s.block e.blk).core fun c => { c with eqs := c.eqs.modify k fun q => q ++ [{ e with id := id }] }
    let s := s.onGrp e.blk e.grp fun x => x.bump 2 (· + 1)
    let s := match e.rel with
      | some q => s.reserveRelease e.blk q id
      | none => s
    s.advance

/-- One class 6 instruction that enters a queue. -/
def entryBy (i : Instr) (s : State) (body : Nat → Nat → List Elem → State → State) : Host.Outcome State Fault Refusal :=
  .next (issueBy i s fun es s => match s.who with
    | some (u, g, _) => body u g es s
    | none => s)

/-- CPY (R318). -/
def execCpy (d a b c e : Opd) (eq : BitVec 3) (mode : BitVec 17) (bp : Pr) (s : State) : Host.Outcome State Fault Refusal :=
  entryBy (.cpy d a b c e eq mode bp) s fun u g es s =>
    let x := s.block u
    let dst := s.pairOf d
    let src := s.pairOf a
    let len := (s.uniWord b (es.getD 0 none)).toNat
    let bar := s.barOf e (es.getD 1 none)
    s.enqueue eq.toNat
      { s.newEntry (.cpy d a b c e eq mode bp) u g mode.toNat with dst := dst, src := src, len := len, tag := s.tagOf c, bar := bar }
      [(barAlign bar, 0x08), (s.engineKey u src rightRD && s.engineKey u dst rightW, 0x06),
       (x.rangeOk src len && x.rangeOk dst len && x.barInside bar, 0x06)]

/-- CPYT (R319). -/
def execCpyt (d a b c e : Opd) (eq : BitVec 3) (mode : BitVec 17) (bp : Pr) (s : State) : Host.Outcome State Fault Refusal :=
  entryBy (.cpyt d a b c e eq mode bp) s fun u g es s =>
    let x := s.block u
    let bar := s.barOf e (es.getD 0 none)
    let ws := s.wordsAt b 9
    match s.recordOf u (s.uniWord d none).toNat, s.recordOf u (s.uniWord a none).toNat with
    | some dr, some ar =>
      let n := tileCount (extentOf (ws.drop 6)) (rRank dr)
      s.enqueue eq.toNat
        { s.newEntry (.cpyt d a b c e eq mode bp) u g mode.toNat with
            dst := rBase dr, src := rBase ar, len := ceilDiv (n * rBits dr) 8, words := ws, recs := [dr, ar],
            tag := s.tagOf c, bar := bar }
        [(rRank dr = rRank ar && rFmtCode dr = rFmtCode ar, 0x0b), (barAlign bar, 0x08),
         (s.engineKey u (rBase ar) rightRD && s.engineKey u (rBase dr) rightW && s.sideKey u ar && s.sideKey u dr, 0x06),
         (x.barInside bar, 0x06)]
    | _, _ => s.trapPath 0x0b

/-- The members at some positions of the block's set; none when a position passes the set. -/
def State.membersAt (s : State) (u : Nat) : List Nat → Option (List Nat)
  | [] => some []
  | p :: r =>
    match s.member u p, s.membersAt u r with
    | some k, some ks => some (k :: ks)
    | _, _ => none

/-- CPYM (R320). -/
def execCpym (d a b c e : Opd) (eq : BitVec 3) (mode : BitVec 17) (bp : Pr) (s : State) : Host.Outcome State Fault Refusal :=
  entryBy (.cpym d a b c e eq mode bp) s fun u g es s =>
    let x := s.block u
    let dst := s.pairOf d
    let src := s.pairOf a
    let len := (s.uniWord b (es.getD 0 none)).toNat
    let bar := s.barOf e (es.getD 1 none)
    let mask := s.tagOf c
    let ts := s.membersAt u ((setBits mask 64).map fun j => bits mode.toNat 13 6 + j)
    s.enqueue eq.toNat
      { s.newEntry (.cpym d a b c e eq mode bp) u g mode.toNat with
          dst := dst, src := src, len := len, tag := mask, bar := bar, targets := ts.getD [] }
      [(barAlign bar, 0x08), (s.engineKey u src rightRD && s.engineKey u dst rightW, 0x06),
       (keyOf dst = 0xfffe && x.rangeOk src len && x.rangeOk dst len && x.barInside bar && ts.isSome, 0x06)]

/-- GATH and SCAT (R322). -/
def gathScat (i : Instr) (gath : Bool) (d a b c e : Opd) (eq : BitVec 3) (mode : BitVec 17) (s : State) :
    Host.Outcome State Fault Refusal :=
  entryBy i s fun u g es s =>
    let x := s.block u
    let dst := s.pairOf d
    let src := s.pairOf a
    let ws := s.wordsAt b 3
    let idx := (ws.getD 0 0).toNat + 2 ^ 32 * (ws.getD 1 0).toNat
    let n := (ws.getD 2 0).toNat
    let z := 2 ^ bits mode.toNat 7 6
    let bar := s.barOf e (es.getD 0 none)
    s.enqueue eq.toNat
      { s.newEntry i u g mode.toNat with dst := dst, src := src, idx := idx, len := n * z, tag := s.tagOf c, bar := bar }
      [(barAlign bar && dst % z = 0 && src % z = 0, 0x08),
       (s.engineKey u src rightRD && s.engineKey u idx rightRD && s.engineKey u dst rightW, 0x06),
       (x.rangeOk idx (4 * n) && x.rangeOk (if gath then dst else src) (n * z) && x.barInside bar, 0x06)]

def execGath (d a b c e : Opd) (eq : BitVec 3) (mode : BitVec 17) (bp : Pr) (s : State) :=
  gathScat (.gath d a b c e eq mode bp) true d a b c e eq mode s
def execScat (d a b c e : Opd) (eq : BitVec 3) (mode : BitVec 17) (bp : Pr) (s : State) :=
  gathScat (.scat d a b c e eq mode bp) false d a b c e eq mode s

/-- The atomic type of an RCPY type (Table 5 of R323). -/
def rcpyTy (t : Nat) : Nat := if 6 ≤ t then t + 2 else t

/-- RCPY (R323). -/
def execRcpy (d a b c e : Opd) (eq : BitVec 3) (mode : BitVec 17) (bp : Pr) (s : State) : Host.Outcome State Fault Refusal :=
  entryBy (.rcpy d a b c e eq mode bp) s fun u g es s =>
    let x := s.block u
    let dst := s.pairOf d
    let src := s.pairOf a
    let len := (s.uniWord b (es.getD 0 none)).toNat
    let bar := s.barOf e (es.getD 1 none)
    let z := atomSize (rcpyTy (bits mode.toNat 12 10))
    s.enqueue eq.toNat
      { s.newEntry (.rcpy d a b c e eq mode bp) u g mode.toNat with dst := dst, src := src, len := len, tag := s.tagOf c, bar := bar }
      [(barAlign bar && dst % z = 0 && src % z = 0 && len % z = 0, 0x08),
       (s.engineKey u src rightRD && s.engineKey u dst (rightW + rightA), 0x06),
       (x.rangeOk src len && x.rangeOk dst len && x.barInside bar, 0x06)]

/-! CRNG, QFENCE, DRAIN -/

/-- A part of a path's system instruction. -/
def State.sysPart (s : State) (u g : Nat) (ks : List Nat) (kind : PartKind) (va len : Nat) (data : List W8) : Part :=
  { s.strandPart u g ks kind va len with src := s.pathSys u g ks, data := data, promo := false, lam := 1 }

/-- Sets or removes a ring. -/
def State.setRing (s : State) (u k : Nat) (r : Option Ring) : State :=
  s.onBlock u fun b => { b with rings := listSet b.rings k r }

/-- CRNG (R330): the checks, the wait for the earlier entries, then the two counters and the ring. -/
def execCrng (a : Opd) (eq : BitVec 3) (mode : BitVec 17) (bp : Pr) (s : State) : Host.Outcome State Fault Refusal :=
  issueMove (.crng a eq mode bp) s fun s =>
    match s.who with
    | some (u, g, _) =>
      let ks := s.pathStrands
      let n := 2 ^ (bits mode.toNat 3 0 + 2)
      let va := s.pairOf a
      let set := a != .zero
      let first := match s.pathWait with
        | .drain .. => false
        | _ => true
      let ids := match s.pathWait with
        | .drain k _ => k
        | _ => s.drainIds u (.crng a eq mode bp)
      let bad :=
        if !first || !set then none
        else firstTrap [(va % 64 = 0, 0x08),
          (keyOf va != 0xfffd && s.engineKey u va (rightRD + rightW) && (s.block u).rangeOk va (64 + 32 * n), 0x06)]
      match bad with
      | some c => s.trapPath c
      | none =>
        if s.drainHolds ids (.crng a eq mode bp) then s.waitIn (.drain ids 3)
        else if !set then (s.setRing u eq.toNat none).advance
        else
          let ring : Ring := { va := va, size := n, written := 0 }
          if keyOf va = 0xfffe then ((s.scrWrite u (va % 2 ^ 32) (List.replicate 16 0)).setRing u eq.toNat (some ring)).advance
          else
            let p := { s.sysPart u g ks .store va 16 (List.replicate 16 0) with writer := if eq.toNat < 4 then 2 else 3 }
            match s.ask p with
            | (s, .wait) => s.waitIn (.drain ids 3)
            | (s, .fatal c) => (s.dropSrc p.src).trapPath c
            | (s, .ok _ w _ _) =>
              (((s.dropSrc p.src).onGrp u g fun x => x.raise ks w).setRing u eq.toNat (some ring)).advance
    | none => s

/-- QFENCE (R335): a marker in every queue of its mask, for what stands there now. -/
def execQfence (mask : W8) (bp : Pr) (s : State) : Host.Outcome State Fault Refusal :=
  issue (.qfence mask bp) s fun _ s =>
    match s.who with
    | some (u, g, _) =>
      let c := (s.block u).core
      let k := s.core c
      let m := mask.toNat
      let (id, s) := s.newId
      -- the group's earlier accesses (R46), its path's among them (R335)
      let f : Fence := { id := id, mask := m, ahead := k.aheadOf m, blk := u, grp := g, ks := (s.grp u g).all,
                         clk := (s.grp u g).pathTime s.pathStrands }
      s.onCore c fun k => { k with fences := k.fences ++ [f] }
    | none => s

/-- DRAIN (R336): it waits for the entries that stand in the queues now; `tick` takes their writes' times as they end. -/
def drainBy (i : Instr) (s : State) : Host.Outcome State Fault Refusal :=
  issueMove i s fun s =>
    match s.who with
    | some (u, g, _) =>
      match s.pathWait with
      | .drain .. => s.advance
      | _ =>
        let ids := s.drainIds u i
        let t := ((s.entriesIn ids).filter fun e => e.st == .ended && e.into (drainPath i)).foldl (fun a e => max a e.clk) 0
        let s := s.onGrp u g fun x => x.raise s.pathStrands t
        if s.drainHolds ids i then s.waitIn (.drain ids (drainPath i)) else s.advance
    | none => s

def execDrainScr (bp : Pr) (s : State) := drainBy (.drainScr bp) s
def execDrainL1 (bp : Pr) (s : State) := drainBy (.drainL1 bp) s
def execDrainMem (bp : Pr) (s : State) := drainBy (.drainMem bp) s

/-! What one chunk does (R315, R325) -/

/-- The work of a chunk once everything that it reads is there: write parts, scratchpad writes, and the entry with what the
chunk leaves in it. -/
structure Work where
  parts : List Part := []
  scr : List WByte := []
  e : Entry
  deriving DecidableEq, Repr

inductive Job where
  | wait
  | fatal (code va : Nat)
  /-- the entry ends here with status 2, a code and a detail -/
  | stop (code detail : Nat)
  | go (w : Work)
  /-- nothing to write yet: the entry goes on as it stands now -/
  | more (e : Entry)
  deriving DecidableEq, Repr

/-- A part of an entry, less its place (R379: the issuing strand's tick, raised by what the entry has received). -/
def State.entryPart (s : State) (core eq : Nat) (e : Entry) : Part :=
  let b := s.block e.blk
  let h := s.launchHdr b
  { src := .engine core eq e.id, kind := .load, va := 0, len := 0, vf := vfNum b.dist b.vf, dist := b.dist,
    domain := hDomain h, priv := hPriv h, promo := e.fetch.isSome, dev := s.dev.devnum, clk := e.clk,
    writer := if eq < 4 then 2 else 3 }

/-- What reads leave in an entry: its clock and its first uncorrectable line. -/
def Entry.saw (e : Entry) (g : Got) : Entry :=
  { e with clk := max e.clk g.clk, badVa := match e.badVa with
      | some v => some v
      | none => g.bad.head? }

/-- Chunk bytes of a stream. -/
def Entry.chunkBytes (e : Entry) (c : Nat) : Nat := min 4096 (e.len - 4096 * c)

/-- The work of some writes. -/
def workOf (t : Part) (ws : List WByte) (e : Entry) : Work :=
  { parts := lineParts t 0 ws, scr := ws.filter fun w => keyOf w.va == 0xfffe, e := e }

/-- Reads, then a job. -/
def State.withReads (s : State) (t : Part) (l : List (Nat × Nat)) (k : State → Got → State × Job) : State × Job :=
  match s.fetchSpans t l with
  | (s, .wait) => (s, .wait)
  | (s, .fatal c va) => (s, .fatal c va)
  | (s, .ok g) => k s g

/-- A CPYM whose mask names no block: it copies nothing (R320, log entry 115). -/
def Entry.toNone (e : Entry) : Bool :=
  match e.instr with
  | .cpym .. => e.targets.isEmpty
  | _ => false

/-- CPY and CPYM. -/
def State.cpyJob (s : State) (t : Part) (e : Entry) (c : Nat) : State × Job :=
  if e.toNone then (s, .go { e := e })
  else
  let n := e.chunkBytes c
  let va := stepVa e.src (4096 * c : Nat)
  s.withReads t [(va, n)] fun s g =>
    (s, .go (workOf t (byteWrites (stepVa e.dst (4096 * c : Nat)) (s.gotBytes e.blk g va n)) (e.saw g)))

/-- The elements of a chunk of a tile stream. -/
def tileElems (bitsN total c : Nat) : List Nat :=
  let per := 32768 / bitsN
  (List.range (min per (total - c * per))).map (c * per + ·)

/-- CPYT: the elements' places in the source and in the destination. -/
def State.cpytJob (s : State) (t : Part) (e : Entry) (c : Nat) : State × Job :=
  let dr := e.recs.getD 0 []
  let ar := e.recs.getD 1 []
  let scr := (s.block e.blk).scrBytes
  let ext := extentOf (e.words.drop 6)
  let vs := (tileElems (rBits dr) (tileCount ext (rRank dr)) c).map (indexVec ext (rRank dr))
  let from' := vs.map fun v => readOf ar scr (addVec (originOf (e.words.drop 3)) v)
  let into := vs.map fun v => locate dr scr (addVec (originOf e.words) v)
  s.withReads t (from'.flatMap (srcSpan ar)) fun s g =>
    let ws := (from'.zip into).flatMap fun p => match p.2 with
      | some l => elemWrite dr l (s.gotElem e.blk g ar p.1)
      | none => []
    let e := e.saw g
    (s, .go (workOf t ws { e with drops := e.drops + (into.filter Option.isNone).length }))

/-- Index words of a chunk of GATH or SCAT. -/
def State.indexWords (s : State) (e : Entry) (g : Got) (c z n : Nat) (sgn : Bool) : List Int :=
  (List.range n).map fun i =>
    let x := ofLe (s.gotBytes e.blk g (stepVa e.idx (4 * (c * (4096 / z) + i) : Nat)) 4)
    if sgn then sext x 32 else (x : Int)

/-- A scratchpad element that passes the share (R322). -/
def outside (scr va z : Nat) : Bool := keyOf va == 0xfffe && scr < va % 2 ^ 32 + z

def State.gathJob (s : State) (t : Part) (e : Entry) (mode c : Nat) (gath : Bool) : State × Job :=
  let z := 2 ^ bits mode 7 6
  let n := e.chunkBytes c / z
  let scr := (s.block e.blk).scrBytes
  s.withReads t [(stepVa e.idx (4 * (c * (4096 / z)) : Nat), 4 * n)] fun s g =>
    let xs := s.indexWords e g c z n (bitOf mode 8)
    let far := xs.map fun x => stepVa (if gath then e.src else e.dst) (x * z)
    let near := (List.range n).map fun i => stepVa (if gath then e.dst else e.src) (4096 * c + i * z : Nat)
    let pairs := far.zip near
    let ok := pairs.filter fun p => !outside scr p.1 z
    s.withReads t (ok.map fun p => (if gath then p.1 else p.2, z)) fun s g2 =>
      let ws := ok.flatMap fun p =>
        if gath then byteWrites p.2 (s.gotBytes e.blk g2 p.1 z) else byteWrites p.1 (s.gotBytes e.blk g2 p.2 z)
      let e := (e.saw g).saw g2
      (s, .go (workOf t ws { e with drops := e.drops + (pairs.length - ok.length) }))

/-- RCPY: parts that the homes combine, or a combination in the scratchpad (R323). -/
def State.rcpyJob (s : State) (t : Part) (e : Entry) (mode c : Nat) : State × Job :=
  let n := e.chunkBytes c
  let op := bits mode 9 6
  let ty := rcpyTy (bits mode 12 10)
  let from' := stepVa e.src (4096 * c : Nat)
  let into := stepVa e.dst (4096 * c : Nat)
  s.withReads t [(from', n)] fun s g =>
    let x := s.gotBytes e.blk g from' n
    if keyOf e.dst = 0xfffe then
      let old := s.scrRead e.blk (into % 2 ^ 32) n
      (s, .go (workOf t (byteWrites into (rcpyBytes op ty (n / atomSize ty) old x)) (e.saw g)))
    else
      let ps := lineParts t 0 (byteWrites into x)
      (s, .go { parts := ps.map fun p => { p with aop := 16 + op, ty := ty }, e := e.saw g })

end Sys2Proof.Machine
end

