-- ==== Sys2Proof/Machine/Transform.lean ====
section
/-! DEFINITION. The transform engine: the issue of XFM, CRC-64 and sidecars, the element transforms, the BDX codec, and what one
chunk of each reads and writes (R339 to R358). -/

namespace Sys2Proof.Machine

/-! Fields of MODE (Table 1 of R340): `hi` is MODE [16:11] -/

def xRm (hi : BitVec 6) : Nat := bits hi.toNat 1 0
def xSat (hi : BitVec 6) : Bool := bitOf hi.toNat 2
def xZw (hi : BitVec 6) : Nat := bits hi.toNat 4 3

/-! CRC-64 (R347) -/

def crcBits : Nat → Nat → Nat
  | 0, r => r
  | n + 1, r => crcBits n (if r % 2 = 1 then r / 2 ^^^ 0xc96c5795d7870f42 else r / 2)

def crcRun : List W8 → Nat → Nat
  | [], r => r
  | b :: bs, r => crcRun bs (crcBits 8 (r ^^^ b.toNat))

def crc64 (bs : List W8) : Nat := crcRun bs (2 ^ 64 - 1) ^^^ (2 ^ 64 - 1)

/-! Sidecar entries (Table 6 of R348) -/

def sideEntry (len state crc : Nat) : List W8 := leBytes 8 crc ++ leBytes 2 state ++ leBytes 2 len ++ leBytes 4 0

/-- STATE: values above 2 read as 2. -/
def sideState (x : List W8) : Nat := min (fieldLe x 8 1) 2
def sideLen (x : List W8) : Nat := fieldLe x 10 2
def sideCrc (x : List W8) : Nat := fieldLe x 0 8

/-- The bytes of a guard block that its entry covers. -/
def sideCover (x : List W8) : Nat := if 1 ≤ sideLen x ∧ sideLen x ≤ 4096 then sideLen x else 0

/-- Whether a guard block fails its check (R349). -/
def sideFails (x bytes : List W8) : Bool :=
  match sideState x with
  | 0 => false
  | 1 => sideCover x = 0 || crc64 bytes != sideCrc x
  | _ => true

/-! Issue (R341) -/

/-- The checks and the entry of an element transform (XOP 0 to 3). -/
def elementBy (i : Instr) (d a b c e : Opd) (eq : BitVec 3) (lo : BitVec 6) (scaleD scaleA : Bool)
    (fits : Record → Record → Option Record → List W32 → Bool) (s : State) : Host.Outcome State Fault Refusal :=
  entryBy i s fun u g es s =>
    let x := s.block u
    let bar := s.barOf e (es.getD 0 none)
    let ws := s.wordsAt b 9
    let hd := (s.uniWord d none).toNat
    let ha := (s.uniWord a none).toNat
    let sc := if scaleD then s.recordOf u (hd + 1) else if scaleA then s.recordOf u (ha + 1) else none
    match s.recordOf u hd, s.recordOf u ha with
    | some dr, some ar =>
      let n := tileCount (extentOf (ws.drop 6)) (rRank dr)
      let scBase := rBase (sc.getD [])
      s.enqueue eq.toNat
        { s.newEntry i u g lo.toNat with
            dst := rBase dr, src := rBase ar, len := ceilDiv (n * rBits dr) 8, words := ws,
            recs := [dr, ar] ++ sc.toList, tag := s.tagOf c, bar := bar }
        [((sc.isSome || !(scaleD || scaleA)) && rRank dr = rRank ar && (sc.all fun r => rRank r = rRank dr), 0x0b),
         (fits dr ar sc ws, 0x0b), (barAlign bar, 0x08),
         (s.engineKey u (rBase ar) rightRD && s.engineKey u (rBase dr) rightW &&
           (sc.isNone || s.engineKey u scBase (if scaleD then rightW else rightRD)) &&
           keyOf (rSide ar) != 0xffff && ([dr, ar] ++ sc.toList).all (s.sideKey u), 0x06),
         (x.barInside bar, 0x06)]
    | _, _ => s.trapPath 0x0b

/-- Formats by their codes (Table 5 of R345). -/
def plainCode (c : Nat) : Bool := c = 8 || c = 9 || c = 10
def narrowCode (c : Nat) : Bool := 12 ≤ c && c ≤ 16
def isE8m0 (r : Option Record) : Bool := r.any fun r => rFmtCode r = 17

def execXfmMove (d a b c e : Opd) (eq : BitVec 3) (lo hi : BitVec 6) (bp : Pr) (s : State) :=
  elementBy (.xfmMove d a b c e eq lo hi bp) d a b c e eq lo false false (fun dr ar _ _ => rFmtCode dr = rFmtCode ar) s
def execXfmCvt (d a b c e : Opd) (eq : BitVec 3) (lo hi : BitVec 6) (bp : Pr) (s : State) :=
  elementBy (.xfmCvt d a b c e eq lo hi bp) d a b c e eq lo false false (fun _ _ _ _ => true) s
def execXfmMxq (d a b c e : Opd) (eq : BitVec 3) (lo hi : BitVec 6) (bp : Pr) (s : State) :=
  elementBy (.xfmMxq d a b c e eq lo hi bp) d a b c e eq lo true false
    (fun dr ar sc ws => plainCode (rFmtCode ar) && narrowCode (rFmtCode dr) && isE8m0 sc &&
      (extentOf (ws.drop 6)).getD 0 0 % 32 = 0 && coord (originOf ws) 0 % 32 = 0) s
def execXfmMxdq (d a b c e : Opd) (eq : BitVec 3) (lo hi : BitVec 6) (bp : Pr) (s : State) :=
  elementBy (.xfmMxdq d a b c e eq lo hi bp) d a b c e eq lo false true
    (fun dr ar sc ws => narrowCode (rFmtCode ar) && plainCode (rFmtCode dr) && isE8m0 sc &&
      coord (originOf (ws.drop 3)) 0 % 32 = 0) s

/-- BDXD (R354): the stream length is known when the header has been read. -/
def execXfmBdxd (d a b c e : Opd) (eq : BitVec 3) (lo hi : BitVec 6) (bp : Pr) (s : State) : Host.Outcome State Fault Refusal :=
  entryBy (.xfmBdxd d a b c e eq lo hi bp) s fun u g es s =>
    let x := s.block u
    let bar := s.barOf e (es.getD 0 none)
    let ws := s.wordsAt b 3
    let side := (ws.getD 0 0).toNat + 2 ^ 32 * (ws.getD 1 0).toNat
    let dst := s.pairOf d
    let src := s.pairOf a
    s.enqueue eq.toNat
      { s.newEntry (.xfmBdxd d a b c e eq lo hi bp) u g lo.toNat with
          dst := dst, src := src, idx := side, next := (ws.getD 2 0).toNat, tag := s.tagOf c, bar := bar }
      [(barAlign bar && src % 8 = 0 && side % 16 = 0 && dst % 16 = 0, 0x08),
       (s.engineKey u src rightRD && s.engineKey u dst rightW && (side = 0 || s.engineKey u side rightW), 0x06),
       (x.rangeOk src 0 && x.rangeOk dst 0 && (side = 0 || x.rangeOk side 0) && x.barInside bar, 0x06)]

/-- BDXE, CRCG and CRCV: a source and a length; how the second address is used. -/
def lengthBy (i : Instr) (d a b c e : Opd) (eq : BitVec 3) (lo : BitVec 6) (s : State)
    (ok : Nat → Nat → Nat → Bool) (dRight : Nat) (dBytes : Nat → Nat) : Host.Outcome State Fault Refusal :=
  entryBy i s fun u g es s =>
    let x := s.block u
    let dst := s.pairOf d
    let src := s.pairOf a
    let len := (s.uniWord b (es.getD 0 none)).toNat
    let bar := s.barOf e (es.getD 1 none)
    s.enqueue eq.toNat
      { s.newEntry i u g lo.toNat with dst := dst, src := src, len := len, tag := s.tagOf c, bar := bar }
      [(barAlign bar && ok dst src len, 0x08), (s.engineKey u src rightRD && s.engineKey u dst dRight, 0x06),
       (x.rangeOk src len && x.rangeOk dst (dBytes len) && x.barInside bar, 0x06)]

def execXfmBdxe (d a b c e : Opd) (eq : BitVec 3) (lo hi : BitVec 6) (bp : Pr) (s : State) :=
  lengthBy (.xfmBdxe d a b c e eq lo hi bp) d a b c e eq lo s (fun x _ n => x % 8 = 0 && n % 2 ^ xZw hi = 0) rightW fun _ => 0
def execXfmCrcg (d a b c e : Opd) (eq : BitVec 3) (lo hi : BitVec 6) (bp : Pr) (s : State) :=
  lengthBy (.xfmCrcg d a b c e eq lo hi bp) d a b c e eq lo s (fun x _ _ => x % 16 = 0) rightW fun n => 16 * ceilDiv n 4096
def execXfmCrcv (d a b c e : Opd) (eq : BitVec 3) (lo hi : BitVec 6) (bp : Pr) (s : State) :=
  lengthBy (.xfmCrcv d a b c e eq lo hi bp) d a b c e eq lo s (fun x _ _ => x % 16 = 0) rightRD fun n => 16 * ceilDiv n 4096

/-! Guard blocks of a source record (R349) -/

/-- Whether guard-block failures end an entry (POLICY [2]). -/
def State.strict (s : State) (e : Entry) : Bool := (s.district (s.block e.blk).dist).policy.getLsbD 2

/-- One more failure of an entry, of a block or payload at an address (R356). -/
def Entry.fails (e : Entry) (code idx va : Nat) : Entry :=
  { e with failures := e.failures + 1
           failVas := e.failVas ++ [va]
           firstFail := if e.failures = 0 then idx else min e.firstFail idx
           failCode := if e.failures = 0 || idx < e.firstFail then code else e.failCode }

/-- The guard block of a place in a record, counted from BASE; none below it. -/
def guardOf (l : Loc) : Option Nat := if l.off < 0 then none else some ((l.off / 8).toNat / 4096)

/-- Reads the guard blocks that an entry has not read: their sidecar entries, then the bytes that those cover. -/
def State.withGuards (s : State) (t : Part) (e : Entry) (ar : Record) (js : List Nat) (k : State → Entry → State × Job) :
    State × Job :=
  let need := js.filter fun j => !e.guards.any fun g => g.num == j
  if rSide ar = 0 || need.isEmpty then k s e
  else
    let scr := (s.block e.blk).scrBytes
    let at' (j : Nat) : Nat := stepVa (rSide ar) (16 * j : Nat)
    -- an entry beyond the share: its block is read unchecked
    let free := need.filter fun j => outside scr (at' j) 16
    let real := need.filter fun j => !outside scr (at' j) 16
    s.withReads t (real.map fun j => (at' j, 16)) fun s g =>
      let ents := real.map fun j => (j, s.gotBytes e.blk g (at' j) 16)
      let base (j : Nat) : Nat := stepVa (rBase ar) (4096 * j : Nat)
      s.withReads t (ents.map fun p => (base p.1, sideCover p.2)) fun s g2 =>
        let done := ents.map fun p =>
          let bs := s.gotBytes e.blk g2 (base p.1) (sideCover p.2)
          -- a LEN that covers nothing well leaves no element beyond it (DEDUCED)
          ({ num := p.1, failed := sideFails p.2 bs, cover := if sideCover p.2 = 0 then 4096 else sideCover p.2, bytes := bs } : Guard)
        let e := (e.saw g).saw g2
        let e := { e with guards := e.guards ++ done ++ free.map fun j => { num := j, failed := false, bytes := [] } }
        let lost := done.filter Guard.failed
        match lost with
        | f :: _ =>
          if s.strict e then (s, .stop 0x10 (base f.num))
          else k s (lost.foldl (fun e f => e.fails 0x20 f.num (base f.num)) e)
        | [] => k s e

/-- What an entry's guard blocks say of an element: dropped, its pattern, or a read of its own. -/
inductive Guarded where
  | dropped
  | pattern (x : Nat)
  | read (l : Loc)
  deriving DecidableEq, Repr

def Entry.guarded (e : Entry) (r : Record) (x : Src) : Guarded :=
  match x with
  | .pattern p => .pattern p
  | .place l =>
    match (guardOf l).bind fun j => firstWith (fun g => g.num == j) e.guards with
    | none => .read l
    | some g =>
      let o := (l.off / 8).toNat % 4096
      let n := max 1 (rBits r / 8)
      if g.failed then (if o + n ≤ g.cover then .dropped else .read l)
      else
        if o + n ≤ g.bytes.length then .pattern (cutPattern (rFmt r) (ofLe ((g.bytes.drop o).take n) >>> l.bit)) else .read l

/-! Element transforms (R343, R344) -/

/-- Reads the elements of some sources through the guard blocks of a record; none is a dropped one. -/
def State.withElems (s : State) (t : Part) (e : Entry) (r : Record) (guard : Bool) (xs : List Src)
    (k : State → Entry → List (Option Nat) → State × Job) : State × Job :=
  let js := if guard then (xs.filterMap fun x => match x with
      | .place l => guardOf l
      | .pattern _ => none).reverse.dedup.reverse else []
  s.withGuards t e r js fun s e =>
    let gs := xs.map fun x => if guard then e.guarded r x else (match x with
      | .pattern p => .pattern p
      | .place l => .read l)
    s.withReads t (gs.flatMap fun x => match x with
        | .read l => srcSpan r (.place l)
        | _ => []) fun s g =>
      k s (e.saw g) (gs.map fun x => match x with
        | .dropped => none
        | .pattern p => some p
        | .read l => some (s.gotElem e.blk g r (.place l)))

/-- The scale element beside an element (R343): coordinate 0 counts blocks of 32. -/
def scaleVec (o : List Int) (i : List Nat) : List Int :=
  addVec ((coord o 0 / 32) :: o.drop 1) ((i.getD 0 0 / 32) :: i.drop 1)

/-- Writes of elements of a record, and how many fall out of bounds. -/
def elemWrites (r : Record) (scr : Nat) (l : List (List Int × Nat)) : List WByte × Nat :=
  (l.flatMap (fun p => match locate r scr p.1 with
    | some x => elemWrite r x p.2
    | none => []), (l.filter fun p => (locate r scr p.1).isNone).length)

/-- The canonical NaN of a format (R92). -/
def nanOf (f : Fmt) : Nat :=
  match f.ff with
  | some x => x.nan
  | none => 0

/-- MXDQ's value of an element under its scale (R343). -/
def mxdqElem (src dst : Fmt) (rm : Nat) (sat : Bool) (scale x : Nat) : Nat :=
  if scale = 255 then nanOf dst else dst.round rm sat ((src.value x).scale ((scale : Int) - 127))

/-- Groups of 32. -/
def runs {α : Type} : Nat → List α → List (List α)
  | 0, _ => []
  | n + 1, l => l.take 32 :: runs n (l.drop 32)

def State.elementJob (s : State) (t : Part) (e : Entry) (c : Nat) : State × Job :=
  let dr := e.recs.getD 0 []
  let ar := e.recs.getD 1 []
  let sr := e.recs.getD 2 []
  let scr := (s.block e.blk).scrBytes
  let ext := extentOf (e.words.drop 6)
  let dO := originOf e.words
  let sO := originOf (e.words.drop 3)
  let vs := (tileElems (rBits dr) (tileCount ext (rRank dr)) c).map (indexVec ext (rRank dr))
  let finish (s : State) (e : Entry) (w : List WByte × Nat) : State × Job :=
    (s, .go (workOf t w.1 { e with drops := e.drops + w.2 }))
  s.withElems t e ar true (vs.map fun v => readOf ar scr (addVec sO v)) fun s e xs =>
    let on (f : List Nat → Nat → Nat) : List WByte × Nat :=
      elemWrites dr scr ((vs.zip xs).filterMap fun p => p.2.map fun x => (addVec dO p.1, f p.1 x))
    match e.instr with
    | .xfmCvt _ _ _ _ _ _ _ hi _ => finish s e (on fun _ x => convert (rFmt ar) (rFmt dr) (xRm hi) (xSat hi) x)
    | .xfmMxdq _ _ _ _ _ _ _ hi _ =>
      s.withElems t e sr false (vs.map fun v => readOf sr scr (scaleVec sO v)) fun s e ks =>
        let rows := (vs.zip xs).zip ks
        finish s e (elemWrites dr scr (rows.filterMap fun p => p.1.2.map fun x =>
          (addVec dO p.1.1, mxdqElem (rFmt ar) (rFmt dr) (xRm hi) (xSat hi) (p.2.getD 0) x)))
    | .xfmMxq _ _ _ _ _ _ _ hi _ =>
      let groups := runs (vs.length / 32) (vs.zip xs)
      let whole := groups.filter fun g => g.all fun p => p.2.isSome
      let outs := whole.map fun g => (g, mxScale (g.map fun p => (rFmt ar).value (p.2.getD 0)) (rFmt dr) (xRm hi))
      let a := elemWrites dr scr (outs.flatMap fun o => (o.1.zip o.2.2).map fun p => (addVec dO p.1.1, p.2))
      let b := elemWrites sr scr (outs.map fun o => (scaleVec dO ((o.1.headD ([], none)).1), o.2.1))
      finish s e (a.1 ++ b.1, a.2 + b.2)
    | _ => finish s e (on fun _ x => x)

/-! CRCG and CRCV (R351) -/

def State.crcgJob (s : State) (t : Part) (e : Entry) (c : Nat) : State × Job :=
  let n := e.chunkBytes c
  let va := stepVa e.src (4096 * c : Nat)
  s.withReads t [(va, n)] fun s g =>
    (s, .go (workOf t (byteWrites (stepVa e.dst (16 * c : Nat)) (sideEntry n 1 (crc64 (s.gotBytes e.blk g va n)))) (e.saw g)))

def State.crcvJob (s : State) (t : Part) (e : Entry) (c : Nat) : State × Job :=
  let va := stepVa e.src (4096 * c : Nat)
  let side := stepVa e.dst (16 * c : Nat)
  s.withReads t [(side, 16)] fun s g =>
    let x := s.gotBytes e.blk g side 16
    s.withReads t [(va, sideCover x)] fun s g2 =>
      let e := (e.saw g).saw g2
      if sideFails x (s.gotBytes e.blk g2 va (sideCover x)) then
        if s.strict e then (s, .stop 0x10 va) else (s, .go { e := e.fails 0x20 c va })
      else (s, .go { e := e })

/-! BDX (R352 to R357) -/

/-- Fields of a packed group: values of b bits from bytes, least significant first. -/
def groupBits (bs : List W8) (b g : Nat) : List Nat := (List.range g).map fun k => ofLe bs / 2 ^ (b * k) % 2 ^ b

/-- Elements from their differences (R352). -/
def undelta (w : Nat) : Nat → List Nat → List Nat
  | _, [] => []
  | e, u :: r =>
    let d := (u >>> 1) ^^^ (if u % 2 = 1 then 2 ^ w - 1 else 0)
    let x := (e + d) % 2 ^ w
    x :: undelta w x r

/-- The groups of a delta payload; none is malformed. -/
def deltaGroups (p : List W8) (z : Nat) : Nat → Nat → Nat → Nat → Option (List Nat)
  | 0, _, _, _ => none
  | k + 1, pos, left, e =>
    if left = 0 then (if pos = p.length then some [] else none)
    else
      match p[pos]? with
      | none => none
      | some b =>
        let b := b.toNat
        let g := min 32 left
        let nb := ceilDiv (g * b) 8
        if 8 * z < b ∨ p.length < pos + 1 + nb then none
        else
          let xs := undelta (8 * z) e (groupBits ((p.drop (pos + 1)).take nb) b g)
          match deltaGroups p z k (pos + 1 + nb) (left - g) (xs.getLast?.getD e) with
          | some r => some (xs ++ r)
          | none => none

/-- delta_decode of R352. -/
def deltaDecode (p : List W8) (n z : Nat) : Option (List W8) :=
  if p.length < z then none
  else
    let e := ofLe (p.take z)
    (deltaGroups p z (n + 2) z (n - 1) e).map fun r => (e :: r).flatMap (leBytes z)

/-- A directory entry's payload decoded (R353): failure code 0 is none. -/
def bdxDecode (dir payload : List W8) (len z : Nat) : Nat × List W8 :=
  let flags := fieldLe dir 7 1
  let plen := fieldLe dir 4 2
  if flags % 2 = 1 ∧ crc64 payload ≠ fieldLe dir 8 8 then (0x20, [])
  else if 2 ≤ flags then (0x21, [])
  else
    match fieldLe dir 6 1 with
    | 0 => if plen = len then (0, payload) else (0x21, [])
    | 1 => if plen = 0 then (0, List.replicate len 0) else (0x21, [])
    | 2 => match deltaDecode payload (len / z) z with
      | some bs => (0, bs)
      | none => (0x21, [])
    | _ => (0x21, [])

/-- The header of a stream, if it keeps Table 7: NCHUNK, ZW, DLEN, DIROFF. -/
def bdxHeader (h : List W8) : Option (List Nat) :=
  let zw := fieldLe h 5 1
  let n := fieldLe h 8 4
  let dlen := fieldLe h 0x10 8
  let dir := fieldLe h 0x18 4
  if fieldLe h 0 4 = 0x31584442 ∧ fieldLe h 4 1 = 1 ∧ zw ≤ 2 ∧ fieldLe h 6 2 = 0 ∧ fieldLe h 0xc 4 = 0 ∧
      fieldLe h 0x1c 4 = 0 ∧ dlen < 2 ^ 44 ∧ dlen % 2 ^ zw = 0 ∧ n = ceilDiv dlen 4096 ∧ dir % 8 = 0
  then some [n, zw, dlen, dir] else none

/-- The header part of BDXD (R354 step 1). -/
def State.bdxdStart (s : State) (t : Part) (e : Entry) : State × Job :=
  s.withReads t [(e.src, 32)] fun s g =>
    let e := e.saw g
    match bdxHeader (s.gotBytes e.blk g e.src 32) with
    | none => (s, .stop 0x0b e.src)
    | some h =>
      if h.getD 0 0 < e.next then (s, .stop 0x0b e.src)
      else (s, .more { e with bdx := h, len := h.getD 2 0 - 4096 * e.next })

/-- The decoded bytes of a chunk of the stream. -/
def Entry.bdxLen (e : Entry) (n : Nat) : Nat := min 4096 (e.bdx.getD 2 0 - 4096 * n)

/-- What a decoder lane makes of chunk n: what its buffer holds, or a failure code with the payload's address, or the code of a
fatal reply raised by 2^16 with the address that drew it. -/
def State.bdxLane (s : State) (t : Part) (e : Entry) (n : Nat) : State × Option (Entry × Nat × List W8) :=
  let dirVa := stepVa e.src (e.bdx.getD 3 0 + 16 * n : Nat)
  match s.fetchSpans t [(dirVa, 16)] with
  | (s, .wait) => (s, none)
  | (s, .fatal c va) => (s, some (e, 2 ^ 16 + c, leBytes 8 va))
  | (s, .ok g) =>
    let dir := s.gotBytes e.blk g dirVa 16
    let va := stepVa e.src (fieldLe dir 0 4 : Nat)
    let plen := fieldLe dir 4 2
    match s.fetchSpans t [(va, plen)] with
    | (s, .wait) => (s, none)
    | (s, .fatal c va) => (s, some (e, 2 ^ 16 + c, leBytes 8 va))
    | (s, .ok g2) =>
      let r := bdxDecode dir (s.gotBytes e.blk g2 va plen) (e.bdxLen n) (2 ^ e.bdx.getD 1 0)
      (s, some ((e.saw g).saw g2, r.1, if r.1 = 0 then r.2 else leBytes 8 va))

/-- The sidecar entry of the decoded chunk at the cursor, if the decode has a sidecar (R354). -/
def Entry.sideWrites (e : Entry) : List WByte :=
  let n := e.next + e.cursor
  match e.instr, firstWith (fun b => b.1 == n) e.bufs with
  | .xfmBdxd .., some (_, code, bs) =>
    if e.idx = 0 then []
    else byteWrites (stepVa e.idx (16 * n : Nat))
      (if code = 0 then sideEntry (e.bdxLen n) 1 (crc64 bs) else sideEntry (e.bdxLen n) 2 0)
  | _, _ => []

/-- The chunk of a decode at the cursor: its bytes, then its sidecar entry behind them (R354 step 3). -/
def State.bdxdJob (s : State) (t : Part) (e : Entry) (c : Nat) : State × Job :=
  if e.bdx.isEmpty then s.bdxdStart t e
  else
    let n := e.next + c
    match firstWith (fun b => b.1 == n) e.bufs with
    | none => (s, .wait)
    | some (_, code, bs) =>
      if 2 ^ 16 ≤ code then (s, .fatal (code - 2 ^ 16) (ofLe bs))
      else
        let ws := if code = 0 then byteWrites (stepVa e.dst (4096 * n : Nat)) bs else []
        let w := workOf t ws (if code = 0 then e else e.fails code n (ofLe bs))
        (s, .go { w with parts := w.parts ++ lineParts t 1 e.sideWrites })

/-- Zigzag differences of neighbouring elements (R357). -/
def deltas (w : Nat) : Nat → List Nat → List Nat
  | _, [] => []
  | e, x :: r =>
    let d := (x + 2 ^ w - e) % 2 ^ w
    ((2 * d) % 2 ^ w ^^^ (if d.testBit (w - 1) then 2 ^ w - 1 else 0)) :: deltas w x r

/-- Bits that a value needs. -/
def bitsFor (x : Nat) : Nat := if x = 0 then 0 else Nat.log2 x + 1

/-- One group: its width and its packed values. -/
def packGroup (us : List Nat) : List W8 :=
  let b := us.foldl (fun a u => max a (bitsFor u)) 0
  leBytes 1 b ++ leBytes (ceilDiv (us.length * b) 8) (us.zipIdx.foldl (fun a p => a + p.1 * 2 ^ (b * p.2)) 0)

def packGroups : Nat → List Nat → List W8
  | 0, _ => []
  | n + 1, us => if us.isEmpty then [] else packGroup (us.take 32) ++ packGroups n (us.drop 32)

/-- Elements of z bytes. -/
def elements (z : Nat) : Nat → List W8 → List Nat
  | 0, _ => []
  | n + 1, bs => ofLe (bs.take z) :: elements z n (bs.drop z)

def deltaEncode (bs : List W8) (z : Nat) : List W8 :=
  match elements z (bs.length / z) bs with
  | [] => []
  | e :: r => leBytes z e ++ packGroups (r.length / 32 + 1) (deltas (8 * z) e r)

/-- The method and the payload of a chunk (R357). -/
def bdxEncode (bs : List W8) (z : Nat) : Nat × List W8 :=
  if bs.all (· == 0) then (1, [])
  else
    let p := deltaEncode bs z
    if p.length < bs.length then (2, p) else (0, bs)

/-- A chunk of an encode: its payload and its directory entry; behind the last chunk, the header. -/
def State.bdxeJob (s : State) (t : Part) (e : Entry) (zw c : Nat) : State × Job :=
  let n := ceilDiv e.len 4096
  if c = n then
    let h := leBytes 4 0x31584442 ++ leBytes 1 1 ++ leBytes 1 zw ++ leBytes 2 0 ++ leBytes 4 n ++ leBytes 4 0 ++
      leBytes 8 e.len ++ leBytes 4 32 ++ leBytes 4 0
    (s, .go (workOf t (byteWrites e.dst h) e))
  else
    let k := e.chunkBytes c
    let va := stepVa e.src (4096 * c : Nat)
    s.withReads t [(va, k)] fun s g =>
      let r := bdxEncode (s.gotBytes e.blk g va k) (2 ^ zw)
      let off := 32 + 16 * n + e.next
      let dir := leBytes 4 off ++ leBytes 2 r.2.length ++ leBytes 1 r.1 ++ leBytes 1 1 ++ leBytes 8 (crc64 r.2)
      let e := e.saw g
      (s, .go (workOf t (byteWrites (stepVa e.dst (off : Nat)) r.2 ++ byteWrites (stepVa e.dst (32 + 16 * c : Nat)) dir)
        { e with next := e.next + r.2.length }))

/-! The work of a chunk, by instruction -/

def State.chunkJob (s : State) (t : Part) (e : Entry) (c : Nat) : State × Job :=
  match e.instr with
  | .cpyt .. => s.cpytJob t e c
  | .gath _ _ _ _ _ _ m _ => s.gathJob t e m.toNat c true
  | .scat _ _ _ _ _ _ m _ => s.gathJob t e m.toNat c false
  | .rcpy _ _ _ _ _ _ m _ => s.rcpyJob t e m.toNat c
  | .xfmMove .. | .xfmCvt .. | .xfmMxq .. | .xfmMxdq .. => s.elementJob t e c
  | .xfmBdxd .. => s.bdxdJob t e c
  | .xfmBdxe _ _ _ _ _ _ _ hi _ => s.bdxeJob t e (xZw hi) c
  | .xfmCrcg .. => s.crcgJob t e c
  | .xfmCrcv .. => s.crcvJob t e c
  | _ => s.cpyJob t e c

/-- The steps of an entry: its chunks, BDXD's header while it is unread, BDXE's header behind the chunks. -/
def Entry.steps (e : Entry) : Nat :=
  match e.instr with
  | .xfmBdxd .. => if e.bdx.isEmpty then e.cursor + 1 else ceilDiv e.len 4096
  | .xfmBdxe .. => ceilDiv e.len 4096 + 1
  | _ => ceilDiv e.len 4096

end Sys2Proof.Machine
end

