-- ==== Sys2Proof/Machine/Engine.lean ====
section
/-! DEFINITION. The running of engine entries: their start, their chunks, decoder lanes, their end with record, barrier, ring and
counter, and what holds them (R28, R324 to R329, R331, R332, R342, R354, R355). -/

namespace Sys2Proof.Machine

def State.head (s : State) (core eq : Nat) : Option Entry := ((s.core core).eqs.getD eq []).head?

def State.onEntry (s : State) (core eq id : Nat) (f : Entry → Entry) : State :=
  s.onCore core fun c => { c with eqs := c.eqs.modify eq fun q => updWhere (fun e => e.id == id) f q }

/-- An entry may start (R28, R324, R335, R136): it stands first, its block goes on, no fence holds it, and its path's earlier
accesses are performed. -/
def State.startable (s : State) (core eq : Nat) (e : Entry) : Bool :=
  e.st == .queued && (e.fetch.isSome || !(s.block e.blk).stop) && !s.fencedOff core eq e.id e.spot && (e.fetch.isSome || !s.pathAccesses e.blk e.grp e.ks e.id)

def execEngineEntryStart (core eq : Nat) (s : State) : Host.Outcome State Fault Refusal :=
  let s := s.settleFences core
  .next (match s.head core eq with
    | some e =>
      if s.startable core eq e then
        let t := (s.core core).floors.getD eq 0
        s.onEntry core eq e.id fun e => { e with st := .running, clk := max e.clk t }
      else s
    | none => s)

/-! Ends of entries -/

/-- The blocks that an entry writes and counts into, as they live now (R320). -/
def State.targetsOf (s : State) (e : Entry) : List Nat :=
  match e.instr with
  | .cpym .. => e.targets.filterMap fun k => s.blockOf (s.block e.blk).dist (s.block e.blk).lid k
  | _ => [e.blk]

/-- A target that is not resident holds the entry (R321). -/
def State.targetsHere (s : State) (e : Entry) : Bool := (s.targetsOf e).all fun u => (s.block u).resident

/-- Strands that wait in a DRAIN for an entry, or in a FENCE of the group, take the time of its writes (R208, R336). -/
def State.sawEntry (s : State) (e : Entry) : State :=
  let see (u g : Nat) (t : Strand) : Strand :=
    match t.wait with
    | .drain ids k => if ids.contains e.id && e.into k then { t with tick := max t.tick e.clk } else t
    | .fence n m p => if u = e.blk ∧ g = e.grp ∧ e.id < n ∧ !p then { t with wait := .fence n (max m e.clk) p } else t
    | _ => t
  { s with blocks := s.blocks.map fun (b : Nat × Block) =>
      (b.1, { b.2 with groups := b.2.groups.zipIdx.map fun x => { x.1 with strands := x.1.strands.map (see b.1 x.2) } }) }

/-- An entry has performed what it performs: its parts are gone and its end begins. -/
def State.endEntry (s : State) (core eq : Nat) (e : Entry) (status fcode fva done : Nat) : State :=
  let e' : Entry := { e with st := .ended, status := status, fcode := fcode, fva := fva, done := done }
  let s := (s.onEntry core eq e.id fun _ => e').dropWhere (.engine core eq e.id) fun _ => true
  ((s.sawEntry e').sawWork core eq e.id e'.clk).post (.finish core eq)

/-- The status of an entry that has performed every chunk (R327, R356): status, code, detail. -/
def Entry.outcome (e : Entry) (eq : Nat) : Nat × Nat × Nat :=
  match e.badVa with
  | some v => (4, 0x10, v)
  | none =>
    if e.failures ≠ 0 then (1, e.failCode, e.firstFail % 2 ^ 32 + e.failures * 2 ^ 32)
    else if e.drops ≠ 0 then (1, 0, if eq < 4 then e.drops else 0)
    else (0, 0, 0)

/-- The group that issued an entry takes a trap at a pass boundary; a group without strands only counts it (R329, R301). -/
def State.pendTrap (s : State) (u g code addr : Nat) (op : Option Nat := none) : State :=
  (s.onGrp u g fun x => { x with pendTraps := x.pendTraps ++ [(code, addr, op)] }).settle u g

/-- Steps 3 to 5 of R329: the bytes that were not performed, the release, CP; the entry leaves its queue. -/
def State.closeEntry (s : State) (core eq : Nat) (e : Entry) : State :=
  let left := e.len - min e.len (4096 * e.cursor)
  let s := match e.bar with
    | some off => if left = 0 then s else (s.targetsOf e).foldl (fun s u => s.debit u off left e.clk) s
    | none => s
  let s := match e.rel with
    | some k => s.endRelease e.blk k e.id e.clk
    | none => s
  let s := s.onCore core fun c => { c with eqs := c.eqs.modify eq fun q => q.filter fun x => x.id != e.id }
  let s := s.dropWhere (.engine core eq e.id) fun _ => true
  (s.onGrp e.blk e.grp fun x => { x with cp := x.cp - 1 }.sawCtr 2 e.clk).settle e.blk e.grp

/-- The record cannot be delivered (R331). -/
def State.lostRecord (s : State) (e : Entry) (code : Nat) : State :=
  (s.countErr (s.block e.blk).dist 5 1).pendTrap e.blk e.grp code e.pc

/-- Step 1 and step 2 of R329, as far as they have come: once they are over, the time of what they wrote.  PRODUCED comes behind
its record (R44, R331). -/
def State.postRecord (s : State) (core eq : Nat) (e : Entry) : State × Option Nat :=
  let b := s.block e.blk
  match b.rings.getD eq none with
  | none => (if e.status = 2 then s.pendTrap e.blk e.grp e.fcode e.pc else s, some 0)
  | some r =>
    if !e.isRec ∧ e.status = 0 then (s, some 0)
    else
      let record := recordBytes e.tag e.status e.fcode eq e.done e.fva
      let slot := r.va + 64 + 32 * (r.written % r.size)
      let full (consumed : Nat) : Bool := r.size ≤ (r.written + 2 ^ 64 - consumed) % 2 ^ 64
      let next := some { r with written := (r.written + 1) % 2 ^ 64 }
      let prod := leBytes 8 (r.written + 1)
      if keyOf r.va = 0xfffe then
        if full (ofLe (s.scrRead e.blk (r.va % 2 ^ 32 + 8) 8)) then (s, none)
        else
          let t := max e.clk b.clk
          let s := s.onBlock e.blk fun b => { b with clk := t }
          (((s.scrWrite e.blk (slot % 2 ^ 32) record).scrWrite e.blk (r.va % 2 ^ 32) prod).setRing e.blk eq next, some t)
      else
        let t := { s.entryPart core eq e with promo := false }
        match s.ask { t with va := r.va + 8, len := 8 } with
        | (s, .wait) => (s, none)
        | (s, .fatal c) => (s.lostRecord e c, some 0)
        | (s, .ok d w _ _) =>
          if full (ofLe (lineBytes d (r.va + 8) 8)) then (s, none)
          else
            match s.ask { t with kind := .store, va := slot, len := 32, data := record, clk := max t.clk w } with
            | (s, .wait) => (s, none)
            | (s, .fatal c) => (s.lostRecord e c, some 0)
            | (s, .ok _ w _ _) =>
              match s.ask { t with kind := .store, va := r.va, len := 8, data := prod, clk := max t.clk w } with
              | (s, .wait) => (s, none)
              | (s, .fatal c) => (s.lostRecord e c, some w)
              | (s, .ok _ w _ _) => (s.setRing e.blk eq next, some w)

/-- FINISH (R329). -/
def execFinish (core eq : Nat) (s : State) : Host.Outcome State Fault Refusal :=
  .next (match s.head core eq with
    | none => s
    | some e =>
      if e.st != .ended then s
      else
        match (if e.posted then (s, some e.clk) else s.postRecord core eq e) with
        | (s, none) => s
        | (s, some t) =>
          let e := { e with posted := true, clk := max e.clk t }
          -- the record and PRODUCED are writes of the entry: what is behind it comes after them (R28)
          let s := (s.sawEntry e).sawWork core eq e.id e.clk
          if s.targetsHere e then s.closeEntry core eq e else s.onEntry core eq e.id fun _ => e)

/-- CONSUMED is read again (R331). -/
def execCompletionRecordRetry (core eq : Nat) (s : State) : Host.Outcome State Fault Refusal :=
  .next (match s.head core eq with
    | none => s
    | some e =>
      if e.st != .ended then s
      else (s.dropWhere (.engine core eq e.id) fun p => p.kind == .load).post (.finish core eq))

/-! Chunks -/

/-- The district that owns the page of an address, else the block's own: it counts what fails there (R349, R353). -/
def State.ownerOf (s : State) (dist va : Nat) : Nat :=
  if 0xfffd ≤ keyOf va then dist
  else
    match s.route dist va with
    | none => dist
    | some (dev, home) =>
      if dev ≠ s.dev.devnum then dist
      else
        match s.homeDistrict home with
        | none => dist
        | some d =>
          match s.walk (s.home home) (s.district d) va with
          | .page e _ _ => pteOwner e / 64
          | _ => dist

/-- What a chunk has dropped and failed is counted as it is released: a failure by the owner of its own block or payload. -/
def State.countChunk (s : State) (old new : Entry) : State :=
  let d := (s.block old.blk).dist
  (new.failVas.drop old.failVas.length).foldl (fun s va => s.countErr (s.ownerOf d va) 3 1)
    (s.countErr d 4 (new.drops - old.drops))

/-- The chunk's writes are performed: its barriers are debited, and the cursor moves on (R325, R328). -/
def State.chunkDone (s : State) (core eq : Nat) (e : Entry) (ps : List Part) : State :=
  let n := e.chunkBytes e.cursor
  let t := max e.clk (newest ps)
  let s := s.scrApply e.blk t (e.sideWrites.filter fun w => keyOf w.va == 0xfffe)
  let s := match e.bar with
    | some off => if n = 0 then s else (s.targetsOf e).foldl (fun s u => s.debit u off n t) s
    | none => s
  let s := s.dropWhere (.engine core eq e.id) fun p => p.tag < 2
  let b := s.block e.blk
  let s := s.count b.dist (vfNum b.dist b.vf) 0x10 (ceilDiv n 64)
  s.onEntry core eq e.id fun _ =>
    { e with clk := t, cursor := e.cursor + 1, bufs := e.bufs.filter fun b => b.1 != e.next + e.cursor }

/-- Scratchpad bytes of a stream that pass the share (R314): they are dropped. -/
def beyond (scr : Nat) (l : List WByte) : Nat := (l.filter fun w => scr ≤ w.va % 2 ^ 32).length

/-- The chunk's lines are translated: its writes are released (R325, R342). -/
def State.releaseChunk (s : State) (core eq : Nat) (old : Entry) (w : Work) (ps : List Part) : State :=
  let lost := beyond (s.block old.blk).scrBytes w.scr
  let e := { w.e with drops := w.e.drops + lost }
  let s := s.countChunk old e
  let s := (s.targetsOf e).foldl (fun s u => s.scrApply u e.clk w.scr) s
  let s := s.onEntry core eq e.id fun _ => e
  if ps.isEmpty then s.chunkDone core eq e []
  else
    let first := ps.filter fun p => p.wave = 0
    s.releaseParts (if first.isEmpty then ps else first)

/-- The chunk of an entry is held: a part of it waits for a fill (R326). -/
def State.chunkHeld (s : State) (src : PartSrc) : Bool :=
  s.parts.any fun p => p.src == src && p.tag < 2 && (p.st == .parked || p.st == .woken)

/-- The next step of the entry at the head of a queue. -/
def State.runChunk (s : State) (core eq : Nat) (e : Entry) : State :=
  let src : PartSrc := .engine core eq e.id
  let wp := s.writeParts src
  let stop (s : State) (c va : Nat) : State := s.endEntry core eq e 2 c va (4096 * e.cursor)
  if wp.any Part.rel then
    if (wp.filter Part.rel).all Part.done then
      let rest := wp.filter fun p => !p.rel
      if rest.isEmpty then s.chunkDone core eq e wp else s.releaseParts rest
    else s
  else if (s.block e.blk).stop then s
  else if e.cancel then s.endEntry core eq e 3 0 0 (min (4096 * e.cursor) e.len)
  else if s.chunkHeld src then s
  else if e.cursor < e.steps then
    match s.chunkJob (s.entryPart core eq e) e e.cursor with
    | (s, .wait) => s
    | (s, .fatal c va) => stop s c va
    | (s, .stop c va) => stop (if c = 0x10 then s.countErr (s.ownerOf (s.block e.blk).dist va) 3 1 else s) c va
    | (s, .more f) => (s.onEntry core eq e.id fun _ => f).dropWhere src fun p => p.tag < 2
    | (s, .go w) =>
      if wp.isEmpty && !w.parts.isEmpty then
        match s.sendWrites w.parts with
        | (s, some va) => stop s 7 va
        | (s, none) => s
      else
        match fatalOf wp with
        | some (c, va) => stop s c va
        | none => if wp.all Part.done && s.targetsHere e then s.releaseChunk core eq e w wp else s
  else
    let r := e.outcome eq
    s.endEntry core eq e r.1 r.2.1 r.2.2 e.len

/-- CHUNK (R325, R342). -/
def execChunk (core eq : Nat) (s : State) : Host.Outcome State Fault Refusal :=
  .next (match s.head core eq with
    | none => s
    | some e => if e.st != .running || e.fetch.isSome then s else s.runChunk core eq e)

/-! Decoder lanes and output buffers (R339, R354) -/

def Entry.decodes (e : Entry) : Bool :=
  match e.instr with
  | .xfmBdxd .. => e.st == .running && !e.bdx.isEmpty
  | _ => false

/-- Chunks that lanes of a core have taken: parts of their reads bear the chunk's number and 2. -/
def State.lanesBusy (s : State) (core : Nat) : List (PartSrc × Nat) :=
  ((s.parts.filter fun p => match p.src with
    | .engine c k _ => c == core && 4 ≤ k && 2 ≤ p.tag
    | _ => false).map fun p => (p.src, p.tag)).dedup

def State.buffersFull (s : State) (core : Nat) : Nat :=
  ((s.core core).eqs.drop 4).flatten.foldl (fun a e => a + e.bufs.length) 0

/-- The chunk that a lane may take, or go on with: the lowest that is not decoded and awaits no reply. -/
def State.laneChunk (s : State) (core eq : Nat) (e : Entry) : Option Nat :=
  let first := e.next + e.cursor
  let taken := s.lanesBusy core
  firstWith (fun n =>
    let k : PartSrc × Nat := (.engine core eq e.id, n + 2)
    !(e.bufs.any fun b => b.1 == n) &&
    (if taken.contains k then (s.parts.filter fun p => p.src == k.1 && p.tag == k.2).all Part.done
     else decide (taken.length < 4) && decide (s.buffersFull core + taken.length < 8)))
    ((List.range (min 8 (e.bdx.getD 0 0 - first))).map (first + ·))

/-- BDX_CHUNK_DECODE (R353, R354). -/
def execBdxChunkDecode (core eq : Nat) (s : State) : Host.Outcome State Fault Refusal :=
  .next (match s.head core eq with
    | none => s
    | some e =>
      if !e.decodes || e.cancel || (s.block e.blk).stop then s
      else
        match s.laneChunk core eq e with
        | none => s
        | some n =>
          match s.bdxLane { s.entryPart core eq e with tag := n + 2 } e n with
          | (s, none) => s
          | (s, some (e', code, bs)) =>
            (s.dropWhere (.engine core eq e.id) fun p => p.tag = n + 2).onEntry core eq e.id
              fun _ => { e' with bufs := e'.bufs ++ [(n, code, bs)] })

/-! Negative replies and wakes of engine parts (R326, R355, R373) -/

/-- The entry of a part, if it is still there. -/
def State.entryOf (s : State) (core eq id : Nat) : Option Entry :=
  firstWith (fun e => e.id == id) ((s.core core).eqs.getD eq [])

/-- Whether two parts of an entry belong to one chunk. -/
def sameChunk (p q : Part) : Bool := (p.tag < 2 && q.tag < 2) || p.tag == q.tag

/-- A negative reply holds the entry at its chunk: every other part of the chunk is withdrawn; the end's own accesses wait one by
one.  A decoded chunk stays in its buffer. -/
def State.holdEngine (s : State) (p : Part) : State :=
  let others (q : Part) : Bool := q.id != p.id && sameChunk p q && !q.rel
  let ended : Bool := match p.src with
    | .engine core eq id => (s.entryOf core eq id).any fun e => e.st == .ended
    | _ => false
  let s := if ended then s else s.dropWhere p.src others
  if p.early then (if ended then s.later p.id .sent else s.dropPart p.id)
  else s.onPart p.id fun q => { q with st := .parked }

/-- ENGINE_WAKE: the chunk is repeated whole, the tile operation is let go on, or the end's own access is made again. -/
def execEngineWake (id : Nat) (s : State) : Host.Outcome State Fault Refusal :=
  .next (match s.part id with
    | none => s
    | some p =>
      let ended : Bool := match p.src with
        | .engine core eq e => (s.entryOf core eq e).any fun e => e.st == .ended
        | _ => false
      if ended then s.onPart p.id fun q => { q with st := .sent, early := false, due := s.cycle + 1, sentAt := s.cycle }
      else s.dropWhere p.src fun q => sameChunk p q && !q.rel)

end Sys2Proof.Machine
end

