-- ==== Sys2Proof/Machine/Matrix.lean ====
section
/-! DEFINITION. Class 5: gangs and the curtain latch, operand-buffer reservations, the issue of tile operations, the instructions
that act on accumulator tiles at once, MSTAT and MCANCEL (R287 to R296, R305 to R312). -/

namespace Sys2Proof.Machine

def State.onOp (s : State) (core id : Nat) (f : TileOp → TileOp) : State :=
  s.onCore core fun c => { c with tileOps := updWhere (fun o => o.id == id) f c.tileOps
                                  eq6 := updWhere (fun o => o.id == id) f c.eq6 }

/-! GANG (R292, R293) -/

/-- The trap of a gang value for a group. -/
def gangTrap (b : Block) (g : Nat) (v : W32) : Option Nat :=
  let ms := gangMembers v
  let x := b.group g
  firstTrap [
    (bits v.toNat 31 15 = 0 && !(gangMask v = 0 && gangBase v != 0) && ms.length != 1 && (ms.isEmpty || ms.contains g) &&
      ms.all (· < b.groups.length), 0x0b),
    (ms.all fun m => m = g || (x.role != 3 && (b.group m).role = 1), 0x04)]

def execGang (a : Opd) (bp : Pr) (s : State) : Host.Outcome State Fault Refusal :=
  issueMove (.gang a bp) s fun s =>
    match s.who with
    | some (u, g, _) =>
      let v := s.uniWord a none
      match gangTrap (s.block u) g v with
      | some c => s.trapPath c
      | none => (s.onGrp u g fun x => { x with gang := v, gangSeq := 0 }).advance
    | none => s

/-! Reservations (R289, R312) -/

def State.setResv (s : State) (u r : Nat) (n : Option Nat) : State :=
  s.onBlock u fun b => { b with obres := listSet b.obres r n }

def execObres (a : Opd) (imm : W8) (bp : Pr) (s : State) : Host.Outcome State Fault Refusal :=
  entryBy (.obres a imm bp) s fun u _ es s =>
    let r := imm.toNat % 8
    let n := (s.uniWord a (es.getD 0 none)).toNat
    if n = 0 ∨ 262144 < n ∨ ((s.block u).obres.getD r none).isSome then s.trapPath 0x0b
    else (s.setResv u r (some (ceilDiv n 4096))).advance

/-- The path waits inside its instruction; the group is blocked in the scheduler (R305). -/
def State.blockIn (s : State) (u g : Nat) : State :=
  if s.pathWait == .system then s
  else
    let n := s.nextId
    (s.onGrp u g fun x => { x with busy := .system, upto := n }).waitIn .system

/-- The number below which operations count as earlier than the path's instruction. -/
def State.earlierBound (s : State) (u g : Nat) : Nat := if s.pathWait == .system then (s.grp u g).upto else s.nextId

/-- The instruction in which the group was blocked is complete. -/
def State.unblock (s : State) (u g : Nat) : State := (s.onGrp u g fun x => { x with busy := .none }).advance

def execObrel (imm : W8) (bp : Pr) (s : State) : Host.Outcome State Fault Refusal :=
  issueMove (.obrel imm bp) s fun s =>
    match s.who with
    | some (u, g, _) =>
      let r := imm.toNat % 8
      if ((s.block u).obres.getD r none).isNone then (s.onGrp u g fun x => { x with busy := .none }).trapPath 0x0b
      else if (s.core (s.block u).core).resvBusy u r then s.blockIn u g
      else (s.setResv u r none).unblock u g
    | none => s

/-! The curtain latch (R294 to R296) -/

/-- What must agree between two arrivals: gang, opcode, MODE; and for MBLD and MMA operands and handle records. -/
def agree (a b : LatchArrival) : Bool :=
  let kind (i : Instr) : Nat × Nat := match i with
    | .mbld _ _ m _ _ => (1, m.toNat)
    | .mma _ _ _ m _ _ => (2, m.toNat)
    | .mdrn _ _ _ _ m _ _ => (3, m.toNat)
    | _ => (0, 0)
  a.gang == b.gang && kind a.instr == kind b.instr &&
    ((kind a.instr).1 == 3 || (a.vals == b.vals && a.self.handle == b.self.handle && a.self.scale == b.self.scale))

/-- The arrivals of an arrival's gang with its number, if every member has arrived; in increasing group index. -/
def CoreSt.gathered (c : CoreSt) (l : LatchArrival) : Option (List LatchArrival) :=
  let got := (gangMembers l.gang).filterMap fun m =>
    firstWith (fun k => k.blk == l.blk && k.grp == m && k.seq == l.seq) c.latch
  if got.length = (gangMembers l.gang).length then some got else none

/-- The latch opens for the sets that are complete; a made operation waits there for room in eq6. -/
def State.openLatch (s : State) (core : Nat) : Nat → State
  | 0 => s
  | n + 1 =>
    let c := s.core core
    let ready (l : LatchArrival) : Bool := match c.gathered l with
      | some ls => !(ls.all (agree l)) || c.eq6.length < 8
      | none => false
    match firstWith ready c.latch with
    | none => s
    | some l =>
      match c.gathered l with
      | none => s
      | some ls =>
        let s := s.onCore core fun c => { c with latch := c.latch.filter fun k => !ls.contains k }
        let s :=
          if ls.all (agree l) then
            let (id, s) := s.newId
            let o : TileOp := { id := id, instr := l.instr, blk := l.blk, members := ls.map LatchArrival.self, joint := true,
                                clk := ls.foldl (fun a k => max a k.self.clk) 0, rows := l.rows }
            let s := s.onCore core fun c => { c with eq6 := c.eq6 ++ [o] }
            ls.foldl (fun s k => s.leaveLatch l.blk k none false) s
          else ls.foldl (fun s k => s.leaveLatch l.blk k (some 0x0b) true) s
        State.openLatch s core n

/-- A joint operation reaches the engine when no earlier one is left (R28, R297). -/
def State.reachEngine (s : State) (core : Nat) : State :=
  let c := s.core core
  match c.eq6 with
  | o :: r => if c.tileOps.any TileOp.joint then s else s.onCore core fun c => { c with eq6 := r, tileOps := c.tileOps ++ [o] }
  | [] => s

/-- What may follow when an operation has left the engine or a member has arrived. -/
def State.pumpLatch (s : State) (core : Nat) : State := (s.openLatch core 64).reachEngine core

/-! Issue of tile operations (R291, R294) -/

/-- What an instruction names for its group. -/
structure Named where
  kind : Nat
  member : TileMember
  rows : Nat := 0
  vals : List Nat := []
  checks : List (Bool × Nat)

def State.tileIssue (s : State) (i : Instr) (u g : Nat) (n : Named) : State :=
  let x := s.grp u g
  match firstTrap n.checks with
  | some c => s.trapPath c
  | none =>
    let ms := gangMembers x.gang
    let core := (s.block u).core
    let up (s : State) : State := s.onGrp u g fun x => { x with tl := x.tl + 1 }
    if ms.isEmpty then
      let (id, s) := s.newId
      let o : TileOp := { id := id, instr := i, blk := u, members := [n.member], clk := n.member.clk, rows := n.rows }
      ((up s).onCore core fun c => { c with tileOps := c.tileOps ++ [o] }).advance
    else if ms.any fun m => ((s.block u).group m).life != .live then s.trapPath 0x0e
    else
      let l : LatchArrival := { blk := u, grp := g, seq := x.gangSeq, gang := x.gang, instr := i, vals := n.vals, rows := n.rows,
                                place := s.focus, self := n.member }
      let s := (up s).onGrp u g fun x => { x with gangSeq := x.gangSeq + 1, busy := .latch }
      ((s.waitIn .system).onCore core fun c => { c with latch := c.latch ++ [l] }).pumpLatch core

/-- The member as its instruction names it; tile, handle record and origin. -/
def State.memberOf (s : State) (u g tile : Nat) (h o : Opd) : TileMember :=
  { grp := g, pc := s.focus.pc, ks := s.pathStrands, clk := (s.grp u g).pathTime s.pathStrands, tile := tile,
    handle := (s.recordOf u (s.uniWord h none).toNat).getD [], origin := originOf (s.wordsAt o 3) }

/-- The coordinates of an origin that its instruction reads: those of the record's RANK (R41). -/
def originVals (r : Option Record) (ws : List W32) : List Nat :=
  ((originOf ws).take (rRank (r.getD []))).map fun c => (c % 2 ^ 16).toNat

/-- A scale record: present, well-formed, E8M0. -/
def scaleOk (r : Option Record) : Bool := r.any fun r => rFmtCode r = 17

def recordOk (r : Option Record) (code : Nat) : Bool := r.any fun r => 2 ≤ rRank r && rFmtCode r = code

/-- The keys of a record's BASE and SIDECAR (check 8, R369). -/
def State.baseKey (s : State) (u : Nat) (r : Option Record) (need : Nat) : Bool :=
  r.all fun r => s.engineKey u (rBase r) need && s.sideKey u r

/-- A reservation is held and large enough (check 4). -/
def Block.resvOk (b : Block) (r units : Nat) : Bool := ((b.obres.getD r none).getD 0) ≥ units

/-- MBLD (R306). -/
def execMbld (a b : Opd) (mode : BitVec 12) (imm : W8) (bp : Pr) (s : State) : Host.Outcome State Fault Refusal :=
  entryBy (.mbld a b mode imm bp) s fun u g _ s =>
    let m := mode.toNat
    let f := bits m 2 0
    let mx := bitOf m 3
    let h := (s.uniWord a none).toNat
    let rec0 := s.recordOf u h
    let sc := if mx then s.recordOf u (h + 1) else none
    let me := s.memberOf u g 0 a b
    let x := s.block u
    s.tileIssue (.mbld a b mode imm bp) u g
      { kind := 1, member := { me with scale := sc.getD [] },
        vals := [h, imm.toNat] ++ originVals rec0 (s.wordsAt b 3),
        checks := [(rec0.isSome, 0x0b), (recordOk rec0 (matCode f), 0x0b),
          (!mx || (scaleOk sc && coord me.origin 0 % 32 = 0), 0x0b), (x.resvOk (bits m 6 4) 4, 0x0b),
          (!(f = 5 || mx) || 131072 ≤ x.accBytes, 0x0b),
          (s.baseKey u rec0 rightRD && s.baseKey u sc rightRD, 0x06)] }

/-- MMA (R307); a slice that is empty has an empty extent (R288), and a tile that is not loaded yet counts with all its columns
(R291). -/
def execMma (a b c : Opd) (mode : BitVec 12) (imm : W8) (bp : Pr) (s : State) : Host.Outcome State Fault Refusal :=
  entryBy (.mma a b c mode imm bp) s fun u g es s =>
    let m := mode.toNat
    let f := bits m 2 0
    let mx := bitOf m 3
    let h := (s.uniWord a none).toNat
    let rows := (s.uniWord c (es.getD 0 none)).toNat
    let rec0 := s.recordOf u h
    let sc := if mx then s.recordOf u (h + 1) else none
    let me := s.memberOf u g imm.toNat a b
    let x := s.block u
    let ms := gangMembers (s.grp u g).gang
    let width := match (s.core x.core).tileAt u (bits m 10 7) with
      | some t => (sliceOf t.cols ms.length (ms.filter (· < g)).length).2
      | none => widest f
    let e := extentFrom imm.toNat rows width
    s.tileIssue (.mma a b c mode imm bp) u g
      { kind := 2, member := { me with scale := sc.getD [] }, rows := rows,
        vals := [h, rows] ++ originVals rec0 (s.wordsAt b 3),
        checks := [(rec0.isSome, 0x0b), (recordOk rec0 (matCode f), 0x0b),
          (!mx || (scaleOk sc && coord me.origin 0 % 32 = 0), 0x0b), (x.resvOk (bits m 6 4) 1, 0x0b),
          (1 ≤ rows && rows ≤ 1024, 0x0b), (imm.toNat < x.accTiles && e.1 + e.2 ≤ x.accTiles, 0x0b),
          (s.baseKey u rec0 rightRD && s.baseKey u sc rightRD, 0x06)] }

/-- MDRN (R308). -/
def execMdrn (a b c e : Opd) (mode : BitVec 12) (imm : W8) (bp : Pr) (s : State) : Host.Outcome State Fault Refusal :=
  entryBy (.mdrn a b c e mode imm bp) s fun u g _ s =>
    let m := mode.toNat
    let mx := bitOf m 3
    let rec0 := s.recordOf u (s.uniWord a none).toNat
    let sc := if mx then s.recordOf u (s.uniWord c none).toNat else none
    let me := s.memberOf u g imm.toNat a b
    s.tileIssue (.mdrn a b c e mode imm bp) u g
      { kind := 3, member := { me with scale := sc.getD [], scaleOrigin := originOf (s.wordsAt e 3) },
        checks := [(rec0.isSome, 0x0b), (recordOk rec0 (drnCode (bits m 2 0)), 0x0b), (!mx || scaleOk sc, 0x0b),
          (imm.toNat < (s.block u).accTiles, 0x0b), (s.baseKey u rec0 rightW && s.baseKey u sc rightW, 0x06)] }

/-! MZERO, MLDACC, MSVACC (R309) -/

/-- The offset of element (i, j) of an accumulator tile (R287). -/
def accOff (t i j : Nat) : Nat := accTile * t + 12 * (128 * i + j)

/-- A tile that an instruction may act on: inside ACC, off the side-plane parts in use. -/
def State.tileOk (s : State) (u t : Nat) : Bool :=
  let b := s.block u
  t < b.accTiles && !(s.core b.core).sideHit u b.accBytes [(t, 1)]

/-- Waits while an earlier operation conflicts with a tile, then checks the tile. -/
def State.onTile (s : State) (u g t : Nat) (writes : Bool) (body : State → State) : State :=
  if (s.core (s.block u).core).tileBusy u t (s.earlierBound u g) writes then s.blockIn u g
  else if !s.tileOk u t then (s.onGrp u g fun x => { x with busy := .none }).trapPath 0x0b
  else body s

def execMzero (imm : W8) (bp : Pr) (s : State) : Host.Outcome State Fault Refusal :=
  issueMove (.mzero imm bp) s fun s =>
    match s.who with
    | some (u, g, _) =>
      s.onTile u g imm.toNat true fun s =>
        (s.accWrite u (accOff imm.toNat 0 0) (List.replicate accTile 0)).unblock u g
    | none => s

/-- Coordinates of word w of element (i, j) in the image record. -/
def wordAt (o : List Int) (i j w : Nat) : List Int := addVec o [4 * j + w, i]

/-- The indices of a tile's elements, row by row. -/
def tileIdx : List (Nat × Nat) := (List.range 16).flatMap fun i => (List.range 128).map fun j => (i, j)

/-- The part of MLDACC and MSVACC, less its place (R309). -/
def State.accPart (s : State) (u g : Nat) : Part :=
  { s.strandPart u g s.pathStrands .load 0 0 with src := .sys u g, promo := false, writer := 4, lam := 1 }

/-- The instruction ends by a fatal reply: the path's strands are fatal understudies with its code. -/
def State.accFatal (s : State) (u g code : Nat) : State :=
  ((s.dropSrc (.sys u g)).onGrp u g fun x => { x with busy := .none }).trapPath code

/-- Asks for lines and tells what each has brought. -/
def State.askAll (s : State) (t : Part) : List (Nat × Nat × Nat) → State × List (Nat × Ans)
  | [] => (s, [])
  | (line, a, z) :: r =>
    let (s, x) := s.ask { t with kind := .load, va := 64 * line + a, len := z - a }
    let (s, xs) := State.askAll s t r
    (s, (line, x) :: xs)

/-- Loads the rows whose lines have all come, up to the first that has not: the lines' answers are known. -/
def State.loadRows (s : State) (u : Nat) (t : Nat) (r : Record) (o : List Int) (got : Got) (lost : List Nat) : Nat → Nat → State
  | 0, _ => s
  | n + 1, i =>
    let scr := (s.block u).scrBytes
    let src (j w : Nat) : Src := readOf r scr (wordAt o i j w)
    let spans := ((List.range 128).flatMap fun j => (List.range 3).flatMap fun w => srcSpan r (src j w)).flatMap
      fun e => spanLines e.1 e.2
    if spans.any fun e => lost.contains (lineOf e.1) then s
    else
      let bs := (List.range 128).flatMap fun j => (List.range 3).flatMap fun w => leBytes 4 (s.gotElem u got r (src j w))
      State.loadRows (s.accWrite u (accOff t i 0) bs) u t r o got lost n (i + 1)

/-- The checks of MLDACC and MSVACC at issue. -/
def State.imageTrap (s : State) (u : Nat) (r : Option Record) (need : Nat) : Option Nat :=
  firstTrap [(recordOk r 4, 0x0b), (s.baseKey u r need, 0x06)]

/-- The record of an MLDACC or MSVACC: read at its issue, and kept while the group is blocked in it (R40). -/
def State.imageRecord (s : State) (u g : Nat) (a : Opd) : Option Record :=
  if s.pathWait == .system then some (s.grp u g).imageRec else s.recordOf u (s.uniWord a none).toNat

/-- The checks at issue, once; then the record is kept. -/
def State.withImage (s : State) (u g : Nat) (a : Opd) (need : Nat) (body : Record → State → State) : State :=
  let r := s.imageRecord u g a
  match (if s.pathWait == .system then none else s.imageTrap u r need) with
  | some c => s.trapPath c
  | none => body (r.getD []) (s.onGrp u g fun x => { x with imageRec := r.getD [] })

def execMldacc (a b : Opd) (imm : W8) (bp : Pr) (s : State) : Host.Outcome State Fault Refusal :=
  issueMove (.mldacc a b imm bp) s fun s =>
    match s.who with
    | some (u, g, _) =>
      s.withImage u g a rightRD fun r s =>
        s.onTile u g imm.toNat true fun s =>
          let o := originOf (s.wordsAt b 3)
          let scr := (s.block u).scrBytes
          let spans := tileIdx.flatMap fun e => (List.range 3).flatMap fun w => srcSpan r (readOf r scr (wordAt o e.1 e.2 w))
          let (s, xs) := s.askAll (s.accPart u g) (coalesce (spans.filter fun e => keyOf e.1 != 0xfffe))
          if xs.any fun x => x.2 == .wait then s.blockIn u g
          else
            let got : Got := xs.foldl (fun (k : Got) x => match x.2 with
              | .ok d w _ _ => { k with lines := Tbl.put x.1 d k.lines, clk := max k.clk w }
              | _ => k) {}
            let lost := xs.filterMap fun x => match x.2 with
              | .fatal c => some (x.1, c)
              | _ => none
            let s := (s.onGrp u g fun x => x.raise s.pathStrands got.clk).loadRows u imm.toNat r o got (lost.map Prod.fst) 16 0
            match lost with
            | (_, c) :: _ => s.accFatal u g c
            | [] => (s.dropSrc (.sys u g)).unblock u g
    | none => s

/-- Errors in accumulator elements, by ACC offset. -/
def State.softElems (s : State) (u : Nat) (offs : List Nat) : State × Bool :=
  let hits := (s.block u).softAcc.filter offs.contains
  if hits.isEmpty then (s, false)
  else ((hits.foldl (fun s o => s.accWrite u o (List.replicate 12 0)) s).countErr (s.block u).dist 0 hits.length, true)

/-- The words that MSVACC stores: the 16-byte images, word 3 zero (R101). -/
def State.imageWrites (s : State) (u t : Nat) (r : Record) (o : List Int) : List WByte :=
  let scr := (s.block u).scrBytes
  tileIdx.flatMap fun e =>
    let x := s.accRead u (accOff t e.1 e.2) 12 ++ List.replicate 4 0
    (List.range 4).flatMap fun w => match locate r scr (wordAt o e.1 e.2 w) with
      | some l => elemWrite r l (fieldLe x (4 * w) 4)
      | none => []

/-- MSVACC: its writes are held at their homes and performed together once all are accepted; with a rejected one, those that
were accepted are performed and the path is fatal. -/
def execMsvacc (a b : Opd) (imm : W8) (bp : Pr) (s : State) : Host.Outcome State Fault Refusal :=
  issueMove (.msvacc a b imm bp) s fun s =>
    match s.who with
    | some (u, g, _) =>
      s.withImage u g a rightW fun r s =>
        let wp := s.writeParts (.sys u g)
        if wp.isEmpty then
          s.onTile u g imm.toNat false fun s =>
            let s := (s.softElems u (tileIdx.map fun e => accOff imm.toNat e.1 e.2)).1
            let ws := s.imageWrites u imm.toNat r (originOf (s.wordsAt b 3))
            let ps := lineParts (s.accPart u g) 0 ws
            let (s, t) := s.scrTime u g s.pathStrands 0
            let s := s.scrApply u t (ws.filter fun w => keyOf w.va == 0xfffe)
            if ps.isEmpty then s.unblock u g
            else
              match s.sendWrites ps with
              | (s, some _) => s.accFatal u g 7
              | (s, none) => s.blockIn u g
        else
          let fatal := fatalOf wp
          let good := wp.filter fun p => match p.st with
            | .replied (.fatal _) => false
            | _ => true
          if good.any fun p => !p.rel then s.releaseParts (good.filter fun p => !p.rel)
          else
            let s := s.onGrp u g fun x => x.raise s.pathStrands (newest good)
            match fatal with
            | some (c, _) => s.accFatal u g c
            | none => (s.dropSrc (.sys u g)).unblock u g
    | none => s

/-! MSTAT and MCANCEL (R310, R311) -/

def TileOp.kind (o : TileOp) : Nat := if o.isMbld then 1 else if o.isMma then 2 else if o.isMdrn then 3 else 0

/-- The word of Table 8 for a group. -/
def State.mstatWord (s : State) (u g : Nat) : Nat :=
  let x := s.grp u g
  let tl := x.tl % 64 * 2 ^ 16
  let ganged := if 2 ≤ (gangMembers x.gang).length then 2 ^ 6 else 0
  match firstWith (fun o => o.blk == u && o.has g && o.fault.isSome) (s.core (s.block u).core).tileOps with
  | some o => o.cursor % 2 ^ 10 * 2 ^ 22 + tl + o.fault.getD 0 % 256 * 2 ^ 8 + 2 ^ 7 + ganged + o.kind * 2 ^ 3
  | none => tl + ganged

def execMstat (d : Opd) (bp : Pr) (s : State) : Host.Outcome State Fault Refusal :=
  issue (.mstat d bp) s fun _ s =>
    match s.who with
    | some (u, g, _) => s.putUni d (BitVec.ofNat 32 (s.mstatWord u g))
    | none => s

/-- Whether an MMA stands between two rows: no section of its next row is done. -/
def TileOp.between (o : TileOp) : Bool := o.quarters.all (· == o.cursor)

/-- A tile operation leaves the engine for good: TL falls, waiters take the time of its writes, and what waited may go on. -/
def State.endOp (s : State) (core : Nat) (o : TileOp) : State :=
  let s := s.onOp core o.id fun _ => o
  let see (g : Nat) (t : Strand) : Strand :=
    match t.wait with
    | .fence n m p => if o.has g ∧ o.id < n ∧ !p then { t with wait := .fence n (max m o.clk) p } else t
    | _ => t
  let s := s.onBlock o.blk fun b =>
    { b with groups := b.groups.zipIdx.map fun x => { x.1 with strands := x.1.strands.map (see x.2) } }
  let s := (s.sawWork core 6 o.id o.clk).dropOp core o.id
  (o.members.foldl (fun s m => s.settle o.blk m.grp) s).reachEngine core

/-- Cancels one tile operation: it goes, or is marked to stop or to be waited for (R311). -/
def State.cancelOp (s : State) (core : Nat) (o : TileOp) : State :=
  if !o.started || o.fault.isSome || (o.isMma && o.between) then s.endOp core o
  else
    let mine (e : Entry) : Bool := o.isMma && (match e.fetch with
      | some (k, _) => k == o.id
      | none => false)
    let ids := ((s.core core).eqs.flatten.filter mine).map Entry.id
    let s := s.onCore core fun c => { c with eqs := c.eqs.map fun q => q.filter fun e => !mine e }
    let s := { s with parts := s.parts.filter fun p => match p.src with
      | .engine d _ e => d != core || !ids.contains e
      | _ => true }
    s.onOp core o.id fun p => { p with cancel := true }

def execMcancel (mode : BitVec 12) (bp : Pr) (s : State) : Host.Outcome State Fault Refusal :=
  issueMove (.mcancel mode bp) s fun s =>
    match s.who with
    | some (u, g, _) =>
      let core := (s.block u).core
      if s.pathWait == .system then
        if (s.core core).cancelling u g (s.grp u g).upto then s else s.unblock u g
      else
        let gang := (s.grp u g).gang
        let ms := gangMembers gang
        let all := bitOf mode.toNat 0
        let ops := (s.core core).allOps.filter fun o => o.blk == u && o.has g &&
          (if all then o.joint && o.members.map TileMember.grp == ms else !o.joint)
        let held := (s.core core).latch.filter fun l => all && l.blk == u && !ms.isEmpty && gangMembers l.gang == ms
        let s := s.onCore core fun c => { c with latch := c.latch.filter fun l => !held.contains l }
        let s := held.foldl (fun s l => s.leaveLatch u l none true) s
        let s := ops.foldl (fun s o => s.cancelOp core o) s
        let s := if bitOf mode.toNat 1 then
            let cut (e : Entry) : Entry := if e.blk = u ∧ e.grp = g ∧ e.fetch.isNone then { e with cancel := true } else e
            s.onCore core fun c => { c with eqs := c.eqs.map fun q => q.map cut }
          else s
        let s := s.pumpLatch core
        if (s.core core).cancelling u g s.nextId then s.blockIn u g else s.unblock u g
    | none => s

end Sys2Proof.Machine
end

