-- ==== Sys2Proof/Machine/Tiles.lean ====
section
/-! DEFINITION. The running of tile operations: start, operand fetches, sections and retirement of rows, drained rows, tile faults
(R278, R281 to R286, R290, R297 to R303, R334). -/

namespace Sys2Proof.Machine

def State.opAt (s : State) (core id : Nat) : Option TileOp := firstWith (fun o => o.id == id) (s.core core).tileOps

/-! Start (R297, R298) -/

/-- Two operations have one issuer. -/
def TileOp.sameIssuer (o p : TileOp) : Bool :=
  o.blk == p.blk && o.joint == p.joint && o.members.map TileMember.grp == p.members.map TileMember.grp

/-- An MMA that occupies the core's one MMA. -/
def TileOp.runs (o : TileOp) : Bool := o.isMma && o.started && o.fault.isNone && !o.paused

/-- Whether nothing holds an operation. -/
def State.mayStart (s : State) (core : Nat) (o : TileOp) : Bool :=
  let c := s.core core
  let before := c.tileOps.takeWhile fun p => p.id != o.id
  !o.started && o.fault.isNone && (s.block o.blk).resident && !(s.block o.blk).stop && !s.fencedOff core 6 o.id o.spot &&
  !(before.any fun p => p.sameIssuer o && !p.started) &&
  !(c.allOps.any fun p => p.id < o.id && c.conflict p o) &&
  !(o.isMma && c.tileOps.any TileOp.runs) &&
  !(o.isMbld && s.blocks.any fun b => b.1 != o.blk && b.2.core == core && b.2.seated &&
      b.2.macs.any o.loads.macros.contains)

/-- The start checks of R298: whether they pass. -/
def State.startOk (s : State) (core : Nat) (o : TileOp) : Bool :=
  let c := s.core core
  let b := s.block o.blk
  if o.isMma then
    match c.tileAt o.blk o.first with
    | none => false
    | some t =>
      let ext := (o.slices t.cols).map fun m => extentFrom m.1.tile o.rows m.2.2
      fmtPair o.fmt t.fmt && (ext.all fun e => e.2 = 0 || e.1 + e.2 ≤ b.accTiles) && !c.sideHit o.blk b.accBytes ext
  else if o.isMbld then
    !o.loads.sided || !(c.allOps.any fun p => p.blk == o.blk && p.id != o.id && (c.extent p).any fun e =>
      (List.range e.2).any fun k => o.loads.macros.any fun m => onSide b.accBytes (e.1 + k) m)
  else
    let ext := o.members.map fun m => (m.tile, 1)
    (ext.all fun e => e.1 < b.accTiles) && !(bitOf o.mode 7 && c.sideHit o.blk b.accBytes ext)

/-- Tiles that an MBLD overlaps go, whole (R298). -/
def State.dropTiles (s : State) (core : Nat) (o : TileOp) : State :=
  s.onCore core fun c => { c with tiles := c.tiles.filter fun t =>
    !(t.blk == o.blk && t.macros.any o.loads.macros.contains) }

/-- The next row of MDRN, or the first fetches, follow in events of their own. -/
def State.startOp (s : State) (core : Nat) (o : TileOp) : State :=
  let kc := match (s.core core).tileAt o.blk o.first with
    | some t => t.kc
    | none => 1
  let s := if o.isMbld then
      ((s.dropTiles core o).onBlock o.blk fun b => { b with macs := (b.macs ++ o.loads.macros).dedup }).onCore core fun c =>
        { c with soft := c.soft.filter fun e => !o.loads.macros.contains e.1 }
    else s
  s.onOp core o.id fun p => { p with started := true, paused := false, next := p.cursor,
                                     quarters := if o.isMma then List.replicate kc p.cursor else [] }

/-! Tile faults (R301) -/

/-- The fetches of an operation and its parts go. -/
def State.dropFetches (s : State) (core id : Nat) : State :=
  let mine (e : Entry) : Bool := match e.fetch with
    | some (k, _) => k == id
    | none => false
  let ids := ((s.core core).eqs.flatten.filter mine).map Entry.id
  let s := s.onCore core fun c => { c with eqs := c.eqs.map fun q => q.filter fun e => !mine e }
  { s with parts := s.parts.filter fun p => match p.src with
      | .engine d _ e => d != core || !ids.contains e
      | .tile d k => d != core || k != id
      | _ => true }

/-- The operation is suspended at its cursor, and its issuing groups take a trap. -/
def State.faultOp (s : State) (core : Nat) (o : TileOp) (code : Nat) : State :=
  let b := s.block o.blk
  let s := s.count b.dist (vfNum b.dist b.vf) 0x11 1
  let live := o.members.filter fun m => (s.grp o.blk m.grp).life == .live
  if live.isEmpty then (s.countErr b.dist 5 1).endOp core o
  else
    let s := s.dropFetches core o.id
    let s := if o.isMbld then s.dropTiles core o else s
    let s := s.onOp core o.id fun p =>
      let c := if o.isMbld then 0 else p.cursor
      { p with fault := some code, cursor := c, next := c, buf := [], quarters := p.quarters.map fun _ => c,
               paused := p.started && p.isMma, back := [], mate := [] }
    live.foldl (fun s m => s.pendTrap o.blk m.grp code m.pc (some o.id)) s

def execTileFault (core op code : Nat) (s : State) : Host.Outcome State Fault Refusal :=
  .next (match s.opAt core op with
    | some o => if o.fault.isSome then s else s.faultOp core o code
    | none => s)

/-! Operand fetches (R290, R300, R334) -/

/-- Rows that an MMA may hold (R285): 8, or what 2,048 bytes hold. -/
def TileOp.ahead (o : TileOp) (depth : Nat) : Nat :=
  min 8 (2048 / max 1 (ceilDiv (depth * (matFmt o.fmt).storage) 8 + (if o.mx then depth / 32 else 0)))

/-- Elements per row of A of the operation's tile, or of an MBLD's unit. -/
def State.unitSize (s : State) (core : Nat) (o : TileOp) : Nat :=
  if o.isMbld then o.loads.cols
  else match (s.core core).tileAt o.blk o.first with
    | some t => t.depth
    | none => 0

/-- One unit of operand bytes: a row of A with its scales, or row k of B with the scales that begin there. -/
def State.unitSrc (s : State) (core : Nat) (o : TileOp) (unit : Nat) : List Src × List Src :=
  let m := o.members.headD { grp := 0 }
  let scr := (s.block o.blk).scrBytes
  let n := s.unitSize core o
  let so := m.origin.zipIdx.map fun e => if e.2 = 0 then e.1 / 32 else e.1
  if o.isMbld then
    ((List.range n).map fun j => readOf m.handle scr (addVec m.origin [unit, j]),
     if o.mx && unit % 32 == 0 then (List.range n).map fun j => readOf m.scale scr (addVec so [unit / 32, j]) else [])
  else
    ((List.range n).map fun k => readOf m.handle scr (addVec m.origin [k, unit]),
     if o.mx then (List.range (n / 32)).map fun j => readOf m.scale scr (addVec so [j, unit]) else [])

def TileOp.units (o : TileOp) : Nat := if o.isMma then o.rows else if o.isMbld then o.loads.depth else 0

/-- The fetcher raises the next copy into eq3, when it has a place there (R290, R299). -/
def State.raiseFetch (s : State) (core : Nat) (o : TileOp) : State :=
  let room := if o.isMma then o.ahead (s.unitSize core o) else 8
  if o.started && o.fault.isNone && !(o.isMma && o.cancel) && o.next < min o.units (o.cursor + room) &&
      (s.core core).eqCount 3 < 16 && (s.block o.blk).resident && (o.isMbld || !(s.block o.blk).stop) &&
      !(o.members.any fun m => s.pathAccesses o.blk m.grp m.ks o.id) then
    let (id, s) := s.newId
    let m := o.members.headD { grp := 0 }
    let e : Entry := { id := id, instr := o.instr, blk := o.blk, grp := m.grp, pc := m.pc, ks := m.ks, clk := o.clk,
                       fetch := some (o.id, o.next) }
    let s := s.onCore core fun c => { c with eqs := c.eqs.modify 3 fun q => q ++ [e] }
    s.onOp core o.id fun p => { p with next := p.next + 1 }
  else s

/-- The side-plane bytes of one row of B (R282): exponents of bf16, scales of an MX tile. -/
def State.sideRow (s : State) (o : TileOp) (row : OpRow) : State :=
  let t := o.loads
  let acc := (s.block o.blk).accBytes
  let w := macroCols t.fmt
  let at' (n off : Nat) : Nat := sideOff acc (t.first + row.num / 64 * t.nc + n / w) + off + n % w
  let s := if t.fmt = 5 then
      row.elems.zipIdx.foldl (fun s e => s.accWrite o.blk (at' e.2 (128 * (row.num % 64))) (leBytes 1 (e.1 / 2 ^ 7))) s
    else s
  row.scales.zipIdx.foldl (fun s e => s.accWrite o.blk (at' e.2 (512 * (row.num % 64 / 32))) (leBytes 1 e.1)) s

/-- A byte of the side plane. -/
def State.sideByte (s : State) (t : Tile) (m off : Nat) : Nat :=
  ((s.accRead t.blk (sideOff (s.block t.blk).accBytes m + off) 1).headD 0).toNat

/-- Element (k, n) of a tile: the exponent of bf16 stands in the side plane. -/
def State.tileElem (s : State) (t : Tile) (k n : Nat) : Nat :=
  let x := (t.elems.getD k []).getD n 0
  if t.fmt = 5 then
    let e := s.sideByte t (t.first + k / 64 * t.nc + n / 128) (128 * (k % 64) + n % 128)
    x / 2 ^ 15 * 2 ^ 15 + e * 2 ^ 7 + x % 2 ^ 7
  else x

/-- The scale of K-block j and column n. -/
def State.tileScale (s : State) (t : Tile) (j n : Nat) : Option Nat :=
  let w := macroCols t.fmt
  if t.mx then some (s.sideByte t (t.first + j / 2 * t.nc + n / w) (512 * (j % 2) + n % w)) else none

/-- The macros of a tile that are special (R284): an element placed there is infinite or not a number, or a scale is 0xff. -/
def State.specials (s : State) (t : Tile) : List Nat :=
  let w := macroCols t.fmt
  (List.range (t.kc * t.nc)).filterMap fun j =>
    let q := j / t.nc
    let cols := (List.range w).map (w * (j % t.nc) + ·)
    let odd (k n : Nat) : Bool := match (matFmt t.fmt).value (s.tileElem t k n) with
      | .fin .. => false
      | _ => true
    if ((List.range 64).any fun r => cols.any (odd (64 * q + r))) ||
        (t.mx && (List.range 2).any fun h => cols.any fun n => s.tileScale t (2 * q + h) n == some 255) then some (t.first + j)
    else none

/-- A row's section of a K-quarter is skippable (R284), taken alone. -/
def TileOp.skips (o : TileOp) (t : Tile) (row : OpRow) (q : Nat) : Bool :=
  (((row.elems.drop (64 * q)).take 64).all fun x => ((matFmt o.fmt).value x).isZero) &&
  (!o.mx || ((row.scales.drop (2 * q)).take 2).all (· != 255)) &&
  !((List.range t.nc).any fun j => t.marks.contains (t.first + q * t.nc + j))

/-- A row as it enters the row buffer, with what its sections skip. -/
def State.marked (s : State) (core : Nat) (o : TileOp) (row : OpRow) : OpRow :=
  match (s.core core).tileAt o.blk o.first with
  | some t => { row with skip := (List.range t.kc).map (o.skips t row) }
  | none => row

/-- A unit has arrived. -/
def State.takeUnit (s : State) (core : Nat) (o : TileOp) (row : OpRow) (clk : Nat) : State :=
  let t := max o.clk clk
  if o.isMbld then
    let s := s.sideRow o row
    let buf := o.buf ++ [row]
    if buf.length = o.units then
      let tile : Tile := { o.loads with elems := buf.map OpRow.elems }
      let tile := { tile with marks := s.specials tile }
      let s := s.onCore core fun c => { c with tiles := c.tiles ++ [tile] }
      s.endOp core { o with clk := t }
    else s.onOp core o.id fun p => { p with buf := buf, cursor := row.num + 1, clk := t }
  else s.onOp core o.id fun p => { p with buf := p.buf ++ [s.marked core o row], clk := t }

/-- The fetch at the head of eq3 is performed, if its lines are there. -/
def State.runFetch (s : State) (core : Nat) (o : TileOp) (e : Entry) (unit : Nat) : State :=
  let m := o.members.headD { grp := 0 }
  let (xs, ys) := s.unitSrc core o unit
  match s.fetchSpans (s.entryPart core 3 e) (xs.flatMap (srcSpan m.handle) ++ ys.flatMap (srcSpan m.scale)) with
  | (s, .wait) => s
  | (s, .fatal c _) => if o.isMma && o.cursor < unit then s else s.post (.tileFault core o.id c)
  | (s, .ok g) =>
    let row : OpRow := { num := unit, elems := xs.map (s.gotElem o.blk g m.handle), scales := ys.map (s.gotElem o.blk g m.scale) }
    let s := s.onCore core fun c => { c with eqs := c.eqs.modify 3 fun q => q.filter fun x => x.id != e.id }
    (s.dropWhere (.engine core 3 e.id) fun _ => true).takeUnit core o row g.clk

/-- A fetch of the operation that waits for a fill (R300). -/
def State.filling (s : State) (core : Nat) (o : TileOp) : Bool :=
  s.parts.any fun p => p.st == .parked && match p.src with
    | .engine d 3 e => d == core && (match s.entryOf core 3 e with
        | some x => (match x.fetch with
            | some (k, _) => k == o.id
            | none => false)
        | none => false)
    | _ => false

/-- An MMA whose next row is missing pauses for the fill; it goes on when the fill is over and no other MMA runs. -/
def State.settlePause (s : State) (core : Nat) (o : TileOp) : State :=
  if !o.isMma || !o.started || o.fault.isSome then s
  else if o.paused then
    if s.filling core o || (s.core core).tileOps.any TileOp.runs then s else s.onOp core o.id fun p => { p with paused := false }
  else if o.buf.isEmpty && s.filling core o then s.onOp core o.id fun p => { p with paused := true }
  else s

/-- OPERAND_FETCH. -/
def execOperandFetch (core op : Nat) (s : State) : Host.Outcome State Fault Refusal :=
  let s := match s.opAt core op with
    | none => s
    | some o =>
      match s.head core 3 with
      | some e =>
        match e.fetch with
        | some (k, unit) => if k = op ∧ e.st == EntrySt.running ∧ o.fault.isNone then s.runFetch core o e unit else s
        | none => s
      | none => s
  let s := match s.opAt core op with
    | some o => s.settlePause core o
    | none => s
  .next (match s.opAt core op with
    | some o => s.raiseFetch core o
    | none => s)

/-! Sections and rows (R283 to R286) -/

/-- The number of the other row of an f16 pair (R283). -/
def mateOf (i : Nat) : Nat := if i % 2 = 0 then i + 1 else i - 1

/-- Whether a section is skipped: an f16 pair's only together (R283, R284). -/
def TileOp.skipPair (o : TileOp) (row : OpRow) (q : Nat) : Bool :=
  row.skip.getD q false && (o.fmt != 6 || match firstWith (fun r => r.num == mateOf row.num) o.buf with
    | some r => r.skip.getD q false
    | none => row.num % 2 = 0 || row.num != o.cursor || o.mate.getD q true)

/-- A fetch of the operation has been refused, or waits for a fill. -/
def State.fetchStuck (s : State) (core : Nat) (o : TileOp) : Bool :=
  s.filling core o || s.parts.any fun p => match p.src, p.st with
    | .engine d 3 e, .replied (.fatal _) => d == core && (s.entryOf core 3 e).any fun x => x.fetch.any fun f => f.1 == o.id
    | _, _ => false

/-- An f16 row whose mate is still being fetched waits for it, so that the two are taken as a pair; it goes alone where its mate
cannot come (R283, R300). -/
def State.awaitsMate (s : State) (core : Nat) (o : TileOp) (i : Nat) : Bool :=
  o.fmt == 6 && i % 2 == 0 && i + 1 < o.rows && !(o.buf.any fun r => r.num == i + 1) && !(o.quarters.any (i < ·)) &&
    !s.fetchStuck core o

/-- The block sums of column n added to an element in block order (R109, R110). -/
def State.sumInto (s : State) (o : TileOp) (t : Tile) (row : OpRow) (n w : Nat) : Nat :=
  let fa := matFmt o.fmt
  let fb := matFmt t.fmt
  (List.range (t.depth / 32)).foldl (fun w j =>
    let ks := (List.range 32).map (32 * j + ·)
    accAdd w (blockSum (ks.map fun k => (fa.value (row.elems.getD k 0), fb.value (s.tileElem t k n)))
      (if o.mx then some (row.scales.getD j 0) else none) (s.tileScale t j n))) w

/-- The ACC offset of A row i and column n of a slice (R288). -/
def outOff (tile first width i n : Nat) : Nat :=
  accOff (tile + i / 16 * ceilDiv width 128 + (n - first) / 128) (i % 16) ((n - first) % 128)

/-- A row retires: its block sums go into the accumulators of every slice, and the row leaves the buffer (R285).  A block that is
being stopped leaves its MMA there (R304). -/
def State.retire (s : State) (core : Nat) (o : TileOp) (t : Tile) (row : OpRow) : State :=
  let s := (o.slices t.cols).foldl (fun s m =>
    (List.range m.2.2).foldl (fun s j =>
      let n := m.2.1 + j
      let off := outOff m.1.tile m.2.1 m.2.2 row.num n
      s.accWrite o.blk off (leBytes 12 (s.sumInto o t row n (ofLe (s.accRead o.blk off 12))))) s) s
  let stop := (s.block o.blk).stop
  s.onOp core o.id fun p =>
    { p with cursor := row.num + 1, buf := p.buf.filter fun r => r.num != row.num, mate := row.skip,
             quarters := if stop then p.quarters.map fun _ => row.num + 1 else p.quarters }

/-! Uncorrectable macro and accumulator words (R303) -/

/-- The columns whose elements lie in eight slots of a macro's row (R281). -/
def Tile.slotCols (t : Tile) (nq slot : Nat) : List Nat :=
  (List.range 8).flatMap fun j =>
    let c := slot + j
    if t.fmt = 4 then [256 * nq + 2 * c, 256 * nq + 2 * c + 1] else if t.fmt = 6 then [64 * nq + c / 2] else [128 * nq + c]

def Tile.zeroSlots (t : Tile) (mac row slot : Nat) : Tile :=
  let i := mac - t.first
  { t with elems := t.elems.modify (64 * (i / t.nc) + row) fun l =>
      l.zipIdx.map fun e => if (t.slotCols (i % t.nc) slot).contains e.2 then 0 else e.1 }

/-- Errors in macros of a block's tiles read and are written as zero, and are counted; whether there was one. -/
def State.softMacros (s : State) (core u : Nat) (macs : List Nat) : State × Bool :=
  let hits := (s.core core).soft.filter fun e => macs.contains e.1
  if hits.isEmpty then (s, false)
  else
    let fix (t : Tile) : Tile := if t.blk = u then (hits.filter fun e => t.macros.contains e.1).foldl (fun t e => t.zeroSlots e.1 e.2.1 e.2.2) t
      else t
    let s := s.onCore core fun c => { c with tiles := c.tiles.map fix, soft := c.soft.filter fun e => !macs.contains e.1 }
    -- a bf16 element's exponent stands in the side plane: its slot's zero significand makes it zero
    let s := hits.foldl (fun s e => match firstWith (fun t => t.blk == u && t.macros.contains e.1) (s.core core).tiles with
      | some t => if t.fmt = 5 then s.accWrite u (sideOff (s.block u).accBytes e.1 + 128 * e.2.1 + e.2.2) (List.replicate 8 0) else s
      | none => s) s
    (s.countErr (s.block u).dist 0 hits.length, true)

/-- Whether such an error is a tile fault. -/
def State.softFault (s : State) (u : Nat) (hit : Bool) : Bool := hit && (s.district (s.block u).dist).policy.getLsbD 1

/-- The accumulator elements that a row of an MMA adds to. -/
def TileOp.rowOffs (o : TileOp) (t : Tile) (i : Nat) : List Nat :=
  (o.slices t.cols).flatMap fun m => (List.range m.2.2).map fun j => outOff m.1.tile m.2.1 m.2.2 i (m.2.1 + j)

/-- SECTION: a K-quarter finishes its section of its next row; the row retires when it is the last to do so. -/
def execSectionStep (core op quarter : Nat) (s : State) : Host.Outcome State Fault Refusal :=
  .next (match s.opAt core op with
    | none => s
    | some o =>
      match (s.core core).tileAt o.blk o.first, o.quarters[quarter]? with
      | some t, some i =>
        let low := o.quarters.foldl min i
        match firstWith (fun r => r.num == i) o.buf with
        | some row =>
          if o.runs && i < low + o.ahead t.depth && !((o.cancel || (s.block o.blk).stop) && o.between) &&
              !s.awaitsMate core o i then
            let b := s.block o.blk
            let (s, hit) := s.softMacros core o.blk ((List.range t.nc).map fun j => t.first + quarter * t.nc + j)
            let (s, lost) := s.softElems o.blk (o.rowOffs t i)
            if s.softFault o.blk (hit || lost) then s.post (.tileFault core op 0x10)
            else
            let t := ((s.core core).tileAt o.blk o.first).getD t
            let s := s.count b.dist (vfNum b.dist b.vf) (if o.skipPair row quarter then 0x0f else 0x0e) 1
            let qs := listSet o.quarters quarter (i + 1)
            let s := s.onOp core o.id fun p => { p with quarters := qs }
            match firstWith (fun r => r.num == o.cursor) o.buf with
            | some first =>
              if qs.all fun k => o.cursor < k then
                let s := s.retire core o t first
                if o.cursor + 1 = o.rows ∨ o.cancel then s.endOp core { o with cursor := o.cursor + 1 } else s
              else s
            | none => s
          else s
        | none => s
      | _, _ => s)

/-! Drained rows (R308) -/

/-- The pieces of row i of a drain: coordinates with patterns for the elements, and for the scales. -/
def State.drained (s : State) (o : TileOp) (m : TileMember) (i : Nat) :
    List (List Int × Nat) × List (List Int × Nat) :=
  let f := drnFmt o.fmt
  let rm := bits o.mode 5 4
  let xs := (List.range 128).map fun j => ffW96.value (ofLe (s.accRead o.blk (accOff m.tile i j) 12))
  let place (l : List Nat) : List (List Int × Nat) := l.zipIdx.map fun e => (addVec m.origin [e.2, i], e.1)
  if o.mx then
    let bs := (List.range 4).map fun b => mxScale ((xs.drop (32 * b)).take 32) f rm
    (place (bs.flatMap Prod.snd), bs.zipIdx.map fun e => (addVec m.scaleOrigin [e.2, i], e.1.1))
  else (place (xs.map fun x => f.round rm (bitOf o.mode 6) x), [])

/-- The bytes that row i writes in every member's destination, and the elements that are out of bounds. -/
def State.drainWrites (s : State) (o : TileOp) (i : Nat) : List WByte × Nat :=
  let scr := (s.block o.blk).scrBytes
  o.members.foldl (fun a m =>
    let (es, ss) := s.drained o m i
    let (x, n) := elemWrites m.handle scr es
    let (y, k) := if o.mx then elemWrites m.scale scr ss else ([], 0)
    (a.1 ++ x ++ y, a.2 + n + k)) ([], 0)

/-- The parts of a tile operation's writes, less their place. -/
def State.tilePart (s : State) (core : Nat) (o : TileOp) : Part :=
  let b := s.block o.blk
  let h := s.launchHdr b
  { src := .tile core o.id, kind := .pst, va := 0, len := 0, vf := vfNum b.dist b.vf, dist := b.dist, domain := hDomain h,
    priv := hPriv h, dev := s.dev.devnum, clk := o.clk, writer := 4 }

/-- A row is written: with `.clr` its elements become +0 (R308). -/
def State.rowDone (s : State) (core : Nat) (o : TileOp) (clk : Nat) : State :=
  let s := s.dropWhere (.tile core o.id) fun _ => true
  let s := if bitOf o.mode 7 then
      o.members.foldl (fun s m => s.accWrite o.blk (accOff m.tile o.cursor 0) (List.replicate (12 * 128) 0)) s
    else s
  let o' := { o with cursor := o.cursor + 1, clk := max o.clk clk }
  if o'.cursor = 16 then s.endOp core o' else s.onOp core o.id fun _ => o'

/-- The next step of a drain: its row's writes are sent, released once every home holds them, and then the row is written. -/
def State.runDrain (s : State) (core : Nat) (o : TileOp) : State :=
  let wp := s.writeParts (.tile core o.id)
  -- it reads nothing and writes nothing before the accesses that its paths issued before it (R299)
  if o.members.any fun m => s.pathAccesses o.blk m.grp m.ks o.id then s
  else if wp.any Part.rel then (if wp.all Part.done then s.rowDone core o (newest wp) else s)
  else
    let (s, hit) := s.softElems o.blk (o.members.flatMap fun m => (List.range 128).map fun j => accOff m.tile o.cursor j)
    if s.softFault o.blk hit then s.post (.tileFault core o.id 0x10)
    else
    let (ws, lost) := s.drainWrites o o.cursor
    let b := s.block o.blk
    let release (s : State) : State :=
      (s.countErr b.dist 4 lost).scrApply o.blk o.clk (ws.filter fun w => keyOf w.va == 0xfffe)
    if wp.isEmpty then
      let ps := lineParts (s.tilePart core o) 0 ws
      if ps.isEmpty then (release s).rowDone core o 0
      else
        match s.sendWrites ps with
        | (s, some _) => (s.dropWhere (.tile core o.id) fun _ => true).post (.tileFault core o.id 7)
        | (s, none) => s
    else
      match fatalOf wp with
      | some (c, _) => s.post (.tileFault core o.id c)
      | none => if wp.all Part.done then (release s).releaseParts wp else s

/-- TILE_OP_START (R297): an operation that nothing holds starts after its checks; a drain that has started goes on to its next
row. -/
def execTileOpStart (core op : Nat) (s : State) : Host.Outcome State Fault Refusal :=
  let s := (s.settleFences core).pumpLatch core
  .next (match s.opAt core op with
    | none => s
    | some o =>
      if o.started then (if o.isMdrn && o.fault.isNone && (s.block o.blk).resident then s.runDrain core o else s)
      else if s.mayStart core o then
        if s.startOk core o then
          let t := (s.core core).floors.getD 6 0
          (s.startOp core o).onOp core op fun p => { p with clk := max p.clk t }
        else s.post (.tileFault core op 0x0b)
      else s)

end Sys2Proof.Machine
end

