-- ==== Sys2Proof/Machine/System.lean ====
section
/-! DEFINITION. Class 7 but for the context instructions: triggers, service requests, counters, keys, the distribution table,
invalidation at a home, watchpoints, and the service ports (R131, R365, R372, R388, R391, R428 to R443, R476 to R484, R488). -/

namespace Sys2Proof.Machine

/-! An instruction that waits inside itself for answers -/

/-- The source of the present instruction's requests. -/
def State.sysSrc (s : State) : PartSrc :=
  match s.focus.kind with
  | .path u g _ => .sys u g
  | .handler u g => .sys u (g + 2 ^ 16)
  | .thread q => .thread q
  | .none => .sys 0 0

/-- A request of the present instruction: an ordinary access of its strands, or of its thread. -/
def State.sysReq (s : State) (kind : PartKind) (va len : Nat) (data : List W8) : Part :=
  match s.focus.kind with
  | .thread q => s.threadPart q kind va len data
  | .path u g ks => { s.strandPart u g ks kind va len with src := s.sysSrc, data := data, promo := false }
  | .handler u g => { s.strandPart u g [] kind va len with src := s.sysSrc, data := data, promo := false }
  | .none => { src := s.sysSrc, kind := kind, va := va, len := len, data := data }

/-- The instruction is issued again when its answers have come. -/
def State.sysWait (s : State) : State :=
  match s.focus.kind with
  | .path u g _ => s.blockIn u g
  | .thread q => s.setThread q fun t => { t with busy := true }
  | _ => s

/-- The instruction no longer waits. -/
def State.sysEnd (s : State) : State :=
  let s := s.dropSrc s.sysSrc
  match s.focus.kind with
  | .path u g _ => s.onGrp u g fun x => { x with busy := .none }
  | .thread q => s.setThread q fun t => { t with busy := false }
  | _ => s

def State.sysDone (s : State) : State := s.sysEnd.advance
def State.sysTrap (s : State) (code : Nat) : State := s.sysEnd.trapPath code

/-- The instruction ends with a status. -/
def State.sysStatus (s : State) (d : Opd) (v : Nat) : State := (s.putUni d (BitVec.ofNat 32 v)).sysDone

/-- An answer's time joins the order of the path or thread. -/
def State.sysSaw (s : State) (t : Nat) : State :=
  match s.focus.kind with
  | .path u g ks => s.onGrp u g fun x => x.raise ks t
  | .handler u g => s.onGrp u g fun x => x.raise x.living t
  | .thread q => s.setThread q fun x => { x with tick := max x.tick t }
  | .none => s

/-- Asks, and goes on with the answer when it is there; `bad` says what a fatal reply does. -/
def State.sysAskOr (s : State) (p : Part) (bad : Nat → State → State) (k : State → List W8 → State) : State :=
  let s := match s.focus.kind with
    | .thread q => if (s.asked p).isNone then s.countThread q 0x07 else s
    | _ => s
  match s.ask p with
  | (s, .wait) => s.sysWait
  | (s, .fatal c) => bad c s
  | (s, .ok d w _ _) => k (s.sysSaw w) d

/-- As sysAskOr; a fatal reply traps with its code. -/
def State.sysAsk (s : State) (p : Part) (k : State → List W8 → State) : State :=
  s.sysAskOr p (fun c s => s.sysTrap c) k

/-- Reads some bytes, whichever lines hold them. -/
def State.sysRead (s : State) (va n : Nat) (bad : Nat → State → State) (k : State → List W8 → State) : State :=
  let before := s.parts.length
  let (s, f) := s.fetchSpans (s.sysReq .load va n []) [(va, n)]
  let s := match s.focus.kind with
    | .thread q => (List.range (s.parts.length - before)).foldl (fun s _ => s.countThread q 0x07) s
    | _ => s
  match (s, f) with
  | (s, .wait) => s.sysWait
  | (s, .fatal c _) => bad c s
  | (s, .ok g) => k (s.sysSaw g.clk) (s.gotBytes 0 g va n)

/-- The check of an address under the present accessor (R183). -/
def State.sysCheck (s : State) (va need : Nat) : Option Nat :=
  let (es, priv, d) := s.accessor
  s.mayAccess es priv d va need

/-- The rights of the present accessor on an address that must not lie in a special region. -/
def State.sysRight (s : State) (va need : Nat) : Bool := hasRights (rightsIn s.accessor.1 (keyOf va)) need

/-! TRIG (R131) -/

/-- In the handler no strand of the path is active. -/
def execTrig (bp : Pr) (s : State) : Host.Outcome State Fault Refusal :=
  issue (.trig bp) s fun _ s =>
    match s.focus.kind with
    | .path u g ks => s.triggerStrands u g ks
    | _ => s

/-! Service threads and rings (R429 to R433, R488) -/

/-- Records of a ring. -/
def SQueue.records (x : SQueue) : Nat := 2 ^ (x.size + 2)
/-- Where record n stands (R430). -/
def SQueue.slot (x : SQueue) (n : Nat) : Nat := x.ring + 64 + 64 * (n % x.records)

/-- The registers of a thread's start (R429). -/
def SQueue.startRegs (x : SQueue) (q : Nat) : List W32 :=
  let r (k : Nat) : Nat := match k with
    | 16 => x.ring
    | 17 => x.ring / 2 ^ 32
    | 18 => x.records
    | 19 => q
    | 20 => x.scratch
    | 21 => x.scratch / 2 ^ 32
    | _ => 0
  (List.range 32).map fun k => BitVec.ofNat 32 (r k)

/-- A thread starts at ENTRY; the logical time of the start is the district's dispatch clock (DEDUCED). -/
def State.startThread (s : State) (q : Nat) : State :=
  s.onSqueue q fun x =>
    { x with tstate := 1, thread := { w := x.startRegs q, pc := x.entry, hdr := x.entry, tick := (s.district x.district).clock } }

/-- NOTIFY takes a value; a change of it starts an idle thread again (R441). -/
def State.setNotify (s : State) (q v : Nat) : State :=
  let x := s.squeue q
  let s := s.onSqueue q fun x => { x with notify := v }
  if x.notify ≠ v ∧ x.tstate = 3 then s.startThread q else s

/-- Whether a poster may use a ring now: posts are applied one at a time, in the order in which their checks passed (R433). -/
def State.ringFree (s : State) (q : Nat) (me : Nat × Nat) : Bool :=
  let on (o : Nat × Nat) : Bool := (Tbl.find o.1 s.blocks).any Block.resident
  let x := s.squeue q
  match (x.posting.filter on).toList ++ (x.waitPost.filter fun o => o == me || on o) with
  | [] => true
  | o :: _ => o == me

/-- A ring is full (R430). -/
def SQueue.full (x : SQueue) (consumed : Nat) : Bool := x.records ≤ (x.produced + 2 ^ 32 - consumed % 2 ^ 32) % 2 ^ 32

/-- The domain of a queue holds rights on its ring. -/
def State.ringRight (s : State) (q need : Nat) : Bool :=
  let x := s.squeue q
  hasRights (rightsIn (s.keyEntries x.district x.domain) (keyOf x.ring)) need

/-- The words of a record that the device stamps (Table 2 of R431). -/
def recordHead (n op src vf : Nat) : List W8 := leBytes 8 (n % 2 ^ 32 + op * 2 ^ 32 + src * 2 ^ 48 + vf * 2 ^ 52)

/-- A post is performed: PRODUCED and NOTIFY take n + 1 (R433). -/
def State.posted (s : State) (q ts : Nat) (out : List (Nat × Nat × Nat × Nat)) : State :=
  let n := (s.squeue q).produced
  let s := s.onSqueue q fun x =>
    { x with produced := (n + 1) % 2 ^ 32, outstanding := x.outstanding ++ out, posting := none, postTs := max x.postTs ts }
  s.setNotify q ((n + 1) % 2 ^ 32)

def State.setPosting (s : State) (q : Nat) (o : Option (Nat × Nat)) : State :=
  s.onSqueue q fun x => { x with posting := o, waitPost := x.waitPost.filter fun p => some p != o }

/-- A poster whose checks are made waits for its turn. -/
def State.waitsToPost (s : State) (q : Nat) (me : Nat × Nat) : State :=
  s.onSqueue q fun x => { x with waitPost := if x.waitPost.contains me then x.waitPost else x.waitPost ++ [me] }

/-- The checks of a poster are made: they are not made again (R434). -/
def SQueue.admitted (x : SQueue) (me : Nat × Nat) : Bool := x.posting == some me || x.waitPost.contains me

/-- The issuing VF: of the launch, or the OWNER of a thread's queue. -/
def State.issuerVf (s : State) : Nat :=
  match s.focus.kind with
  | .path u _ _ | .handler u _ => vfNum (s.block u).dist (s.block u).vf
  | .thread q => (s.squeue q).owner
  | .none => 0

/-- A thread whose OWNER is no VF has no counters (R482, R483). -/
def State.noCounters (s : State) : Bool :=
  match s.focus.kind with
  | .thread q => 0xffe ≤ (s.squeue q).owner
  | _ => false

/-- Who the present instruction posts as. -/
def State.poster (s : State) : Nat × Nat :=
  match s.sysSrc with
  | .sys u g => (u, g)
  | _ => (0, 0)

/-- A ring that a core may post to (R434). -/
def State.postable (s : State) (q d : Nat) : Bool :=
  let x := s.squeue q
  q < 64 && x.kind == 2 && x.tstate != 0 && x.district == d && (x.owner == s.issuerVf || x.shared)

/-- The post of SVC, once its image is there: the ring's turn, CONSUMED, the record, PRODUCED (R433, R434, R488). -/
def State.svcPost (s : State) (d : Opd) (q : Nat) (r : List W8) : State :=
  let me := s.poster
  if !s.ringFree q me then (s.waitsToPost q me).sysWait
  else
    let s := s.setPosting q (some me)
    let x := s.squeue q
    let trap (c : Nat) (s : State) : State := (s.setPosting q none).sysTrap c
    if !s.ringRight q rightRD then trap 0x06 s
    else
      s.sysAskOr (s.sysReq .load (x.ring + 8) 4 []) trap fun s line =>
        if x.full (ofLe (lineBytes line (x.ring + 8) 4)) then (s.setPosting q none).sysStatus d 1
        else
          let n := x.produced
          let vf := s.issuerVf
          let bytes := recordHead n (fieldLe r 4 2) 1 vf ++ (r.drop 8).take 56
          let w (va : Nat) (data : List W8) : Part := { s.sysReq .store va data.length data with writer := 8, promo := false }
          match s.ask (w (x.slot n) bytes) with
          | (s, .wait) => s.sysWait
          | (s, .fatal c) => trap c s
          | (s, .ok _ t1 _ _) =>
            match s.ask { w x.ring (leBytes 4 (n + 1)) with clk := t1 } with
            | (s, .wait) => s.sysWait
            | (s, .fatal c) => trap c s
            | (s, .ok _ t2 _ _) =>
              ((s.sysSaw t2).posted q (max t1 t2) [(n, fieldLe r 8 8, vf, fieldLe r 0x10 8)]).sysStatus d 0

/-- SVC (R434). -/
def execSvc (d a b : Opd) (bp : Pr) (s : State) : Host.Outcome State Fault Refusal :=
  issueMove (.svc d a b bp) s fun s =>
    let img := s.pairOf a
    let q := (s.uniWord b none).toNat
    let in' := (s.squeue q).admitted s.poster
    if in' then s.sysAsk (s.sysReq .load img 64 []) fun s r => s.svcPost d q r
    else if img % 64 ≠ 0 then s.sysTrap 0x08
    else
      match s.sysCheck img rightRD with
      | some c => s.sysTrap c
      | none =>
        s.sysAsk (s.sysReq .load img 64 []) fun s r =>
          let reply := fieldLe r 8 8
          if reply % 64 ≠ 0 then s.sysTrap 0x08
          else if reply ≠ 0 ∧ (0xfffd ≤ keyOf reply ∨ !s.sysRight reply rightW) then s.sysTrap 0x06
          else if !s.postable q s.accessor.2.2 then s.sysStatus d 2
          else s.svcPost d q r

/-! Counters (R476 to R483) -/

/-- Fabric events, and reserved codes. -/
def classF (e : Nat) : Bool := 0x20 ≤ e && e ≤ 0x23
def eventReserved (e : Nat) : Bool := e = 0 || (0x12 ≤ e && e ≤ 0x1f) || 0x24 ≤ e

/-- Fields of a VF counter's configuration (Table 2 of R479). -/
def cfgEvent (c : W32) : Nat := bits c.toNat 7 0
def cfgOn (c : W32) : Bool := bitOf c.toNat 15
def cfgOvie (c : W32) : Bool := bitOf c.toNat 14

/-- One update of a counter (R480): whether OVF has risen. -/
def Counter.add (c : Counter) (n : Nat) : Counter × Bool :=
  let past := 2 ^ 48 ≤ c.value + n
  ({ c with value := (c.value + n) % 2 ^ 48, ovf := c.ovf || past }, past && !c.ovf)

/-- Events that a VF counter counts: a hit on another owner's line (0x10b) is none. -/
def vfSum (l : List (Nat × Nat × Nat)) (vf : Nat) (c : W32) : Nat :=
  if !cfgOn c || classF (cfgEvent c) || eventReserved (cfgEvent c) then 0
  else l.foldl (fun a e => if e.1 = vf ∧ e.2.1 = cfgEvent c then a + e.2.2 else a) 0

/-- Events that a district counter counts (Table 4 of R485). -/
def districtSum (l : List (Nat × Nat × Nat)) (c : W32) : Nat :=
  let e := cfgEvent c
  if !bitOf c.toNat 22 || eventReserved e then 0
  else l.foldl (fun a x =>
    if x.2.1 % 256 = e ∧ (!bitOf c.toNat 20 ∨ x.1 = bits c.toNat 19 8) then a + x.2.2 else a) 0

/-- An interrupt of a function: its message leaves, or a masked vector becomes pending (R453, R480). -/
def State.interrupt (s : State) (f v : Nat) : State :=
  let x := Tbl.getD (8 * f + v) s.dev.msix {}
  if x.masked then { s with dev := { s.dev with msix := Tbl.put (8 * f + v) { x with pending := true } s.dev.msix } }
  else s.output (.interrupt f v)

/-- Events of a district are added to its live set and to its district counters, and others still wait; overflows raise interrupts
(R480, R485). -/
def State.addList (s : State) (d : Nat) (l rest : List (Nat × Nat × Nat)) : State :=
  let x := s.district d
  let s := s.onDistrict d fun x => { x with events := rest, aged := 0 }
  let s := match x.curVf with
    | none => s
    | some v =>
      let vf := vfNum d v
      let rs := x.live.map fun c => (c, c.add (vfSum l vf c.cfg))
      let s := s.onDistrict d fun x => { x with live := rs.map fun r => r.2.1 }
      rs.foldl (fun s r => if r.2.2 && cfgOvie r.1.cfg then s.interrupt (vf + 1) 1 else s) s
  (List.range 8).foldl (fun s i =>
    let c := Tbl.getD i (s.district d).mon {}
    let n := districtSum l c.cfg
    if n = 0 then s
    else
      let (c', rose) := c.add n
      let s := s.onDistrict d fun x => { x with mon := Tbl.put i c' x.mon }
      if rose && bitOf c.cfg.toNat 21 then (s.interrupt 0 1).postNotice (.overflow d i) else s) s

/-- All events that wait are added. -/
def State.addEvents (s : State) (d : Nat) : State := s.addList d (s.district d).events []

/-- The events of earlier cycles and those of the present pass are added; others of this cycle come behind what the pass does (R483). -/
def State.addOwn (s : State) (d : Nat) : State :=
  let x := s.district d
  let old := x.events.take s.focus.before
  s.addList d (old.take x.aged ++ x.events.drop s.focus.before) (old.drop x.aged)

/-- Counters of a device VF: the live set where it is current, else its image (R481). -/
def State.vfCounters (s : State) (vf : Nat) : List Counter :=
  let d := s.district (vf / 64)
  if d.curVf = some (vf % 64) then d.live else Tbl.getD vf s.images [{}, {}, {}, {}]
def State.setVfCounter (s : State) (vf k : Nat) (c : Counter) : State :=
  let cs := listSet (s.vfCounters vf) k c
  if (s.district (vf / 64)).curVf = some (vf % 64) then s.onDistrict (vf / 64) fun d => { d with live := cs }
  else { s with images := Tbl.put vf cs s.images }

/-- The value that CNTR reads. -/
def Counter.read (c : Counter) : Nat := if classF (cfgEvent c.cfg) then 0 else c.ovf.toNat * 2 ^ 63 + c.value

/-- CNTR (R482): the events of its own pass and of the group's earlier instructions are added first. -/
def execCntr (d a : Opd) (bp : Pr) (s : State) : Host.Outcome State Fault Refusal :=
  issue (.cntr d a bp) s fun es s =>
    let vf := s.issuerVf
    let k := (s.uniWord a (es.getD 0 none)).toNat % 4
    if s.noCounters then s.putUni64 d 0
    else
      let s := s.addEvents (vf / 64)
      s.putUni64 d ((s.vfCounters vf).getD k {}).read

/-- What CNTC does to a counter: the new one, or status 1. -/
def cntcDo (op : Nat) (c : Counter) (cfg : W32) (odd : Bool) (x : Nat) : Option Counter :=
  match op with
  | 0 => if bits cfg.toNat 31 16 ≠ 0 ∨ bits cfg.toNat 13 8 ≠ 0 ∨ eventReserved (cfgEvent cfg) then none
         else some { value := 0, ovf := false, cfg := cfg }
  | 1 => some { c with value := 0, ovf := false }
  | 2 => if odd ∨ 2 ^ 48 ≤ x then none else some { c with value := x, ovf := false }
  | _ => none

/-- CNTC (R483): the events of its own pass are added before it takes effect. -/
def execCntc (d a b : Opd) (bp : Pr) (s : State) : Host.Outcome State Fault Refusal :=
  issue (.cntc d a b bp) s fun es s =>
    let vf := s.issuerVf
    let x := (s.uniWord a (es.getD 0 none)).toNat
    let odd := match b with
      | .w n => n.val % 2 = 1
      | _ => false
    if s.noCounters then s.putUni d 2
    else
      let s := s.addOwn (vf / 64)
      match cntcDo (bits x 3 2) ((s.vfCounters vf).getD (x % 4) {}) (s.uniWord b (es.getD 1 none)) odd (s.uniWord64 b true) with
      | some c => (s.setVfCounter vf (x % 4) c).putUni d 0
      | none => s.putUni d 1

/-! Protection keys (R387, R388) -/

/-- A domain stays registered while an entry of it is valid or a launch of it is incomplete. -/
def State.registered (s : State) (k : KeyList) : Bool :=
  k.entries.any (fun e => bitOf e.toNat 0) ||
    (s.district k.dist).launches.any fun l => hDomain l.header == k.domain && vfNum k.dist l.vf == k.vf

/-- The device VF that a domain is registered to. -/
def State.domainVf (s : State) (domain : Nat) : Option Nat :=
  (firstWith (fun k => k.domain == domain && s.registered k) s.keyLists).map KeyList.vf

def State.pkwStatus (s : State) (dom vf w : Nat) : Nat :=
  let d := s.district (vf / 64)
  if bits w 15 5 ≠ 0 ∨ (bitOf w 0 ∧ 0xfffc < w / 2 ^ 16) ∨ d.state = 0 ∨ d.vfcount ≤ vf % 64 then 3
  else
    match s.domainVf dom with
    | some v => if v = vf then 0 else 1
    | none => if bitOf w 0 ∧ 4096 ≤ (s.keyLists.filter s.registered).length then 2 else 0

/-- Writes an entry of a key list and of every slot that holds the domain. -/
def State.putKey (s : State) (dom vf idx : Nat) (w : W32) : State :=
  let old := match firstWith (fun k => k.domain == dom && k.vf == vf && s.registered k) s.keyLists with
    | some k => k.entries
    | none => List.replicate 16 0
  let k : KeyList := { dist := vf / 64, domain := dom, vf := vf, entries := listSet old idx w }
  let slot (o : Option DomainSlot) : Option DomainSlot := o.map fun x =>
    if x.dist = vf / 64 ∧ x.domain = dom then { x with entries := listSet x.entries idx w } else x
  if !bitOf w.toNat 0 && (s.domainVf dom).isNone then s
  else
    { s with keyLists := (s.keyLists.filter fun m => m.domain != dom) ++ [k]
             cores := s.cores.map fun c => (c.1, { c.2 with slots := c.2.slots.map slot }) }

/-- PKW (R388). -/
def execPkw (d a b : Opd) (bp : Pr) (s : State) : Host.Outcome State Fault Refusal :=
  issue (.pkw d a b bp) s fun es s =>
    let sel := (s.uniWord a (es.getD 0 none)).toNat
    let w := s.uniWord b (es.getD 1 none)
    let dom := bits sel 15 0
    let vf := bits sel 31 20
    let st := s.pkwStatus dom vf w.toNat
    (if st = 0 then s.putKey dom vf (bits sel 19 16) w else s).putUni d (BitVec.ofNat 32 st)

/-! The distribution table (R363, R365) -/

/-- A valid image that DTW refuses whatever the table holds. -/
def State.dtwBad (s : State) (d : Nat) (e : DistEntry) : Bool :=
  let x := e.toNat
  let hs := setBits (deHmask e) 16
  bits x 11 1 != 0 || bits x 31 30 != 0 || bits x 47 44 != 0 || bits x 95 91 != 0 || bits x 127 123 != 0 ||
    0xfffc < deKey e || deLast e < deFirst e || deHmask e == 0 || (deKind e == 1 && 2 ^ 12 ≤ deHmask e) ||
    (deDev e == s.dev.devnum && hs.any fun k =>
      if deKind e = 0 then !(s.district d).hbmch.getLsbD k else !(s.district d).ddrch.getLsbD k)

def State.dtwStatus (s : State) (sel d idx : Nat) (e : DistEntry) : Nat :=
  if bits sel 15 10 ≠ 0 ∨ bits sel 31 22 ≠ 0 then 3
  else if (s.district d).state = 0 then 2
  else if deV e && s.dtwBad d e then 3
  else if deV e && (s.district d).dtab.any (fun o => o.1 != idx && deV o.2 && deKey o.2 == deKey e &&
      deFirst o.2 ≤ deLast e && deFirst e ≤ deLast o.2) then 1
  else 0

/-- The entry is written, and the one that stood there leaves the caches of the district's cores. -/
def State.putDist (s : State) (d idx : Nat) (e : DistEntry) : State :=
  let old := Tbl.find idx (s.district d).dtab
  let mine (c : Nat) : Bool := (s.district d).clusters.getLsbD (c / 4)
  let s := s.onDistrict d fun x => { x with dtab := Tbl.put idx e x.dtab }
  { s with cores := s.cores.map fun c =>
      if mine c.1 then (c.1, { c.2 with dist := c.2.dist.filter fun k => some k != old }) else c }

/-- DTW (R365). -/
def execDtw (d a b : Opd) (bp : Pr) (s : State) : Host.Outcome State Fault Refusal :=
  issue (.dtw d a b bp) s fun es s =>
    let sel := (s.uniWord b (es.getD 0 none)).toNat
    let e : DistEntry := BitVec.ofNat 128 (wordsNat (s.wordsAt a 4))
    let idx := bits sel 9 0
    let t := bits sel 21 16
    let st := s.dtwStatus sel t idx e
    (if st = 0 then s.putDist t idx e else s).putUni d (BitVec.ofNat 32 st)

/-! HINV (R372) -/

/-- Whether a page, by its number, belongs to what HINV names. -/
def hinvCovers (va sel page : Nat) : Bool := if bitOf sel 6 then page / 512 = va / 2 ^ 21 else page = va / 4096

/-- A part that a home has accepted under a translation of a page and not performed yet. -/
def State.heldAt (s : State) (h : Nat) (cover : Nat → Bool) : Bool :=
  s.parts.any fun p => p.home == h && p.dev == s.dev.devnum && p.frame.isSome && cover (p.va / 4096) && match p.st with
    | .replied _ => !p.rel
    | .held => true
    | .released => true
    | .atHost => true
    | _ => false

/-- Lines of a page whose authority is a plaza (R418). -/
def State.delegatedAt (s : State) (h : Nat) (cover : Nat → Bool) : List Nat :=
  ((s.home h).deleg.filter fun e => cover (e.1 / 64)).map Prod.fst

def execHinv (d a b : Opd) (bp : Pr) (s : State) : Host.Outcome State Fault Refusal :=
  issueMove (.hinv d a b bp) s fun s =>
    let va := s.pairOf a
    let sel := (s.uniWord b none).toNat
    let h := bits sel 4 0
    if 27 < h ∨ bits sel 31 7 ≠ 0 then s.sysStatus d 3
    else if !(s.home h).enable then s.sysStatus d 2
    else
      let cover := hinvCovers va sel
      let away := s.delegatedAt h cover
      if !away.isEmpty then (away.foldl (fun s l => s.post (.recall h l)) s).sysWait
      else if s.heldAt h cover then s.sysWait
      else (if bitOf sel 5 then s.wakePages h cover else s).sysStatus d 0

/-! WATCH (R390, R391) -/

/-- Fields of a watch descriptor (Table 5). -/
def wdSpan (r : List W8) : Nat := fieldLe r 0 8
def wdRing (r : List W8) : Nat := fieldLe r 8 8
def wdWord (r : List W8) : Nat := fieldLe r 0x10 8

/-- Checks 1 to 4 on the descriptor as read; `right` and `mapped` judge an address. -/
def watchTrap (r : List W8) (right : Nat → Nat → Bool) (mapped : Nat → Bool) : Option Nat :=
  let span := wdSpan r
  let ring := wdRing r
  let w := wdWord r
  let n := bits w 10 4
  firstTrap [
    (span % 64 = 0 && ring % 64 = 0, 0x08),
    (right span rightRD && (ring = 0 || right ring (rightRD + rightW)), 0x06),
    (mapped span && (ring = 0 || mapped ring), 0x07),
    (bits w 63 20 = 0 && bits w 15 14 = 0 && bits w 11 11 = 0 && fieldLe r 0x18 8 = 0 && 1 ≤ n && n ≤ 64 &&
      span % 4096 + 64 * n ≤ 4096 && bits w 19 16 ≤ 12, 0x0b)]

/-- The domain and the VF of the present accessor. -/
def State.sysDomain (s : State) : Nat :=
  match s.focus.kind with
  | .thread q => (s.squeue q).domain
  | .path u _ _ | .handler u _ => hDomain (s.launchHdr (s.block u))
  | .none => 0

/-- The watchpoint that a descriptor names. -/
def State.watchOf (s : State) (r : List W8) : WatchPt :=
  let w := wdWord r
  let d := s.accessor.2.2
  let at' := (s.route d (wdRing r)).getD (s.dev.devnum, 0)
  { line := lineOf (wdSpan r), lines := bits w 10 4, index := bits w 3 0, stop := bitOf w 12, ring := wdRing r,
    size := 2 ^ (bits w 19 16 + 2), dist := d, domain := s.sysDomain, vf := s.issuerVf, rdev := at'.1, rhome := at'.2 }

/-- A watchpoint belongs to a domain of a device VF's district. -/
def WatchPt.is (w : WatchPt) (d domain index : Nat) : Bool := w.dist == d && w.domain == domain && w.index == index

/-- An index that a domain has armed from this device, here or at a home of another device (R391). -/
def State.armedIndex (s : State) (d domain index : Nat) : Bool :=
  s.homes.any (fun m => m.2.watches.any fun x => x.is d domain index) || s.dev.farWatches.any fun x => x.is d domain index

/-- WATCH: the descriptor's checks, the status, and the ring's counters before the arming. -/
def execWatch (d a : Opd) (bp : Pr) (s : State) : Host.Outcome State Fault Refusal :=
  issueMove (.watch d a bp) s fun s =>
    let va := s.pairOf a
    if va % 32 ≠ 0 then s.sysTrap 0x08
    else if !s.sysRight va rightRD then s.sysTrap 0x06
    else
      let dist := s.accessor.2.2
      s.sysAsk (s.sysReq .load va 32 []) fun s line =>
        let r := lineBytes line va 32
        match watchTrap r s.sysRight fun x => (s.route dist x).isSome with
        | some c => s.sysTrap c
        | none =>
          let w := s.watchOf r
          let (dev, h) := (s.route dist (wdSpan r)).getD (s.dev.devnum, 0)
          if dev ≠ s.dev.devnum then
            -- the spec gives no message that arms a watchpoint on another device: the status is open among Table 6's (log entry 66)
            let clear := { s.sysReq .store w.ring 16 (List.replicate 16 0) with writer := 8, promo := false }
            let (x, t) := s.free 2
            let here (y : WatchPt) : Bool := y.is dist w.domain w.index && y.line == w.line
            let arm (s : State) : State := { s with dev := { s.dev with farWatches := s.dev.farWatches ++ [w] } }.sysStatus d 0
            if bitOf (wdWord r) 13 then
              if s.dev.farWatches.any here then
                { s with dev := { s.dev with farWatches := s.dev.farWatches.filter fun y => !here y } }.sysStatus d 0
              else t.sysStatus d (if x % 2 = 0 then 0 else 2)
            else if (s.asked clear).isSome then s.sysAsk clear fun s _ => arm s
            else if x = 1 then t.sysStatus d 1
            else if x = 3 ∨ s.armedIndex dist w.domain w.index then t.sysStatus d 3
            else if w.ring = 0 then arm t
            else t.sysAsk clear fun s _ => arm s
          else if bitOf (wdWord r) 13 then
            let here (x : WatchPt) : Bool := x.is dist w.domain w.index && x.line == w.line
            if (s.home h).watches.any here then
              (s.onHome h fun m => { m with watches := m.watches.filter fun x => !here x }).sysStatus d 0
            else s.sysStatus d 2
          else if 256 ≤ (s.home h).watches.length then s.sysStatus d 1
          else if s.armedIndex dist w.domain w.index then s.sysStatus d 3
          else
            let away := ((List.range w.lines).map (w.line + ·)).filter fun l => (Tbl.find l (s.home h).deleg).isSome
            let arm (s : State) : State := (s.onHome h fun m => { m with watches := m.watches ++ [w] }).sysStatus d 0
            -- delegated lines of the span are called back before the arming (R418)
            if !away.isEmpty then (away.foldl (fun s l => s.post (.recall h l)) s).sysWait
            else if w.ring = 0 then arm s
            else s.sysAsk { s.sysReq .store w.ring 16 (List.replicate 16 0) with writer := 8, promo := false } fun s _ => arm s

/-! Service ports (R435 to R439) -/

/-- The thread that issues. -/
def State.asThread (s : State) (body : Nat → State → State) : State :=
  match s.focus.kind with
  | .thread q => body q s
  | _ => s

/-- WAIT (R436). -/
def execSpwtWait (d a : Opd) (bp : Pr) (s : State) : Host.Outcome State Fault Refusal :=
  issueMove (.spwtWait d a bp) s fun s => s.asThread fun q s =>
    let x := s.squeue q
    let v := (s.uniWord a none).toNat
    if x.notify = v then
      s.onSqueue q fun x => { x with tstate := 2, thread := { x.thread with seen := some v, busy := true } }
    else
      let s := s.onSqueue q fun x =>
        { x with tstate := 1, thread := { x.thread with seen := none, busy := false, tick := max x.thread.tick x.postTs } }
      (s.putUni d (BitVec.ofNat 32 x.notify)).advance

/-- Counts of the fields f2 to f5 that have every value (R124). -/
def fullCounts (h : List W8) : List Nat := (List.range 4).map fun i => 2 ^ hFw h (i + 2)

/-- Bytes of the storage of a queue (R122), from its descriptor. -/
def qdBase (q : Nat) : Nat := bits q 9 0 * 2048
def qdDepth (q : Nat) : Nat := bits q 25 10
def qdKind (q : Nat) : Nat := bits q 27 26
def qdBytes (q w : Nat) : Nat := qdDepth q * (if qdKind q = 1 then 4 * w else if qdKind q = 2 then 4 else 8)

/-- A header's queue descriptors break R122. -/
def queuesBad (h : List W8) : Bool :=
  let qs := (List.range 16).map (hQdesc h)
  let w := hWidth h
  let rec' := 128 * hRecCount h
  let live := (qs.filter fun q => qdKind q != 0).map fun q => (qdBase q, qdBase q + qdBytes q w)
  qs.any (fun q => qdKind q == 0 && q % 2 ^ 28 != 0) ||
    qs.any (fun q => qdKind q != 0 && (qdDepth q == 0 || 2048 * hScr h < qdBase q + qdBytes q w || qdBase q < rec')) ||
    live.zipIdx.any fun x => live.zipIdx.any fun y => x.2 != y.2 && x.1.1 < y.1.2 && y.1.1 < x.1.2

/-- Reserved fields of a header (Table 2 of R118). -/
def headerReserved (h : List W8) : Bool :=
  bits (fieldLe h 8 8) 63 44 != 0 || bits (fieldLe h 0x18 8) 15 9 != 0 || bits (fieldLe h 0x78 8) 63 58 != 0 ||
    bits (fieldLe h 0x78 8) 47 16 != 0 || ((h.drop 0xa0).take 0x60).any (· != 0) ||
    (List.range 16).any fun k => bits (hQdesc h k) 31 28 != 0

/-- Sum of the widths of fields i to j - 1. -/
def widths (h : List W8) (i j : Nat) : Nat := (List.range (j - i)).foldl (fun a k => a + hFw h (i + k)) 0

/-- The units of one block (R121). -/
def hUnits (h : List W8) : Nat := hReg h + hScr h + hAcc h

/-- Blocks of the largest core set (R119). -/
def coreSetMax (h : List W8) : Nat := 2 ^ widths h 2 (hCoreRes h)

/-- The launch identifier of an acceptance number: 32 bits, never 0 (R120). -/
def lidOf (n : Nat) : Nat := (n - 1) % (2 ^ 32 - 1) + 1

/-- The next acceptance number whose identifier no incomplete launch holds. -/
def District.freshLid (d : District) : Nat → Nat → Nat
  | 0, n => n
  | k + 1, n => if d.launches.any (fun l => l.lid == lidOf n) then District.freshLid d k (n + 1) else n

def District.nextNumber (d : District) : Nat := d.freshLid (d.launches.length + 1) d.nextLid

/-- An identifier that a district has given out. -/
def District.assigned (d : District) (p : Nat) : Bool := 2 ^ 32 ≤ d.nextLid || p < d.nextLid

/-- The acceptance code of a header that has been read (Table 3 of R120), with its cue count word. -/
def State.acceptCode (s : State) (d owner : Nat) (h : List W8) (cw : Nat) (readable : Bool) : Nat :=
  let own := s.domainVf (hDomain h)
  let x := s.district d
  let prods := ((List.range 4).map (hProd h)).filter (· != 0)
  (firstTrap [
    (!headerReserved h && cw / 256 = 0, 1),
    (hEntry h % 4 = 0 && hTrapE h % 4 = 0, 2),
    (2 ^ hFw h 0 = hWidth h && hFw h 1 ≤ 9 && widths h 0 6 ≤ 64 && 2 ≤ hCoreRes h && hCoreRes h ≤ 6 && coreSetMax h ≤ 64 &&
      (hClRes h = 0 || (hCoreRes h < hClRes h && hClRes h ≤ 6 && widths h (hCoreRes h) (hClRes h) ≤ 2)), 3),
    (8 ≤ hVregs h && hVregs h ≤ 64 && hVregs h % 8 = 0, 4),
    (hSram h < 2 ^ 30 && hUnits h ≤ 1024 && ceilDiv (hGroups h * hWidth h * hVregs h * 4) 2048 ≤ hReg h &&
      ceilDiv (128 * hRecCount h) 2048 ≤ hScr h, 5),
    (!queuesBad h, 6),
    (hCountP h % 8 = 0 && hParamP h % 8 = 0 && hCueP h % 4 = 0 && !(hRecP h = 0 && hRecWord h % 256 != 0), 7),
    (hPrio h ≤ 7 && own.any fun v => v / 64 = d && v % 64 < x.vfcount && (0xffe ≤ owner || v = owner), 8),
    (!hPriv h || 0xffe ≤ owner, 9),
    (prods.all fun p => p != lidOf x.nextNumber && x.assigned p, 10),
    (coreSetMax h * hUnits h ≤ 1024 && coreSetMax h * hGroups h ≤ 512, 11),
    (readable, 12)]).getD 0

/-- Whether a domain may read an address: its rights are those of its key list. -/
def State.domainReads (s : State) (d domain va : Nat) : Bool :=
  hasRights (rightsIn (s.keyEntries d domain) (keyOf va)) rightRD

/-- What SUBMIT answers, and the reply line that it writes (R437, Table 4 of R439). -/
def State.submitEnd (s : State) (q : Nat) (d : Opd) (va reply : Nat) (h : List W8) (cues : List W32) (code : Nat) : State :=
  let x := s.squeue q
  let y := s.district x.district
  let n := y.nextNumber
  let lid := lidOf n
  let vf := (s.domainVf (hDomain h)).getD 0
  let line (status c l : Nat) (s : State) : State :=
    if reply = 0 then s
    else s.sendWrite { chain := reply, dist := x.district, domain := x.domain, vf := x.owner, va := reply,
                       data := replyLine status c l va 0 0, clk := max y.clock x.thread.tick }
  if code ≠ 0 then ((line 0x0011 code 0 s).putUni64 d code).sysDone
  else
    let l : Launch := { lid := lid, vf := vf % 64, prio := hPrio h, header := h, cues := cues, reply := reply,
                        domain := x.domain, tag := va }
    let s := s.onDistrict x.district fun y => { y with nextLid := n + 1, launches := y.launches ++ [l] }
    ((line 0x0010 0 lid s).putUni64 d (lid * 2 ^ 32)).sysDone

/-- SUBMIT (R437): the reply's checks, then the header and its cue table, then Table 3 of R120. -/
def execSpwtSubmit (d a : Opd) (bp : Pr) (s : State) : Host.Outcome State Fault Refusal :=
  issueMove (.spwtSubmit d a bp) s fun s => s.asThread fun q s =>
    let x := s.squeue q
    let ws := s.wordsAt a 4
    let va := wordsNat (ws.take 2)
    let reply := wordsNat (ws.drop 2)
    if reply % 64 ≠ 0 then s.sysTrap 0x08
    else if reply ≠ 0 ∧ (0xfffd ≤ keyOf reply ∨ !s.sysRight reply rightW) then s.sysTrap 0x06
    else if 0xfffd ≤ keyOf va then s.submitEnd q d va reply [] [] 12
    else
      s.sysRead va 256 (fun _ s => s.submitEnd q d va reply [] [] 12) fun s h =>
        let dom := hDomain h
        -- the parameter block and the record table are read when the launch begins, each once (R124)
        let ok := s.domainReads x.district dom va && (hParamP h = 0 || s.domainReads x.district dom (hParamP h)) &&
          (hRecCount h = 0 || s.domainReads x.district dom (hRecP h))
        let give (s : State) (cw : Nat) (cues : List W32) (ok : Bool) : State :=
          s.submitEnd q d va reply h cues (s.acceptCode x.district x.owner h cw ok)
        let cp := hCueP h
        if cp = 0 ∨ cp % 4 ≠ 0 then give s 0 [] ok
        else if !s.domainReads x.district dom cp then give s 0 [] false
        else
          s.sysRead cp 4 (fun _ s => give s 0 [] false) fun s w =>
            let cw := ofLe w
            if cw % 256 = 0 ∨ 256 ≤ cw then give s cw [] ok
            else s.sysRead (cp + 4) (4 * cw) (fun _ s => give s cw [] false) fun s bs =>
              give s cw ((List.range cw).map fun k => BitVec.ofNat 32 (fieldLe bs (4 * k) 4)) ok

/-- The record of REPLY leaves the outstanding ones, or comes back (R438). -/
def State.closeRecord (s : State) (q n : Nat) : State :=
  s.onSqueue q fun x =>
    { x with closing := firstWith (fun o => o.1 == n) x.outstanding, outstanding := x.outstanding.filter fun o => o.1 != n }
def State.reopenRecord (s : State) (q : Nat) : State :=
  s.onSqueue q fun x => { x with closing := none, outstanding := x.outstanding ++ x.closing.toList }
def State.recordClosed (s : State) (q : Nat) : State := s.onSqueue q fun x => { x with closing := none }

/-- The write of REPLY: the record closes as the write is sent, and is open again if it meets a fatal reply. -/
def State.replyWrite (s : State) (q : Nat) (d : Opd) (n va : Nat) (img : List W8) : State :=
  if va = 0 then ((s.closeRecord q n).recordClosed q).sysStatus d 0
  else if va % 64 ≠ 0 ∨ 0xfffd ≤ keyOf va then (if (s.squeue q).closing.isSome then s.reopenRecord q else s).sysStatus d 3
  else
    let s := if (s.squeue q).closing.isNone then s.closeRecord q n else s
    s.sysAskOr { s.sysReq .store va 64 (img.take 32 ++ List.replicate 32 0) with promo := false }
      (fun _ s => (s.reopenRecord q).sysStatus d 3) fun s _ => (s.recordClosed q).sysStatus d 0

/-- REPLY (R438). -/
def execSpwtReply (d a : Opd) (bp : Pr) (s : State) : Host.Outcome State Fault Refusal :=
  issueMove (.spwtReply d a bp) s fun s => s.asThread fun q s =>
    let x := s.squeue q
    let ws := s.wordsAt a 4
    let img := wordsNat (ws.take 2)
    let n := (ws.getD 2 0).toNat
    let open' := match x.closing with
      | some o => some o
      | none => firstWith (fun o => o.1 == n) x.outstanding
    let bad (_ : Nat) (s : State) : State := (if x.closing.isSome then s.reopenRecord q else s).sysStatus d 3
    match open' with
    | none => s.sysStatus d 2
    | some o =>
      if ws.getD 3 0 ≠ 0 then s.sysStatus d 2
      else if (s.sysCheck img rightRD).isSome then bad 0 s
      else
        s.sysRead img 64 bad fun s bs =>
          let st := fieldLe bs 0 2
          if st = 0 ∨ (0x10 ≤ st ∧ st ≤ 0x2f) then s.sysStatus d 4
          else if x.kind ≠ 1 then s.replyWrite q d n o.2.1 bs
          else
            let at' := x.slot n + 8
            s.sysRead at' 8 bad fun s r =>
              let va := ofLe r
              if va ≠ 0 ∧ !s.sysRight va rightW then bad 0 s else s.replyWrite q d n va bs

/-- KILL (R439). -/
def execSpwtKill (d a : Opd) (bp : Pr) (s : State) : Host.Outcome State Fault Refusal :=
  issue (.spwtKill d a bp) s fun _ s => s.asThread fun q s =>
    let x := s.squeue q
    let lid := (s.uniWord a none).toNat
    match firstWith (fun l => l.lid == lid) (s.district x.district).launches with
    | some l =>
      if 0xffe ≤ x.owner ∨ vfNum x.district l.vf = x.owner then (s.killLaunch x.district lid 0 0 0).putUni d 0
      else s.putUni d 2
    | none => s.putUni d 2

/-- HALT (R441). -/
def execHalt (bp : Pr) (s : State) : Host.Outcome State Fault Refusal :=
  issueMove (.halt bp) s fun s => s.asThread fun q s => s.haltThread q

end Sys2Proof.Machine
end

