-- ==== Sys2Proof/Machine/Launch.lean ====
section
/-! DEFINITION. The dispatch engine: the beginning of a launch, the placing of its core sets, and the room of cores, lanes and
domain slots (R40, R119, R121, R124 to R129, R184, R255). -/

namespace Sys2Proof.Machine

/-! Queues of launches (R125, R129) -/

def Launch.total (l : Launch) : Nat := if l.counts.isEmpty then 0 else blockTotal l.counts

/-- Every block of a launch has started. -/
def Launch.allStarted (l : Launch) : Bool := l.st == .dispatching && l.cursor == l.total

/-- Every strand of its blocks that are not surplus has triggered or exited (R129). -/
def Launch.triggered (l : Launch) : Bool := !l.counts.isEmpty && l.untrig == 0

/-- A producer identifier allows its dependants; one that no incomplete launch holds does. -/
def District.lets (x : District) (p : Nat) : Bool :=
  match firstWith (fun l => l.lid == p) x.launches with
  | some l => l.triggered
  | none => true

/-- Launches that a VF's limit of sixteen counts (R125). -/
def Launch.inProgress (l : Launch) : Bool := l.st == .reading || l.st == .dispatching || l.st == .split

/-- The launches ahead of one in its queue leave it the head (R125); a saved launch is off the queue. -/
def District.atHead (x : District) (l : Launch) : Bool :=
  (x.launches.takeWhile fun m => m.lid != l.lid).all fun m =>
    m.vf != l.vf || m.prio != l.prio || m.allStarted || m.st == .saved || m.st == .split

/-- Whether the dispatch engine serves a VF now (R116, R117, R147, R149). -/
def District.serves (x : District) (v : Nat) : Bool :=
  x.state == 1 && x.curVf == some v && x.switchTo.isNone && (Tbl.getD v x.vfs {}).reset.isNone

/-- Producers that a launch still waits for. -/
def District.producersLet (x : District) (l : Launch) : Bool :=
  ((List.range 4).map (hProd l.header)).all fun p => p == 0 || x.lets p

/-- A queued launch may begin dispatch (R124, R125, R129): its acceptance has been written to its reply line (R437). -/
def State.mayBegin (s : State) (d : Nat) (l : Launch) : Bool :=
  let x := s.district d
  l.st == .queued && x.serves l.vf && l.kill.isNone && !l.acting && x.atHead l && x.producersLet l &&
    (x.launches.filter fun m => m.vf == l.vf && m.inProgress).length < 16 &&
    !(l.reply != 0 && s.writes.any fun w => w.chain == l.reply)

/-! LAUNCH_BEGIN_DISPATCH (R124, R128) -/

/-- An access of the dispatch engine under a launch's domain. -/
def State.dispatchPart (s : State) (d : Nat) (l : Launch) : Part :=
  let x := s.district d
  { src := .dispatch d l.lid, kind := .load, va := 0, len := 0, vf := vfNum d l.vf, dist := d, domain := hDomain l.header,
    priv := hPriv l.header, promo := true, dev := s.dev.devnum, clk := x.clock, lam := x.lease, writer := 8 }

/-- One of the reads of R124: bytes from an address, none at address 0; its time joins the dispatch clock. -/
def State.launchRead (s : State) (d : Nat) (l : Launch) (va n : Nat) (bad : Nat → State → State)
    (k : State → List W8 → State) : State :=
  if va = 0 then k s []
  else
    match s.mayAccess (s.keyEntries d (hDomain l.header)) (hPriv l.header) d va rightRD with
    | some c => bad c s
    | none =>
      match s.fetchSpans (s.dispatchPart d l) [(va, n)] with
      | (s, .wait) => s
      | (s, .fatal c _) => bad c s
      | (s, .ok g) => k (s.onDistrict d fun x => { x with clock := max x.clock g.clk }) (s.gotBytes 0 g va n)

/-- The effective counts of the fields f2 to f5 (R124). -/
def effectiveCounts (h : List W8) (cs : List W8) : List Nat :=
  (List.range 4).map fun i =>
    let full := 2 ^ hFw h (i + 2)
    if cs.isEmpty ∨ hFw h (i + 2) = 0 then full else min (fieldLe cs (8 * i) 8) full

/-- The launch has begun: its counts, parameters, records and start time stand; with no block to run it is complete. -/
def State.launchBegun (s : State) (d lid : Nat) (counts : List Nat) (params records : List W8) : State :=
  let t := (s.district d).clock
  (((s.dropSrc (.dispatch d lid)).onLaunch d lid fun l =>
    { l with st := .dispatching, counts := counts, params := params, records := records, start := t,
             untrig := blockTotal counts * (hGroups l.header * hWidth l.header) }).launchSettle d lid)

/-- A read fails: no block runs (R124). -/
def State.launchUnread (s : State) (d lid code : Nat) : State :=
  (s.dropSrc (.dispatch d lid)).endLaunch d lid 0x0013 code 0 0

def execLaunchBeginDispatch (d lid : Nat) (s : State) : Host.Outcome State Fault Refusal :=
  .next (match firstWith (fun l => l.lid == lid) (s.district d).launches with
    | none => s
    | some l =>
      if !(s.mayBegin d l || (l.st == .reading && l.kill.isNone && (s.district d).serves l.vf)) then s
      else
        let h := l.header
        let s := s.onLaunch d lid fun l => { l with st := .reading }
        let bad (c : Nat) (s : State) : State := s.launchUnread d lid c
        s.launchRead d l (hCountP h) 32 bad fun s cs =>
          s.launchRead d l (hParamP h) 64 bad fun s ps =>
            s.launchRead d l (hRecP h) (128 * hRecCount h) bad fun s rs =>
              s.launchBegun d lid (effectiveCounts h cs) ps rs)

/-! Room on cores (R121, R126, R184) -/

/-- What one core set needs of a core. -/
structure Need where
  units : Nat
  groups : Nat
  dist : Nat
  domain : Nat
  macs : List Nat := []
  obres : Nat := 0
  deriving DecidableEq, Repr

def Block.unitCount (b : Block) : Nat := b.reg.length + b.scr.length + b.acc.length
/-- Groups that hold a lane. -/
def Block.laned (b : Block) : Nat := (b.groups.filter fun x => x.life != .exited).length
def Block.obresUnits (b : Block) : Nat := b.obres.foldl (fun a o => a + o.getD 0) 0

/-- The blocks that hold room of a core, but for some. -/
def State.residents (s : State) (core : Nat) (gone : List Nat) : List (Nat × Block) :=
  s.blocks.filter fun e => e.2.seated && e.2.core == core && !gone.contains e.1

/-- What a block takes of its core. -/
def State.needOf (s : State) (b : Block) : Need :=
  { units := b.unitCount, groups := b.laned, dist := b.dist, domain := hDomain (s.launchHdr b), macs := b.macs,
    obres := b.obresUnits }

def Need.join (a b : Need) : Need :=
  { a with units := a.units + b.units, groups := a.groups + b.groups, macs := a.macs ++ b.macs, obres := a.obres + b.obres }

/-- A need fits a core beside its blocks, without those that go, and beside needs already given to it. -/
def State.fitsOn (s : State) (gone : List Nat) (used : List (Nat × Need)) (core : Nat) (n : Need) : Bool :=
  let held := (s.residents core gone).map (fun e => s.needOf e.2) ++ (used.filter fun e => e.1 == core).map Prod.snd
  let all := held.foldl Need.join n
  let domains := (held.map fun m => (m.dist, m.domain)).dedup
  all.units ≤ 1024 && all.groups ≤ 512 && all.obres ≤ 64 &&
    !(held.any fun m => m.macs.any n.macs.contains) &&
    (domains.contains (n.dist, n.domain) || domains.length < 4)

/-- Cores for some needs, the lowest that fit: each need on one core. -/
def State.coresFor (s : State) (gone : List Nat) (cores : List Nat) : List Need → List (Nat × Need) → Option (List Nat)
  | [], _ => some []
  | n :: r, used =>
    cores.findSome? fun c =>
      if s.fitsOn gone used c n then (State.coresFor s gone cores r (used ++ [(c, n)])).map (c :: ·) else none

/-- Clusters and cores of a district (R114). -/
def District.clusterList (x : District) : List Nat := setBits x.clusters.toNat 64
def clusterCores (cl : Nat) : List Nat := (List.range 4).map (4 * cl + ·)

/-- The cores that a core set takes, or the sets of a cluster set, which one cluster holds (R126). -/
def State.placeFor (s : State) (d : Nat) (gone : List Nat) (clustered : Bool) (needs : List Need) : Option (List Nat) :=
  let cls := (s.district d).clusterList
  if clustered then cls.findSome? fun cl => s.coresFor gone (clusterCores cl) needs []
  else s.coresFor gone (cls.flatMap clusterCores) needs []

/-! Seats -/

def State.freeUnits (s : State) (core : Nat) : List Nat :=
  let used := (s.residents core []).flatMap fun e => e.2.reg ++ e.2.scr ++ e.2.acc
  (List.range 1024).filter fun k => !used.contains k

/-- Groups on each lane of a core. -/
def State.laneLoads (s : State) (core : Nat) : List Nat :=
  let on := (s.residents core []).flatMap fun e => (e.2.groups.filter fun x => x.life != .exited).map Group.lane
  (List.range 64).map fun l => on.count l

/-- The lane with the fewest groups, the lowest of them. -/
def lightest (loads : List Nat) : Nat := (minBy (fun l => loads.getD l 0) (List.range 64)).getD 0

/-- Lanes for the groups of a block, one after the other. -/
def spreadLanes (slot : Nat) : List Nat → List Group → List Group
  | _, [] => []
  | loads, x :: r =>
    if x.life == .exited then x :: spreadLanes slot loads r
    else
      let l := lightest loads
      { x with lane := l, lastSlot := max x.lastSlot slot } :: spreadLanes slot (loads.modify l (· + 1)) r

/-- A core's slots with a domain in one of them (R184). -/
def takeSlot (dist domain : Nat) (es : List W32) : List (Option DomainSlot) → List (Option DomainSlot)
  | [] => []
  | none :: r => some { dist := dist, domain := domain, entries := es } :: r
  | some x :: r => some x :: takeSlot dist domain es r

/-- Gives a block units, lanes and its domain slot on a core; units that another domain or VF used last become zero (R126), and
with `clear` all of them. -/
def State.seat (s : State) (u core nReg nScr nAcc : Nat) (clear : Bool) : State :=
  let b := s.block u
  let dom := hDomain (s.launchHdr b)
  let free := s.freeUnits core
  let scr := free.take nScr
  let acc := (free.drop nScr).take nAcc
  let reg := (free.drop (nScr + nAcc)).take nReg
  let own : UnitOwner := { vf := vfNum b.dist b.vf, domain := dom }
  let dirty := (scr ++ acc ++ reg).filter fun k => clear || Tbl.find k (s.core core).owners != some own
  let gs := spreadLanes (s.cycle / 64) (s.laneLoads core) b.groups
  let held : Bool := (s.core core).slots.any fun o => o.any fun x => x.dist == b.dist && x.domain == dom
  let es := s.keyEntries b.dist dom
  let order := s.nextId
  let s := s.onCore core fun c =>
    { c with sram := dirty.foldl (fun m k => cellsZero (k * 2048) 2048 m) c.sram
             slots := if held then c.slots else takeSlot b.dist dom es c.slots }
  { s.onBlock u (fun b => { b with core := core, resident := true, scr := scr, acc := acc, reg := reg, groups := gs, order := order })
    with nextId := order + 1 }

/-! CORE_SET_PLACE (R125, R126) -/

/-- A group at its start (R126). -/
def startGroup (l : Launch) (g : Nat) : Group :=
  let h := l.header
  let n := hWidth h
  { w := List.replicate 16 0 ++ (List.range 16).map fun k => BitVec.ofNat 32 (fieldLe l.params (4 * k) 4)
    vregs := List.replicate (hVregs h) { deltas := List.replicate n 0 }
    strands := List.replicate n { pc := hEntry h, hdr := hEntry h, tick := l.start }
    role := hRole h g }

def startQueue (w : Nat) : Queue := { kind := qdKind w, depth := qdDepth w, base := bits w 9 0 }

/-- Block n of a launch starts on a core: its records are copied in (R40) and its ring slots become zero (R255). -/
def State.startBlock (s : State) (d : Nat) (l : Launch) (n core : Nat) : State :=
  let h := l.header
  let u := s.nextUid
  let b : Block :=
    { dist := d, vf := l.vf, lid := l.lid, ident := blockAt h l.counts n, core := core, resident := false, prio := l.prio,
      queues := (List.range 16).map fun k => startQueue (hQdesc h k), clk := l.start,
      groups := (List.range (hGroups h)).map (startGroup l) }
  let s := { s with nextUid := u + 1, blocks := Tbl.put u b s.blocks }
  let s := (s.seat u core (hReg h) (hScr h) (hAcc h) false).scrWrite u 0 l.records
  b.queues.foldl (fun s q =>
    if q.kind = 3 then s.scrWrite u (q.base * 2048) (List.replicate (8 * q.depth) 0) else s) s

/-- Blocks of one core set, and core sets of one cluster set, or one. -/
def Launch.perCore (l : Launch) : Nat := setBlocks l.counts (hCoreRes l.header)
def Launch.clustered (l : Launch) : Bool := hClRes l.header != 0
def Launch.setsAtOnce (l : Launch) : Nat := if l.clustered then setBlocks l.counts (hClRes l.header) / l.perCore else 1

/-- What each of the next core sets needs. -/
def Launch.nextNeeds (d : Nat) (l : Launch) : List Need :=
  let h := l.header
  List.replicate l.setsAtOnce
    { units := l.perCore * hUnits h, groups := l.perCore * hGroups h, dist := d, domain := hDomain h }

/-- A launch has a core set whose turn has come; its blocks that have been taken off go first (R135). -/
def State.mayPlace (s : State) (d : Nat) (l : Launch) : Bool :=
  l.st == .dispatching && l.kill.isNone && !l.acting && (s.district d).serves l.vf && l.cursor < l.total &&
    !s.blocks.any fun e => e.2.dist == d && e.2.lid == l.lid && !e.2.resident && !e.2.image

def State.placeSets (s : State) (d : Nat) (l : Launch) (cores : List Nat) : State :=
  let per := l.perCore
  let s := cores.zipIdx.foldl (fun s c =>
    (List.range per).foldl (fun s j => s.startBlock d l (l.cursor + c.2 * per + j) c.1) s) s
  s.onLaunch d l.lid fun l => { l with cursor := l.cursor + cores.length * per }

end Sys2Proof.Machine
end

