-- ==== Sys2Proof/Machine/Images.lean ====
section
/-! DEFINITION. Block images and the district's save area: the bytes of an image, what a restored block takes from them, the
regions of the area, and the dispatch engine's accesses to it (R136, R137, R139 to R141, R275, R333).  R140 orders the parts and
gives their sizes; the places inside the first part, the group state and a strand's bytes are the model's (log entry 46). -/

namespace Sys2Proof.Machine

/-! Bytes that the spec gives no place -/

def State.freeBytes (s : State) (n : Nat) : State × List W8 :=
  ({ s with fresh := s.fresh + n }, (List.range n).map fun k => BitVec.ofNat 8 (Config.freeValue (s.fresh + k)))

/-- A part of n bytes: those that are known, then others. -/
def padWith (n : Nat) (free known : List W8) : List W8 := (known ++ free).take n

/-! The parts of an image (R140) -/

/-- Bytes of a group's part: its state, its strands, and a base with packed deltas for each register. -/
def VReg.imageBytes (w : Nat) (v : VReg) : Nat := 4 + ceilDiv (w * v.width) 32 * 4
def groupImageBytes (x : Group) : Nat := 256 + 24 * x.width + x.vregs.foldl (fun a v => a + v.imageBytes x.width) 0

/-- A register's base, and its deltas packed at their width and padded to 4 bytes. -/
def VReg.image (w : Nat) (v : VReg) : List W8 :=
  leBytes 4 v.base.toNat ++
    leBytes (ceilDiv (w * v.width) 32 * 4)
      ((List.range w).foldl (fun a k => a + (v.deltas.getD k 0).toNat % 2 ^ v.width * 2 ^ (k * v.width)) 0)

/-- A register from its bytes, at the width that it was saved with. -/
def VReg.fromImage (w : Nat) (v : VReg) (bs : List W8) : VReg :=
  let x := ofLe (bs.drop 4)
  { v with base := BitVec.ofNat 32 (fieldLe bs 0 4)
           deltas := (List.range w).map fun k => BitVec.ofInt 32 (sext (x >>> (k * v.width)) v.width) }

def boolBits (l : List Bool) : Nat := l.zipIdx.foldl (fun a e => a + e.1.toNat * 2 ^ e.2) 0

/-- The number of a strand's state and of its wait. -/
def StrandSt.code : StrandSt → Nat
  | .active => 0
  | .replay false => 1
  | .replay true => 2
  | .fatal _ _ _ => 3
  | .exited => 4
def Wait.code : Wait → Nat
  | .none => 0
  | .rjoin _ => 1
  | .gsync _ => 2
  | .sleep => 3
  | .woken _ => 4
  | .bwait _ _ => 5
  | .bdone _ => 6
  | .mask _ _ => 7
  | .fence _ _ _ => 8
  | .drain _ _ => 9
  | .brmt _ _ => 10
  | .system => 11

/-- 24 bytes of a strand: program counter, tick, p0 to p7 and state. -/
def Strand.image (t : Strand) : List W8 :=
  let code := match t.st with
    | .fatal c _ _ => c
    | _ => 0
  leBytes 8 t.pc ++ leBytes 8 t.tick ++ [t.preds] ++ leBytes 1 t.st.code ++ leBytes 1 code ++ leBytes 1 t.wait.code ++
    leBytes 1 t.idx ++ leBytes 1 t.triggered.toNat ++ leBytes 1 t.age ++ [0]
def Strand.fromImage (t : Strand) (bs : List W8) : Strand :=
  { t with pc := fieldLe bs 0 8, tick := fieldLe bs 8 8, preds := BitVec.ofNat 8 (fieldLe bs 16 1) }

/-- The group state: w0 to w31, b0 to b7, the four counters, trapc, trapm, trapa, gang, the cue state, the blocked state and the
consumer-mask progress. -/
def Group.stateImage (x : Group) : List W8 :=
  (x.w.flatMap fun w => leBytes 4 w.toNat) ++ [x.b] ++ leBytes 1 x.ld ++ leBytes 1 x.st ++ leBytes 1 x.cp ++ leBytes 1 x.tl ++
    leBytes 4 x.trapc.toNat ++ leBytes 8 x.trapm.toNat ++ leBytes 8 x.trapa.toNat ++ leBytes 4 x.gang.toNat ++
    leBytes 4 x.cue.toNat ++ leBytes 8 (match x.cueTimer with
      | some n => n + 1
      | none => 0) ++
    leBytes 1 (match x.life with
      | .live => 0
      | .exitPending => 1
      | .exited => 2) ++
    leBytes 1 (match x.busy with
      | .none => 0
      | .latch => 1
      | .system => 2) ++
    leBytes 9 (match x.handler with
      | some h => 1 + h.pc * 256
      | none => 0) ++
    leBytes 2 (match x.maskProg with
      | some m => m.queues.foldl (fun a q => a + 2 ^ q) 0
      | none => 0) ++
    leBytes 4 (match x.maskProg with
      | some m => m.word.toNat
      | none => 0)

def Group.image (free : List W8) (x : Group) : List W8 :=
  padWith 256 free x.stateImage ++ x.strands.flatMap Strand.image ++ x.vregs.flatMap (VReg.image x.width)

/-- Registers from the bytes of a group's last part. -/
def vregsFrom (w : Nat) : List VReg → List W8 → List VReg
  | [], _ => []
  | v :: r, bs => v.fromImage w (bs.take (v.imageBytes w)) :: vregsFrom w r (bs.drop (v.imageBytes w))

/-- What a restored group takes from its part. -/
def Group.fromImage (x : Group) (bs : List W8) : Group :=
  let bv (n o k : Nat) : BitVec n := BitVec.ofNat n (fieldLe bs o k)
  { x with
    w := (List.range 32).map fun k => bv 32 (4 * k) 4
    b := bv 8 128 1, ld := fieldLe bs 129 1, st := fieldLe bs 130 1, cp := fieldLe bs 131 1, tl := fieldLe bs 132 1
    trapc := bv 32 133 4, trapm := bv 64 137 8, trapa := bv 64 145 8, gang := bv 32 153 4, cue := bv 32 157 4
    strands := x.strands.zipIdx.map fun e => e.1.fromImage ((bs.drop (256 + 24 * e.2)).take 24)
    vregs := vregsFrom x.width x.vregs (bs.drop (256 + 24 * x.width)) }

/-- Table 1 of R254: 16 bytes of a queue. -/
def Queue.image (q : Queue) : List W8 :=
  leBytes 16 (q.head + q.tail * 2 ^ 17 + q.count * 2 ^ 34 + q.relcnt.toNat * 2 ^ 64 + q.resv * 2 ^ 96)

/-- An entry whose operands are nine words, its decode block (R319, R342). -/
def Entry.byWords (e : Entry) : Bool := !e.words.isEmpty

/-- 64 bytes of a saved engine entry (R333, R358): its group and its barrier, its opcode and its second word, which hold its queue and
its reservation, its cursor, its TAG, its operands, and the failures, the lowest of them and the next offset of a transform.  Its
records as read have no room there (log entry 46). -/
def Entry.image (e : Entry) : List W8 :=
  let ws := encode e.instr
  leBytes 4 (e.grp + 2 ^ 9 * (match e.bar with
    | some o => o / 16 + 1
    | none => 0)) ++ leBytes 1 ((ws.getD 0 0).toNat / 2 ^ 24) ++ leBytes 4 (ws.getD 1 0).toNat ++ leBytes 4 e.cursor ++ leBytes 8 e.tag ++
    if e.byWords then
      ((List.range 9).flatMap fun k => leBytes 4 (e.words.getD k 0).toNat) ++ leBytes 4 e.firstFail ++ leBytes 3 e.failures
    else
      leBytes 8 e.dst ++ leBytes 8 e.src ++ leBytes 8 e.idx ++ leBytes 6 e.len ++ leBytes 4 e.next ++ leBytes 4 e.firstFail ++
        leBytes 5 e.failures

/-- What a saved entry takes from its 64 bytes. -/
def Entry.fromImage (e : Entry) (bs : List W8) : Entry :=
  let f (o n : Nat) : Nat := fieldLe bs o n
  let e := { e with grp := f 0 4 % 2 ^ 9, bar := if f 0 4 / 2 ^ 9 = 0 then none else some ((f 0 4 / 2 ^ 9 - 1) * 16)
                    cursor := f 9 4, tag := f 13 8 }
  if e.byWords then
    { e with words := (List.range 9).map fun k => BitVec.ofNat 32 (f (21 + 4 * k) 4)
             firstFail := f 57 4, failures := e.failures / 2 ^ 24 * 2 ^ 24 + f 61 3 }
  else
    { e with dst := f 21 8, src := f 29 8, idx := f 37 8, len := f 45 6, next := f 51 4, firstFail := f 55 4, failures := f 59 5 }

/-- The first part: the block identifier, the place in the core set, the ownership of shares, macro sets and reservations, the
queues (R275), the rings (R330), and at its end up to 120 engine entries. -/
def Block.firstPart (free : List W8) (place : Nat) (b : Block) : List W8 :=
  let ring (r : Option Ring) : List W8 := match r with
    | some r => leBytes 8 r.va ++ leBytes 4 r.size ++ leBytes 8 r.written
    | none => List.replicate 20 0
  padWith 512 free (leBytes 8 b.ident ++ leBytes 2 place ++ leBytes 2 b.reg.length ++ leBytes 2 b.scr.length ++ leBytes 2 b.acc.length ++
      leBytes 2 (b.macs.foldl (fun a m => a + 2 ^ m) 0) ++ (b.obres.flatMap fun o => leBytes 1 (o.getD 0)) ++
      b.queues.flatMap Queue.image ++ b.rings.flatMap ring) ++
    padWith (120 * 64) free ((b.saveEqs.take 120).flatMap fun e => e.2.image)

/-- The bytes of a share, from its cells, and the cells of bytes. -/
def shareBytes (n : Nat) (c : Cells) : List W8 := cellsRead c 0 n
def bytesShare (bs : List W8) : Cells := (bs.zipIdx.filter fun e => e.1 != 0).map fun e => (e.2, e.1)

/-- Column n of row k of a tile's macro, as its slots hold it (R281): the bytes of the slots of a macro of the tile.  A bf16
element's exponent byte stands in the side plane (R282). -/
def slotByte (t : Tile) (m row slot : Nat) : Nat :=
  let e (n : Nat) : Nat := (t.elems.getD (64 * ((m - t.first) / t.nc) + row) []).getD (macroCols t.fmt * ((m - t.first) % t.nc) + n) 0
  match t.fmt with
  | 4 => e (2 * slot) % 16 + e (2 * slot + 1) % 16 * 16
  | 6 => e (slot / 2) / 256 ^ (slot % 2) % 256
  | 5 => e slot / 2 ^ 15 * 2 ^ 7 + e slot % 2 ^ 7
  | _ => e slot % 256

/-- The 8,192 bytes of a macro set. -/
def macroImage (tiles : List Tile) (m : Nat) : List W8 :=
  match firstWith (fun t : Tile => t.macros.contains m) tiles with
  | some t => (List.range 64).flatMap fun r => (List.range 128).map fun c => BitVec.ofNat 8 (slotByte t m r c)
  | none => List.replicate 8192 0

/-- Element (k, n) of a tile from the bytes of its macros, first to last; a bf16 exponent from what the tile held. -/
def elemFrom (t : Tile) (old : Nat) (bs : List W8) (k n : Nat) : Nat :=
  let at' (slot : Nat) : Nat :=
    (bs.getD (8192 * (k / 64 * t.nc + n / macroCols t.fmt) + 128 * (k % 64) + slot) 0).toNat
  let c := n % macroCols t.fmt
  match t.fmt with
  | 4 => at' (c / 2) / 16 ^ (c % 2) % 16
  | 6 => at' (2 * c) + 256 * at' (2 * c + 1)
  | 5 => at' c / 2 ^ 7 * 2 ^ 15 + old / 2 ^ 7 % 2 ^ 8 * 2 ^ 7 + at' c % 2 ^ 7
  | _ => at' c

/-- A tile from the bytes of the block's macro sets, which stand in the order of the block's macros. -/
def Tile.fromImage (macs : List Nat) (bs : List W8) (t : Tile) : Tile :=
  let mine := t.macros.flatMap fun m => match macs.findIdx? (· == m) with
    | some j => (bs.drop (8192 * j)).take 8192
    | none => List.replicate 8192 0
  { t with elems := t.elems.zipIdx.map fun r => r.1.zipIdx.map fun e => elemFrom t e.1 mine r.2 e.2 }

/-- The image of a block that has been taken out (R140). -/
def State.blockImage (s : State) (u : Nat) : State × List W8 :=
  let b := s.block u
  let place := match s.launchOf b with
    | some l => blockNumber l.header l.counts b.ident % l.perCore
    | none => 0
  let (s, free) := s.freeBytes 8192
  (s, b.firstPart free place ++ b.groups.flatMap (Group.image free) ++ shareBytes b.scrBytes b.saveScr ++
    shareBytes b.accBytes b.saveAcc ++ b.macs.flatMap (macroImage b.saveTiles))

/-- Groups from their parts. -/
def groupsFrom : List Group → List W8 → List Group
  | [], _ => []
  | x :: r, bs => x.fromImage (bs.take (groupImageBytes x)) :: groupsFrom r (bs.drop (groupImageBytes x))

/-- What a block takes from the image that has been read; what the image's layout has no room for stays with the dispatch
engine. -/
def Block.fromImage (b : Block) (bs : List W8) : Block :=
  let parts := bs.drop 8192
  let shares := parts.drop (b.groups.foldl (fun a x => a + groupImageBytes x) 0)
  { b with
    groups := groupsFrom b.groups parts
    saveEqs := b.saveEqs.zipIdx.map fun e =>
      if e.2 < 120 then (e.1.1, e.1.2.fromImage ((bs.drop (512 + 64 * e.2)).take 64)) else e.1
    saveScr := bytesShare (shares.take b.scrBytes)
    saveAcc := bytesShare ((shares.drop b.scrBytes).take b.accBytes)
    saveTiles := b.saveTiles.map (Tile.fromImage b.macs (shares.drop (b.scrBytes + b.accBytes))) }

/-! The save area (R135, R141) -/

/-- Bounds of the image of a block (R140). -/
def State.blockBound (s : State) (b : Block) : Nat :=
  let h := s.launchHdr b
  8192 + hGroups h * (256 + 24 * hWidth h + 4 * hVregs h * (hWidth h + 1)) + 2048 * (hScr h + hAcc h) + 8192 * b.macs.length

/-- A VF's region: its address and its bytes. -/
def District.region (x : District) (v : Nat) : Nat × Nat :=
  let n := x.savelen / max 1 x.vfcount
  (x.saveva + v * n, n)

/-- The lowest place for some bytes among the images that stand in a region, if it has room. -/
def placeIn (len n : Nat) (used : List (Nat × Nat)) : Option Nat :=
  let tries := 0 :: used.map fun e => e.1 + e.2
  minBy id (tries.filter fun o => o + n ≤ len && used.all fun e => o + n ≤ e.1 || e.1 + e.2 ≤ o)

/-- The images that stand in a VF's region. -/
def State.saved (s : State) (d v : Nat) : List (Nat × Nat) :=
  s.blocks.filterMap fun e => if e.2.dist == d && e.2.vf == v then e.2.saveOff.map (·, s.blockBound e.2) else none

/-- Places for further images, one after the other. -/
def roomFor (len : Nat) : List Nat → List (Nat × Nat) → Bool
  | [], _ => true
  | n :: r, used =>
    match placeIn len n used with
    | some o => roomFor len r ((o, n) :: used)
    | none => false

/-- A VF's region has room for the images of its stopped blocks and of some more (R135). -/
def State.saveRoom (s : State) (d v : Nat) (more : List Nat) : Bool :=
  let going := s.blocks.filter fun e => e.2.dist == d && e.2.vf == v && e.2.resident && (e.2.stop || more.contains e.1)
  roomFor ((s.district d).region v).2 (going.map fun e => s.blockBound e.2) (s.saved d v)

/-- An access to the save area for a block. -/
def State.savePart (s : State) (u : Nat) (kind : PartKind) : Part :=
  let b := s.block u
  { src := .dispatch b.dist (2 ^ 33 + u), kind := kind, va := 0, len := 0, vf := vfNum b.dist b.vf, dist := b.dist,
    domain := hDomain (s.launchHdr b), priv := true, dev := s.dev.devnum, clk := (s.district b.dist).clock,
    lam := (s.district b.dist).lease, writer := 8 }

inductive CtxAns where
  | wait
  | fatal
  | ok
  deriving DecidableEq, Repr

/-- Sends the lines of a write, each once, and tells when all are performed; the dispatch clock follows them (R128). -/
def State.writeLines (s : State) (d : Nat) (t : Part) (bytes : List W8) (first : Nat) : List (Nat × Nat) → Bool → State × CtxAns
  | [], miss => (s, if miss then .wait else .ok)
  | (va, n) :: r, miss =>
    match s.ask { t with va := va, len := n, data := (bytes.drop (va - first)).take n } with
    | (s, .wait) => State.writeLines s d t bytes first r true
    | (s, .fatal _) => (s, .fatal)
    | (s, .ok _ w _ _) =>
      State.writeLines (s.onDistrict d fun x => { x with clock := max x.clock w }) d t bytes first r miss

def State.writeSpan (s : State) (d : Nat) (t : Part) (va : Nat) (bytes : List W8) : State × CtxAns :=
  match s.writeLines d t bytes va (spanLines va bytes.length) false with
  | (s, .ok) => (s.dropSrc t.src, .ok)
  | r => r

/-- The next bytes of an image that is being written or read.  A fatal reply loses them: the dispatch engine then keeps the
block as it was (log entry 65). -/
def State.saveStep (s : State) (u : Nat) (j : SaveJob) : State :=
  let b := s.block u
  let d := b.dist
  let va := ((s.district d).region b.vf).1 + b.saveOff.getD 0 + j.off
  let n := min 4096 (j.len - j.off)
  let put (s : State) (f : SaveJob → SaveJob) : State :=
    (s.dropSrc (.dispatch d (2 ^ 33 + u))).onBlock u fun b => { b with saveJob := some (f { j with off := j.off + n }) }
  if j.write then
    match s.writeSpan d (s.savePart u .store) va ((j.bytes.drop j.off).take n) with
    | (s, .wait) => s
    | (s, _) => put s id
  else
    match s.fetchSpans (s.savePart u .load) [(va, n)] with
    | (s, .wait) => s
    | (s, .fatal ..) => put s fun j => { j with lost := true }
    | (s, .ok g) =>
      let bs := s.gotBytes 0 g va n
      put (s.onDistrict d fun x => { x with clock := max x.clock g.clk }) fun j => { j with bytes := j.bytes ++ bs }

/-- What a block takes from a read that is over. -/
def Block.taken (b : Block) (j : SaveJob) : Block := if j.lost then b else b.fromImage j.bytes

/-- No access of a block's image is on its way. -/
def State.dropSave (s : State) (u : Nat) : State := s.dropSrc (.dispatch (s.block u).dist (2 ^ 33 + u))

end Sys2Proof.Machine
end

