-- ==== Sys2Proof/Machine/Preempt.lean ====
section
/-! DEFINITION. Blocks that are taken off their cores and put back: the steps of Table 7 of R136, pre-emption, restore, the end of
killed launches, and world switches (R117, R135 to R138, R140, R147, R163, R275, R332, R481). -/

namespace Sys2Proof.Machine

/-! Step 2: settling (R136) -/

/-- A write that is on its way. -/
def Part.flying (p : Part) : Bool := match p.st with
  | .sent | .atHost | .released => true
  | _ => false

/-- An entry keeps its place until its released writes are performed and its completion record is written. -/
def State.entryBusy (s : State) (core k : Nat) (e : Entry) : Bool :=
  s.parts.any fun p => p.src == .engine core k e.id && (p.rel || p.kind == .store && p.st != .parked)

/-- Entries in the order of their places. -/
def insertEntry (a : Nat × Entry) : List (Nat × Entry) → List (Nat × Entry)
  | [] => [a]
  | b :: r => if a.2.spot < b.2.spot then a :: b :: r else b :: insertEntry a r

/-- Entries of a stopped block leave their queues, at their cursors: those that have not started, and those that stand between
two chunks. -/
def State.pullEntries (s : State) (u : Nat) : State :=
  let b := s.block u
  let hit := (s.core b.core).eqs.zipIdx.flatMap fun q =>
    (q.1.filter fun (e : Entry) => e.blk == u && e.fetch.isNone && e.st != .ended && !s.entryBusy b.core q.2 e).map fun e => (q.2, e)
  let ids := hit.map fun e => e.2.id
  if hit.isEmpty then s
  else
    let s := s.onCore b.core fun c => { c with eqs := c.eqs.map fun q => q.filter fun (e : Entry) => !ids.contains e.id }
    let s := { s with parts := s.parts.filter fun p => match p.src with
      | .engine _ _ e => !ids.contains e
      | _ => true }
    s.onBlock u fun b => { b with saveEqs := hit.foldl (fun l e => insertEntry (e.1, { e.2 with st := .queued, bufs := [] }) l) b.saveEqs }

/-- A tile operation waits for a fill. -/
def State.opParked (s : State) (core : Nat) (o : TileOp) : Bool :=
  s.filling core o || s.parts.any fun p => p.st == .parked && p.src == .tile core o.id

/-- A tile operation that may be left where it stands: one that has not started or is suspended, an MMA at a row boundary; a launch that
is killed does not wait for fills. -/
def State.opSettled (s : State) (core : Nat) (dying : Bool) (o : TileOp) : Bool :=
  !o.started || o.fault.isSome || (o.isMma && o.between) || (dying && s.opParked core o)

/-- A part that a stopped block still waits for. -/
def State.partHolds (s : State) (u core : Nat) (dying : Bool) (p : Part) : Bool :=
  match p.src with
  | .engine c k id =>
    c == core && (s.entryOf core k id).any (fun e => e.blk == u && e.fetch.isNone) &&
      (if dying then (p.rel || p.kind == .store) && p.flying else p.rel || p.kind == .store && p.st != .parked)
  | .tile c id => c == core && (s.opAt core id).any (fun o => o.blk == u) && p.rel && p.flying
  | .sys v _ => v == u && (if dying then p.kind == .store && p.flying
      else p.flying || p.kind != .load && p.st != .parked)
  | _ => false

/-- Step 2 is over: loads, stores and posted stores are performed, tile operations stand, no result awaits its write-back. -/
def State.settled (s : State) (u : Nat) : Bool :=
  let b := s.block u
  let c := s.core b.core
  let dying := s.dying u
  !(s.issues.any fun e => e.blk == u) && !(c.eq7.any fun e => e.blk == u) && (b.groups.all fun x => x.pendWb.isEmpty) &&
    (c.allOps.all fun o => o.blk != u || s.opSettled b.core dying o) &&
    !(c.eqs.any fun q => q.any fun (e : Entry) => e.blk == u && e.fetch.isNone && e.st != .ended) &&
    !s.parts.any (s.partHolds u b.core dying)

/-! Steps 3 and 4 (R136, R140, R209) -/

/-- The bytes of a share, by their offsets in it. -/
def shareCells (units : List Nat) (c : Cells) : Cells :=
  units.zipIdx.flatMap fun k =>
    (c.filter fun e => k.1 * 2048 ≤ e.1 && e.1 < (k.1 + 1) * 2048).map fun e => (k.2 * 2048 + (e.1 - k.1 * 2048), e.2)

/-- An operation at its row: its reservation is released, so that everything is fetched again from the cursor (R136, R304). -/
def TileOp.still (o : TileOp) : TileOp :=
  { o with paused := o.started && o.isMma, quarters := o.quarters.map fun _ => o.cursor, buf := [], mate := [],
           next := o.cursor }

/-- A group's monitor set is emptied (R209), so that a sleeper wakes once when it is back (R137). -/
def Group.unarmed (x : Group) : Group := { x with monLines := [], woke := false, overF := false, wokeTs := 0 }

/-- A block that has left its core: its image begins to be written to its VF's region of the save area (step 3), which holds its
room until it stands there (step 4).  A CTXS writes the image to its own area (R142); a region without room holds none. -/
def State.beginSave (s : State) (u : Nat) (direct : Bool) : State :=
  let b := s.block u
  let dom := hDomain (s.launchHdr b)
  let free (s : State) : State :=
    (s.onBlock u fun b => { b with saveOff := none, saveJob := none }).freeSlot b.core b.dist dom
  if direct then free s
  else
    match placeIn ((s.district b.dist).region b.vf).2 (s.blockBound b) (s.saved b.dist b.vf) with
    | some o =>
      let (s, bs) := s.blockImage u
      s.onBlock u fun b =>
        { b with saveOff := some o, saveLen := bs.length, saveJob := some { write := true, len := bs.length, bytes := bs } }
    | none => free s

/-- A settled block is saved whole and leaves its core; with `direct`, for a CTXS that writes its image itself. -/
def State.takeOut (s : State) (u : Nat) (direct : Bool) : State :=
  -- soft errors that the image's writing finds read as zero and are counted (R218, R303)
  let s := ((s.softMacros (s.block u).core u (s.block u).macs).1.softElems u (s.block u).softAcc).1
  let found := (s.block u).groups.foldl (fun a x => a + (x.soft.filter fun e => !e.2.2).length) 0
  let fixed := (s.block u).groups.foldl (fun a x => a + x.softOk.length) 0
  let s := ((s.countErr (s.block u).dist 2 found).countErr (s.block u).dist 1 fixed).onBlock u fun b =>
    { b with groups := b.groups.map fun x =>
        { x.soft.foldl (fun x e => e.2.1.foldl (fun x k => x.setV e.1 k 0) x) x with soft := x.soft.map fun e => (e.1, e.2.1, true), softOk := [] } }
  let b := s.block u
  let c := s.core b.core
  let ended := c.eqs.zipIdx.flatMap fun q =>
    (q.1.filter fun (e : Entry) => e.blk == u && e.fetch.isNone).map fun e => (q.2, e)
  let saved : Block :=
    { b with resident := false, stop := false, saveOff := none, groups := b.groups.map Group.unarmed,
             saveScr := shareCells b.scr c.sram, saveAcc := shareCells b.acc c.sram,
             saveEqs := ended.foldl (fun l e => insertEntry e l) b.saveEqs,
             saveFences := c.fences.filter fun f => f.blk == u, saveTiles := c.tiles.filter fun t => t.blk == u,
             saveOps := (c.allOps.filter fun o => o.blk == u).map TileOp.still, saveLatch := c.latch.filter fun l => l.blk == u }
  let s := ((s.leaveCore u false).onBlock u fun _ => saved).beginSave u direct
  (List.range b.groups.length).foldl (fun s g => s.disarm (.grp u g)) s

/-! Restore (R137, R275) -/

/-- Writes saved bytes into a share. -/
def putShare (units : List Nat) (cells c : Cells) : Cells :=
  cells.foldl (fun m e => match shareByte units e.1 with
    | some a => cellPut a e.2 m
    | none => m) c

/-- Replays whose fill came while the block was away take effect, unless the handler runs (R159). -/
def Group.wakeReplays (x : Group) : Group :=
  if x.handler.isSome then x
  else { x with strands := x.strands.map fun t => if t.st == .replay true then { t with st := .active, age := 0 } else t }

/-- A block whose image has been read is back on its core, where it holds its seat: shares, entries at the tails of their queues,
operations, arrivals that were held (R269). -/
def State.comeBack (s : State) (u : Nat) : State :=
  let b := s.block u
  let core := b.core
  let again (o : TileOp) : Bool := o.joint && !o.started && o.fault.isNone
  -- what comes back stands behind what is there, in its saved order (R137, R335)
  let spots := b.saveEqs.map (fun e => e.2.spot) ++ b.saveFences.map Fence.spot ++ b.saveOps.map TileOp.spot
  let behind (x : Nat) : Nat := s.nextId + (spots.filter (· < x)).length
  let eqs := b.saveEqs.map fun e => (e.1, { e.2 with back := behind e.2.spot })
  let ops := b.saveOps.map fun o => { o with place := behind o.spot }
  let fences := b.saveFences.map fun f =>
    { f with back := behind f.spot, ahead := f.ahead ++ (s.core core).aheadOf f.mask }
  let s := { s with nextId := s.nextId + spots.length }
  let s := s.onCore core fun c =>
    { c with
      sram := putShare b.acc b.saveAcc (putShare b.scr b.saveScr c.sram)
      eqs := c.eqs.zipIdx.map fun q => q.1 ++ (eqs.filter fun e => e.1 == q.2).map Prod.snd
      fences := c.fences ++ fences
      tiles := c.tiles ++ b.saveTiles
      tileOps := c.tileOps ++ ops.filter fun o => !again o
      eq6 := c.eq6 ++ ops.filter again
      latch := c.latch ++ b.saveLatch }
  -- the marks are found again from the slots and the side plane (R284)
  let s := s.onCore core fun c => { c with tiles := c.tiles.map fun t => if t.blk = u then { t with marks := s.specials t } else t }
  let s := s.onBlock u fun b =>
    { b with resident := true, saveScr := [], saveAcc := [], saveEqs := [], saveFences := [], saveTiles := [], saveOps := [],
             saveLatch := [], saveOff := none, saveJob := none, switched := false, held := [],
             groups := b.groups.map Group.wakeReplays }
  b.held.foldl (fun s a => s.applyArrival u a.off a.id a.tick) s

/-- A block gets its seat on a core, and its image begins to be read; one whose image stands nowhere is back at once. -/
def State.startBack (s : State) (u core : Nat) : State :=
  let h := s.launchHdr (s.block u)
  let s := s.seat u core (hReg h) (hScr h) (hAcc h) true
  match (s.block u).saveOff with
  | none => s.comeBack u
  | some _ => s.onBlock u fun b => { b with resident := false, saveJob := some { write := false, len := b.saveLen } }

/-- The work on a block's image goes on: one that is written gives up its room (step 4 of R136), one that has been read brings
its block back, and one that is read for a CTXS waits there. -/
def State.pumpSave (s : State) (u : Nat) : State :=
  let b := s.block u
  match b.saveJob with
  | none => s
  | some j =>
    if j.off < j.len then s.saveStep u j
    else if j.write then
      (s.onBlock u fun b => { b with saveJob := none }).freeSlot b.core b.dist (hDomain (s.launchHdr b))
    else if j.seat then (s.onBlock u fun b => b.taken j).comeBack u
    else s

def State.pumpSaves (s : State) : State :=
  ((s.blocks.filter fun e => e.2.saveJob.isSome).map Prod.fst).foldl State.pumpSave s

/-- The core set and the cluster set of a block, by number. -/
def Launch.coreSetOf (l : Launch) (b : Block) : Nat := blockNumber l.header l.counts b.ident / l.perCore
def Launch.clusterSetOf (l : Launch) (b : Block) : Nat :=
  blockNumber l.header l.counts b.ident / setBlocks l.counts (hClRes l.header)

/-- Blocks of a launch that wait to come back. -/
def State.awayOf (s : State) (d lid : Nat) : List (Nat × Block) :=
  s.blocks.filter fun e => e.2.dist == d && e.2.lid == lid && !e.2.seated && !e.2.image

def State.hereOf (s : State) (d lid : Nat) : List (Nat × Block) :=
  s.blocks.filter fun e => e.2.dist == d && e.2.lid == lid && e.2.resident

/-- Those and the blocks of the launch that are being brought back. -/
def State.seatedOf (s : State) (d lid : Nat) : List (Nat × Block) :=
  s.blocks.filter fun e => e.2.dist == d && e.2.lid == lid && e.2.seated && !e.2.stop && !e.2.saveJob.any SaveJob.write

/-- What some blocks need together. -/
def State.needAll (s : State) (d domain : Nat) (l : List (Nat × Block)) : Need :=
  (l.map fun e => s.needOf e.2).foldl Need.join { units := 0, groups := 0, dist := d, domain := domain }

/-- The sets that a block of a launch comes back with, and the cores that they may take. -/
def State.backPlan (s : State) (d : Nat) (l : Launch) (b : Block) : List (List (Nat × Block)) × Option (List Nat) :=
  let away := s.awayOf d l.lid
  let here := s.seatedOf d l.lid
  let dom := hDomain l.header
  let set (k : Nat) : List (Nat × Block) := away.filter fun e => l.coreSetOf e.2 == k
  let k := l.coreSetOf b
  let one : List (List (Nat × Block)) := [set k]
  match firstWith (fun e => l.coreSetOf e.2 == k) here with
  | some r => (one, s.coresFor [] [r.2.core] [s.needAll d dom (set k)] [])
  | none =>
    if l.clustered then
      match firstWith (fun e => l.clusterSetOf e.2 == l.clusterSetOf b) here with
      | some r => (one, s.coresFor [] (clusterCores (r.2.core / 4)) [s.needAll d dom (set k)] [])
      | none =>
        let ks := ((away.filter fun e => l.clusterSetOf e.2 == l.clusterSetOf b).map fun e => l.coreSetOf e.2).dedup
        (ks.map set, s.placeFor d [] true (ks.map fun k => s.needAll d dom (set k)))
    else (one, s.placeFor d [] false [s.needAll d dom (set k)])

/-- A launch's blocks may come back: its VF is current, or they are those of a switch to it (R147). -/
def State.mayRestore (s : State) (d : Nat) (l : Launch) : Bool :=
  ((s.district d).serves l.vf || (s.district d).restoring && (s.district d).curVf == some l.vf) && l.kill.isNone && !l.acting

/-- A launch has a core set that can be placed now: blocks that come back, or the next that has not started (R125). -/
def State.canPlace (s : State) (d : Nat) (l : Launch) : Bool :=
  (s.mayRestore d l && (s.awayOf d l.lid).any fun b => (s.backPlan d l b.2).2.isSome) ||
    (s.mayPlace d l && (s.placeFor d [] l.clustered (l.nextNeeds d)).isSome)

/-- A launch of a higher queue has one: it is served first (R125). -/
def State.higherFirst (s : State) (d : Nat) (l : Launch) : Bool :=
  (s.district d).launches.any fun m => l.prio < m.prio && s.canPlace d m

/-- A block comes back with its set, if a core has room for it and no higher queue is served first. -/
def State.restore (s : State) (b : Block) : State :=
  match s.launchOf b with
  | none => s
  | some l =>
    if b.seated || b.image || !s.mayRestore b.dist l || s.higherFirst b.dist l then s
    else
      match s.backPlan b.dist l b with
      | (sets, some cores) => (sets.zip cores).foldl (fun s e => e.1.foldl (fun s b => s.startBack b.1 e.2) s) s
      | (_, none) => s

def execBlockRestore (blk : Nat) (s : State) : Host.Outcome State Fault Refusal :=
  .next (match Tbl.find blk s.blocks with
    | none => s
    | some b => s.restore b)

/-! CORE_SET_PLACE (R125, R126) -/

def execCoreSetPlace (d lid : Nat) (s : State) : Host.Outcome State Fault Refusal :=
  .next (match firstWith (fun l => l.lid == lid) (s.district d).launches with
    | none => s
    | some l =>
      if s.mayPlace d l && !s.higherFirst d l then
        match s.placeFor d [] l.clustered (l.nextNeeds d) with
        | some cores => s.placeSets d l cores
        | none => s
      else s)

/-! PREEMPTION (R135) -/

/-- A core set that may be taken off: its priority, the place of its newest block in dispatch order, its blocks. -/
structure Victim where
  prio : Nat
  order : Nat
  blocks : List Nat
  deriving DecidableEq, Repr

/-- The lowest priority first, then the most recently placed. -/
def insertVictim (a : Victim) : List Victim → List Victim
  | [] => [a]
  | b :: r => if a.prio < b.prio || (a.prio == b.prio && b.order < a.order) then a :: b :: r else b :: insertVictim a r

/-- The resident core sets of a VF below a priority. -/
def State.victims (s : State) (d v p : Nat) : List Victim :=
  let bs := s.blocks.filter fun e => e.2.dist == d && e.2.vf == v && e.2.resident && !e.2.stop && e.2.prio < p
  let key (b : Block) : Nat × Nat := (b.lid, match s.launchOf b with
    | some l => l.coreSetOf b
    | none => 0)
  let keys := (bs.map fun e => key e.2).dedup
  keys.foldl (fun l k =>
    let mine := bs.filter fun e => key e.2 == k
    insertVictim { prio := (mine.map fun e => e.2.prio).headD 0, order := mine.foldl (fun a e => max a e.2.order) 0,
                   blocks := mine.map Prod.fst } l) []

/-- The shortest run of victims without which a set fits; `gone` are those that go already. -/
def State.enough (s : State) (d : Nat) (clustered : Bool) (needs : List Need) : List Victim → List Nat → Option (List Nat)
  | [], gone => if (s.placeFor d gone clustered needs).isSome then some gone else none
  | v :: r, gone =>
    if (s.placeFor d gone clustered needs).isSome then some gone
    else State.enough s d clustered needs r (gone ++ v.blocks)

/-- Blocks of a district that are leaving their cores. -/
def State.going (s : State) (d : Nat) : List Nat :=
  (s.blocks.filter fun e => e.2.dist == d && (e.2.resident && e.2.stop || e.2.saveJob.any SaveJob.write)).map Prod.fst

def execPreemption (d lid : Nat) (s : State) : Host.Outcome State Fault Refusal :=
  .next (match firstWith (fun l => l.lid == lid) (s.district d).launches with
    | none => s
    | some l =>
      if !s.mayPlace d l || (s.placeFor d [] l.clustered (l.nextNeeds d)).isSome then s
      else
        let going := s.going d
        match s.enough d l.clustered (l.nextNeeds d) (s.victims d l.vf l.prio) going with
        | some gone =>
          let new := gone.filter fun u => !going.contains u
          if s.saveRoom d l.vf new then
            { s with blocks := s.blocks.map fun e => if new.contains e.1 then (e.1, { e.2 with stop := true }) else e }
          else s
        | none => s)

/-! The end of a killed launch (R145, R149, R163, R332) -/

/-- A block that is not resident goes. -/
def State.forget (s : State) (u : Nat) : State :=
  { s with blocks := Tbl.del u s.blocks, issues := s.issues.filter fun i => i.blk != u }

/-- The blocks of a saved launch stand again for the records of their cancelled entries. -/
def State.cancelImages (s : State) (d lid vf : Nat) : State :=
  match ((s.district d).images.filter fun m => m.launch.lid == lid && m.vf == vf).getLast? with
  | some m =>
    m.blocks.foldl (fun s b =>
      if (Tbl.find b.1 s.blocks).isSome then s
      else (({ s with blocks := Tbl.put b.1 b.2 s.blocks }).cancelEntries b.1).forget b.1) s
  | none => s

/-- The issuer of a CTXS is killed while it acts: with a block in the area the target is split, as after a fatal reply; with none
its dispatch goes on (R142, log entry 68). -/
def State.ctxLost (s : State) (d : Nat) (o : CtxOp) : State :=
  let src : PartSrc := .dispatch d (2 ^ 32 + o.blk * 2 ^ 17 + o.grp + if o.handler then 2 ^ 16 else 0)
  (s.dropSrc src).onLaunch d o.lid fun l =>
    if o.phase = 0 then l
    else if o.restore || o.count = 0 then { l with acting := false }
    else { l with acting := false, st := .split, image := o.area, splitMap := o.saved, splitBytes := o.bytes.take o.done }

/-- Every block of a killed launch has settled: records of cancelled entries, zeroed units, the reply line. -/
def State.finishKill (s : State) (d : Nat) (l : Launch) (how' : Nat × Nat × Nat × Nat) : State :=
  let reset := (Tbl.getD l.vf (s.district d).vfs {}).reset.isSome
  let us := (s.blocks.filter fun e => e.2.dist == d && e.2.lid == l.lid).map Prod.fst
  let s := if reset then s else us.foldl (fun s u => s.cancelEntries u) s
  let s := if !reset && l.st == .saved then s.cancelImages d l.lid (vfNum d l.vf) else s
  let s := us.foldl (fun s u => let s := s.dropSave u; if (s.block u).seated then s.freeBlock u true else s.forget u) s
  let s := ((s.district d).ctxOps.filter fun o => o.own == l.lid && o.result.isNone).foldl (fun s o => s.ctxLost d o) s
  let s := (s.dropSrc (.dispatch d l.lid)).onDistrict d fun x =>
    { x with ctxOps := (x.ctxOps.filter fun o => o.own != l.lid).map fun o =>
               if o.lid = l.lid ∧ o.result.isNone then { o with result := some 2 } else o }
  s.endLaunch d l.lid how'.1 how'.2.1 how'.2.2.1 how'.2.2.2

/-- The stopped blocks of a launch on one core leave it together: an entry of one may write the share of another (R136). -/
def State.setSettled (s : State) (u : Nat) : Bool :=
  let b := s.block u
  s.settled u && s.blocks.all fun e =>
    e.2.dist != b.dist || e.2.lid != b.lid || e.2.core != b.core || !e.2.resident || !e.2.stop || s.settled e.1

/-- A CTXS takes the block out, and no world switch does. -/
def State.direct (s : State) (u : Nat) : Bool :=
  (s.district (s.block u).dist).switchTo.isNone && (s.launchOf (s.block u)).any Launch.acting

/-- Stopped blocks give up their entries; those that have settled are saved, unless their launch is being killed. -/
def State.pumpStops (s : State) : State :=
  let us := (s.blocks.filter fun e => e.2.stop && e.2.resident).map Prod.fst
  us.foldl (fun s u =>
    let s := s.pullEntries u
    if !s.dying u && s.setSettled u then s.takeOut u (s.direct u) else s) s

def State.pumpKills (s : State) (d : Nat) : State :=
  (s.district d).launches.foldl (fun s l =>
    match l.kill with
    | none => s
    | some e => if (s.hereOf d l.lid).all fun b => s.settled b.1 then s.finishKill d l e else s) s

/-! World switches (R117, R147, R481) -/

/-- A VF may be made current (R117, R149). -/
def State.runnable (s : State) (d v : Nat) : Bool :=
  let x := s.district d
  let y := Tbl.getD v x.vfs {}
  y.quantum != 0 && y.reset.isNone &&
    (x.launches.any (fun l => l.vf == v && l.kill.isNone &&
        (l.st == .reading || l.st == .dispatching || l.st == .queued && x.atHead l && x.producersLet l)) ||
      s.blocks.any fun e => e.2.dist == d && e.2.vf == v && !e.2.image)

/-- The next runnable VF after the current one, in increasing v with a wrap; the current one itself comes last. -/
def State.nextVf (s : State) (d : Nat) : Option Nat :=
  let x := s.district d
  let first := match x.curVf with
    | some v => v + 1
    | none => 0
  firstWith (s.runnable d) ((List.range x.vfcount).map fun k => (first + k) % x.vfcount)

/-- The outgoing VF's blocks stop (step 1). -/
def State.beginSwitch (s : State) (d v : Nat) : State :=
  let cur := (s.district d).curVf
  let mine (b : Block) : Bool := b.dist == d && b.resident && some b.vf == cur
  let had := s.blocks.any fun e => mine e.2
  -- a block that was coming back stays in the save area
  let back := (s.blocks.filter fun e => e.2.dist == d && e.2.saveJob.any fun j => !j.write && j.seat).map Prod.fst
  let s := back.foldl (fun s u =>
    let b := s.block u
    ((s.dropSave u).onBlock u fun b => { b with saveJob := none, switched := true }).freeSlot b.core d (hDomain (s.launchHdr b))) s
  let s := { s with blocks := s.blocks.map fun (e : Nat × Block) => if mine e.2 then (e.1, { e.2 with switched := true }) else e }
  (s.stopBlocks mine).onDistrict d fun x => { x with switchTo := some (v, had), counting := false }

/-- The outgoing VF still has blocks on its cores, or images that are not written. -/
def State.leaving (s : State) (d : Nat) : Bool := s.blocks.any fun e => e.2.dist == d && e.2.seated

/-- The incoming VF's blocks of its last switch-out come back; when none is on its way and no other fits, the switch is over and
the quantum starts (R147). -/
def State.switchBack (s : State) (d v : Nat) (had : Bool) : State :=
  let mine (s : State) : List (Nat × Block) := s.blocks.filter fun e => e.2.dist == d && e.2.vf == v && e.2.switched
  let s := ((mine s).filter fun e => !e.2.seated).foldl (fun s e => s.restore (s.block e.1)) s
  if (mine s).any fun e => e.2.seated then s
  else
    { s with blocks := s.blocks.map fun (e : Nat × Block) => if e.2.dist == d && e.2.vf == v then (e.1, { e.2 with switched := false }) else e }
    |>.onDistrict d fun x =>
      { x with switchTo := none, restoring := false, quantumStart := if had then some s.cycle else none }

/-- The outgoing VF has nothing on its cores: counters change places, the incoming VF is current and its blocks come back. -/
def State.endSwitch (s : State) (d v : Nat) (had : Bool) : State :=
  let s := s.addEvents d
  let x := s.district d
  let s := match x.curVf with
    | some c => { s with images := Tbl.put (vfNum d c) x.live s.images }
    | none => s
  (s.onDistrict d fun x =>
    { x with curVf := some v, restoring := true, live := Tbl.getD (vfNum d v) s.images [{}, {}, {}, {}],
             quantumStart := none }).switchBack d v had

/-- What the quantum counts from, and whether the current VF's cycles are counted: a VF that is not runnable has no quantum, and
one that has become current with no save step has one from its first schedulable groups (R117, event 0x01 of R476). -/
def State.countQuantum (s : State) (d : Nat) : State :=
  let x := s.district d
  match x.curVf with
  | none => s
  | some v =>
    if x.switchTo.isSome && !x.restoring then s
    else
      let here := s.blocks.any fun e => e.2.dist == d && e.2.resident
      s.onDistrict d fun x =>
        { x with
          counting := x.counting || here
          quantumStart := if x.restoring || !s.runnable d v then none
            else match x.quantumStart with
              | some t => some t
              | none => if here then some s.cycle else none }

/-- A switch is due with no quantum at its end: no VF is current, or the current one is not runnable and another is. -/
def State.switchDue (s : State) (d : Nat) : Option Nat :=
  let x := s.district d
  if x.state != 1 || x.switchTo.isSome then none
  else
    match x.curVf with
    | none => s.nextVf d
    | some v => if s.runnable d v then none else s.nextVf d

def execWorldSwitch (d : Nat) (s : State) : Host.Outcome State Fault Refusal :=
  .next (
    let x := s.district d
    match x.switchTo with
    | some (v, had) =>
      if x.restoring then s.switchBack d v had else if s.leaving d then s else s.endSwitch d v had
    | none =>
      match s.switchDue d with
      | some v =>
        let s := s.beginSwitch d v
        if s.leaving d then s else s.endSwitch d v false
      | none => s)

/-- QUANTUM_END: a switch to the next runnable VF, or a new quantum. -/
def execQuantumEnd (d : Nat) (s : State) : Host.Outcome State Fault Refusal :=
  .next (
    let x := s.district d
    if x.state != 1 || x.switchTo.isSome then s
    else
      match s.nextVf d with
      | some v => if x.curVf = some v then s.onDistrict d fun x => { x with quantumStart := some s.cycle } else s.beginSwitch d v
      | none => s.onDistrict d fun x => { x with quantumStart := some s.cycle })

end Sys2Proof.Machine
end

