-- ==== Sys2Proof/Machine/Context.lean ====
section
/-! DEFINITION. CTXS and CTXR: the instructions, which wait for the dispatch engine, and its work on the save area (R139 to R146,
R148). -/

namespace Sys2Proof.Machine

/-! The instructions (R130, R142, R143) -/

def CtxOp.by (o : CtxOp) (u g : Nat) (h : Bool) : Bool := o.blk == u && o.grp == g && o.handler == h

/-- A path or handler hands its work to the dispatch engine, waits, and takes the status. -/
def State.askCtx (s : State) (d : Opd) (area lid need : Nat) (restore : Bool) : State :=
  match s.who with
  | none => s
  | some (u, g, h) =>
    let b := s.block u
    match firstWith (fun o => o.by u g h) (s.district b.dist).ctxOps with
    | some o =>
      match o.result with
      | some r =>
        ((s.onDistrict b.dist fun x => { x with ctxOps := x.ctxOps.filter fun o => !o.by u g h }).sysSaw
          (s.district b.dist).clock).sysStatus d r
      | none => s.sysWait
    | none =>
      if area % 64 ≠ 0 then s.sysTrap 0x08
      else
        match s.sysCheck area need with
        | some c => s.sysTrap c
        | none =>
          let x := s.grp u g
          let o : CtxOp :=
            { restore := restore, blk := u, grp := g, handler := h, own := b.lid, vf := b.vf, area := area, lid := lid,
              clk := x.pathTime (if h then x.living else s.pathStrands) }
          (s.onDistrict b.dist fun x => { x with ctxOps := x.ctxOps ++ [o] }).sysWait

/-- CTXS. -/
def execCtxs (d a b : Opd) (bp : Pr) (s : State) : Host.Outcome State Fault Refusal :=
  issueMove (.ctxs d a b bp) s fun s => s.askCtx d (s.pairOf a) (s.uniWord b none).toNat rightW false

/-- CTXR. -/
def execCtxr (d a : Opd) (bp : Pr) (s : State) : Host.Outcome State Fault Refusal :=
  issueMove (.ctxr d a bp) s fun s => s.askCtx d (s.pairOf a) 0 rightRD true

/-! Accesses of the area -/

def CtxOp.src (d : Nat) (o : CtxOp) : PartSrc := .dispatch d (2 ^ 32 + o.blk * 2 ^ 17 + o.grp + if o.handler then 2 ^ 16 else 0)

def State.onCtx (s : State) (d : Nat) (o : CtxOp) (f : CtxOp → CtxOp) : State :=
  s.onDistrict d fun x => { x with ctxOps := updWhere (fun y => y.by o.blk o.grp o.handler) f x.ctxOps }

/-- An access under the issuer's domain; the dispatch clock orders it (R128). -/
def State.ctxPart (s : State) (d : Nat) (o : CtxOp) (kind : PartKind) : Part :=
  let h := s.launchHdr (s.block o.blk)
  { src := o.src d, kind := kind, va := 0, len := 0, vf := vfNum d o.vf, dist := d, domain := hDomain h, priv := hPriv h,
    dev := s.dev.devnum, clk := max o.clk (s.district d).clock, lam := (s.district d).lease, writer := 8 }

def State.ctxWrite (s : State) (d : Nat) (o : CtxOp) (va : Nat) (bytes : List W8) : State × CtxAns :=
  s.writeSpan d (s.ctxPart d o .store) va bytes

/-- The operation is over. -/
def State.ctxEnd (s : State) (d : Nat) (o : CtxOp) (r : Nat) : State :=
  (s.dropSrc (o.src d)).onCtx d o fun o => { o with result := some r, bytes := [], todo := [] }

/-! Images (R139, R140) -/

/-- Bytes 0x010 to 0x2ff of a launch image (Table 8). -/
def imageHead (vf : Nat) (l : Launch) (blocks size : Nat) : List W8 :=
  let h := l.header
  let cursor := if l.counts.isEmpty then 0 else if l.cursor = l.total then 2 ^ 64 - 1 else blockAt h l.counts l.cursor
  leBytes 8 (1 + hDomain h * 2 ^ 16 + vf * 2 ^ 32) ++ leBytes 8 size ++ leBytes 8 (l.lid + blocks * 2 ^ 32) ++
    leBytes 8 cursor ++ ((List.range 4).flatMap fun i => leBytes 8 (l.counts.getD i 0)) ++ leBytes 8 l.untrig ++
    List.replicate 0xa8 0 ++ h ++ (l.params ++ List.replicate (64 - l.params.length) 0) ++ List.replicate 0xc0 0

/-- launch_bound of R140. -/
def State.launchBound (s : State) (d lid : Nat) : Nat :=
  768 + (s.blocks.filter fun e => e.2.dist == d && e.2.lid == lid).foldl (fun a e => a + s.blockBound e.2) 0

/-- The blocks of a launch in increasing block identifier. -/
def insertIdent (a : Nat × Nat) : List (Nat × Nat) → List (Nat × Nat)
  | [] => [a]
  | b :: r => if a.1 < b.1 then a :: b :: r else b :: insertIdent a r
def State.blocksOf (s : State) (d lid : Nat) : List Nat :=
  ((s.blocks.filter fun e => e.2.dist == d && e.2.lid == lid).foldl (fun l e => insertIdent (e.2.ident, e.1) l) []).map Prod.snd

/-! CTXS by the dispatch engine (R142) -/

/-- The area is lost: blocks that stand in it stay there, the others go on (R142). -/
def State.ctxSplit (s : State) (d : Nat) (o : CtxOp) : State :=
  (s.onLaunch d o.lid fun l =>
    { l with st := .split, acting := false, image := o.area, splitMap := o.saved, splitBytes := o.bytes.take o.done }).ctxEnd d o 5

/-- Strands that wait for a fill issue again when they are back: their parts do not outlive the image. -/
def Group.replayAll (x : Group) : Group :=
  { x with strands := x.strands.map fun t => match t.st with
      | .replay _ => { t with st := .replay true }
      | _ => t }

/-- The image is whole: its blocks leave the device, and the launch is saved. -/
def State.ctxSaved (s : State) (d : Nat) (o : CtxOp) (l : Launch) (bytes : List W8) : State :=
  let us := s.blocksOf d o.lid
  let bs := us.map fun u => (u, { s.block u with image := false, groups := (s.block u).groups.map Group.replayAll })
  let s := { s with parts := s.parts.filter fun p => match p.src with
    | .strands u _ _ => !us.contains u
    | _ => true }
  let s := us.foldl (fun s u => s.forget u) s
  let s := s.onDistrict d fun x =>
    { x with images := x.images ++ [{ vf := vfNum d o.vf, bytes := bytes, launch := l, blocks := bs }] }
  (s.onLaunch d o.lid fun l => { l with st := .saved, acting := false }).ctxEnd d o 0

/-- One step of a CTXS: 0 the target and its bound, 1 NEED, 2 CAP, 3 the next block, 4 its image, 5 SAVED, 6 the launch image,
7 its TAG. -/
def State.ctxsStep (s : State) (d : Nat) (o : CtxOp) : State :=
  let l? := firstWith (fun l => l.lid == o.lid && l.vf == o.vf) (s.district d).launches
  match l? with
  | none => s.ctxEnd d o 2
  | some l =>
    if l.kill.isSome then s.ctxEnd d o 2
    else
      let give (s : State) (r : Nat) : State := (s.onLaunch d o.lid fun l => { l with acting := false }).ctxEnd d o r
      match o.phase with
      | 0 =>
        if o.lid = o.own then s.ctxEnd d o 3
        else if l.acting then s.ctxEnd d o 4
        else if l.st == .saved || l.st == .split then s.ctxEnd d o 2
        else
          let n := s.launchBound d o.lid
          let s := (s.dropSrc (.dispatch d o.lid)).onLaunch d o.lid fun l =>
            { l with acting := true, st := if l.st == .reading then .queued else l.st }
          s.onCtx d o fun o => { o with phase := 1, need := n }
      | 1 =>
        match s.ctxWrite d o (o.area + 8) (leBytes 8 o.need) with
        | (s, .wait) => s
        | (s, .fatal) => give s 5
        | (s, .ok) => s.onCtx d o fun o => { o with phase := 2 }
      | 2 =>
        match s.ask { s.ctxPart d o .load with va := o.area, len := 8 } with
        | (s, .wait) => s
        | (s, .fatal _) => give s 5
        | (s, .ok line _ _ _) =>
          if ofLe (lineBytes line o.area 8) < o.need then give s 1
          else (s.dropSrc (o.src d)).onCtx d o fun o => { o with phase := 3, todo := s.blocksOf d o.lid }
      | 3 =>
        match o.todo with
        | [] => s.onCtx d o fun o => { o with phase := 6 }
        | u :: r =>
          match Tbl.find u s.blocks with
          | none => s.onCtx d o fun o => { o with todo := r }
          | some b =>
            let got (s : State) (bs : List W8) : State := s.onCtx d o fun o => { o with phase := 4, bytes := o.bytes ++ bs }
            match b.saveJob with
            | some j =>
              -- a pre-empted block's image has been copied from the save area
              if !j.write && !j.seat && j.len ≤ j.off then
                let s := s.onBlock u fun b => { b.taken j with saveOff := none, saveJob := none }
                if j.lost then got (s.blockImage u).1 (s.blockImage u).2 else got s j.bytes
              else s
            | none =>
              if b.resident then s.onBlock u fun b => { b with stop := true }
              else if b.saveOff.isSome then
                s.onBlock u fun b => { b with saveJob := some { write := false, seat := false, len := b.saveLen } }
              else got (s.blockImage u).1 (s.blockImage u).2
      | 4 =>
        if o.bytes.length ≤ o.off then s.onCtx d o fun o => { o with phase := 5 }
        else
          let n := min 4096 (o.bytes.length - o.off)
          match s.ctxWrite d o (o.area + 0x40 + 768 + o.off) ((o.bytes.drop o.off).take n) with
          | (s, .wait) => s
          | (s, .fatal) => s.ctxSplit d o
          | (s, .ok) => s.onCtx d o fun o => { o with off := o.off + n }
      | 5 =>
        let m := if o.count < 64 then o.saved ||| 2 ^ o.count else o.saved
        match s.ctxWrite d o (o.area + 0x10) (leBytes 8 m) with
        | (s, .wait) => s
        | (s, .fatal) => s.ctxSplit d o
        | (s, .ok) =>
          (s.onBlock (o.todo.headD 0) fun b => { b with image := true }).onCtx d o fun o =>
            { o with phase := 3, saved := m, count := o.count + 1, done := o.bytes.length, todo := o.todo.drop 1 }
      | 6 =>
        match s.ctxWrite d o (o.area + 0x50) (imageHead (vfNum d o.vf) l o.count (768 + o.bytes.length)) with
        | (s, .wait) => s
        | (s, .fatal) => s.ctxSplit d o
        | (s, .ok) => s.onCtx d o fun o => { o with phase := 7 }
      | _ =>
        let rest := imageHead (vfNum d o.vf) l o.count (768 + o.bytes.length) ++ o.bytes
        let tag := aesCmac (Tbl.getD o.vf (s.district d).vfs {}).imageKey rest
        match s.ctxWrite d o (o.area + 0x40) tag with
        | (s, .wait) => s
        | (s, .fatal) => s.ctxSplit d o
        | (s, .ok) => s.ctxSaved d o l (tag ++ rest)

/-! CTXR by the dispatch engine (R143) -/

/-- A CTXR begins to act on its launch, unless another CTXS or CTXR acts on it (R143). -/
def State.ctxTake (s : State) (d : Nat) (o : CtxOp) (l : Launch) : State :=
  if l.acting then s.ctxEnd d o 4
  else (s.onLaunch d l.lid fun l => { l with acting := true }).onCtx d o fun o => { o with phase := 1, lid := l.lid }

/-- A CTXR is over, and no longer acts on its launch. -/
def State.ctxrEnd (s : State) (d : Nat) (o : CtxOp) (r : Nat) : State :=
  (if o.phase = 1 then s.onLaunch d o.lid fun l => { l with acting := false } else s).ctxEnd d o r

/-- The VF of a launch holds sixteen others in progress (R125, R143). -/
def District.atLimit (x : District) (l : Launch) : Bool :=
  16 ≤ (x.launches.filter fun k => k.vf == l.vf && k.lid != l.lid && k.inProgress).length

/-- The saved blocks of a split launch come back, and its dispatch goes on (R142). -/
def State.ctxMend (s : State) (d : Nat) (o : CtxOp) (l : Launch) : State :=
  if (s.district d).atLimit l then s.ctxrEnd d o 7
  else
    let s := { s with blocks := s.blocks.map fun (e : Nat × Block) =>
      if e.2.dist = d ∧ e.2.lid = l.lid then (e.1, { e.2 with image := false }) else e }
    (s.onLaunch d l.lid fun l => { l with st := if l.counts.isEmpty then .queued else .dispatching }).ctxrEnd d o 0

/-- The launch and blocks of an image are put back. -/
def State.ctxBack (s : State) (d : Nat) (o : CtxOp) (m : SavedImage) : State :=
  let s := { s with blocks := m.blocks.foldl (fun t (b : Nat × Block) => Tbl.put b.1 b.2 t) s.blocks }
  (s.onLaunch d m.launch.lid fun _ =>
    { m.launch with st := if m.launch.counts.isEmpty then .queued else .dispatching, acting := false, kill := none }).ctxEnd d o 0

/-- An image that has been read whole: R143's checks in their order. -/
def State.ctxrJudge (s : State) (d : Nat) (o : CtxOp) (m : SavedImage) : State :=
  let x := s.district d
  if o.bytes ≠ m.bytes ∨ s.domainVf (hDomain m.launch.header) ≠ some (vfNum d o.vf) then s.ctxrEnd d o 6
  else
    match firstWith (fun l => l.lid == m.launch.lid && l.vf == o.vf) x.launches with
    | none => s.ctxrEnd d o 2
    | some l =>
      if l.st != .saved || l.kill.isSome then s.ctxrEnd d o 2
      else if x.atLimit l then s.ctxrEnd d o 7
      else s.ctxBack d o m

/-- The next bytes of a read of the area. -/
def State.ctxRead (s : State) (d : Nat) (o : CtxOp) (va n : Nat) : State :=
  match s.fetchSpans (s.ctxPart d o .load) [(va, n)] with
  | (s, .wait) => s
  | (s, .fatal ..) => s.ctxrEnd d o 5
  | (s, .ok g) =>
    let bs := s.gotBytes 0 g va n
    ((s.dropSrc (o.src d)).onDistrict d fun x => { x with clock := max x.clock g.clk }).onCtx d o fun o =>
      { o with off := o.off + n, bytes := o.bytes ++ bs }

/-- CTXR of a split area: SAVED and the images that stand there are read, and must be those that CTXS wrote. -/
def State.ctxrSplit (s : State) (d : Nat) (o : CtxOp) (l : Launch) : State :=
  let want := leBytes 8 l.splitMap ++ l.splitBytes
  if o.phase = 0 then s.ctxTake d o l
  else if o.off = 0 then s.ctxRead d o (o.area + 0x10) 8
  else if want.length ≤ o.off then (if o.bytes = want then s.ctxMend d o l else s.ctxrEnd d o 6)
  else s.ctxRead d o (o.area + 0x340 + (o.off - 8)) (min 4096 (want.length - o.off))

/-- The saved launch that the first 768 bytes of an image name (Table 8). -/
def State.ctxNamed (s : State) (d : Nat) (o : CtxOp) : Option Launch :=
  if o.bytes.length < 768 then none
  else firstWith (fun l => l.vf == o.vf && l.lid == fieldLe o.bytes 0x20 4 && l.st == .saved && l.kill.isNone) (s.district d).launches

/-- One step of a CTXR: the image's first 768 bytes, then the rest of an image that this VF has written. -/
def State.ctxrStep (s : State) (d : Nat) (o : CtxOp) : State :=
  let x := s.district d
  match firstWith (fun l => l.vf == o.vf && l.st == .split && l.image == o.area && l.kill.isNone) x.launches with
  | some l => s.ctxrSplit d o l
  | none =>
    match (if o.phase = 0 then s.ctxNamed d o else none) with
    | some l => s.ctxTake d o l
    | none =>
    let mine := x.images.filter fun m => m.vf == vfNum d o.vf && m.bytes.take o.bytes.length == o.bytes
    let total := if o.off = 0 then 768 else mine.foldl (fun a m => max a m.bytes.length) 0
    if o.off ≠ 0 ∧ total ≤ o.off then
      match mine with
      | m :: _ => s.ctxrJudge d o m
      | [] => s.ctxrEnd d o 6
    else
      s.ctxRead d o (o.area + 0x40 + o.off) (min 4096 (total - o.off))

/-- The dispatch engine works for the current VF (R148), also while the district drains (log entry 68). -/
def State.pumpCtx (s : State) (d : Nat) : State :=
  let x := s.district d
  if x.switchTo.isSome then s
  else
    x.ctxOps.foldl (fun s o =>
      if o.result.isSome ∨ x.curVf ≠ some o.vf then s
      else if o.restore then s.ctxrStep d o else s.ctxsStep d o) s

end Sys2Proof.Machine
end

