-- ==== Sys2Proof/Machine/Fabric.lean ====
section
/-! DEFINITION. The fabric engine: packets, routes, links and their flits, avenues, delegation to plazas, and requests of other
devices (R398 to R423, R492). -/

namespace Sys2Proof.Machine

/-! Packets (R401, R402) -/

/-- The CLK word: a reply to a read carries the low halves of t and rts (log entry 8). -/
def packetClkWord (k : Packet) : Nat :=
  if k.op = 0x10 ∨ k.op = 0x13 then k.clk % 2 ^ 32 + k.rts % 2 ^ 32 * 2 ^ 32 else k.clk

/-- The 32 bytes of a packet header (Table 2). -/
def packetHeader (k : Packet) : List W8 :=
  leBytes 8 k.va ++
    leBytes 8 (k.op * 2 ^ 57 + k.len % 512 * 2 ^ 48 + k.fpri * 2 ^ 45 + k.avd * 2 ^ 39 + k.home * 2 ^ 34 +
      k.reserved % 2 ^ 10 * 2 ^ 24 + k.src * 2 ^ 12 + k.dst) ++
    leBytes 8 (packetClkWord k) ++ leBytes 8 (k.reqvf * 2 ^ 52 + k.reserved / 2 ^ 10 * 2 ^ 32 + k.tag % 2 ^ 32)

/-- The header that 32 bytes hold. -/
def packetOf (bs : List W8) : Packet :=
  let w := fieldLe bs 8 8
  let c := fieldLe bs 16 8
  let r := fieldLe bs 24 8
  let op := bits w 63 57
  let two := op = 0x10 ∨ op = 0x13
  { va := fieldLe bs 0 8, op := op, len := bits w 56 48, fpri := bits w 47 45, avd := bits w 44 39, home := bits w 38 34,
    reserved := bits w 33 24 + bits r 51 32 * 2 ^ 10, src := bits w 23 12, dst := bits w 11 0,
    clk := if two then c % 2 ^ 32 else c, rts := if two then c / 2 ^ 32 else 0, reqvf := bits r 63 52, tag := bits r 31 0 }

/-- The body of flit i of a packet (R401). -/
def packetBody (k : Packet) (i : Nat) : List W8 :=
  let bs := if i = 0 then packetHeader k ++ (if k.len ≤ 32 then k.data else []) else (k.data.drop (64 * (i - 1))).take 64
  bs ++ List.replicate (64 - bs.length) 0

/-- A packet that R402 accepts. -/
def packetWellFormed (k : Packet) : Bool :=
  (packetKind k.op).isSome && k.reserved == 0 && k.len ≤ 256 && k.flits == packetFlits k.len && k.data.length == k.len

def State.sendPacket (s : State) (k : Packet) : State := { s with outbox := s.outbox ++ [k] }

/-! Routes (R405) -/

/-- The plane of an address. -/
def planeOf (va : Nat) : Nat := bits va 10 6

def State.linkUp (s : State) (l : Nat) : Bool := (s.link l).state == 2

/-- Flits that wait on a link. -/
def Link.queued (k : Link) : Nat := k.sendQ.foldl (fun a t => a + (t.pkt.flits - t.sent)) 0

/-- The link on which a packet leaves; what a home sends on to a line's own plaza goes over that plaza's plane (R404, R417). -/
def State.linkFor (s : State) (k : Packet) : Option Nat :=
  let up := (List.range 32).filter s.linkUp
  if k.dst = s.dev.devnum ∨ (packetKind k.op).any Prod.snd then
    firstWith s.linkUp ((List.range 32).map fun i => (planeOf k.va + i) % 32)
  else
    let go := up.filter fun l => !bitOf (s.link l).stops k.fpri
    minBy (fun l => (s.link l).queued) (if go.isEmpty then up else go)

/-- A request of this device or a posted release, which is kept until it is answered (R420). -/
def State.keeps (s : State) (k : Packet) : Bool := 1 ≤ k.op && k.op ≤ 9 && k.src == s.dev.devnum

/-- The flits that may wait in a shared region before it is stopped (Table 4 of R407). -/
def Link.room (k : Link) (p : Nat) : Nat := k.shrs.getD p 0 - ceilDiv (k.rtt * 3125) 1000 - 1

/-- A wake may start while the acknowledgements of those on its plane have room at this device (R403). -/
def State.mayWake (s : State) (l : Nat) (k : Packet) : Bool :=
  k.op != 0x1b || s.dev.wakes.contains k ||
    (s.dev.wakes.filter fun w => planeOf w.va == planeOf k.va).length < (s.link l).room 7

/-- Packets that have no link go to their links; wakes are kept until they are acknowledged, requests until they are answered
(R420). -/
def State.routeOut (s : State) : State :=
  s.outbox.foldl (fun s k =>
    match (s.linkFor k).filter fun l => s.mayWake l k with
    | none => { s with outbox := s.outbox ++ [k] }
    | some l =>
      let d := s.dev
      let d := if k.op = 0x1b ∧ !d.wakes.contains k then { d with wakes := d.wakes ++ [k] } else d
      let d := if s.keeps k then { d with sent := d.sent.filter (fun e => e.2 != k) ++ [(l, k)] } else d
      ({ s with dev := d } : State).onLink l fun x => { x with sendQ := x.sendQ ++ [{ pkt := k }] }) { s with outbox := [] }

/-! Avenues and watermarks (R406, R407, R409, R414) -/

/-- The district that owns a slot group: a valid entry that names a district that is on. -/
def State.groupOwner (s : State) (avt : Tbl Nat) (g : Nat) : Option Nat :=
  let e := Tbl.getD g avt 0
  if bitOf e 7 && (s.district (e % 64)).state != 0 then some (e % 64) else none

/-- Groups that each district owns: district, k. -/
def State.owners (s : State) (avt : Tbl Nat) : List (Nat × Nat) :=
  let l := (List.range 64).filterMap (s.groupOwner avt)
  l.dedup.map fun d => (d, l.count d)

/-- Every OFF mark of Table 4 is at least 16. -/
def State.marksOk (s : State) (k : Link) (avt : Tbl Nat) (rtt : Nat) : Bool :=
  let rf := ceilDiv (rtt * 3125) 1000
  let own := s.owners avt
  let total := own.foldl (fun a e => a + e.2) 0
  (List.range 8).all fun p =>
    let b := k.bufs.getD p 0
    let sh := k.shrs.getD p 0
    rf + 17 ≤ sh && own.all fun e => ceilDiv (e.2 * (rf + 256)) 64 + 20 ≤ (b - sh) * e.2 / total

/-! FLIT_SLOT (R399, R400, R408, R410, R492) -/

/-- What a priority and a kind of flit may send next: a packet that has begun so, else one that has not begun. -/
def pickFor (q : List TxPacket) (p : Nat) (own : Bool) (d : Nat) : Option TxPacket :=
  let mine := q.filter fun t => t.pkt.fpri == p && t.pkt.avd == d
  match firstWith (fun t => t.own == some own) mine with
  | some t => some t
  | none => firstWith (fun t => t.own.isNone) mine

/-- Districts in the order of their turns behind the one that sent last. -/
def turnOrder (last : Nat) : List Nat := (List.range 64).map fun i => (last + 1 + i) % 64

/-- The flit that a slot takes: its packet, and whether it is owned. -/
def State.pickFlit (s : State) (k : Link) : Option (TxPacket × Bool) :=
  let prios := (List.range 8).map (7 - ·)
  let owned := (s.groupOwner k.avt (k.txSlot / 4 % 64)).bind fun d =>
    prios.findSome? fun p =>
      if bitOf (Tbl.getD d k.stopo 0) p then none else (pickFor k.sendQ p true d).map fun t => (t, true)
  match owned with
  | some x => some x
  | none =>
    prios.findSome? fun p =>
      if bitOf k.stops p then none
      else ((turnOrder (Tbl.getD p k.turns 63)).findSome? (pickFor k.sendQ p false)).map fun t => (t, false)

/-- The VF for which the counters with a filter count a packet that this device sends (R492). -/
def packetForVf (k : Packet) (sent : Bool) : Nat :=
  let request := 1 ≤ k.op && k.op ≤ 9
  let reply := 0x10 ≤ k.op && k.op ≤ 0x1b
  if (sent && request) || (!sent && reply) then k.reqvf else 4096

/-! The wire (R399) -/

def crc32cBits : Nat → Nat → Nat
  | 0, r => r
  | n + 1, r => crc32cBits n (if r % 2 = 1 then r / 2 ^^^ 0x82f63b78 else r / 2)

def crc32cRun : List W8 → Nat → Nat
  | [], r => r
  | b :: bs, r => crc32cRun bs (crc32cBits 8 (r ^^^ b.toNat))

/-- CRC-32C (Castagnoli). -/
def crc32c (bs : List W8) : Nat := crc32cRun bs (2 ^ 32 - 1) ^^^ (2 ^ 32 - 1)

/-- Trailer bits [95:0] (Table 1). -/
def trailerLow (f : Flit) : Nat :=
  f.seq % 2 ^ 32 + f.ack % 2 ^ 32 * 2 ^ 32 + f.rsv % 4 * 2 ^ 64 + f.nak.toNat * 2 ^ 66 + f.first.toNat * 2 ^ 67 +
    f.fpri % 8 * 2 ^ 68 + f.idle.toNat * 2 ^ 71 + f.stops % 256 * 2 ^ 72 + f.stopo % 256 * 2 ^ 80 + f.avd % 64 * 2 ^ 88 +
    f.own.toNat * 2 ^ 94 + f.rsv / 4 % 2 * 2 ^ 95

/-- What the CRC covers: the 64-byte body and the trailer less its CRC. -/
def flitCovers (f : Flit) : List W8 :=
  (f.body ++ List.replicate (64 - f.body.length) 0).take 64 ++ leBytes 12 (trailerLow f)

def flitCrc (f : Flit) : Nat := crc32c (flitCovers f)

/-- The 80 bytes of a flit on the wire. -/
def flitBytes (f : Flit) : List W8 := (flitCovers f) ++ leBytes 4 f.crc

/-- The flit that 80 bytes are. -/
def flitOf (bs : List W8) : Flit :=
  let t := fieldLe bs 64 16
  { seq := bits t 31 0, ack := bits t 63 32, rsv := bits t 65 64 + 4 * bits t 95 95, nak := bitOf t 66, first := bitOf t 67,
    fpri := bits t 70 68, idle := bitOf t 71, stops := bits t 79 72, stopo := bits t 87 80, avd := bits t 93 88, own := bitOf t 94,
    crc := bits t 127 96, body := bs.take 64 }

/-- The trailer's fields that any flit carries: SEQ, the answer to the reverse direction, and the stop bits of this device's
buffers, those for owned flits being the slot group's owner's (R399, R400, R407). -/
def State.trailer (s : State) (k : Link) (seq : Nat) : Flit :=
  { seq := seq, ack := (k.expectSeq + 2 ^ 32 - 1) % 2 ^ 32, nak := k.nakDue, stops := k.halt,
    stopo := match s.groupOwner k.avt (k.txSlot / 4 % 64) with
      | some d => Tbl.getD d k.haltO 0
      | none => 0 }

/-- A flit stands on the wire. -/
def State.putFlit (s : State) (l : Nat) (f : Flit) : State :=
  let k := s.link l
  let naks := if f.nak then k.naks + 1 else k.naks
  let s := s.onLink l fun x => { x with wire := { f with crc := flitCrc f }, txSlot := x.txSlot + 1, nakDue := false, naks := naks }
  if 16 ≤ naks then s.post (.linkDown l) else s

/-- The packet's next flit leaves. -/
def State.sendFlit (s : State) (l : Nat) (t : TxPacket) (own : Bool) : State :=
  let k := s.link l
  let p := t.pkt
  let f : Flit := { s.trailer k k.sendSeq with first := t.sent == 0, fpri := p.fpri, own := own, avd := p.avd, body := packetBody p t.sent }
  let last := t.sent + 1 = p.flits
  let q := if last then k.sendQ.erase t
    else k.sendQ.map fun u => if u == t then { u with sent := t.sent + 1, own := some own } else u
  let s := s.onLink l fun x =>
    { x with sendQ := q, sendSeq := (x.sendSeq + 1) % 2 ^ 32, kept := x.kept ++ [(f, p)]
             turns := if own then x.turns else Tbl.put p.fpri p.avd x.turns }
  let s := s.count p.avd (packetForVf p true) 0x20 1
  (if last then s.output (.packet p) else s).putFlit l f

def execFlitSlot (link : Nat) (s : State) : Host.Outcome State Fault Refusal :=
  .next (
    let k := s.link link
    if k.state ≠ 2 then s
    else
      match k.again with
      | (f, p) :: r =>
        let s := (s.onLink link fun x => { x with again := r }).count p.avd (packetForVf p true) 0x22 1
        let t := s.trailer k f.seq
        s.putFlit link { f with ack := t.ack, nak := t.nak, stops := t.stops, stopo := t.stopo }
      | [] =>
        let idle : Flit := { s.trailer k k.sendSeq with idle := true }
        if 2048 ≤ k.kept.length then s.putFlit link idle
        else
          match s.pickFlit k with
          | some (t, own) => s.sendFlit link t own
          | none => s.putFlit link idle)

/-- FRAME_START: a pending table is in use from now on (R409, R414). -/
def execFrameStart (link : Nat) (s : State) : Host.Outcome State Fault Refusal :=
  .next (
    let k := s.link link
    match k.pendAvt with
    | none => s
    | some t => s.onLink link fun x => { x with avt := t, pendAvt := none })

/-! FLIT_RECEIVE (R400, R410) -/

/-- A packet of which a part is wrong is dropped and kept in ELOG (R402). -/
def State.dropPacket (s : State) (l : Nat) (head : List W8) : State :=
  s.onLink l fun x => { x with dropped := (x.dropped + 1) % 2 ^ 32, elog := head }

def RxPacket.same (r : RxPacket) (f : Flit) : Bool := r.fpri == f.fpri && r.avd == f.avd && r.own == f.own

/-- A whole packet with its data. -/
def RxPacket.whole (r : RxPacket) : Packet :=
  { r.head with flits := r.flits
                data := if r.head.len ≤ 32 then ((r.bytes.drop 32).take r.head.len) else (r.bytes.drop 64).take r.head.len }

/-- A flit's body joins its packet; a packet with all its flits is received. -/
def State.assemble (s : State) (l : Nat) (f : Flit) : State :=
  let k := s.link l
  let was := firstWith (fun r => r.same f) k.recv
  let done := firstWith (fun r => r.same f) k.last
  let s := s.onLink l fun x => { x with recv := x.recv.filter (fun r => !r.same f), last := x.last.filter fun r => !r.same f }
  let s := match was with
    | some r => if f.first then s.dropPacket l (r.bytes.take 32) else s
    | none => s
  let next : Option RxPacket :=
    if f.first then some { fpri := f.fpri, avd := f.avd, own := f.own, head := packetOf f.body, flits := 1, bytes := f.body }
    else was.map fun r => { r with flits := r.flits + 1, bytes := r.bytes ++ f.body }
  match next with
  | none =>
    -- a flit beyond the LEN of the packet before it: the packet is ill-formed
    let s := s.count f.avd 4096 0x21 1
    (match done with
      | some r => ({ s with agenda := s.agenda.filter (· != Instr.packetReceive l r.whole) } : State).dropPacket l (r.bytes.take 32)
      | none => s.onLink l fun x => { x with dropped := (x.dropped + 1) % 2 ^ 32 })
  | some r =>
    let s := s.count f.avd (packetForVf r.head false) 0x21 1
    if packetFlits r.head.len ≤ r.flits ∨ 5 ≤ r.flits then
      (s.onLink l fun x => { x with last := x.last ++ [r] }).post (.packetReceive l r.whole)
    else s.onLink l fun x => { x with recv := x.recv ++ [r] }

/-! Occupancy of the receiver's regions (R406, R407): a packet stands in its region until it is whole -/

/-- Flits that wait in a region: of a priority, shared or owned by a district. -/
def Link.occupancy (k : Link) (p : Nat) (own : Option Nat) : Nat :=
  (k.recv.filter fun r => r.fpri == p && r.own == own.isSome && own.all (· == r.avd)).foldl (fun a r => a + r.flits) 0

/-- A stop bit from the occupancy and the OFF mark: set above it, cleared at half of it or below. -/
def stopBit (was : Bool) (occ mark : Nat) : Bool := if mark < occ then true else if occ ≤ mark / 2 then false else was

/-- The stop bits of a link's buffers as they stand now. -/
def State.setHalts (s : State) (l : Nat) : State :=
  let k := s.link l
  let rf := ceilDiv (k.rtt * 3125) 1000
  let own := s.owners k.avt
  let total := own.foldl (fun a e => a + e.2) 0
  -- priorities 3, 6 and 7 are never stopped (R403)
  let mask (was : Nat) (bit : Nat → Bool → Bool) : Nat := maskOf ([0, 1, 2, 4, 5].filter fun p => bit p (bitOf was p))
  let halt := mask k.halt fun p was => stopBit was (k.occupancy p none) (k.shrs.getD p 0 - rf - 1)
  let haltO := own.filterMap fun e =>
    let m := mask (Tbl.getD e.1 k.haltO 0) fun p was =>
      stopBit was (k.occupancy p (some e.1))
        ((k.bufs.getD p 0 - k.shrs.getD p 0) * e.2 / total - ceilDiv (e.2 * (rf + 256)) 64 - 4)
    if m = 0 then none else some (e.1, m)
  s.onLink l fun x => { x with halt := halt, haltO := haltO }

/-- ACK covers a SEQ. -/
def covered (ack seq : Nat) : Bool := (ack + 2 ^ 32 - seq) % 2 ^ 32 < 2 ^ 31

def execFlitReceive (link : Nat) (f : Flit) (s : State) : Host.Outcome State Fault Refusal :=
  .next (
    let k := s.link link
    if k.state ≠ 2 then s
    else
      let s := s.onLink link fun x => { x with heard := s.time, rxSlot := x.rxSlot + 1 }
      let drop (s : State) : State := s.onLink link fun x => { x with crcerr := (x.crcerr + 1) % 2 ^ 32, nakDue := true }
      if f.crc % 2 ^ 32 ≠ flitCrc f then drop s
      else
        let owner := s.groupOwner k.avt (k.rxSlot / 4 % 64)
        -- a district counts one stop in a frame of the direction that carries the trailer (R492)
        let seen := if k.rxSlot / 256 = k.rxFrom / 256 then k.stopSeen else []
        let news := match owner with
          | some d => if f.stopo != 0 && !seen.contains d then [d] else []
          | none => []
        let s := news.foldl (fun s d => s.count d 4096 0x23 1) s
        let kept := k.kept.filter fun e => !covered f.ack e.1.seq
        let s := s.onLink link fun x =>
          { x with
            stops := f.stops
            stopo := match owner with
              | some d => Tbl.put d f.stopo x.stopo
              | none => x.stopo
            stopSeen := seen ++ news
            rxFrom := k.rxSlot
            kept := kept
            again := if f.nak then kept else x.again.filter fun e => !covered f.ack e.1.seq
            replay := if f.nak then (x.replay + 1) % 2 ^ 32 else x.replay }
        if f.idle then s
        else if f.seq ≠ k.expectSeq then drop s
        else
          (s.onLink link fun x => { x with expectSeq := (x.expectSeq + 1) % 2 ^ 32, nakDue := false, naks := 0 }).assemble link f |>.setHalts link)

/-! Links up and down (R414, R422) -/

/-- The fields that the writer of a link's STATE needs: the semaphore's holder. -/
def State.holds (s : State) (master : Nat) : Bool := s.dev.owner == master && s.dev.bstate != 1

/-- A gated write of a master that does not hold the semaphore is counted (R451). -/
def State.gateMiss (s : State) : State := { s with dev := { s.dev with semviol := min (s.dev.semviol + 1) (2 ^ 32 - 1) } }

/-- A gated write that the holder of the semaphore makes; it counts as a write of that master (R450). -/
def State.gated (s : State) (master : Nat) (k : State → State) : State :=
  let s := { s with dev := { s.dev with lastWrite := Tbl.put master s.time s.dev.lastWrite } }
  if s.holds master then k s else s.gateMiss

/-- LINK_TRAINING: the link comes up, or enters STATE 3 with ERR. -/
def execLinkTraining (master link rtt plane plaza : Nat) (s : State) : Host.Outcome State Fault Refusal :=
  .next (s.gated master fun s =>
    let k := s.link link
    if k.state = 2 then s
    else
      let split := k.bufs.foldl (· + ·) 0 ≤ 8192 && (List.range 8).all fun p => k.shrs.getD p 0 ≤ k.bufs.getD p 0
      let err := if !split then 2 else if plane ≠ link then 3 else if !s.marksOk k k.avt rtt then 1 else 0
      let fresh : Link := { bufs := k.bufs, shrs := k.shrs, avt := k.avt, elog := k.elog, plaza := plaza % 4096, rtt := rtt % 65536,
                            heard := s.time, err := err, state := if err = 0 then 2 else 3 }
      s.onLink link fun _ => fresh)

/-- What a link has not delivered goes to other links, with the requests that it carried and that have no answer, which its plaza
may have lost, and the wakes that have not been acknowledged (R420, R422, R423). -/
def State.resendFrom (s : State) (l state : Nat) : State :=
  let k := s.link l
  let ps := (k.kept.map Prod.snd ++ k.sendQ.map TxPacket.pkt ++ (s.dev.sent.filter fun e => e.1 == l).map Prod.snd ++ s.dev.wakes).dedup
  -- a part counts the time of R421 from its last sending
  let again (p : Part) : Bool := p.st == .atHost && p.port == 0 && ps.any fun k => s.keeps k && k.tag == p.id % 2 ^ 32
  let s := { s with parts := updWhere again (fun p => { p with sentTime := s.time }) s.parts }
  { s.onLink l (fun x => { x with state := state, kept := [], again := [], sendQ := [], recv := [], last := [], nakDue := false, naks := 0,
                                  stops := 0, stopo := [], halt := 0, haltO := [], wire := {} }) with
    outbox := s.outbox ++ ps }

/-- Lines whose plaza can no longer be reached come back: wts stands, rts is the ceiling. -/
def State.takeLines (s : State) (l : Nat) : State :=
  { s with homes := s.homes.map fun h => (h.1, { h.2 with deleg := h.2.deleg.filter fun e => e.1 % 32 != l }) }

def execLinkDown (link : Nat) (s : State) : Host.Outcome State Fault Refusal :=
  .next (if (s.link link).state ≠ 2 then s
    else
      (((s.resendFrom link 3).takeLines link).onLink link fun x => { x with downs := (x.downs + 1) % 2 ^ 32 }).output
        (.downNotice link))

/-- No flit for 1 µs takes the link down (R400). -/
def execLinkSilenceTimeout (link : Nat) (s : State) : Host.Outcome State Fault Refusal :=
  .next (if (s.link link).state = 2 ∧ s.passed (s.link link).heard 1 then s.post (.linkDown link) else s)

/-- LINK_STOP: a write of STATE 0. -/
def State.stopLink (s : State) (link : Nat) : State := (s.resendFrom link 0).takeLines link

def execLinkStop (master link : Nat) (s : State) : Host.Outcome State Fault Refusal :=
  .next (s.gated master fun s => s.stopLink link)

/-- Avenue entries are written by one write; on a link that is up they are pending until the next frame, where the marks allow
them all (R414). -/
def State.writeAvt (s : State) (link : Nat) (entries : List (Nat × Nat)) : State :=
    let k := s.link link
    let base := match k.pendAvt with
      | some t => t
      | none => k.avt
    let t := entries.foldl (fun t e =>
      let v := e.2 % 256 &&& 0xbf
      if v = 0 then Tbl.del (e.1 % 64) t else Tbl.put (e.1 % 64) v t) base
    if k.state ≠ 2 then s.onLink link fun x => { x with avt := t }
    else if s.marksOk k t k.rtt then s.onLink link fun x => { x with pendAvt := some t }
    else s.onLink link fun x => { x with err := 1 }

/-- AVT_WRITE. -/
def execAvtWrite (master link group value : Nat) (s : State) : Host.Outcome State Fault Refusal :=
  .next (s.gated master fun s => s.writeAvt link [(group, value)])

/-! Delegation (R416 to R418) -/

/-- A home may delegate a line: no part from here or from a host in 4,096 cycles, no monitor, no watchpoint, a present page of
device memory, no write held; the plaza must be within reach. -/
def State.mayDelegate (s : State) (h line : Nat) : Bool :=
  let m := s.home h
  (Tbl.find line m.deleg).isNone && s.linkUp (line % 32) && (match Tbl.find line m.touched with
    | some c => c + 4096 ≤ s.cycle
    | none => true) &&
  !(m.monitors.any fun x => x.line == line) && !(m.watches.any fun w => w.covers line) &&
  !(s.parts.any fun p => p.home == h && p.dev == s.dev.devnum && lineOf p.va == line && p.frame.isSome) &&
  match s.homeDistrict h with
  | none => false
  | some d =>
    match s.walk m (s.district d) (64 * line) with
    | .page e _ _ => !pteM e && !pteFill e && !pteHost e && (s.slotKey (pteSlot e)).isSome && s.slotMatches e
    | _ => false

/-- The district whose avenue the messages of a home use. -/
def State.homeAvd (s : State) (h : Nat) : Nat := (s.homeDistrict h).getD 0

/-- A delegation message of a home to a line's plaza, in the avenue of the request that it answers (R412), with a tag of its own. -/
def State.plazaMessage (s : State) (h line op clk : Nat) (data : List W8) : State :=
  let avd := match Tbl.find line (s.home h).deleg with
    | some g => g.avd
    | none => s.homeAvd h
  let (n, s) := s.newId
  s.sendPacket { va := 64 * line, op := op, fpri := 3, avd := avd, home := h, src := s.dev.devnum, dst := s.dev.devnum, clk := clk,
                 reqvf := 0xfff, tag := n % 2 ^ 32, len := data.length, data := data, flits := packetFlits data.length }

/-- The plaintext of a line at its home. -/
def State.lineAt (s : State) (h line : Nat) : List W8 :=
  match s.homeDistrict h with
  | none => List.replicate 64 0
  | some d =>
    match s.walk (s.home h) (s.district d) (64 * line) with
    | .page e _ off =>
      match s.slotKey (pteSlot e) with
      | some key => s.plainLine key (64 * line) (lineAddr e off)
      | none => List.replicate 64 0
    | _ => List.replicate 64 0

/-- The district that is charged with the errors of a line's page (R366). -/
def State.ownerAt (s : State) (h line : Nat) : Nat :=
  match s.homeDistrict h with
  | none => 0
  | some d =>
    match s.walk (s.home h) (s.district d) (64 * line) with
    | .page e _ _ => pteOwner e / 64
    | _ => 0

/-- DELEGATE: the message carries the bytes, wts, rts, the ceiling and the OWNER district; the home records rts := C (R416, R419). -/
def execDelegate (home line : Nat) (s : State) : Host.Outcome State Fault Refusal :=
  .next (if !s.mayDelegate home line then s
    else
      let x := (s.home home).times line
      let c := tick64 (x.rts + 65536)
      let avd := Tbl.getD line (s.home home).asked (s.homeAvd home)
      (s.onHome home fun m =>
        { m with lines := Tbl.put line ⟨x.wts, c⟩ m.lines, deleg := Tbl.put line { ceiling := c, avd := avd } m.deleg
                 asked := Tbl.del line m.asked }).plazaMessage home line 0x20 x.wts
          (s.lineAt home line ++ leBytes 8 x.wts ++ leBytes 8 x.rts ++ leBytes 8 c ++ leBytes 1 (s.ownerAt home line)))

/-- CEILING_RAISE: a raise of the recorded ceiling is granted; any other receives the recorded one (R417). -/
def execCeilingRaise (home line ceiling : Nat) (s : State) : Host.Outcome State Fault Refusal :=
  .next (match Tbl.find line (s.home home).deleg with
    | none => s
    | some g =>
      let c := if g.ceiling = ceiling then tick64 (ceiling + 65536) else g.ceiling
      let s := s.onHome home fun m =>
        { m with lines := Tbl.put line ⟨(m.times line).wts, c⟩ m.lines, deleg := Tbl.put line { g with ceiling := c } m.deleg }
      s.plazaMessage home line 0x26 c [])

/-- WRITE_THROUGH: the home's copy takes the bytes and wts := ts, and the plaza is answered (R417). -/
def execWriteThrough (home line first ts : Nat) (bytes : List W8) (s : State) : Host.Outcome State Fault Refusal :=
  .next (match Tbl.find line (s.home home).deleg, s.homeDistrict home with
    | some _, some d =>
      let va := 64 * line + first % 64
      match s.walk (s.home home) (s.district d) va with
      | .page e addr off =>
        match s.slotKey (pteSlot e) with
        | some key =>
          let s := (s.putPlain key va (lineAddr e off) (first % 64) (bytes.take (64 - first % 64))).setDirty e addr
          let s := s.onHome home fun m => { m with lines := Tbl.put line ⟨ts, (m.times line).rts⟩ m.lines }
          s.plazaMessage home line 0x24 ts []
        | none => s
      | _ => s
    | _, _ => s)

/-- RECALL: one message for each delegation (R418). -/
def execRecall (home line : Nat) (s : State) : Host.Outcome State Fault Refusal :=
  .next (match Tbl.find line (s.home home).deleg with
    | none => s
    | some g =>
      if g.recalled then s
      else (s.onHome home fun m => { m with deleg := Tbl.put line { g with recalled := true } m.deleg }).plazaMessage home line 0x21 0 [])

/-- LINE_RETURN: the home resumes authority with the plaza's times (R418). -/
def execLineReturn (home line wts rts : Nat) (s : State) : Host.Outcome State Fault Refusal :=
  .next (match Tbl.find line (s.home home).deleg with
    | none => s
    | some _ => s.onHome home fun m => { m with lines := Tbl.put line ⟨wts, max wts rts⟩ m.lines, deleg := Tbl.del line m.deleg })

/-- TIMESTAMP_EVICT (R376): a delegated line keeps its entry. -/
def execTimestampEvict (home line : Nat) (s : State) : Host.Outcome State Fault Refusal :=
  .next (match Tbl.find line (s.home home).lines, Tbl.find line (s.home home).deleg with
    | some x, none => s.onHome home fun m => { m with floor := max m.floor x.rts, lines := Tbl.del line m.lines }
    | _, _ => s)

/-! Requests of other devices (R402, R420) -/

/-- The part that a request packet names; its requester's code stands in the data (requestData). -/
def remotePart (k : Packet) (dev : Nat) : Part :=
  let base : Part :=
    { src := .remote k.src k.tag, kind := .load, va := k.va, len := k.len, vf := k.reqvf, dist := k.avd, dev := dev, home := k.home,
      clk := k.clk, op := k.op }
  let by' (off : Nat) (p : Part) : Part :=
    let c := fieldLe k.data off 1
    { p with writer := c % 16, promo := bitOf c 4 }
  let room := 64 - k.va % 64
  match k.op with
  | 0x01 | 0x07 => by' 2 { base with kind := if fieldLe k.data 5 1 = 1 then .pref else .load, len := max 1 (min room (fieldLe k.data 0 2)), lam := max 1 (fieldLe k.data 3 2) }
  | 0x02 => by' (k.len - 1) { base with kind := .store, len := k.len - 1, data := k.data.take (k.len - 1) }
  | 0x04 => { base with kind := .mon, len := 1 }
  | 0x05 => by' (k.len - 1) { base with kind := .pst, len := k.len - 1, data := k.data.take (k.len - 1) }
  | 0x08 =>
    let n := (k.len - 1) / 2
    let m := (k.data.drop n).take n
    by' (2 * n) { base with kind := .pst, len := n, data := k.data.take n, cmp := if m.all (· == 0xff) then [] else m }
  | 0x09 =>
    by' 2 { base with kind := .pst, len := k.len - 16, data := k.data.drop 16, aop := 16 + fieldLe k.data 0 1, ty := fieldLe k.data 1 1 }
  | _ =>
    let ty := fieldLe k.data 1 1
    let n := atomSize ty
    by' 2 { base with kind := .atom, len := n, data := (k.data.drop 16).take n, cmp := (k.data.drop 32).take n, aop := fieldLe k.data 0 1,
                      ty := ty }

/-- A reply that this device keeps for a packet that comes again: 0 to the request, 1 to its release. -/
def State.keptReply (s : State) (src tag phase : Nat) : Option Packet :=
  (firstWith (fun r => r.1 == src && r.2.1 == tag && r.2.2.1 == phase) s.dev.replies).map fun r => r.2.2.2.1

def State.keepReply (s : State) (src tag phase : Nat) (k : Packet) : State :=
  { s with dev := { s.dev with replies := s.dev.replies ++ [(src, tag, phase, k, s.time)] } }

/-- A kept reply is discarded 16 ms after it was sent. -/
def execReplyKeepExpiry (src tag : Nat) (s : State) : Host.Outcome State Fault Refusal :=
  .next { s with dev := { s.dev with replies := s.dev.replies.filter fun r =>
    !(r.1 == src && r.2.1 == tag && s.passed r.2.2.2.2 16000) } }

/-- A request's part starts at its home, unless it is a packet that came before: that receives the reply that was kept, if it has
been answered (R420). -/
def State.takeRequest (s : State) (k : Packet) : State :=
  match s.keptReply k.src k.tag 0 with
  | some r => s.sendPacket r
  | none => if s.parts.any fun p => p.src == .remote k.src k.tag then s else s.send (remotePart k s.dev.devnum)

/-- A posted release: the write that it names is performed, now or when it has come (R405), or where it was sent on to (R417). -/
def State.takeRelease (s : State) (k : Packet) : State :=
  match s.keptReply k.src k.tag 1 with
  | some r => s.sendPacket r
  | none =>
    match firstWith (fun p => p.src == .remote k.src k.tag && p.st == .held) s.parts with
    | some p => (s.onPart p.id fun q => { q with rel := true }).later p.id .released
    | none =>
      if s.dev.forwarded.contains (k.src, k.tag) then
        -- the write waits at the plaza of its line (R417)
        { s with dev := { s.dev with forwarded := s.dev.forwarded.filter (· != (k.src, k.tag)) } }.sendPacket k
      else if s.dev.early.contains (k.src, k.tag) then s
      else { s with dev := { s.dev with early := s.dev.early ++ [(k.src, k.tag)] } }

/-- The reply packet to a remote part. -/
def replyPacket (p : Part) (dev src tag : Nat) (r : Reply) : Packet :=
  let k (op pri clk rts : Nat) (data : List W8) : Packet :=
    { va := p.va, op := op, fpri := pri, avd := p.dist, home := 31, src := dev, dst := src, clk := clk, rts := rts, reqvf := p.vf,
      tag := tag, len := data.length, data := data, flits := packetFlits data.length }
  match r with
  | .accept d w rts bad =>
    match p.kind with
    | .load | .fetch | .pref => k (if p.op = 7 then 0x13 else 0x10) (if p.op = 7 then 4 else 5) (max p.clk w) rts
        (d ++ if bad = 0 then [] else leBytes 1 bad)
    | .store | .mon => k 0x11 5 w 0 []
    | .atom | .red => k 0x12 5 w 0 d
    | .pst => k (if p.op = 5 then 0x14 else 0x13) 4 w 0 []
  | .negative => k 0x18 6 0 0 []
  | .fatal c => k 0x19 6 0 0 (leBytes 1 c)

/-- The home has answered a part of another device: the reply leaves; a posted write stays held, a part that waits for a fill
stays parked. -/
def State.remoteReply (s : State) (p : Part) (src tag : Nat) (r : Reply) : State :=
  let k := replyPacket p s.dev.devnum src tag r
  let s := s.sendPacket k
  match r with
  | .accept .. =>
    let s := if p.kind == .load || p.kind == .fetch || p.kind == .pref || p.kind == .mon then s
      else s.keepReply src tag p.rel.toNat k
    if p.kind == .pst && !p.rel then
      let s := s.onPart p.id fun q => { q with st := .held }
      if s.dev.early.contains (src, tag) then
        ({ s with dev := { s.dev with early := s.dev.early.filter (· != (src, tag)) } }.onPart p.id fun q => { q with rel := true }).later
          p.id .released
      else s
    else s.dropPart p.id
  | .negative =>
    let s := if p.kind == .pref then s.dropPart p.id else s.onPart p.id fun q => { q with st := .parked }
    if p.early then s.later p.id .woken else s
  | .fatal _ =>
    let s := if p.kind == .load || p.kind == .fetch || p.kind == .pref || p.kind == .mon then s
      else s.keepReply src tag p.rel.toNat k
    s.dropPart p.id

/-! Replies and wakes from other devices (R420) -/

/-- The part that a reply answers. -/
def State.waitingFor (s : State) (tag : Nat) : Option Part :=
  firstWith (fun p => p.id % 2 ^ 32 == tag && p.st == .atHost && p.port == 0) s.parts

/-- A half of a time that came beside another, above a time that it cannot precede. -/
def timeFrom (low base : Nat) : Nat := tick64 (base + (low + 2 ^ 32 - base % 2 ^ 32) % 2 ^ 32)

/-- What a reply packet says to a part. -/
def replyOf (k : Packet) (p : Part) : Reply :=
  match k.op with
  | 0x18 => .negative
  | 0x19 => .fatal (if k.data.isEmpty then 7 else fieldLe k.data 0 1)
  | _ =>
    match p.kind with
    | .load | .fetch | .pref =>
      let t := timeFrom k.clk p.clk
      .accept (k.data.take 64) t (timeFrom k.rts t) (fieldLe k.data 64 1)
    | .atom => .accept k.data k.clk k.clk 0
    | _ => .accept [] k.clk k.clk 0

/-- A monitor's wake from another device: whoever here is armed on the line. -/
def State.wakeLine (s : State) (line ts : Nat) : State :=
  let s := s.blocks.foldl (fun s b => (List.range b.2.groups.length).foldl (fun s g => s.wakeArmed line ts (.grp b.1 g)) s) s
  s.squeues.foldl (fun s q => s.wakeArmed line ts (.thread q.1)) s

/-- A wake: the part that it names goes on, or a monitor is woken; it is acknowledged. -/
def State.takeWake (s : State) (k : Packet) : State :=
  let s := s.sendPacket { va := k.va, op := 0x31, fpri := 7, avd := k.avd, home := 31, src := s.dev.devnum, dst := k.src, reqvf := k.reqvf,
                          tag := k.tag }
  match firstWith (fun p => p.id % 2 ^ 32 == k.tag && p.dev == k.src && (p.st == .parked || p.st == .atHost || p.st == .replied .negative)) s.parts with
  | some p => if p.st == .parked then s.later p.id .woken else s.onPart p.id fun q => { q with early := true }
  | none => s.wakeLine (lineOf k.va) k.clk

/-- A plaza's request about a delegated line: the answer takes its avenue (R412). -/
def State.inAvenue (s : State) (k : Packet) : State :=
  s.onHome k.home fun m => match Tbl.find (lineOf k.va) m.deleg with
    | some g => { m with deleg := Tbl.put (lineOf k.va) { g with avd := k.avd } m.deleg }
    | none => m

/-- A reply has come: the request that it answers is kept no longer, and a negative one of another device's home counts as a park of
its requester (R420, R476). -/
def State.answered (s : State) (k : Packet) : State :=
  let s := { s with dev := { s.dev with sent := s.dev.sent.filter fun e => e.2.tag != k.tag } }
  if k.op = 0x18 then
    match s.waitingFor k.tag with
    | some p => s.countParked p
    | none => s
  else s

/-- PACKET_RECEIVE (R402). -/
def State.takePacket (s : State) (k : Packet) : State :=
  let s := if 0x10 ≤ k.op ∧ k.op ≤ 0x1a then s.answered k else s
  if k.op = 6 then s.takeRelease k
  else if 1 ≤ k.op ∧ k.op ≤ 9 then s.takeRequest k
  else if k.op = 0x1a then
    match s.waitingFor k.tag with
    | some p => s.post (.retryReply p.id)
    | none => s
  else if k.op = 0x1b then s.takeWake k
  else if 0x10 ≤ k.op ∧ k.op ≤ 0x19 then
    match s.waitingFor k.tag with
    | some p => (s.sliceSees p (replyOf k p)).later p.id (.replied (replyOf k p))
    | none => s
  else if k.op = 0x22 then s.post (.lineReturn k.home (lineOf k.va) (fieldLe k.data 0 8) (fieldLe k.data 8 8))
  else if k.op = 0x23 then (s.inAvenue k).post (.writeThrough k.home (lineOf k.va) (k.va % 64) k.clk k.data)
  else if k.op = 0x25 then (s.inAvenue k).post (.ceilingRaise k.home (lineOf k.va) k.clk)
  else if k.op = 0x31 then { s with dev := { s.dev with wakes := s.dev.wakes.filter fun w => !(w.tag == k.tag && w.dst == k.src) } }
  else s

/-- A line may be delegated while the messages that its plaza may send about the lines that it holds have room here: a write-through
and a ceiling raise, of two flits and one, and a return (R403). -/
def State.delegFits (s : State) (line : Nat) : Bool :=
  4 * (s.homes.foldl (fun a h => a + (h.2.deleg.filter fun e => e.1 % 32 == line % 32).length) 1) ≤ (s.link (line % 32)).room 3

/-- A home delegates a line that another device reaches, where the plaza accepts it (R416). -/
def State.considerDelegation (s : State) (k : Packet) : State :=
  if 1 ≤ k.op ∧ k.op ≤ 3 ∧ keyOf k.va < 0xfffd ∧ s.mayDelegate k.home (lineOf k.va) ∧ s.delegFits (lineOf k.va) ∧
      Config.plazaAccepts s.cycle (lineOf k.va) then
    (s.onHome k.home fun m => { m with asked := Tbl.put (lineOf k.va) k.avd m.asked }).post (.delegate k.home (lineOf k.va))
  else s

def execPacketReceive (link : Nat) (k : Packet) (s : State) : Host.Outcome State Fault Refusal :=
  .next (if (s.link link).state ≠ 2 then s
    else if !packetWellFormed k then s.dropPacket link (packetHeader k)
    else (s.takePacket k).considerDelegation k)

/-- PART_TIMEOUT (R421). -/
def execPartTimeout (part : Nat) (s : State) : Host.Outcome State Fault Refusal :=
  .next (match s.part part with
    | some p =>
      if p.st == .atHost ∧ p.port = 0 ∧ s.passed p.sentTime 100000 then s.later part (.replied (.fatal 7)) else s
    | none => s)

end Sys2Proof.Machine
end

