-- ==== Sys2Proof/Machine/Host.lean ====
section
/-! DEFINITION. The host ports (R452 to R463): apertures, host parts and their order, host frames, notices; and PART_REPLY, which
gives every part's reply to its source. -/

namespace Sys2Proof.Machine

/-! Port clocks (R459) -/

def State.portClock (s : State) (src : PartSrc) : Nat :=
  max s.dev.hostfloor (match src with
    | .pcie _ tc _ => Tbl.getD tc s.dev.tcClocks 0
    | .hanos st _ => Tbl.getD st s.dev.streamClocks 0
    | _ => 0)

/-- A reply raises the clock of its class or stream; with `flr`, HOSTFLOOR too. -/
def State.raisePort (s : State) (src : PartSrc) (t : Nat) (flr : Bool) : State :=
  let d := s.dev
  let d := if flr then { d with hostfloor := max d.hostfloor t } else d
  match src with
  | .pcie _ tc _ => { s with dev := { d with tcClocks := Tbl.put tc (max t (Tbl.getD tc d.tcClocks 0)) d.tcClocks } }
  | .hanos st _ => { s with dev := { d with streamClocks := Tbl.put st (max t (Tbl.getD st d.streamClocks 0)) d.streamClocks } }
  | _ => { s with dev := d }

def tickAll (n : Nat) (t : Tbl Nat) : Tbl Nat := (List.range n).foldl (fun t k => Tbl.put k (tick64 (Tbl.getD k t 0 + 1)) t) t

def execPortClockTick (s : State) : Host.Outcome State Fault Refusal :=
  .next { s with dev := { s.dev with tcClocks := tickAll 8 s.dev.tcClocks, streamClocks := tickAll 64 s.dev.streamClocks } }

/-! Requests from PCIe (R453 to R456) -/

def State.hostDrop (s : State) : State := { s with dev := { s.dev with hostDrops := s.dev.hostDrops + 1 } }

/-- A TLP that IDEREQ lets through: it travels in a stream bound to its function (R456). -/
def State.ideOk (s : State) (f : Nat) (ide : Option Nat) : Bool :=
  s.dev.idereq == 0 || match ide with
    | some st => (Tbl.getD st s.dev.ideKeys (0, [])).2.contains f
    | none => false

/-- A function whose BARs answer (R453, R473). -/
def State.functionOn (s : State) (f : Nat) : Bool :=
  s.dev.bstate == 2 &&
    (f == 0 || (f ≤ 4096 &&
      let d := s.district ((f - 1) / 64)
      d.state != 0 && (f - 1) % 64 < d.vfcount && !(Tbl.getD ((f - 1) % 64) d.vfs {}).busy))

/-- The device address and the district of a BAR2 offset, where its entry is usable and has a right (R454, R455). -/
def State.aperture (s : State) (f off right : Nat) : Option (Nat × Nat) :=
  let e := (Tbl.getD (off / 2 ^ 30) (Tbl.getD f s.dev.apertures []) 0).toNat
  let va := bits e 127 64
  let d := bits e 21 16
  if off / 2 ^ 30 < 64 && bitOf e 0 && bitOf e right && va % 2 ^ 30 == 0 && keyOf va ≤ 0xfffc && (s.district d).state != 0 &&
      (f == 0 || d == (f - 1) / 64) then some (va + off % 2 ^ 30, d)
  else none

/-- Lines with their homes, when every one has an entry that names this device (R455, R457). -/
def State.homesOf (s : State) (d : Nat) (ls : List (Nat × Nat)) : Option (List (Nat × Nat × Nat)) :=
  let hs := ls.filterMap fun l => match s.route d l.1 with
    | some (dev, h) => if dev = s.dev.devnum then some (l.1, l.2, h) else none
    | none => none
  if hs.length = ls.length then some hs else none

/-- The lines of a BAR2 request, none where it is refused. -/
def State.barRequest (s : State) (f off len right : Nat) (ide : Option Nat) : Option (Nat × List (Nat × Nat × Nat)) :=
  if !s.functionOn f || !s.ideOk f ide then none
  else (s.aperture f off right).bind fun x => (s.homesOf x.2 (spanLines x.1 len)).map fun hs => (x.2, hs)

/-- The clock of a part that comes now: a PCIe read or atomic lies above the writes of its class (R459, R460). -/
def State.hostClk (s : State) (src : PartSrc) (kind : PartKind) : Nat :=
  match src with
  | .pcie _ tc _ => if kind == .store then s.portClock src else max (s.portClock src) (Tbl.getD tc s.dev.tcAbove 0)
  | _ => s.portClock src

/-- A host part (R455, R457, R459). -/
def State.hostPart (s : State) (src : PartSrc) (kind : PartKind) (d domain writer : Nat) (l : Nat × Nat × Nat) (data : List W8) : Part :=
  { src := src, kind := kind, va := l.1, len := l.2.1, data := data, vf := 0xfff, dist := d, domain := domain, writer := writer,
    clk := s.hostClk src kind, dev := s.dev.devnum, home := l.2.2 }

/-- A TLP within the endpoint's limits (R452): 14-bit tags, TC0 to TC7, and the largest payload or read request. -/
def tlpFits (len most tc tag : Nat) : Bool := len ≤ most && tc < 8 && tag < 2 ^ 14

def execHostMemoryRead (f off len tc tag : Nat) (ide : Option Nat) (s : State) : Host.Outcome State Fault Refusal :=
  .next (if !tlpFits len 4096 tc tag then s.hostDrop
    else match s.barRequest f off len 1 ide with
    | none => s.output (.hostReadReply tag [] 1)
    | some (d, hs) => hs.foldl (fun s l => s.send (s.hostPart (.pcie f tc tag) .load d 0 6 l [])) s)

def execHostMemoryWrite (f off tc : Nat) (ide : Option Nat) (bytes : List W8) (s : State) : Host.Outcome State Fault Refusal :=
  .next (if !tlpFits bytes.length 512 tc 0 then s.hostDrop
    else match s.barRequest f off bytes.length 2 ide with
    | none => s.hostDrop
    | some (d, hs) =>
      let first := match hs with
        | l :: _ => l.1
        | [] => 0
      hs.foldl (fun s l => s.send (s.hostPart (.pcie f tc 0) .store d 0 6 l ((bytes.drop (l.1 - first)).take l.2.1))) s)

/-- The AtomicOps of R452, by this model's numbers 0 FetchAdd, 1 Swap, 2 CAS: operation and type of the line's atomic unit. -/
def pcieAtomic (op size : Nat) : Option (Nat × Nat) :=
  let ty := if size = 4 then 0 else if size = 8 then 2 else 6
  if op = 0 ∧ (size = 4 ∨ size = 8) then some (0, ty)
  else if op = 1 ∧ (size = 4 ∨ size = 8) then some (6, ty)
  else if op = 2 ∧ (size = 4 ∨ size = 8 ∨ size = 16) then some (7, ty)
  else none

def execHostAtomicop (f off tc op size operand cmp tag : Nat) (ide : Option Nat) (s : State) : Host.Outcome State Fault Refusal :=
  .next (if !tlpFits size 16 tc tag then s.hostDrop
    else match pcieAtomic op size, s.barRequest f off size 3 ide with
    | some (aop, ty), some (d, l :: _) =>
      if l.1 % size ≠ 0 then s.output (.hostReadReply tag [] 1)
      else s.send { s.hostPart (.pcie f tc tag) .atom d 0 6 l (leBytes size operand) with cmp := leBytes size cmp, aop := aop, ty := ty }
    | _, _ => s.output (.hostReadReply tag [] 1))

/-- What an IDE_KM message opens to: its 256-bit key, which only a secure session that the device identity key authenticates yields
(R456). A message of no such session opens to none, and stands as an operand of 2 ^ 256 or more (log 45). -/
def sessionKey (key : Nat) : Option Nat := if key < 2 ^ 256 then some key else none

/-- IDE_KM programs a stream (R456): 0 the link stream, 1 to 8 the selective ones. -/
def execIdeKeyProgram (stream key : Nat) (funcs : List Nat) (s : State) : Host.Outcome State Fault Refusal :=
  .next (match sessionKey key with
    | some k =>
      if s.dev.bstate == 2 && decide (stream ≤ 8) then
        { s with dev := { s.dev with ideKeys := Tbl.put stream (k, if stream = 0 then [] else funcs) s.dev.ideKeys } }
      else s
    | none => s)

/-! Requests from Hanos (R457) -/

/-- The parts of a Hanos request, or the code of its error reply. -/
def State.hanosRequest (s : State) (va len need : Nat) : Nat ⊕ List (Nat × Nat × Nat) :=
  let d := s.dev.hdistrict
  if s.dev.bstate ≠ 2 then .inl 7
  else if !hasRights (rightsIn (s.keyEntries d s.dev.hdomain) (keyOf va)) need then .inl 6
  else
    match s.homesOf d (spanLines va len) with
    | some hs => .inr hs
    | none => .inl 7

def execHanosHostRead (stream va len tag : Nat) (s : State) : Host.Outcome State Fault Refusal :=
  .next (match s.hanosRequest va len rightRD with
    | .inl c => s.output (.hanosReply stream tag [] c)
    | .inr hs =>
      hs.foldl (fun s l => s.send (s.hostPart (.hanos (stream % 64) tag) .load s.dev.hdistrict s.dev.hdomain 7 l [])) s)

def execHanosHostWrite (stream va : Nat) (bytes : List W8) (s : State) : Host.Outcome State Fault Refusal :=
  .next (match s.hanosRequest va bytes.length rightW with
    | .inl c => s.output (.hanosReply stream 0 [] c)
    | .inr hs =>
      hs.foldl (fun s l => s.send (s.hostPart (.hanos (stream % 64) 0) .store s.dev.hdistrict s.dev.hdomain 7 l
        ((bytes.drop (l.1 - va)).take l.2.1))) s)

def execHanosHostAtomic (stream va aop ty operand cmp tag : Nat) (s : State) : Host.Outcome State Fault Refusal :=
  let n := atomSize ty
  .next (if va % n ≠ 0 ∨ 9 < aop ∨ 6 < ty then s.output (.hanosReply stream tag [] 8)
    else
      match s.hanosRequest va n (rightRD + rightA) with
      | .inr (l :: _) =>
        s.send { s.hostPart (.hanos (stream % 64) tag) .atom s.dev.hdistrict s.dev.hdomain 7 l (leBytes n operand) with
                 cmp := leBytes n cmp, aop := aop, ty := ty }
      | .inr [] => s
      | .inl c => s.output (.hanosReply stream tag [] c))

/-! Replies to host parts (Table 5 of R455, R459 to R461) -/

/-- Whether a read's bytes include an uncorrectable word of a district with POLICY [0]. -/
def State.poisoned (s : State) (p : Part) (bad : Nat) : Bool :=
  bad &&& touchMask (p.va % 64) p.len != 0 && (s.district (s.ownerOf p.dist p.va)).policy.getLsbD 0

/-- What an accepted write of a class means for the later parts of it. -/
def State.pushClass (s : State) (p : Part) (tc ts : Nat) : State :=
  let upd (q : Part) : Part :=
    if q.kind == .store then { q with above := max q.above ts } else { q with clk := max q.clk (tick64 (ts + 1)) }
  { s with parts := updWhere (fun (q : Part) => p.id < q.id && match q.src with
      | .pcie _ c _ => c == tc
      | _ => false) upd s.parts }

/-- Reads and atomics of the class that come later lie above the write (R460). -/
def State.raiseAbove (s : State) (tc ts : Nat) : State :=
  { s with dev := { s.dev with tcAbove := Tbl.put tc (max (Tbl.getD tc s.dev.tcAbove 0) (tick64 (ts + 1))) s.dev.tcAbove } }

/-- A negative reply: the part waits for its wake, and a wake that came first sends it again. -/
def State.waitFill (s : State) (p : Part) : State :=
  let s := s.onPart p.id fun q => { q with st := .parked }
  if p.early then s.later p.id .woken else s

/-- An earlier line of the same read has not answered yet: the lines of one read answer in address order, while different reads
answer in any order (R460). -/
def State.readAhead (s : State) (p : Part) : Bool :=
  p.kind == .load && s.parts.any fun q => q.id < p.id && q.src == p.src && q.kind == .load

def State.pcieReply (s : State) (p : Part) (tc tag : Nat) (r : Reply) : State :=
  if r != .negative && s.readAhead p then s.later p.id (.replied r)
  else match r with
  | .negative => s.waitFill p
  | .fatal _ => if p.kind == .store then s.hostDrop.dropPart p.id else (s.output (.hostReadReply tag [] 4)).dropPart p.id
  | .accept d w _ bad =>
    match p.kind with
    | .store => (((s.raisePort p.src w false).raiseAbove tc w).pushClass p tc w).dropPart p.id
    | .atom | .red => ((s.raisePort p.src w false).output (.hostReadReply tag d 0)).dropPart p.id
    | _ =>
      ((s.raisePort p.src (max p.clk w) true).output
        (.hostReadReply tag (lineBytes d p.va p.len) (if s.poisoned p bad then 16 else 0))).dropPart p.id

/-- Later parts of a stream are placed no earlier than a part that it has had accepted. -/
def State.pushStream (s : State) (p : Part) (st t : Nat) : State :=
  { s with parts := updWhere (fun (q : Part) => p.id < q.id && match q.src with
      | .hanos c _ => c == st
      | _ => false) (fun q => { q with clk := max q.clk t }) s.parts }

/-- Parts of a stream are accepted in order. -/
def State.hanosReply (s : State) (p : Part) (st tag : Nat) (r : Reply) : State :=
  let fail (s : State) (c : Nat) : State := (s.output (.hanosReply st tag [] c)).dropPart p.id
  match r with
  | .negative => s.waitFill p
  | .fatal c => fail (if p.kind == .store then s.hostDrop else s) c
  | .accept d w rts bad =>
    if s.parts.any fun q => q.id < p.id && match q.src with
        | .hanos c _ => c == st
        | _ => false then s.later p.id (.replied r)
    else
      let t := if p.kind == .load then max p.clk w else w
      if p.kind == .load ∧ rts < t then
        s.onPart p.id fun q => { q with st := .sent, clk := t, due := s.cycle + 1, sentAt := s.cycle }
      else
        let s := (s.raisePort p.src t true).pushStream p st t
        if p.kind == .load ∧ s.poisoned p bad then fail s 0x10
        else (s.output (.hanosReply st tag (if p.kind == .load then lineBytes d p.va p.len else d) 0)).dropPart p.id

/-! Host frames (R458) -/

/-- HOST_FRAME_COMPLETION: the home keeps the line's timestamps and answers the part. -/
def execHostFrameCompletion (part : Nat) (good : Bool) (bytes : List W8) (s : State) : Host.Outcome State Fault Refusal :=
  .next (match s.part part with
    | none => s
    | some p =>
      if p.st != .atHost ∨ p.port = 0 then s
      else if !good then s.later part (.replied (.fatal 7))
      else
        let (e, addr) := match p.frame with
          | some (e, addr, _) => (e, addr)
          | none => (0, 0)
        let p := p.placed e
        let line := lineOf p.va
        let wrote (s : State) (p : Part) : State × Nat :=
          let s := s.setDirty e addr
          let (s, ts) := s.stampWrite p.home line p.clk true
          ((s.wakeMonitors p.home line ts).watchHits p.home p ts false, ts)
        match p.kind with
        | .load | .fetch | .pref | .mon =>
          let (s, x) := s.stampRead p.home line p.clk p.lam
          let o := p.va % 64
          let data := List.replicate o 0 ++ bytes.take p.len ++ List.replicate (64 - o - p.len) 0
          s.later part (.replied (.accept data x.wts x.rts 0))
        | .store | .pst =>
          let (s, ts) := wrote s p
          s.later part (.replied (.accept [] ts ts 0))
        | .atom | .red =>
          let (_, w) := atomicOp p.aop p.ty (ofLe bytes) (ofLe p.data) (ofLe p.cmp)
          let (s, ts) := if w then wrote s { p with writer := if p.writer = 0 then 5 else p.writer } else s.stampWrite p.home line p.clk false
          s.later part (.replied (.accept (bytes.take p.len) ts ts 0)))

/-- Every part that waits at a port draws a fatal reply. -/
def State.portDown (s : State) (port : Nat) : State :=
  (s.parts.filter fun p => p.st == .atHost && p.port == port).foldl (fun s p => s.later p.id (.replied (.fatal 7))) s

def execPcieLinkDown (s : State) : Host.Outcome State Fault Refusal :=
  .next ({ s with dev := { s.dev with pcieUp := false } }.portDown 15)

def execPcieLinkUp (s : State) : Host.Outcome State Fault Refusal := .next { s with dev := { s.dev with pcieUp := true } }

def execHanosLinkDown (s : State) : Host.Outcome State Fault Refusal :=
  .next ({ s with dev := { s.dev with hanosUp := false } }.portDown 14)

/-- HANOS_NOTICE_DELIVERY: the link is up, and the notices held leave in order. -/
def execHanosNoticeDelivery (s : State) : Host.Outcome State Fault Refusal :=
  .next { s with dev := { s.dev with hanosUp := true, notices := [] }, out := s.out ++ s.dev.notices.map Output.notice }

/-! PART_REPLY (R191) -/

/-- A unit that waits for its part by itself: a good or a fatal reply stays for it, a negative one waits for the fill. -/
def State.keepOrWait (s : State) (p : Part) (r : Reply) : State :=
  match r with
  | .negative => s.waitFill p
  | _ => s

def State.giveReply (s : State) (p : Part) (r : Reply) : State :=
  match p.src with
  | .strands u g ks => if (Tbl.find u s.blocks).isNone then s.dropPart p.id else s.strandReply p u g ks r
  | .engine core eq e =>
    if (s.entryOf core eq e).isNone then s.dropPart p.id else if r == .negative then s.holdEngine p else s
  | .tile core op =>
    if !(s.core core).tileOps.any fun o => o.id == op then s.dropPart p.id else if r == .negative then s.holdEngine p else s
  | .icache core => s.post (.icacheFill core p.id)
  | .sys u _ => if (Tbl.find u s.blocks).isNone then s.dropPart p.id else s.keepOrWait p r
  | .thread q =>
    if (s.squeue q).tstate = 0 then s.dropPart p.id
    else if p.kind == .store && lineOf p.va == lineOf (s.squeue q).ring then (s.keepOrWait p r).post (.consumedRecheck q)
    else s.keepOrWait p r
  | .dispatch d lid =>
    if 2 ^ 32 ≤ lid || (s.district d).launches.any (fun l => l.lid == lid) then s.keepOrWait p r else s.dropPart p.id
  | .ring q => if 64 ≤ q ∧ r != .negative then s.dropPart p.id else s.keepOrWait p r
  | .chain _ => s.keepOrWait p r
  | .remote dev tag => s.remoteReply p dev tag r
  | .pcie _ tc tag => s.pcieReply p tc tag r
  | .hanos st tag => s.hanosReply p st tag r

def execPartReply (part : Nat) (s : State) : Host.Outcome State Fault Refusal :=
  .next (match s.part part with
    | none => s
    | some p =>
      match p.st with
      | .replied r => s.giveReply p r
      | _ => s)

end Sys2Proof.Machine
end

