-- ==== Sys2Proof/Machine/Service.lean ====
section
/-! DEFINITION. The service processor's queues (R428 to R433, R440, R488), the device's own writes, watch reports, fault records,
and VF resets with their scrub (R149, R386, R440). -/

namespace Sys2Proof.Machine

/-! The device's own writes (R127, R330, R437, R440) -/

/-- The first write of a chain is over. -/
def dropFirst (f : SysWrite → Bool) : List SysWrite → List SysWrite
  | [] => []
  | w :: r => if f w then r else w :: dropFirst f r

def State.writeDone (s : State) (w : SysWrite) : State :=
  { s with writes := dropFirst (fun x => x.chain == w.chain) s.writes }.dropSrc (.chain w.chain)

/-- It is dropped and counted. -/
def State.writeLost (s : State) (w : SysWrite) : State := (s.writeDone w).countErr w.dist 5 1

/-- A reply line comes after every write of its VF's ended work that is on its way (R437, R127). -/
def State.writeWaits (s : State) (w : SysWrite) : Bool :=
  w.chain < 2 ^ 64 &&
    ((s.writes.takeWhile (· != w)).any (fun x => 2 ^ 64 ≤ x.chain && x.vf == w.vf) ||
      s.parts.any fun p => p.vf == w.vf && p.kind != .load && match p.src with
        | .chain k => 2 ^ 64 ≤ k
        | .strands u _ _ => (Tbl.find u s.blocks).isNone
        | _ => false)

def State.writePart (s : State) (w : SysWrite) : Part :=
  { src := .chain w.chain, kind := .store, va := w.va, len := w.data.length, data := w.data, vf := w.vf, dist := w.dist,
    domain := w.domain, writer := w.writer, clk := w.clk, dev := s.dev.devnum }

/-- The REPLY and TAG words of a host-fed record have been read (R438, R440). -/
def State.writeVia (s : State) (w : SysWrite) (bytes : List W8) : State :=
  let va := fieldLe bytes 0 8
  if va = 0 then s.writeDone w
  else if va % 64 ≠ 0 ∨ 0xfffd ≤ keyOf va ∨ !hasRights (rightsIn (s.keyEntries w.dist w.domain) (keyOf va)) rightW then s.writeLost w
  else
    let w' : SysWrite := { w with via := none, va := va, data := w.data.take 8 ++ (bytes.drop 8).take 8 ++ w.data.drop 16 }
    { s with writes := s.writes.map fun x => if x = w then w' else x }.dropSrc (.chain w.chain)

/-- The next step of the first write of a chain. -/
def State.pumpWrite (s : State) (w : SysWrite) : State :=
  match w.via with
  | some at' =>
    match s.ask { s.writePart w with kind := .load, va := at', len := 16, data := [] } with
    | (s, .wait) => s
    | (s, .fatal _) => s.writeLost w
    | (s, .ok line _ _ _) => s.writeVia w (lineBytes line at' 16)
  | none =>
    if s.writeWaits w then s
    else
      match w.room with
      | some (va, size, n) =>
        -- the record of a killed launch waits for room in its ring, as any record does (R331, R332)
        match s.ask { s.writePart w with kind := .load, va := va + 8, len := 8, data := [] } with
        | (s, .wait) => s
        | (s, .fatal _) => s.writeLost w
        | (s, .ok line t _ _) =>
          let s := s.dropSrc (.chain w.chain)
          if size ≤ (n + 2 ^ 64 - ofLe (lineBytes line (va + 8) 8)) % 2 ^ 64 then s
          else { s with writes := s.writes.map fun x => if x = w then { w with room := none, clk := max w.clk t } else x }
      | none =>
      match s.ask (s.writePart w) with
      | (s, .wait) => s
      | (s, .fatal _) => s.writeLost w
      | (s, .ok _ ts _ _) =>
        let s := s.writeDone w
        -- a chain's writes come one behind the other: PRODUCED behind its record (R44, R331)
        let s := { s with writes := s.writes.map fun x => if x.chain == w.chain then { x with clk := max x.clk ts } else x }
        if w.chain < 2 ^ 64 then s.onDistrict w.dist fun x => { x with clock := max x.clock ts } else s

def State.pumpWrites (s : State) : State :=
  (s.writes.map SysWrite.chain).dedup.foldl (fun s k =>
    match firstWith (fun w => w.chain == k) s.writes with
    | some w => s.pumpWrite w
    | none => s) s

/-! Watch reports (R391, R392) -/

def reportSrc (h domain index : Nat) : PartSrc := .chain (2 ^ 80 + 2 ^ 24 * h + 16 * domain + index)

def State.onWatch (s : State) (h domain index : Nat) (f : WatchPt → WatchPt) : State :=
  s.onHome h fun x => { x with watches := updWhere (fun w => w.domain == domain && w.index == index) f x.watches }

def dropReport (r : Nat × Nat × Nat × List W8) : List (Nat × Nat × Nat × List W8) → List (Nat × Nat × Nat × List W8)
  | [] => []
  | x :: l => if x = r then l else x :: dropReport r l

/-- A report leaves the list; `lost` says whether its ring did not take it. -/
def State.reportOver (s : State) (r : Nat × Nat × Nat × List W8) (lost : Bool) : State :=
  let (h, domain, index, _) := r
  ({ s with reports := dropReport r s.reports }.dropSrc (reportSrc h domain index)).onWatch h domain index fun w =>
    if lost then { w with lost := (w.lost + 1) % 2 ^ 32 } else { w with lost := 0, written := (w.written + 1) % 2 ^ 64 }

/-- The next step of a report: CONSUMED, the report, PRODUCED. -/
def State.pumpReport (s : State) (r : Nat × Nat × Nat × List W8) : State :=
  let (h, domain, index, body) := r
  match firstWith (fun w => w.domain == domain && w.index == index) (s.home h).watches with
  | none => { s with reports := dropReport r s.reports }.dropSrc (reportSrc h domain index)
  | some w =>
    let ask (s : State) (p : Part) : State × Ans := s.askAt p (some (w.rdev, w.rhome))
    let part (kind : PartKind) (va n clk : Nat) (data : List W8) : Part :=
      { src := reportSrc h domain index, kind := kind, va := va, len := n, data := data, vf := w.vf, dist := w.dist, domain := w.domain,
        writer := 8, clk := clk, dev := s.dev.devnum }
    let fail (s : State) : State := (s.countErr w.dist 5 1).reportOver r true
    match ask s (part .load (w.ring + 8) 8 (fieldLe body 8 8) []) with
    | (s, .wait) => s
    | (s, .fatal _) => fail s
    | (s, .ok line _ _ _) =>
      if w.size ≤ (w.written + 2 ^ 64 - ofLe (lineBytes line (w.ring + 8) 8)) % 2 ^ 64 then s.reportOver r true
      else
        let bytes := body.take 20 ++ leBytes 4 w.lost ++ body.drop 24
        match ask s (part .store (w.ring + 64 + 32 * (w.written % w.size)) 32 (fieldLe body 8 8) bytes) with
        | (s, .wait) => s
        | (s, .fatal _) => fail s
        | (s, .ok _ t _ _) =>
          match ask s (part .store w.ring 8 t (leBytes 8 (w.written + 1))) with
          | (s, .wait) => s
          | (s, .fatal _) => fail s
          | (s, .ok ..) => s.reportOver r false

def State.pumpReports (s : State) : State :=
  (s.reports.map fun r => (r.1, r.2.1, r.2.2.1)).dedup.foldl (fun s k =>
    match firstWith (fun (r : Nat × Nat × Nat × List W8) => (r.1, r.2.1, r.2.2.1) == k) s.reports with
    | some r => s.pumpReport r
    | none => s) s

/-! FAULT_RECORD: homes post their records to the pager (R371, R432, R433, R488) -/

/-- The pager queue of a district. -/
def State.pagerOf (s : State) (d : Nat) : Option Nat :=
  (firstWith (fun e => e.2.kind == 3 && e.2.district == d && e.2.tstate != 0) s.squeues).map Prod.fst

/-- The ring counts as full: its CONSUMED stands as if it were, until it is read again. -/
def State.ringFatal (s : State) (q : Nat) : State :=
  let x := s.squeue q
  let line := leBytes 8 0 ++ leBytes 8 ((x.produced + 2 ^ 32 - x.records) % 2 ^ 32) ++ List.replicate 48 0
  let s := { s with parts := s.parts.filter fun p => !(p.src == PartSrc.ring q && p.kind == PartKind.store) }
  { s with parts := updWhere (fun (p : Part) => p.src == PartSrc.ring q) (fun p => { p with st := .replied (.accept line 0 0 0) }) s.parts
    }.countErr x.district 5 1

/-- The next step of a home's first held record. -/
def State.postFault (s : State) (q h : Nat) (record : List W8) (vf : Nat) : State :=
  let x := s.squeue q
  if !s.ringRight q (rightRD + rightW) then s
  else
    let part (kind : PartKind) (va n clk : Nat) (data : List W8) : Part :=
      { src := .ring q, kind := kind, va := va, len := n, data := data, vf := x.owner, dist := x.district, domain := x.domain,
        writer := 8, clk := clk, dev := s.dev.devnum }
    match s.ask (part .load (x.ring + 8) 4 x.thread.tick []) with
    | (s, .wait) => s
    | (s, .fatal _) => s.ringFatal q
    | (s, .ok line _ _ _) =>
      if x.full (ofLe (lineBytes line (x.ring + 8) 4)) then s
      else
        let n := x.produced
        let bytes := recordHead n 0 2 vf ++ leBytes 24 0 ++ record
        match s.ask (part .store (x.slot n) 64 x.postTs bytes) with
        | (s, .wait) => s
        | (s, .fatal _) => s.ringFatal q
        | (s, .ok _ t1 _ _) =>
          match s.ask (part .store x.ring 4 t1 (leBytes 4 (n + 1))) with
          | (s, .wait) => s
          | (s, .fatal _) => s.ringFatal q
          | (s, .ok _ t2 _ _) =>
            (((s.posted q (max t1 t2) []).dropSrc (.ring q)).onHome h fun m => { m with held := m.held.drop 1 }).onDistrict x.district
              fun d => { d with faultHomes := d.faultHomes.erase h }

/-- The homes of a district post to its pager, one record at a time, in fault order (R488). -/
def State.pumpFaults (s : State) (d : Nat) : State :=
  match s.pagerOf d with
  | none => s
  | some q =>
    match firstWith (fun h => !(s.home h).held.isEmpty && s.homeDistrict h == some d) (s.district d).faultHomes with
    | none => s
    | some h =>
      match (s.home h).held with
      | r :: _ => s.postFault q h r.1 r.2
      | [] => s

/-- CONSUMED_RECHECK: the CONSUMED that read as full is read again. -/
def execConsumedRecheck (q : Nat) (s : State) : Host.Outcome State Fault Refusal :=
  .next { s with parts := s.parts.filter fun p =>
    !(p.src == .ring q && p.kind == .load && match p.st with
      | .replied (.accept ..) => true
      | _ => false) }

/-! Starting, stopping and notifying a thread (R428, R429, R432) -/

/-- The conditions of R429. -/
def State.queueOk (s : State) (x : SQueue) : Bool :=
  x.ring % 64 == 0 && x.scratch % 64 == 0 && x.entry % 4 == 0 && x.size ≤ 10 && x.kind != 0 && (s.district x.district).state != 0 &&
    (0xffe ≤ x.owner || (x.owner / 64 == x.district && x.owner % 64 < (s.district x.district).vfcount))

def State.enableQueue (s : State) (q : Nat) : State :=
    let x := s.squeue q
    let s := s.onSqueue q fun x => { x with enable := true }
    if x.tstate ≠ 0 then s
    else if s.queueOk x then s.startThread q
    else s.onSqueue q fun x => { x with fcode := 0x0b }

/-- QUEUE_ENABLE. -/
def execQueueEnable (master q : Nat) (s : State) : Host.Outcome State Fault Refusal :=
  .next (s.gated master fun s => s.enableQueue q)

/-- Closes an outstanding record with a status: one line written to its reply address, or none where it has none (R440).  The REPLY
of a host-fed record is the one that the ring holds then. -/
def State.closeWith (s : State) (q status : Nat) (o : Nat × Nat × Nat × Nat) : State :=
  let x := s.squeue q
  let (n, va, vf, tag) := o
  let w : SysWrite := { chain := 0, dist := x.district, domain := x.domain, vf := vf, va := va, data := replyLine status 0 0 tag 0 0,
                        clk := (s.district x.district).clock }
  if x.kind = 1 then s.sendWrite { w with chain := x.slot n, via := some (x.slot n + 8) }
  else if va = 0 then s
  else s.sendWrite { w with chain := va }

/-- The records of a queue that pass a test are closed. -/
def State.closeRecords (s : State) (q status : Nat) (f : Nat × Nat × Nat × Nat → Bool) : State :=
  let os := (s.squeue q).outstanding
  (os.filter f).foldl (fun s o => s.closeWith q status o) (s.onSqueue q fun x => { x with outstanding := os.filter fun o => !f o })

/-- A thread that has no instruction in progress stops; a SLEEP or a WAIT in which it stands is given up.  Reads of the ring for a post
are forgotten, its writes complete (R429, R440). -/
def State.stopThread (s : State) (q tstate : Nat) : State :=
  let mine (p : Part) : Bool := p.src == .thread q || p.src == .ring q
  let reads (p : Part) : Bool := p.kind == .load || p.kind == .fetch || p.kind == .mon
  let s := { s with
    parts := updWhere mine (fun p => { p with src := .ring (64 + q) }) (s.parts.filter fun p => !(mine p && reads p))
    plan := s.plan.filter (· != PlanItem.thread q) }
  (s.disarm (.thread q)).onSqueue q fun x =>
    { x with tstate := tstate, closing := none, stopping := none }

/-- An instruction of a thread is in progress: it awaits its accesses (R444). -/
def SQueue.inProgress (x : SQueue) : Bool := x.tstate == 1 && x.thread.busy

/-- A queue whose thread is off: every outstanding record is closed (R429). -/
def State.queueOff (s : State) (q : Nat) : State := (s.stopThread q 0).closeRecords q 0x21 fun _ => true

/-- ENABLE = 0: the thread stops when its current instruction has ended (R429). -/
def State.disableQueue (s : State) (q : Nat) : State :=
    let s := s.onSqueue q fun x => { x with enable := false }
    if (s.squeue q).tstate = 0 then s
    else if (s.squeue q).inProgress then s.onSqueue q fun x => { x with stopping := some 0 }
    else s.queueOff q

/-- Threads whose last instruction has ended stop. -/
def State.pumpThreads (s : State) : State :=
  ((s.squeues.filter fun e => e.2.stopping == some 0 && !e.2.inProgress).map Prod.fst).foldl (fun s q => s.queueOff q) s

/-- QUEUE_DISABLE. -/
def execQueueDisable (master q : Nat) (s : State) : Host.Outcome State Fault Refusal :=
  .next (s.gated master fun s => s.disableQueue q)

/-- The numbers from one up to another, mod 2^32. -/
def numbersTo (first n : Nat) : List Nat := (List.range n).map fun k => (first + k) % 2 ^ 32

/-- NOTIFY (R432). -/
def State.takeNotify (s : State) (q v : Nat) : State :=
  let x := s.squeue q
  let n := (v + 2 ^ 32 - x.produced) % 2 ^ 32
  let busy := x.owner < 0xffe && (Tbl.getD (x.owner % 64) (s.district (x.owner / 64)).vfs {}).busy
  if x.kind ≠ 1 then s
  else if x.records < n ∨ busy then s.countErr x.district 5 1
  else
    let s := s.onSqueue q fun x =>
      { x with produced := v, outstanding := x.outstanding ++ (numbersTo x.produced n).map fun k => (k, 0, x.owner, 0) }
    s.setNotify q v

def execNotify (q value : Nat) (s : State) : Host.Outcome State Fault Refusal := .next (s.takeNotify q (value % 2 ^ 32))

/-- A write that must wait at the PCIe port: a NOTIFY behind its class's writes, or anything behind what its page has waiting (R432,
R448). -/
def State.portWaits (s : State) (page tc : Nat) (isNotify : Bool) : Bool :=
  s.dev.portQ.any (fun w => w.page == page) || (isNotify && s.classWrites tc s.nextId)

def State.putPort (s : State) (page tc : Nat) (isNotify : Bool) (off size value : Nat) : State :=
  let w : PortWrite := { page := page, tc := tc, bound := if isNotify then s.nextId else 0, off := off, size := size, value := value }
  { s with dev := { s.dev with portQ := s.dev.portQ ++ [w] } }

/-- A write of half of an entry of a function's MSI-X table (R453): the address, or the data and the vector control, whose bit 0 masks;
a pending vector that is no longer masked sends its message. -/
def State.writeMsix (s : State) (f half value : Nat) : State :=
  let v := half / 2
  let x := Tbl.getD (8 * f + v) s.dev.msix {}
  let x := if half % 2 = 0 then { x with addr := value % 2 ^ 64 } else { x with data := value % 2 ^ 32, masked := bitOf value 32 }
  let go := x.pending && !x.masked
  let x := { x with pending := x.pending && x.masked }
  let s := { s with dev := { s.dev with msix := Tbl.put (8 * f + v) x s.dev.msix } }
  if go then s.output (.interrupt f v) else s

/-- NOTIFY_PAGE_WRITE (R453), by the number of the page's 64-bit word: NOTIFY of queue q, or half of an entry of the MSI-X table; other
words are read-only or reserved. -/
def execNotifyPageWrite (f q value tc : Nat) (ide : Option Nat) (s : State) : Host.Outcome State Fault Refusal :=
  .next (
    if !s.functionOn f || !s.ideOk f ide || 512 ≤ q then s.hostDrop
    else if 256 ≤ q ∧ q < 272 then s.writeMsix f (q - 256) value
    else if 64 ≤ q then s
    else if (s.squeue q).owner ≠ (if f = 0 then 0xfff else f - 1) then s.countErr (s.squeue q).district 5 1
    else if s.portWaits (f + 1) tc true then s.putPort (f + 1) tc true q 4 value
    else s.takeNotify q (value % 2 ^ 32))

/-! VF reset (R149, R386, R394, R440) -/

/-- Table entries from a base that are not zero: their indices. -/
def State.listed (s : State) (base n : Nat) : List Nat :=
  ((s.mem.filter fun c => base ≤ c.1 && c.1 < base + 8 * n).map fun c => (c.1 - base) / 8).dedup

/-- A page that a home's tables map: its address, its entry and where that stands, and its lines. -/
structure MappedPage where
  va : Nat
  entry : Nat
  addr : Nat
  lines : Nat
  deriving DecidableEq, Repr

/-- The pages under a table: the table at a level, and the address of its first byte. -/
def State.pagesUnder (s : State) : Nat → Nat → Nat → Nat → List MappedPage
  | 0, _, _, _ => []
  | fuel + 1, j, base, va =>
    (s.listed base 512).flatMap fun i =>
      let e := ofLe (cellsRead s.mem (base + 8 * i) 8)
      let here := va + i * 2 ^ (48 - 9 * j)
      if pteType e = 1 then s.pagesUnder fuel (j + 1) (physAddr (pteTier e) (pteCtrl e) (4096 * pteFrame e)) here
      else if pteType e = 2 ∧ 3 ≤ j then
        [{ va := here, entry := e, addr := base + 8 * i, lines := if j = 3 then 32768 else 64 }]
      else []

/-- The pages of a VF that a home maps, enabled or not (R386). -/
def State.pagesOf (s : State) (h vf : Nat) : List MappedPage :=
  let m := s.home h
  let d := s.district ((s.homeDistrict h).getD (vf / 64))
  let base := physAddr (bits m.kdir 33 33) (bits m.kdir 32 29) (4096 * bits m.kdir 25 0)
  ((s.listed base 65536).flatMap fun key =>
    let e := ofLe (cellsRead s.mem (base + 8 * key) 8)
    if pteType e = 1 then s.pagesUnder 4 1 (physAddr (pteTier e) (pteCtrl e) (4096 * pteFrame e)) (key * 2 ^ 48) else []).filter
    fun g => pteOwner g.entry == vf && frameOk d g.entry (g.lines / 64)

/-- Who writes a scrub's zeros. -/
def scrubSrc (vf : Nat) : PartSrc := .chain (2 ^ 90 + vf)

/-- One line is written so that it reads as zeros, at a new time.  A frame whose key is not loaded takes zeros as they stand; a
host frame is written at its port. -/
def State.scrubLine (s : State) (h vf : Nat) (g : MappedPage) (i : Nat) : State :=
  let d := (s.homeDistrict h).getD (vf / 64)
  let off := 4096 * pteFrame g.entry + 64 * i
  let va := g.va + 64 * i
  let p : Part := { src := scrubSrc vf, kind := .store, va := va, len := 64, data := List.replicate 64 0, vf := vf, dist := d, writer := 9,
                    clk := (s.district d).clock, dev := s.dev.devnum, home := h }
  if pteHost g.entry then
    if !(if pteCtrl g.entry = 14 then s.dev.hanosUp else s.dev.pcieUp) then s
    else
      let (n, s) := s.newId
      let p := { p with id := n, frame := some (g.entry, g.addr, off) }
      { s with parts := s.parts ++ [p] }.answer p (.host (pteCtrl g.entry) off)
  else
    match s.slotKey (pteSlot g.entry) with
    | some key => (s.performWrite h p g.entry g.addr off key p.data).1
    | none =>
      let a := lineAddr g.entry off
      let s := { s with mem := cellsZero a 64 s.mem }.clearBad ((List.range 8).map fun k => a / 8 + k)
      let (s, ts) := (s.setDirty g.entry g.addr).stampWrite h (lineOf va) p.clk true
      (s.wakeMonitors h (lineOf va) ts).watchHits h p ts false

def State.scrubHome (s : State) (vf h : Nat) : State :=
  (s.pagesOf h vf).foldl (fun s g => (List.range g.lines).foldl (fun s i => s.scrubLine h vf g i) s) s

/-- Lines of a VF's pages that a plaza holds: they come back before the scrub (R418). -/
def State.scrubAway (s : State) (vf h : Nat) : List Nat :=
  (s.pagesOf h vf).flatMap fun g =>
    ((s.home h).deleg.filter fun e => lineOf g.va ≤ e.1 && e.1 < lineOf g.va + g.lines).map Prod.fst

/-- A reset starts: BUSY, and the kill of the VF's launches. -/
def State.startReset (s : State) (d v : Nat) (scrub : Bool) : State :=
  if (Tbl.getD v (s.district d).vfs {}).busy then s
  else
    let s := s.onDistrict d fun x =>
      { x with vfs := Tbl.put v { Tbl.getD v x.vfs {} with busy := true, reset := some scrub } x.vfs
               ctxOps := x.ctxOps.filter fun o => o.vf != v }
    ((s.district d).launches.filter fun l => l.vf == v).foldl (fun s l => s.killWith d l.lid 0x20 0 0 0) s

/-- Step 1 of R440: the VF's threads stop; whether none has an instruction in progress. -/
def State.haltVf (s : State) (vf : Nat) : State × Bool :=
  let mine (x : SQueue) : Bool := x.owner == vf && (x.tstate == 1 || x.tstate == 2)
  ({ s with squeues := s.squeues.map fun (e : Nat × SQueue) =>
      if mine e.2 && e.2.stopping.isNone then (e.1, { e.2 with stopping := some 3 }) else e },
   s.squeues.all fun e => !(mine e.2 && e.2.inProgress))

/-- Steps 3 to 5, once no launch of the VF is left and its threads have stopped. -/
def State.closeVf (s : State) (d v : Nat) : State :=
  let vf := vfNum d v
  let mine := (s.squeues.filter fun e => e.2.owner == vf).map Prod.fst
  let on := mine.filter fun q => (s.squeue q).tstate = 1 ∨ (s.squeue q).tstate = 2
  let s := on.foldl (fun s q => s.stopThread q 3) s
  let s := s.squeues.foldl (fun s e => s.closeRecords e.1 0x20 fun o => e.2.owner == vf || o.2.2.1 == vf) s
  let s := (mine.filter fun q => (s.squeue q).kind ≠ 0).foldl (fun s q =>
    let x := s.squeue q
    s.sendWrite { chain := x.ring + 8, dist := d, domain := x.domain, vf := vf, va := x.ring + 8, data := leBytes 4 x.produced,
                  clk := (s.district d).clock }) s
  let s := (s.postNotice (.vfReset vf)).addEvents d
  let (n, s) := (s.fresh, { s with fresh := s.fresh + 1 })
  let other (w : WatchPt) : Bool := s.domainVf w.domain != some vf
  let s := { s with images := Tbl.del vf s.images
                    homes := s.homes.map fun (h : Nat × Home) => (h.1, { h.2 with watches := h.2.watches.filter other })
                    dev := { s.dev with farWatches := s.dev.farWatches.filter other } }
  s.onDistrict d fun x =>
    { x with vfs := Tbl.put v { Tbl.getD v x.vfs {} with closed := true, imageKey := Config.drbg n % 2 ^ 128 } x.vfs
             images := x.images.filter fun m => m.vf != vf
             live := if x.curVf = some v then [{}, {}, {}, {}] else x.live }

/-- Writes of a VF that are on their way: a scrub comes after them. -/
def State.vfWrites (s : State) (vf : Nat) : Bool :=
  s.writes.any (fun w => w.vf == vf) ||
    s.parts.any fun p => p.vf == vf && p.st != .parked && match p.kind with
      | .store | .atom | .red | .pst => true
      | _ => false

def State.onVf (s : State) (d v : Nat) (f : Vf → Vf) : State :=
  s.onDistrict d fun x => { x with vfs := Tbl.put v (f (Tbl.getD v x.vfs {})) x.vfs }

/-- Step 6: every line of every page of the VF on every home, once no plaza holds one. -/
def State.scrub (s : State) (d v : Nat) : State :=
  let vf := vfNum d v
  let away := (List.range 28).flatMap fun h => (s.scrubAway vf h).map (h, ·)
  if !away.isEmpty then away.foldl (fun s e => s.post (.recall e.1 e.2)) s
  else ((List.range 28).foldl (fun s h => s.scrubHome vf h) s).onVf d v fun x => { x with scrubbed := true }

/-- Step 7, once the zeros of host frames are written. -/
def State.finishReset (s : State) (d v : Nat) : State :=
  if s.parts.any fun p => p.src == scrubSrc (vfNum d v) && p.st == .atHost then s
  else (s.dropSrc (scrubSrc (vfNum d v))).onVf d v fun x => { x with busy := false, reset := none, closed := false, scrubbed := false }

/-- Resets whose launches have ended go on. -/
def State.pumpResets (s : State) (d : Nat) : State :=
  (s.district d).vfs.foldl (fun s e =>
    match e.2.reset with
    | none => s
    | some scrub =>
      if (s.district d).launches.any (fun l => l.vf == e.1) || s.blocks.any (fun b => b.2.dist == d && b.2.vf == e.1) then s
      else if !e.2.closed then
        let (s, still) := s.haltVf (vfNum d e.1)
        if still then s.closeVf d e.1 else s
      else if scrub && !e.2.scrubbed then (if s.vfWrites (vfNum d e.1) then s else s.scrub d e.1)
      else s.finishReset d e.1) s

/-- VF_RESET: RESET of a VF entry. -/
def execVfReset (master d v : Nat) (scrub : Bool) (s : State) : Host.Outcome State Fault Refusal :=
  .next (s.gated master fun s => if d < 64 ∧ v < 64 then s.startReset d v scrub else s)

end Sys2Proof.Machine
end

