-- ==== Sys2Proof/Machine/Sha3.lean ====
section
/-! DEFINITION. SHA3-512 (R466 to R470): the function of the standard that the spec names, FIPS-202 (PRESUMED, log entry 6). -/

namespace Sys2Proof.Machine

/-- The constants of the 24 rounds. -/
def shaRounds : List Nat :=
  [0x0000000000000001, 0x0000000000008082, 0x800000000000808a, 0x8000000080008000, 0x000000000000808b, 0x0000000080000001,
   0x8000000080008081, 0x8000000000008009, 0x000000000000008a, 0x0000000000000088, 0x0000000080008009, 0x000000008000000a,
   0x000000008000808b, 0x800000000000008b, 0x8000000000008089, 0x8000000000008003, 0x8000000000008002, 0x8000000000000080,
   0x000000000000800a, 0x800000008000000a, 0x8000000080008081, 0x8000000000008080, 0x0000000080000001, 0x8000000080008008]

/-- How far each lane turns, by x + 5y. -/
def shaTurns : List Nat :=
  [0, 1, 62, 28, 27, 36, 44, 6, 55, 20, 3, 10, 43, 25, 39, 41, 45, 15, 21, 8, 18, 2, 61, 56, 14]

/-- A 64-bit rotation to the left. -/
def turn64 (n x : Nat) : Nat := (x * 2 ^ n) % 2 ^ 64 ||| x / 2 ^ (64 - n)

/-- One round over the 25 lanes. -/
def shaRound (a : List Nat) (rc : Nat) : List Nat :=
  let get (l : List Nat) (x y : Nat) : Nat := l.getD (x % 5 + 5 * (y % 5)) 0
  let col := (List.range 5).map fun x => (List.range 5).foldl (fun t y => t ^^^ get a x y) 0
  let par := (List.range 5).map fun x => col.getD ((x + 4) % 5) 0 ^^^ turn64 1 (col.getD ((x + 1) % 5) 0)
  let a := (List.range 25).map fun i => a.getD i 0 ^^^ par.getD (i % 5) 0
  let b := (List.range 25).map fun i =>
    let j := (i % 5 + 3 * (i / 5)) % 5 + 5 * (i % 5)
    turn64 (shaTurns.getD j 0) (a.getD j 0)
  (List.range 25).map fun i =>
    let v := get b i (i / 5) ^^^ ((2 ^ 64 - 1 - get b (i + 1) (i / 5)) &&& get b (i + 2) (i / 5))
    if i = 0 then v ^^^ rc else v

/-- One block of 72 bytes goes into the lanes. -/
def shaBlock (a : List Nat) (bs : List W8) : List Nat :=
  shaRounds.foldl shaRound ((List.range 25).map fun i =>
    if i < 9 then a.getD i 0 ^^^ ofLe ((bs.drop (8 * i)).take 8) else a.getD i 0)

def shaBlocks : Nat → List Nat → List W8 → List Nat
  | 0, a, _ => a
  | n + 1, a, bs => shaBlocks n (shaBlock a (bs.take 72)) (bs.drop 72)

/-- The digest of a byte list: 64 bytes. -/
def sha3 (bs : List W8) : List W8 :=
  let n := bs.length / 72 + 1
  let gap := 72 * n - bs.length
  let pad : List W8 := if gap = 1 then [0x86] else 0x06 :: (List.replicate (gap - 2) 0 ++ [0x80])
  (shaBlocks n (List.replicate 25 0) (bs ++ pad)).take 8 |>.flatMap fun x => leBytes 8 x

end Sys2Proof.Machine
end

