-- ==== Sys2Proof/Machine/ControlPlane.lean ====
section
/-! DEFINITION. The control plane (R447 to R451): its map, the semaphore, districts that form and drain (R114, R115, R144), keys
(R464, R465), measurement (R466, R469, R470), power (R474) and the monitor blocks (R485). -/

namespace Sys2Proof.Machine

/-! Measurement (R469) -/

def State.mr (s : State) (i : Nat) : List W8 := Tbl.getD i s.dev.mrs (List.replicate 64 0)

def State.extendMrWith (s : State) (i : Nat) (d : List W8) : State :=
  { s with dev := { s.dev with mrs := Tbl.put i (sha3 (s.mr i ++ d)) s.dev.mrs } }

/-- SVNMIN: the fuse counter and what commits have raised it to (R466). -/
def State.svnMin (s : State) : Nat := max Config.fuseSvn s.dev.svnmin

/-! District control blocks (Table 1 of R114) -/

def Vf.word (v : Vf) : Nat := v.keyslot * 2 ^ 20 + (if v.busy then 2 ^ 17 else 0) + v.quantum

/-- The word at an offset of a district control block. -/
def District.word (x : District) (w : Nat) : Nat :=
  if w = 0 then x.clusters.toNat
  else if w = 8 then x.ddrch.toNat * 2 ^ 16 + x.hbmch.toNat
  else if w = 0x10 then x.err * 4 + x.state
  else if w = 0x18 then x.policy.toNat
  else if w = 0x20 then x.lease
  else if w = 0x28 then x.saveva
  else if w = 0x30 then x.savelen
  else if w = 0x38 then x.vfcount
  else if 0x40 ≤ w ∧ w < 0x240 then (Tbl.getD ((w - 0x40) / 8) x.vfs {}).word
  else 0

/-- The 1 KiB of a district control block. -/
def District.image (x : District) : List W8 := (List.range 128).flatMap fun i => leBytes 8 (x.word (8 * i))

/-- Clusters of a district, and its cores. -/
def District.clusterIds (x : District) : List Nat := (List.range 64).filter fun c => x.clusters.getLsbD c
def District.coreIds (x : District) : List Nat := x.clusterIds.flatMap fun c => [4 * c, 4 * c + 1, 4 * c + 2, 4 * c + 3]

def State.overlaps (s : State) (d : Nat) : Bool :=
  let x := s.district d
  s.districts.any fun e => e.1 != d && e.2.state != 0 &&
    (e.2.clusters &&& x.clusters != 0 || e.2.hbmch &&& x.hbmch != 0 || e.2.ddrch &&& x.ddrch != 0)

/-- The save area holds every VF's blocks (R144). -/
def District.saveOk (x : District) : Bool :=
  x.saveva % 4096 == 0 && x.vfcount * 7471104 * x.coreIds.length ≤ x.savelen

/-- The district is on: empty cores and slices, an empty distribution table, no launch, new image keys; MR1 is extended (R114, R146,
R187, R363, R469, R489). -/
def State.formed (s : State) (d : Nat) : State :=
  let x := s.district d
  let s := match x.curVf with
    | some v => { s with images := Tbl.put (vfNum d v) x.live s.images }
    | none => s
  let s := x.coreIds.foldl (fun s c => { s with cores := Tbl.del c s.cores }) s
  let s := x.clusterIds.foldl (fun s c => { s with l2 := Tbl.del c s.l2 }) s
  let us := (s.blocks.filter fun b => b.2.dist == d).map Prod.fst
  let s := us.foldl (fun s u => s.forget u) s
  let f := s.fresh
  let s := { s with fresh := f + 64 }.onDistrict d fun x =>
    { x with state := 1, err := 0, launches := [], dtab := [], images := [], ctxOps := [], curVf := none, switchTo := none,
             quantumStart := none, live := [{}, {}, {}, {}],
             vfs := (List.range 64).foldl (fun t v =>
               if v < x.vfcount then Tbl.put v { Tbl.getD v t {} with imageKey := Config.drbg (f + v) % 2 ^ 128 } t else t) x.vfs }
  s.extendMrWith 1 (sha3 (s.district d).image)

/-- A write of STATE 1 to a district that is off (R114). -/
def State.formDistrict (s : State) (d : Nat) : State :=
  let x := s.district d
  if x.state ≠ 0 ∨ 64 ≤ d then s
  else if x.clusters = 0 then s.onDistrict d fun x => { x with err := 2 }
  else if s.overlaps d then s.onDistrict d fun x => { x with err := 1 }
  else if !x.saveOk then s.onDistrict d fun x => { x with err := 3 }
  else s.formed d

/-- No block of the district is resident, or on its way to or from its core. -/
def State.empty (s : State) (d : Nat) : Bool := !s.blocks.any fun b => b.2.dist == d && b.2.seated

/-- A district is off: its clusters are fenced, and their slices hold no line (R115). -/
def State.fence (s : State) (d : Nat) : State :=
  { s with l2 := (s.district d).clusterList.foldl (fun t c => Tbl.del c t) s.l2 }.onDistrict d fun x => { x with state := 0 }

/-- A write of STATE 2: dispatch stops, and the district is off once no block is resident. -/
def State.drainDistrict (s : State) (d : Nat) : State :=
  if (s.district d).state = 0 then s
  else if s.empty d then s.fence d else s.onDistrict d fun x => { x with state := 2 }

def execDistrictForm (master d : Nat) (s : State) : Host.Outcome State Fault Refusal := .next (s.gated master fun s => s.formDistrict d)
def execDistrictDrain (master d : Nat) (s : State) : Host.Outcome State Fault Refusal := .next (s.gated master fun s => s.drainDistrict d)

/-! The semaphore (R450) -/

/-- A control-plane write of a master is noted: BREAKMS counts from it. -/
def State.noteWrite (s : State) (master : Nat) : State :=
  { s with dev := { s.dev with lastWrite := Tbl.put master s.time s.dev.lastWrite } }

def State.setOwner (s : State) (m : Nat) : State :=
  { s with dev := { s.dev with owner := m, lastHolder := if m = 0 then s.dev.lastHolder else m } }

/-- A Hanos stream has a part, numbered below a bound, that has not been accepted (R461). -/
def State.streamHolds (s : State) (stream bound : Nat) : Bool :=
  s.parts.any fun p => p.id < bound && match p.src with
    | .hanos c _ => c == stream
    | _ => false

/-- The place in the port's queue where a Hanos stream's management accesses wait. -/
def streamPage (tc : Nat) : Nat := 8192 + tc % 64

/-- The control plane serves a master: the physical function outside a reset, for the recovery window too (R456, R468, R473), the agent
over its link, in a warm reset too (R472). -/
def State.serves (s : State) (master : Nat) (ide : Option Nat) : Bool :=
  if master = 1 then (s.dev.bstate == 2 || s.dev.bstate == 3) && s.ideOk 0 ide
  else master == 2 && s.dev.hanosUp && (s.dev.bstate == 1 || s.dev.bstate == 2)

/-- A master's write waits at its port (R432, R448, R461). -/
def State.controlWaits (s : State) (master tc : Nat) (isNotify : Bool) : Bool :=
  if master = 1 then s.portWaits 0 tc isNotify
  else s.streamHolds (tc % 64) s.nextId || s.dev.portQ.any fun w => w.page == streamPage tc

/-- The master and the value of an event that writes OWNER now. -/
def State.ownerWrite (s : State) (e : Instr) : Option (Nat × Nat) :=
  match e with
  | .semaphoreAcquire m => some (m, m)
  | .semaphoreRelease m => some (m, 0)
  | .semaphoreBreak m => some (m, 3)
  | .controlPlaneWrite m off size value tc ide =>
    if off = 0x10 ∧ (size = 1 ∨ size = 2 ∨ size = 4 ∨ size = 8) ∧ s.serves m ide ∧ !s.controlWaits m tc false then some (m, value % 4) else none
  | _ => none

/-- The first write of OWNER by a master that is still to come in this cycle. -/
def State.ownerEvent (s : State) (m : Nat) : Option (Instr × Nat) :=
  (s.agenda.filterMap fun e => (s.ownerWrite e).bind fun w => if w.1 = m then some (e, w.2) else none).head?

/-- A write of x to OWNER by master m: the table of R450. -/
def State.semaphore (s : State) (m x : Nat) : State :=
  let o := 3 - m
  let silent := s.passed (Tbl.getD o s.dev.lastWrite 0) (1000 * s.dev.breakms)
  let t := s.noteWrite m
  if m ≠ 1 ∧ m ≠ 2 then t
  else if x = m then (if s.dev.owner = 0 then t.setOwner m else t)
  else if x = 0 then (if s.dev.owner = m then t.setOwner 0 else t)
  else if x = 3 ∧ s.dev.owner = o ∧ silent then
    let t := t.setOwner m
    { t with dev := { t.dev with breaks := min (t.dev.breaks + 1) 15 } }
  else t

/-- A semaphore write; of both masters' in one cycle, that of the master that did not hold the semaphore last goes first. -/
def State.semWrite (s : State) (m x : Nat) : State :=
  match s.ownerEvent (3 - m) with
  | some (e, y) =>
    if s.dev.lastHolder = m then (({ s with agenda := s.agenda.erase e } : State).semaphore (3 - m) y).semaphore m x else s.semaphore m x
  | none => s.semaphore m x

def execSemaphoreAcquire (master : Nat) (s : State) : Host.Outcome State Fault Refusal := .next (s.semWrite master master)
def execSemaphoreRelease (master : Nat) (s : State) : Host.Outcome State Fault Refusal := .next (s.semWrite master 0)
def execSemaphoreBreak (master : Nat) (s : State) : Host.Outcome State Fault Refusal := .next (s.semWrite master 3)

/-! Keys (R464, R465) -/

/-- Parts that a home has accepted under a slot's present state and not performed. -/
def State.slotInUse (s : State) (slot : Nat) : Bool :=
  s.parts.any fun p => match p.frame with
    | some (e, _, _) => !pteHost e && pteSlot e == slot && (p.st == .held || p.st == .released)
    | none => false

/-- A command ends: the slot's new state, KSTAT and a KDATA of zeros. -/
def State.keyDone (s : State) (slot : Nat) (x : KeySlot) : State :=
  { s with dev := { s.dev with slots := if x.loaded then Tbl.put slot x s.dev.slots else Tbl.del slot s.dev.slots
                               kstat := 2, reason := 0, kdata := [], keyCmd := none } }

/-- A command that waits is tried again. -/
def State.pumpKeys (s : State) : State :=
  match s.dev.keyCmd with
  | some (cmd, slot, key) => if s.slotInUse slot then s else s.keyDone slot (if cmd = 3 then {} else { loaded := true, key := key })
  | none => s

/-- A CMD write: 1 GEN, 2 LOAD, 3 CLEAR. -/
def State.keyCommand (s : State) (cmd slot : Nat) : State :=
  let slot := slot % 4096
  let s := { s with dev := { s.dev with kslot := slot } }
  let data := s.dev.kdata ++ List.replicate (64 - s.dev.kdata.length) 0
  if s.dev.kstat = 1 then s
  else if cmd = 2 ∧ data.take 32 = (data.drop 32).take 32 then
    { s with dev := { s.dev with kstat := 3, reason := 1, kdata := [] } }
  else if cmd = 1 ∨ cmd = 2 ∨ cmd = 3 then
    let key := if cmd = 1 then leBytes 64 (Config.drbg s.fresh) else data
    { s with fresh := s.fresh + 1, dev := { s.dev with kstat := 1, reason := 0, keyCmd := some (cmd, slot, key) } }.pumpKeys
  else s

def execKeyGen (master slot : Nat) (s : State) : Host.Outcome State Fault Refusal := .next (s.gated master fun s => s.keyCommand 1 slot)
def execKeyLoad (master slot : Nat) (s : State) : Host.Outcome State Fault Refusal := .next (s.gated master fun s => s.keyCommand 2 slot)
def execKeyClear (master slot : Nat) (s : State) : Host.Outcome State Fault Refusal := .next (s.gated master fun s => s.keyCommand 3 slot)

/-! Boot commands and attestation (R466 to R470) -/

/-- BCMD 2. -/
def State.commit (s : State) : State :=
  if s.svnMin < s.dev.svn then { s with dev := { s.dev with svnmin := s.dev.svn } } else s

/-- BCMD 3. -/
def State.extendBy (s : State) (mri : Nat) : State :=
  let s := { s with dev := { s.dev with mri := mri % 8 } }
  if mri = 0 ∨ 8 ≤ mri then s else s.extendMrWith mri (s.dev.mdata ++ List.replicate (64 - s.dev.mdata.length) 0)

def execCommitSvn (master : Nat) (s : State) : Host.Outcome State Fault Refusal := .next (s.gated master State.commit)
def execExtendMr (master mri : Nat) (s : State) : Host.Outcome State Fault Refusal := .next (s.gated master fun s => s.extendBy mri)

/-- The report of Table 10 less its signature. -/
def State.attest (s : State) (f : Nat) (nonce : List W8) : List W8 :=
  let d := s.district ((f - 1) / 64)
  let v := Tbl.getD ((f - 1) % 64) d.vfs {}
  let bound := s.dev.ideKeys.any fun k => k.2.2.contains f
  let loaded := (Tbl.getD v.keyslot s.dev.slots {}).loaded
  let conf := if f = 0 then List.replicate 64 0
    else ([0, 8, 0x10, 0x18, 0x20, 0x38].flatMap fun w => leBytes 8 (d.word w)) ++ leBytes 8 v.word ++
      leBytes 8 (loaded.toNat + 2 * bound.toNat + 4 * s.dev.idereq)
  nonce.take 64 ++ List.replicate (64 - nonce.length) 0 ++ leBytes 8 (0x9800 * 2 ^ 32 + Config.stepping % 256) ++
    leBytes 8 (s.dev.devnum * 2 ^ 32 + f % 2 ^ 13) ++ leBytes 8 (s.dev.svn * 2 ^ 32 + s.svnMin) ++ leBytes 8 0 ++
    (List.range 8).flatMap s.mr ++ conf

/-- ATTESTATION_REQUEST, by a DOE mailbox, which answers nothing before BSTATE 2 (R473). -/
def execAttestationRequest (f : Nat) (nonce : List W8) (s : State) : Host.Outcome State Fault Refusal :=
  let r := s.attest f nonce
  .next (if s.dev.bstate = 2 then s.output (.report (r ++ Config.mlDsaSign r)) else s)

/-- What a DOE mailbox returns when the identity key's certificate is asked for; none while requests draw RRS (R470, R473). -/
def State.readCertificate (s : State) : Option (List W8) := if s.dev.bstate = 2 then some Config.certificate else none

/-! The configuration space (R452, R453, R473) -/

/-- What the capabilities of a function report. -/
inductive ConfigField where
  | totalVfs
  | firstVfOffset
  | vfStride
  | maxPayload
  | maxReadRequest
  | tagBits
  | trafficClasses
  | flitMode
  | ari
  | sriov
  | aer
  | doe
  | ide
  | atomicCompleter32
  | atomicCompleter64
  | casCompleter128
  | atomicRequester
  | ats
  | pri
  | pasid
  | msixVectors
  | msixTable
  | msixPba
  /-- sizes of BAR0, BAR2 and BAR4, by their number, in a function: 0 the PF -/
  | barSize (f bar : Nat)
  deriving DecidableEq, Repr

def ConfigField.value (c : ConfigField) : Nat :=
  match c with
  | .totalVfs => 4096
  | .firstVfOffset | .vfStride => 1
  | .maxPayload => 512
  | .maxReadRequest => 4096
  | .tagBits => 14
  | .trafficClasses | .msixVectors => 8
  | .flitMode | .ari | .sriov | .aer | .doe | .ide | .atomicCompleter32 | .atomicCompleter64 | .casCompleter128 => 1
  | .atomicRequester | .ats | .pri | .pasid => 0
  | .msixTable => 0x800
  | .msixPba => 0xc00
  | .barSize f bar =>
    if bar = 2 then 64 * 2 ^ 30
    else if f = 0 then (if bar = 0 then 32 * 2 ^ 20 else if bar = 4 then 4096 else 0)
    else if bar = 0 then 4096 else 0

/-- A configuration read: none where it draws RRS. -/
def State.readConfig (s : State) (c : ConfigField) : Option Nat := if s.dev.bstate = 2 then some c.value else none

/-! Power (R474) -/

def execPowerClockStep (watts : Nat) (s : State) : Host.Outcome State Fault Refusal :=
  let d := s.dev
  let clk := if d.pwrcap < watts then max 650 (d.clkmhz - 25)
    else if 100 * watts < 95 * d.pwrcap then min 1300 (d.clkmhz + 25) else d.clkmhz
  .next { s with dev := { d with pwrnow := min watts 4095, clkmhz := clk } }

/-! Monitor blocks (R485) -/

/-- A configuration write: VALUE and OVF are cleared; what happened before it is added first. -/
def State.writeDcfg (s : State) (d i value : Nat) : State :=
  if 8 ≤ i then s
  else (s.addEvents d).onDistrict d fun x => { x with mon := Tbl.put i { cfg := BitVec.ofNat 32 (value % 2 ^ 23) } x.mon }

def execDcfgWrite (master d i value : Nat) (s : State) : Host.Outcome State Fault Refusal :=
  .next (s.gated master fun s => s.writeDcfg d i value)

def execVfFlr (f : Nat) (s : State) : Host.Outcome State Fault Refusal :=
  .next (if s.dev.bstate ≠ 2 then s
    else if f = 0 then s.post .warmReset
    else if f ≤ 4096 then
      let own (k : Nat) : Bool := k / 8 == f
      ({ s with dev := { s.dev with msix := s.dev.msix.filter fun e => !own e.1 } } : State).startReset ((f - 1) / 64) ((f - 1) % 64)
        (s.dev.flrscrub = 1)
    else s)

/-! CONTROL_PLANE_WRITE (R447, R449, R451) -/

/-- A write of some bytes of a 64-bit word: where they lie, how many, and their value. -/
structure WordWrite where
  at' : Nat
  size : Nat
  value : Nat
  deriving DecidableEq, Repr

/-- The word with the written bytes. -/
def WordWrite.onto (x : WordWrite) (old : Nat) : Nat :=
  let sh := 2 ^ (8 * x.at')
  let n := 2 ^ (8 * x.size)
  old % sh + x.value % n * sh + old / (sh * n) * (sh * n)

def WordWrite.touches (x : WordWrite) (byte : Nat) : Bool := x.at' ≤ byte && byte < x.at' + x.size

/-- The written bits of a field, and zeros for the bytes that are not written. -/
def WordWrite.field (x : WordWrite) (hi lo : Nat) : Nat := bits (x.onto 0) hi lo

/-- Bytes of a byte field with a write. -/
def WordWrite.bytes (x : WordWrite) (old : List W8) (off n : Nat) : List W8 :=
  let old := old ++ List.replicate (n - old.length) 0
  let new := leBytes x.size x.value
  (old.take (off + x.at') ++ new ++ old.drop (off + x.at' + x.size)).take n

/-- Writes to a district control block (Table 1 of R114). -/
def State.writeDistrict (s : State) (d w : Nat) (x : WordWrite) : State :=
  let k := s.district d
  let v := x.onto (k.word w)
  let frozen := k.state ≠ 0
  if w = 0 then (if frozen then s else s.onDistrict d fun k => { k with clusters := BitVec.ofNat 64 v })
  else if w = 8 then
    if frozen then s
    else s.onDistrict d fun k => { k with hbmch := BitVec.ofNat 16 v, ddrch := BitVec.ofNat 12 (v / 2 ^ 16) }
  else if w = 0x10 then
    if !x.touches 0 then s
    else if bits v 1 0 = 1 then s.formDistrict d
    else if bits v 1 0 = 2 then s.drainDistrict d else s
  else if w = 0x18 then s.onDistrict d fun k => { k with policy := BitVec.ofNat 3 v }
  else if w = 0x20 then
    let n := bits v 10 0
    if 1 ≤ n ∧ n ≤ 1024 then s.onDistrict d fun k => { k with lease := n } else s
  else if w = 0x28 then (if frozen then s else s.onDistrict d fun k => { k with saveva := v })
  else if w = 0x30 then (if frozen then s else s.onDistrict d fun k => { k with savelen := v })
  else if w = 0x38 then
    let n := bits v 6 0
    if n ≤ 64 then s.onDistrict d fun k => { k with vfcount := n } else s
  else if 0x40 ≤ w ∧ w < 0x240 then
    let i := (w - 0x40) / 8
    let s := s.onDistrict d fun k =>
      { k with vfs := Tbl.put i { Tbl.getD i k.vfs {} with keyslot := bits v 31 20, quantum := bits v 15 0 } k.vfs }
    if bitOf (x.field 63 0) 18 then s.startReset d i (bitOf (x.field 63 0) 19) else s
  else s

/-- Writes to a home control block (Table 1 of R362). -/
def State.writeHome (s : State) (h w : Nat) (x : WordWrite) : State :=
  let k := s.home h
  if w = 0 then
    if k.enable then s
    else s.onHome h fun k =>
      let v := x.onto k.kdir
      { k with kdir := bits v 25 0 + bits v 33 29 * 2 ^ 29 }
  else if w = 0x18 ∧ x.touches 0 then s.onHome h fun k => { k with enable := bitOf (x.field 63 0) 0 }
  else s

/-- Sixteen-bit fields of a link control block, four to a word. -/
def putFields (l : List Nat) (w : Nat) (x : WordWrite) : List Nat :=
  let old := (List.range 4).foldl (fun a j => a + l.getD (4 * w + j) 0 * 2 ^ (16 * j)) 0
  let v := x.onto old
  (List.range 4).foldl (fun l j => listSet l (4 * w + j) (bits v (16 * j + 15) (16 * j))) l

/-- Writes to a link control block (Table 5 of R413): training goes on with LINK_TRAINING. -/
def State.writeLink (s : State) (l w : Nat) (x : WordWrite) : State :=
  let k := s.link l
  let idle := k.state = 0 ∨ k.state = 3
  if w = 0 then
    if !x.touches 0 then s
    else if x.field 1 0 = 1 ∧ idle then
      s.onLink l fun k => { k with state := 1, replay := 0, crcerr := 0, dropped := 0, downs := 0 }
    else if x.field 1 0 = 0 then s.stopLink l else s
  else if w = 0x10 ∨ w = 0x18 then (if idle then s.onLink l fun k => { k with bufs := putFields k.bufs ((w - 0x10) / 8) x } else s)
  else if w = 0x20 ∨ w = 0x28 then (if idle then s.onLink l fun k => { k with shrs := putFields k.shrs ((w - 0x20) / 8) x } else s)
  else if 0x60 ≤ w ∧ w < 0xa0 then
    s.writeAvt l ((List.range x.size).map fun i => (w - 0x60 + x.at' + i, x.value / 2 ^ (8 * i) % 256))
  else s

/-- The word at 0x08 of a service-queue control block (Table 1 of R428). -/
def SQueue.word8 (k : SQueue) : Nat :=
  k.domain * 2 ^ 48 + k.owner * 2 ^ 36 + k.district * 2 ^ 30 + k.shared.toNat * 2 ^ 29 + k.priv.toNat * 2 ^ 28 + k.kind * 2 ^ 26 +
    k.size * 2 ^ 22

/-- Writes to a service-queue control block, less NOTIFY. -/
def State.writeSqueue (s : State) (q w : Nat) (x : WordWrite) : State :=
  let k := s.squeue q
  let off := k.tstate = 0
  if w = 0 then (if off then s.onSqueue q fun k => { k with ring := x.onto k.ring } else s)
  else if w = 8 then
    let v := x.onto k.word8
    if off then
      s.onSqueue q fun k =>
        { k with domain := bits v 63 48, owner := bits v 47 36, district := bits v 35 30, shared := bitOf v 29, priv := bitOf v 28,
                 kind := bits v 27 26, size := bits v 25 22 }
    else s
  else if w = 0x10 then (if off then s.onSqueue q fun k => { k with entry := x.onto k.entry } else s)
  else if w = 0x18 then (if off then s.onSqueue q fun k => { k with scratch := x.onto k.scratch } else s)
  else if w = 0x30 ∧ x.touches 2 then (if bitOf (x.field 63 0) 16 then s.enableQueue q else s.disableQueue q)
  else s

/-- Writes to the key-slot block (Table 7 of R464). -/
def State.writeKeys (s : State) (w : Nat) (x : WordWrite) : State :=
  if w = 0 then
    let slot := bits (x.onto s.dev.kslot) 11 0
    s.keyCommand (x.field 15 14) slot
  else if 0x10 ≤ w ∧ w < 0x50 then { s with dev := { s.dev with kdata := x.bytes s.dev.kdata (w - 0x10) 64 } }
  else s

/-- Writes to the gated fields of the device control block (Table 2 of R449). -/
def State.writeDevice (s : State) (w : Nat) (x : WordWrite) : State :=
  let d := s.dev
  if w = 0x08 then
    if s.districts.any fun e => e.2.state != 0 then s else { s with dev := { d with devnum := bits (x.onto d.devnum) 11 0 } }
  else if w = 0x18 then
    let n := bits (x.onto d.breakms) 31 0
    if 10 ≤ n ∧ n ≤ 60000 then { s with dev := { d with breakms := n } } else s
  else if w = 0x20 then
    let v := x.onto (d.idereq * 8 + d.flrscrub * 4)
    let s := { s with dev := { d with idereq := bits v 3 3, flrscrub := bits v 2 2 } }
    if bitOf (x.field 63 0) 1 then s.post .warmReset else s
  else if w = 0x30 then
    let n := bits (x.onto d.pwrcap) 11 0
    if 800 ≤ n ∧ n ≤ 2600 then { s with dev := { d with pwrcap := n } } else s
  else if w = 0x40 then
    let v := x.onto (d.hdistrict * 2 ^ 16 + d.hdomain)
    { s with dev := { d with hdistrict := bits v 21 16, hdomain := bits v 15 0 } }
  else if w = 0x48 then { s with dev := { d with hbasep := x.onto d.hbasep / 4096 * 4096 } }
  else if w = 0x50 then { s with dev := { d with hbaseh := x.onto d.hbaseh / 4096 * 4096 } }
  else s

/-- Writes to an aperture table (Table 4 of R454). -/
def State.writeAperture (s : State) (f e : Nat) (high : Bool) (x : WordWrite) : State :=
  let t := Tbl.getD f s.dev.apertures []
  let old := (Tbl.getD e t 0).toNat
  let new := if high then old % 2 ^ 64 + x.onto (old / 2 ^ 64) * 2 ^ 64
    else
      let v := x.onto (old % 2 ^ 64)
      bits v 3 0 + bits v 21 16 * 2 ^ 16 + old / 2 ^ 64 * 2 ^ 64
  { s with dev := { s.dev with apertures := Tbl.put f (Tbl.put e (BitVec.ofNat 128 new) t) s.dev.apertures } }

/-- Writes to a district monitor block (Table 4 of R485). -/
def State.writeMonitor (s : State) (d w : Nat) (x : WordWrite) : State :=
  if w < 0x40 then
    (s.addEvents d).onDistrict d fun k =>
      let c := Tbl.getD (w / 8) k.mon {}
      let v := x.onto (c.ovf.toNat * 2 ^ 63 + c.value)
      { k with mon := Tbl.put (w / 8) { c with value := v % 2 ^ 48, ovf := bitOf v 63 } k.mon }
  else if w < 0x80 then
    let i := (w - 0x40) / 8
    s.writeDcfg d i (x.onto (Tbl.getD i (s.district d).mon {}).cfg.toNat)
  else if 0x100 ≤ w ∧ w < 0x130 then
    let i := (w - 0x100) / 8
    s.onDistrict d fun k => { k with monErr := Tbl.put i (x.onto (Tbl.getD i k.monErr 0) % 2 ^ 48) k.monErr }
  else s

/-- Bytes of the recovery window (R468). -/
def State.writeRecovery (s : State) (off : Nat) (x : WordWrite) : State :=
  { s with dev := { s.dev with recovery := cellsWrite (off + x.at') (leBytes x.size x.value) s.dev.recovery } }

/-- A write of the word that holds OWNER. -/
def State.writeOwner (s : State) (m : Nat) (x : WordWrite) : State :=
  if x.touches 0 then s.semWrite m (x.field 1 0) else s.noteWrite m

end Sys2Proof.Machine
end

