-- ==== Sys2Proof/Machine/Bringup.lean ====
section
/-! DEFINITION. Boot (R466 to R468, R473), resets (R471 to R473), the control-plane map as a whole (R447, R448, R451), and soft
errors (R190, R218, R303, R383). -/

namespace Sys2Proof.Machine

/-! Firmware images (R467, R468) -/

/-- The first check that an image fails: the code of BERR, 0 for none. -/
def State.imageError (s : State) (img : Cells) : Nat :=
  let get (off n : Nat) : List W8 := cellsRead img off n
  let num (off n : Nat) : Nat := ofLe (get off n)
  let len := num 8 8
  let entry := num 0x10 4
  let formed := num 0 4 = 0x31464d50 ∧ num 0x14 4 = 0 ∧ num 0x18 8 = 0 ∧ num 0x1c93 877 = 0 ∧ 64 ≤ len ∧ len ≤ 4194304 ∧
    len % 64 = 0 ∧ entry < len ∧ entry % 4 = 0
  if ¬ formed then 5
  else if sha3 (get 0x60 2592) ≠ Config.rootKeyHash then 1
  else if num 4 4 < s.svnMin then 2
  else if !Config.mlDsaVerify (get 0x60 2592) (get 0 0x60) (get 0xa80 4627) then 3
  else if sha3 (get 0x2000 len) ≠ get 0x20 64 then 4
  else 0

/-- An image that passed is measured and started: its firmware goes on with the stages of Table 12 that train memory and links. -/
def State.startImage (s : State) (img : Cells) : State :=
  let s := s.extendMrWith 0 (sha3 (cellsRead img 0 0x2000))
  { s with dev := { s.dev with svn := ofLe (cellsRead img 4 4), running := some img, boot := 4 } }

/-- BCMD 1, in BSTATE 3: the window's image, or BSTATE 4. -/
def State.bootWindow (s : State) : State :=
  if s.dev.bstate ≠ 3 ∨ s.dev.boot ≠ 0 then s
  else
    match s.imageError s.dev.recovery with
    | 0 => s.startImage s.dev.recovery
    | e => { s with dev := { s.dev with bstate := 4, berr := e } }

/-- BOOT_FROM_RECOVERY. -/
def execBootFromRecovery (master : Nat) (s : State) : Host.Outcome State Fault Refusal := .next (s.gated master State.bootWindow)

/-- COLD_RESET: everything as State.reset, but the flash, the fuse counter and what memory holds until it is written with zeros; the
links are down, and the boot ROM starts. -/
def execColdReset (s : State) : Host.Outcome State Fault Refusal :=
  .next { dev := { flash := s.dev.flash, svnmin := s.dev.svnmin, bstate := 0, boot := 1, pcieUp := false, hanosUp := false },
          mem := s.mem, bad := s.bad, fresh := s.fresh }

/-- The ROM checks a bank: its image runs, or BERR says why not and the boot goes on with the next stage (R468). -/
def State.tryBank (s : State) (i next : Nat) : State :=
  let img := s.dev.flash.getD i []
  match s.imageError img with
  | 0 => s.startImage img
  | e => { s with dev := { s.dev with berr := e, boot := next } }

/-- A stage of a boot, one in a core cycle (Table 12 of R473): after bank B the recovery window is left, which PCIe reaches. -/
def State.pumpBoot (s : State) : State :=
  let d := s.dev
  if d.boot = 0 then s
  else if d.boot = 1 then { s with dev := { d with boot := 2 } }
  else if d.boot = 2 then s.tryBank 0 3
  else if d.boot = 3 then
    let s := s.tryBank 1 0
    if s.dev.boot = 0 then { s with dev := { s.dev with bstate := 3, pcieUp := true } } else s
  else if d.boot = 4 then { s with mem := [], bad := [], dev := { d with boot := 5 } }
  else if d.boot = 5 then { s with dev := { d with pcieUp := true, hanosUp := true, boot := 6 } }
  else { s with dev := { d with bstate := 2, owner := 0, boot := 0 } }

/-! Warm reset (R472) -/

/-- Steps 1 and 2: gated writes are ignored, districts stop, launches are killed, threads stop. -/
def State.beginWarm (s : State) : State :=
  let s := { s with dev := { s.dev with bstate := 1 } }
  let ds := (s.districts.filter fun d => d.2.state != 0).map Prod.fst
  let s := ds.foldl (fun s d =>
    let s := s.onDistrict d fun x => { x with state := 2, ctxOps := [] }
    (s.district d).launches.foldl (fun s l => s.killWith d l.lid 0x13 0 0 0) s) s
  ((s.squeues.filter fun q => q.2.tstate != 0).map Prod.fst).foldl (fun s q => s.disableQueue q) s

/-- Every launch has ended, and every write has been performed that no page's absence holds. -/
def State.quiet (s : State) : Bool :=
  s.squeues.all (fun q => q.2.tstate == 0) && s.districts.all (fun d => d.2.launches.isEmpty || d.2.state == 0) && s.parts.all (fun p => p.st == .parked || p.st == .atHost || p.st == .held) &&
    s.writes.all fun w => s.parts.any fun p => p.src == .chain w.chain

/-- FLOOR above every timestamp that a home has issued. -/
def Home.top (h : Home) : Nat :=
  h.deleg.foldl (fun a e => max a e.2.ceiling) (h.lines.foldl (fun a e => max a e.2.rts) h.floor) + 1

/-- Step 5: the body in the controller's SRAM still has its digest (R472). -/
def Device.bodyOk (d : Device) : Bool :=
  match d.running with
  | some img => sha3 (cellsRead img 0x2000 (ofLe (cellsRead img 8 8))) == cellsRead img 0x20 64
  | none => true

/-- Steps 3 to 6: links stop, pools and caches and tables are zeroed, key slots are cleared, control blocks are at their reset
values; device memory stays. -/
def State.endWarm (s : State) : State :=
  let d := s.dev
  let dev : Device :=
    { devnum := d.devnum, breakms := d.breakms, pwrcap := d.pwrcap, hbasep := d.hbasep, hbaseh := d.hbaseh,
      mrs := [(0, s.mr 0)], svnmin := d.svnmin, flash := d.flash,
      running := d.running, bstate := if d.bodyOk then 2 else 4,
      notices := d.notices, noticesLost := d.noticesLost, hanosUp := d.hanosUp, pcieUp := d.pcieUp, hostDrops := d.hostDrops }
  { dev := dev, cycle := s.cycle, time := s.time, mem := s.mem, bad := s.bad, fresh := s.fresh, nextId := s.nextId, nextUid := s.nextUid, out := s.out,
    homes := s.homes.map fun h => (h.1, { floor := h.2.top }) }

/-- WARM_RESET starts the reset; the steps that wait end in it. -/
def execWarmReset (s : State) : Host.Outcome State Fault Refusal :=
  .next (if s.dev.bstate = 2 then s.beginWarm else if s.dev.bstate = 1 ∧ s.quiet then s.endWarm else s)

/-! The whole map (R447, Table 1) -/

/-- The blocks whose fields only the semaphore's holder writes (R451); none for an offset that the map does not list. -/
def State.gatedBlock (off : Nat) (x : WordWrite) : Option (State → State) :=
  let w := off / 8 * 8
  if w < 0x1000 then some fun s => s.writeDevice w x
  else if 0x100000 ≤ w ∧ w < 0x110000 then some fun s => s.writeDistrict ((w - 0x100000) / 1024) (w % 1024) x
  else if 0x200000 ≤ w ∧ w < 0x200000 + 28 * 256 then some fun s => s.writeHome ((w - 0x200000) / 256) (w % 256) x
  else if 0x300000 ≤ w ∧ w < 0x300000 + 32 * 256 then some fun s => s.writeLink ((w - 0x300000) / 256) (w % 256) x
  else if 0x400000 ≤ w ∧ w < 0x401000 then some fun s => s.writeSqueue ((w - 0x400000) / 64) (w % 64) x
  else if 0x500000 ≤ w ∧ w < 0x501000 then some fun s => s.writeKeys (w % 4096) x
  else if 0x580000 ≤ w ∧ w < 0x580008 then some fun s =>
    let c := x.field 7 0
    let m := bits (x.onto (s.dev.mri * 2 ^ 8)) 10 8
    let s := { s with dev := { s.dev with mri := m } }
    if c = 1 then s.bootWindow else if c = 2 then s.commit else if c = 3 then s.extendBy m else s
  else if 0x580040 ≤ w ∧ w < 0x580080 then
    some fun s => { s with dev := { s.dev with mdata := x.bytes s.dev.mdata (w % 4096 - 0x40) 64 } }
  else if 0x600000 ≤ w ∧ w < 0x600000 + 4097 * 1024 then
    some fun s => s.writeAperture ((w - 0x600000) / 1024) (w % 1024 / 16) (w % 16 = 8) x
  else if 0xc00000 ≤ w ∧ w < 0xc40000 then some fun s => s.writeMonitor ((w - 0xc00000) / 4096) (w % 4096) x
  else none

/-- The lowest bytes of a word, as many as a write must reach to target a gated field there: every such field starts at byte 0 (Table 2 of
R449, Table 8 of R466). -/
def gatedBytes (w : Nat) : Nat :=
  if w = 0x08 ∨ w = 0x30 ∨ w = 0x580000 then 2
  else if w = 0x18 then 4
  else if w = 0x20 then 1
  else if w = 0x40 then 3
  else if w = 0x48 ∨ w = 0x50 ∨ (0x580040 ≤ w ∧ w < 0x580080) then 8
  else 0

/-- A write targets what R451 lists: a byte of a listed field, or anything in a block that is listed whole. -/
def gatedField (w : Nat) (x : WordWrite) : Bool :=
  if w < 0x1000 ∨ (0x580000 ≤ w ∧ w < 0x581000) then x.at' < gatedBytes w else true

/-- A control-plane write takes effect (R448, R451). -/
def State.applyControl (s : State) (master off size value : Nat) : State :=
  let w := off / 8 * 8
  let x : WordWrite := { at' := off % 8, size := size, value := value }
  if w = 0x10 then s.writeOwner master x
  else if 0x1000000 ≤ w ∧ w < 0x1000000 + 4202496 then (s.noteWrite master).writeRecovery (w - 0x1000000) x
  else if 0x400000 ≤ w ∧ w < 0x401000 ∧ w % 64 = 0x20 then
    if x.touches 0 then (s.noteWrite master).takeNotify ((w - 0x400000) / 64) (x.onto (s.squeue ((w - 0x400000) / 64)).notify % 2 ^ 32)
    else s.noteWrite master
  else
    match State.gatedBlock off x with
    | some f => if gatedField w x then s.gated master f else s.noteWrite master
    | none => s.noteWrite master

/-! Reads (R10, R447, R448): no read changes the machine, so that the value of one is a function of the state -/

/-- The device control block (Table 2 of R449). -/
def Device.word (d : Device) (w : Nat) : Nat :=
  if w = 0 then 0x9800 * 2 ^ 32 + Config.stepping % 2 ^ 8
  else if w = 0x08 then d.devnum
  else if w = 0x10 then d.breaks * 2 ^ 4 + d.owner
  else if w = 0x18 then d.semviol * 2 ^ 32 + d.breakms
  else if w = 0x20 then d.idereq * 2 ^ 3 + d.flrscrub * 2 ^ 2
  else if w = 0x28 then d.svn * 2 ^ 32 + d.berr * 2 ^ 8 + d.bstate
  else if w = 0x30 then d.pwrnow * 2 ^ 32 + d.pwrcap
  else if w = 0x38 then d.clkmhz
  else if w = 0x40 then d.hdistrict * 2 ^ 16 + d.hdomain
  else if w = 0x48 then d.hbasep
  else if w = 0x50 then d.hbaseh
  else if w = 0x58 then d.hostfloor
  else 0

/-- A home control block (Table 1 of R362). -/
def Home.word (h : Home) (w : Nat) : Nat :=
  if w = 0 then h.kdir
  else if w = 0x08 then h.floor
  else if w = 0x10 then h.parked.length * 2 ^ 16 + h.fills.length
  else if w = 0x18 then h.enable.toNat
  else 0

/-- A link control block (Table 5 of R413). -/
def Link.word (k : Link) (w : Nat) : Nat :=
  let four (l : List Nat) (i : Nat) : Nat := (List.range 4).foldl (fun a j => a + l.getD (4 * i + j) 0 * 2 ^ (16 * j)) 0
  if w = 0 then k.err * 2 ^ 2 + k.state
  else if w = 0x08 then k.plaza * 2 ^ 16 + k.rtt
  else if w = 0x10 ∨ w = 0x18 then four k.bufs ((w - 0x10) / 8)
  else if w = 0x20 ∨ w = 0x28 then four k.shrs ((w - 0x20) / 8)
  else if w = 0x30 then k.replay * 2 ^ 32 + k.crcerr
  else if w = 0x38 then k.dropped * 2 ^ 32 + k.downs
  else if 0x40 ≤ w ∧ w < 0x60 then fieldLe k.elog (w - 0x40) 8
  else if 0x60 ≤ w ∧ w < 0xa0 then
    (List.range 8).foldl (fun a i => a + Tbl.getD (w - 0x60 + i) (k.pendAvt.getD k.avt) 0 * 2 ^ (8 * i)) 0
  else 0

/-- A service-queue control block (Table 1 of R428). -/
def SQueue.word (k : SQueue) (w : Nat) : Nat :=
  if w = 0 then k.ring
  else if w = 8 then k.word8
  else if w = 0x10 then k.entry
  else if w = 0x18 then k.scratch
  else if w = 0x20 then k.produced * 2 ^ 32 + k.notify
  else if w = 0x28 then k.fpc
  else if w = 0x30 then k.enable.toNat * 2 ^ 16 + k.fcode * 2 ^ 8 + k.tstate
  else 0

/-- The key-slot block (Table 7 of R464): SLOT, CMD and KDATA read as 0. -/
def Device.keyWord (d : Device) (w : Nat) : Nat :=
  if w = 8 then d.reason * 2 ^ 8 + d.kstat
  else if 0x100 ≤ w ∧ w < 0x300 then
    maskOf ((List.range 64).filter fun i => (Tbl.getD (8 * (w - 0x100) + i) d.slots {}).loaded)
  else 0

/-- The boot and measurement block (Table 8 of R466): MRI, BCMD and MDATA read as 0. -/
def State.bootWord (s : State) (w : Nat) : Nat :=
  if w = 8 then s.svnMin * 2 ^ 32
  else if 0x80 ≤ w ∧ w < 0xc0 then fieldLe Config.rootKeyHash (w - 0x80) 8
  else if 0x100 ≤ w ∧ w < 0x300 then fieldLe (s.mr ((w - 0x100) / 64)) (w % 64) 8
  else 0

/-- A district monitor block (Table 4 of R485). -/
def District.monWord (x : District) (w : Nat) : Nat :=
  if w < 0x40 then
    let c := Tbl.getD (w / 8) x.mon {}
    c.ovf.toNat * 2 ^ 63 + c.value
  else if w < 0x80 then (Tbl.getD ((w - 0x40) / 8) x.mon {}).cfg.toNat
  else if 0x100 ≤ w ∧ w < 0x130 then Tbl.getD ((w - 0x100) / 8) x.monErr 0
  else 0

/-- The 64-bit word that a read of the control plane finds at an aligned offset (R447, Table 1): a reserved one reads as 0. -/
def State.controlWord (s : State) (w : Nat) : Nat :=
  if w < 0x1000 then s.dev.word w
  else if 0x100000 ≤ w ∧ w < 0x110000 then (s.district ((w - 0x100000) / 1024)).word (w % 1024)
  else if 0x200000 ≤ w ∧ w < 0x200000 + 28 * 256 then (s.home ((w - 0x200000) / 256)).word (w % 256)
  else if 0x300000 ≤ w ∧ w < 0x300000 + 32 * 256 then (s.link ((w - 0x300000) / 256)).word (w % 256)
  else if 0x400000 ≤ w ∧ w < 0x401000 then (s.squeue ((w - 0x400000) / 64)).word (w % 64)
  else if 0x500000 ≤ w ∧ w < 0x501000 then s.dev.keyWord (w % 4096)
  else if 0x580000 ≤ w ∧ w < 0x581000 then s.bootWord (w % 4096)
  else if 0x600000 ≤ w ∧ w < 0x600000 + 4097 * 1024 then
    let v := (Tbl.getD (w % 1024 / 16) (Tbl.getD ((w - 0x600000) / 1024) s.dev.apertures []) 0).toNat
    if w % 16 = 8 then v / 2 ^ 64 else v % 2 ^ 64
  else if 0xc00000 ≤ w ∧ w < 0xc40000 then (s.district ((w - 0xc00000) / 4096)).monWord (w % 4096)
  else if 0x1000000 ≤ w ∧ w < 0x1000000 + 4202496 then ofLe (cellsRead s.dev.recovery (w - 0x1000000) 8)
  else 0

/-- What a master reads: 1 to 8 bytes within an aligned word. -/
def State.readControl (s : State) (off size : Nat) : Nat :=
  s.controlWord (off / 8 * 8) / 2 ^ (8 * (off % 8)) % 2 ^ (8 * size)

/-- What comes of a master's read of the control plane: it waits, it is an Unsupported Request, or it returns a value. -/
inductive ReadAns where
  | wait
  | refused
  | value (n : Nat)
  deriving DecidableEq, Repr

/-- A read of a master: it comes after every earlier write of that master (R448), and of Hanos after the earlier parts and management
accesses of its stream (R461). -/
def State.masterRead (s : State) (master off size tc : Nat) (ide : Option Nat) : ReadAns :=
  if !s.serves master ide then .refused
  else if s.dev.portQ.any fun w => if master = 1 then w.page == 0 else 8192 ≤ w.page then .wait
  else if master = 2 ∧ s.streamHolds (tc % 64) s.nextId then .wait
  else .value (s.readControl off size)

/-- The 64-bit word of a function's MSI-X table or PBA at an offset of its notify page (R453). -/
def State.msixWord (s : State) (f off : Nat) : Nat :=
  let x (v : Nat) : MsixVec := Tbl.getD (8 * f + v) s.dev.msix {}
  if 0x800 ≤ off ∧ off < 0x880 then
    let k := x ((off - 0x800) / 16)
    if off % 16 = 0 then k.addr else k.masked.toNat * 2 ^ 32 + k.data
  else if off = 0xc00 then maskOf ((List.range 8).filter fun v => (x v).pending)
  else 0

/-- What a function reads in its notify page, by 64-bit words: NOTIFY of queue q at 8q, and its MSI-X vectors; none where the read is an
Unsupported Request (R453, R456). -/
def State.readNotify (s : State) (f off : Nat) (ide : Option Nat) : Option Nat :=
  if !s.functionOn f || !s.ideOk f ide then none
  else some (if off % 8 ≠ 0 then 0 else if off < 512 then (s.squeue (off / 8)).notify else s.msixWord f off)

/-! CONTROL_PLANE_WRITE -/

/-- CONTROL_PLANE_WRITE: 1 to 8 bytes within an aligned word.  From the Hanos link it stands in the order of its stream, which is
given where a TLP's traffic class stands. -/
def execControlPlaneWrite (master off size value tc : Nat) (ide : Option Nat) (s : State) : Host.Outcome State Fault Refusal :=
  let ok := size = 1 ∨ size = 2 ∨ size = 4 ∨ size = 8
  let isNotify := 0x400000 ≤ off ∧ off < 0x401000 ∧ off / 8 * 8 % 64 = 0x20
  .next (
    if !(decide ok && off % size == 0 && decide (off < 2 ^ 25)) then s
    else if !s.serves master ide then (if master = 1 ∨ (master = 2 ∧ s.dev.hanosUp) then s.hostDrop else s)
    else if s.controlWaits master tc (decide isNotify) then
      if master = 1 then s.putPort 0 tc (decide isNotify) off size value
      else { s with dev := { s.dev with portQ := s.dev.portQ ++
        [{ page := streamPage tc, tc := tc % 64, bound := s.nextId, off := off, size := size, value := value }] } }
    else s.applyControl master off size value)

/-- The first write that waits at each page of a port goes on when the writes before it have been performed. -/
def State.pumpPort (s : State) : State :=
  (s.dev.portQ.map PortWrite.page).dedup.foldl (fun s page =>
    match firstWith (fun w => w.page == page) s.dev.portQ with
    | none => s
    | some w =>
      if (if 8192 ≤ page then s.streamHolds w.tc w.bound else w.bound != 0 && s.classWrites w.tc w.bound) then s
      else
        let s := { s with dev := { s.dev with portQ := s.dev.portQ.erase w } }
        if page = 0 then s.applyControl 1 w.off w.size w.value
        else if 8192 ≤ page then s.applyControl 2 w.off w.size w.value
        else s.takeNotify w.off (w.value % 2 ^ 32)) s

/-! SOFT_ERROR -/

/-- The on district that a memory controller, by the address of a byte, or a core belongs to. -/
def State.memDistrict (s : State) (a : Nat) : Option Nat :=
  s.homeDistrict (if a < 2 ^ 48 then a / 2 ^ 36 else 16 + (a - 2 ^ 48) / 2 ^ 38)
def State.coreDistrict (s : State) (core : Nat) : Option Nat :=
  (firstWith (fun d => d.2.state != 0 && d.2.clusters.getLsbD (core / 4)) s.districts).map Prod.fst

/-- A corrected error (R485). -/
def State.corrected (s : State) (d : Option Nat) : State :=
  match d with
  | some d => s.countErr d 1 1
  | none => s

/-- An L1 line has an error until it is next read (R190). -/
def CoreSt.spoil (c : CoreSt) (line err : Nat) : CoreSt :=
  { c with l1 := updWhere (fun x => x.line == line) (fun x => { x with err := max x.err err }) c.l1 }

/-- A word becomes corrupt.  Of a register or an L1 line, the next read corrects or finds it (R190, R218); a correctable word
elsewhere is corrected and counted, an uncorrectable one shows where it is next read. -/
def execSoftError (k : SoftKind) (s : State) : Host.Outcome State Fault Refusal :=
  .next (match k with
    | .memory true a => s.corrected (s.memDistrict a)
    | .memory false a => if s.bad.contains (a / 8) then s else { s with bad := s.bad ++ [a / 8] }
    | .register true u g r _ => s.onGrp u g fun x => { x with softOk := x.softOk ++ [r] }
    | .register false u g r m =>
      s.onGrp u g fun x =>
        { x with soft := x.soft ++ [(r, (match m with
            | none => x.all
            | some m => strandsOf m x.width), false)] }
    | .macroRow true core _ _ _ => s.corrected (s.coreDistrict core)
    | .macroRow false core m row slot => s.onCore core fun c => { c with soft := c.soft ++ [(m, row, slot / 8 * 8)] }
    | .accum true u _ => s.corrected ((Tbl.find u s.blocks).map Block.dist)
    | .accum false u off => s.onBlock u fun b => { b with softAcc := b.softAcc ++ [off] }
    | .l1Line true core line => s.onCore core fun c => c.spoil line 1
    | .l1Line false core line => s.onCore core fun c => c.spoil line 2)

end Sys2Proof.Machine
end

