-- ==== Sys2Proof/Machine/Pass.lean ====
section
/-! DEFINITION. What stands before an instruction: code fetch, clause headers, the choice of paths and strands of a pass, the
packing of an issue slot, and the service processor's issue (R132 to R134, R150 to R156, R173, R222 to R224, R442, R444). -/

namespace Sys2Proof.Machine

/-! Code (R155) -/

/-- What the code at an address gives to a path: a word, nothing yet, or a trap at fetch with an address. -/
inductive Code where
  | word (w : W32)
  | miss
  | trap (code : Nat)
  deriving DecidableEq, Repr

/-- A fetch on behalf of a group; it is known by its line, its block and its group. -/
def State.fetchPart (s : State) (u g va : Nat) : Part :=
  let b := s.block u
  let h := s.launchHdr b
  let x := s.grp u g
  { src := .icache b.core, kind := .fetch, va := va / 64 * 64, len := 64, vf := vfNum b.dist b.vf, dist := b.dist,
    domain := hDomain h, priv := hPriv h, promo := true, dev := s.dev.devnum, clk := x.pathTime x.living,
    lam := s.lease b.dist, issue := u, tag := g }

/-- The code word of a group at an address: from the instruction cache, or after a fetch of its line. -/
def State.groupCode (s : State) (u g va : Nat) : State × Code :=
  let c := (s.block u).core
  match (s.core c).codeWord va with
  | some w => (s, .word w)
  | none =>
    let f := s.fetchPart u g va
    match firstWith (fun p => p.src == f.src && p.va == f.va && p.issue == u && p.tag == g) s.parts with
    | some p =>
      match p.st with
      | .replied (.fatal code) => (s.dropPart p.id, .trap code)
      | .replied (.accept _ _ _ bad) => if bad = 0 then (s, .miss) else (s.dropPart p.id, .trap 0x10)
      | _ => (s, .miss)
    | none =>
      match s.route f.dist f.va with
      | none => (s, .trap 7)
      | some (dev, home) =>
        let id := s.nextId
        let s := s.send { f with dev := dev, home := home }
        (s.onPart id fun p => { p with tag := g }, .miss)

/-- The code word of a service thread: its line is read as an access of the thread. -/
def State.threadCode (s : State) (q va : Nat) : State × Code :=
  let line := va / 64 * 64
  match s.ask (s.threadPart q .fetch line 64 []) with
  | (s, .wait) => (s, .miss)
  | (s, .fatal c) => (s.dropSrc (.thread q), .trap c)
  | (s, .ok d _ _ bad) =>
    if bad = 0 then (s, .word (BitVec.ofNat 32 (fieldLe d (va % 64) 4))) else (s.dropSrc (.thread q), .trap 0x10)

def State.codeAt (s : State) (kind : FocusKind) (va : Nat) : State × Code :=
  match kind with
  | .path u g _ => s.groupCode u g va
  | .handler u g => s.groupCode u g va
  | .thread q => s.threadCode q va
  | .none => (s, .miss)

/-- Whether the domain of a path or thread holds the execute right on an address (R155). -/
def State.mayRun (s : State) (kind : FocusKind) (va : Nat) : Bool :=
  let need := rightX
  match kind with
  | .path u _ _ | .handler u _ =>
    let b := s.block u
    hasRights (rightsIn ((s.core b.core).domainEntries b.dist (hDomain (s.launchHdr b))) (keyOf va)) need
  | .thread q =>
    let x := s.squeue q
    hasRights (rightsIn (s.keyEntries x.district x.domain) (keyOf va)) need
  | .none => false

/-- The words of the clause from an address on, as far as the code that is present reaches; and the first address that is not,
with what it gives. -/
def State.wordsFrom (s : State) (kind : FocusKind) (va : Nat) : Nat → State × List W32 × Option (Nat × Code)
  | 0 => (s, [], none)
  | n + 1 =>
    match s.codeAt kind va with
    | (s, .word w) =>
      let (s, r, e) := State.wordsFrom s kind ((va + 4) % 2 ^ 64) n
      (s, w :: r, e)
    | (s, c) => (s, [], some (va, c))

/-! The next instruction of a path -/

/-- The first word of an instruction that lies in the line of an address. -/
def firstIn (pc va : Nat) : Nat := max pc (va / 64 * 64)

/-- The header's checks (R51, R442): the trap that it raises. -/
def State.headerTrap (s : State) (kind : FocusKind) (h : Header) : Option Nat :=
  match kind with
  | .path u g _ => if roleAllows (s.grp u g).role h.cls then none else some 0x04
  | .thread _ =>
    if h.join || h.dual || h.cue != 0 then some 0x03
    else if h.cls == 1 || h.cls == 2 || h.cls == 7 then none else some 0x04
  | _ => none

/-- The header's waits: acceptance of the clause before, the join hold and the wait fields (R192, R151, R25). -/
def State.headerWaits (s : State) (kind : FocusKind) (h : Header) : Bool :=
  match kind with
  | .path u g _ =>
    let x := s.grp u g
    (h.join && x.anyParked) || !waitOk x h.wl h.ws h.wc h.wt
  | .handler u g => !waitOk (s.grp u g) h.wl h.ws h.wc h.wt
  | _ => false

/-- The instruction at a word of a clause: decoded, checked and found ready, or not. -/
def State.lookWord (s : State) (kind : FocusKind) (h : Header) (hdr pc idx : Nat) (start : Bool) : State × Look :=
  let left := h.n + 1 - idx
  let (s, ws, e) := s.wordsFrom kind pc left
  let trap (c addr : Nat) : Look := .trap c addr pc hdr idx h.dual
  let missing (s : State) : State × Look :=
    match e with
    | some (va, .trap c) => (s, trap c (if c = 0x10 then firstIn pc va else pc))
    | _ => (s, .blocked)
  let pad := ws ++ List.replicate (left - ws.length) 0
  let f : Focus := { kind := kind, pc := pc, hdr := hdr, idx := idx, n := h.n, yieldAfter := h.yieldAfter
                     second := s.focus.second, kept := s.focus.kept }
  match decode h.cls ws with
  | .error .overrun => if ws.length < left then missing s else (s, trap 0x03 pc)
  | _ =>
    match decode h.cls pad with
    | .error r =>
      -- a thread may not issue any other instruction of a permitted class
      (s, trap r.trap pc)
    | .ok (i, n) =>
      if ws.length < n then missing s
      else
        let f := { f with len := n }
        let t := { s with focus := f }
        if handlerFault i t || (decodeTrap i t).isSome || guardOff i t || (execTrap i t).isSome || ready i t then
          (s, .go i f h.dual (if start then h.cue else 0))
        else (s, .blocked)

/-- What stands at a counter (R155, R156): fetch, header, waits, and the clause's word. -/
def State.look (s : State) (kind : FocusKind) (pc hdr idx : Nat) : State × Look :=
  let waits := match kind with
    | .path u g ks => idx = 0 && s.unreplied u g ks
    | .handler u g => idx = 0 && s.unreplied u g []
    | _ => false
  if waits then (s, .blocked)
  else if idx = 0 && !s.mayRun kind hdr then (s, .trap 0x06 hdr pc hdr idx false)
  else
    match s.codeAt kind hdr with
    | (s, .miss) => (s, .blocked)
    | (s, .trap c) => (s, .trap c pc pc hdr idx false)
    | (s, .word w) =>
      match decodeHeader w with
      | none => (s, .trap 0x03 hdr pc hdr idx false)
      | some h =>
        if idx = 0 then
          match s.headerTrap kind h with
          | some c => (s, .trap c hdr pc hdr idx false)
          | none =>
            if s.headerWaits kind h then (s, .blocked)
            else s.lookWord kind h hdr ((hdr + 4) % 2 ^ 64) 1 true
        else s.lookWord kind h hdr pc idx false

/-! Paths (R151, R152) -/

/-- Strands that share a counter, its clause context and a wait. -/
structure Path where
  pc : Nat
  hdr : Nat
  idx : Nat
  wait : Wait
  ks : List Nat
  deriving DecidableEq, Repr

/-- Eligible strands: not parked, not at an RJOIN, not held by a join (R151); while a system instruction is served, only the
path that issued it goes on. -/
def Group.eligible (x : Group) (joinAt : Nat → Bool) : List Nat :=
  x.all.filter fun k =>
    let t := x.strand k
    t.st == .active && !t.wait.isJoin && !(t.idx = 0 && x.anyParked && joinAt t.hdr) &&
      (x.busy != .system || t.wait == .system)

/-- A wait that changes no state: strands that come to the instruction join those that wait in it, and the path issues it again. -/
def Wait.pauses : Wait → Bool
  | .none | .gsync _ | .sleep | .bwait .. | .fence .. => true
  | .drain _ p => p != 3
  | _ => false

/-- Strands of one counter are one path (R151) but where an instruction of some of them has taken effect. -/
def Wait.joins (a b : Wait) : Bool := a == b || (a.pauses && b.pauses)

/-- Puts a strand into its path, paths in increasing counter. -/
def addPath (k : Nat) (t : Strand) : List Path → List Path
  | [] => [{ pc := t.pc, hdr := t.hdr, idx := t.idx, wait := t.wait, ks := [k] }]
  | p :: r =>
    if p.pc = t.pc ∧ p.hdr = t.hdr ∧ p.idx = t.idx ∧ p.wait.joins t.wait then
      { p with wait := if p.wait = t.wait then t.wait else .none, ks := p.ks ++ [k] } :: r
    else if t.pc < p.pc then { pc := t.pc, hdr := t.hdr, idx := t.idx, wait := t.wait, ks := [k] } :: p :: r
    else p :: addPath k t r

def Group.paths (x : Group) (ks : List Nat) : List Path := ks.foldl (fun l k => addPath k (x.strand k) l) []

/-- The path of the lowest counter among strands of age 16 comes first. -/
def Group.order (x : Group) (ps : List Path) : List Path :=
  let old (p : Path) : Bool := p.ks.any fun k => 16 ≤ (x.strand k).age
  match firstWith old ps with
  | some p => p :: ps.filter (· != p)
  | none => ps

/-- The word of code at an address as a fetch would bring it, where it can be known: in the core's cache, else in memory. -/
def State.peekCode (s : State) (core dist va : Nat) : Option W32 :=
  match (s.core core).codeWord va with
  | some w => some w
  | none =>
    match s.route dist va with
    | none => none
    | some (dev, h) =>
      match (if dev = s.dev.devnum then s.homeDistrict h else none) with
      | none => none
      | some d =>
        match s.walk (s.home h) (s.district d) va with
        | .page e _ off =>
          if pteHost e || pteM e || pteFill e then none
          else (s.slotKey (pteSlot e)).map fun key =>
            BitVec.ofNat 32 (fieldLe (s.plainLine key va (lineAddr e off)) (va % 64) 4)
        | _ => none

/-- Whether the clause at an address is a join that a group may run (R151): its header has passed the checks of R51 (R156). -/
def State.joinAt (s : State) (u g hdr : Nat) : Bool :=
  let b := s.block u
  s.mayRun (.path u g []) hdr &&
  match (s.peekCode b.core b.dist hdr).bind decodeHeader with
  | some h => h.join && (s.headerTrap (.path u g []) h).isNone
  | none => false

/-- The strands of a group that are eligible now (R151). -/
def State.eligible (s : State) (u g : Nat) : List Nat := (s.grp u g).eligible (s.joinAt u g)

/-- The first path that is ready, with what it does. -/
def State.firstReady (s : State) (u g : Nat) : List Path → State × Option (Path × Look)
  | [] => (s, none)
  | p :: r =>
    let waits := p.wait == .system && !s.answeredBy (.sys u g)
    match (if waits then (s, .blocked) else s.look (.path u g p.ks) p.pc p.hdr p.idx) with
    | (s, .blocked) => State.firstReady s u g r
    | (s, l) => (s, some (p, l))

/-! Lane-cycles (R17, R154, R217, R222) -/

/-- Whether an instruction executes uniformly (R217). -/
def uniformNow (i : Instr) (x : Group) (qk : Nat → Bool) : Bool :=
  classOf i == 0 &&
  match laneForm i with
  | none => false
  | some f =>
    (f.srcs.all fun e => match e.2 with
      | .v _ => x.flat (e.1.width / 32) e.2
      | .strandIdx => false
      | .q n => qk n.val
      | _ => true) &&
    (f.preds.all fun p => (x.living.all fun k => (x.strand k).getP p) || x.living.all fun k => !(x.strand k).getP p) &&
    match f.dk with
    | .packed => x.flat 1 f.d
    | _ => true

/-- Lane-cycles per strand and write-back latency of an instruction (Table 1 of R222). -/
def costOf (i : Instr) : Nat × Nat :=
  match i with
  | .frcp .. | .frsq .. | .fsqrt .. | .fex2 .. | .flg2 .. | .fsin .. | .fcos .. => (4, 16)
  | .fdiv .. => (8, 24)
  | .dadd .. | .dmul .. | .dfma .. | .dcmp .. => (8, 24)
  | .imul .. | .imulhI .. | .imulhN .. | .imac .. | .imacw .. => (1, 5)
  | .dot4 .. | .dot8 .. => (1, 8)
  | .fadd .. | .fsub .. | .fmul .. | .ffma .. | .fmin .. | .fmax .. | .fcmp .. | .fneg .. | .fabs .. | .fscale ..
  | .duoadd .. | .duomul .. | .duofma .. | .cvt .. | .pack .. | .unpk .. => (1, 6)
  | i => (1, if classOf i == 2 || classOf i == 4 then 6 else 4)

/-- The unit that a strand holds (Table 1 of R222): 0 none, 1 integer, 2 float, 3 function, 4 FP64. -/
def unitOf (i : Instr) : Nat :=
  match i with
  | .dadd .. | .dmul .. | .dfma .. | .dcmp .. => 4
  | .frcp .. | .frsq .. | .fsqrt .. | .fex2 .. | .flg2 .. | .fsin .. | .fcos .. | .fdiv .. => 3
  | .fadd .. | .fsub .. | .fmul .. | .ffma .. | .fmin .. | .fmax .. | .fcmp .. | .fneg .. | .fabs .. | .fscale ..
  | .duoadd .. | .duomul .. | .duofma .. | .cvt .. | .pack .. | .unpk .. | .dot4 .. | .dot8 .. => 2
  | i => if classOf i == 0 then 1 else 0

/-- Whether a path's instruction executes once: uniformly, or by its class or form (R17, R198). -/
def onceFor (i : Instr) (x : Group) (qk : Nat → Bool) : Bool :=
  match i with
  | .ldw .. | .stw .. | .fenceP .. | .fenceH .. | .fenceA .. | .sleep .. => true
  | i => uniformNow i x qk || !(classOf i == 0 || classOf i == 2 || classOf i == 3)

/-- The covered strands of an instruction in a path. -/
def Group.coveredBy (x : Group) (i : Instr) (ks : List Nat) : List Nat := x.holding ks (predOf i).val

/-- The lane-cycles that one strand holds in a pass: the strand, whether its path has the higher counter, the first, how many. -/
structure LaneUse where
  strand : Nat
  hi : Bool
  start : Nat
  len : Nat
  deriving DecidableEq, Repr

/-- The strands of a path that take lane-cycles, with how many. -/
def Group.shares (x : Group) (qk : Nat → Bool) (hi : Bool) (i : Instr) (ks : List Nat) : List LaneUse :=
  if onceFor i x qk then (ks.take 1).map fun k => ⟨k, hi, 0, 1⟩ else (x.coveredBy i ks).map fun k => ⟨k, hi, 0, (costOf i).1⟩

/-- Lane-cycles one behind the other. -/
def layOut (n : Nat) : List LaneUse → List LaneUse
  | [] => []
  | e :: r => { e with start := n } :: layOut (n + e.len) r

/-- The strands of both paths hold lane-cycles in increasing strand index (R153, R224). -/
def Group.uses (x : Group) (qk : Nat → Bool) (i j : Instr) (a b : List Nat) : List LaneUse :=
  let all := x.shares qk false i a ++ x.shares qk true j b
  layOut 0 (x.all.flatMap fun k => all.filter fun e => e.strand == k)

/-- Whether an instruction has a result for the write-back port. -/
def writesBack (i : Instr) : Bool := classOf i == 0 || classOf i == 3

/-- A strand of the higher path, which issues `j`, wants the write-back port or a unit in a cycle in which a strand of the lower path,
which issues `i`, holds it (R224).  The second never comes about: a strand holds its lane-cycles alone, for as long as its unit. -/
def clashes (i j : Instr) (low : List LaneUse) (e : LaneUse) : Bool :=
  (writesBack i && writesBack j && low.any fun f => f.start + (costOf i).2 == e.start + (costOf j).2) ||
  (unitOf i != 0 && unitOf i == unitOf j && low.any fun f => f.start < e.start + e.len && e.start < f.start + f.len)

/-- What a pass serves: the strands of its lower and of its higher path, its lane-cycles, and by strand the lane-cycle in which it
starts and that in which its result is written (R153, R194, R222 to R224, R273). -/
structure Layout where
  low : List Nat
  high : List Nat
  cycles : Nat
  lowWb : List (Nat × Nat × Nat)
  highWb : List (Nat × Nat × Nat)
  deriving DecidableEq, Repr

/-- The strands of a path that a pass serves, `late` being those that would end too late (R223) and `lost` the first that a clash
removes, with all behind it (R224). -/
def Group.servedOf (x : Group) (qk : Nat → Bool) (i : Instr) (ks late : List Nat) (lost : Option Nat) : List Nat :=
  if onceFor i x qk then (if late.isEmpty && lost.isNone then ks else [])
  else ks.filter fun k => !late.contains k && match lost with
    | some m => decide (k < m)
    | none => true

/-- Lays out a pass of one path, or of two, in so many lane-cycles: 64 at most (R223). -/
def Group.layout (x : Group) (qk : Nat → Bool) (limit : Nat) (i : Instr) (a : List Nat) (sec : Option (Instr × List Nat)) : Layout :=
  let (j, b) := sec.getD (i, [])
  let all := x.uses qk i j a b
  let late := all.filter fun e => limit < e.start + e.len
  let fit := all.filter fun e => e.start + e.len ≤ limit
  let low := fit.filter fun e => !e.hi
  let lost := (firstWith (fun e => e.hi && clashes i j low e) fit).map LaneUse.strand
  let high := fit.filter fun e => e.hi && match lost with
    | some m => decide (e.strand < m)
    | none => true
  let n := if sec.isNone && onceFor i x qk then 1 else max 4 (fit.foldl (fun m e => max m (e.start + e.len)) 0)
  let wb (i : Instr) (l : List LaneUse) : List (Nat × Nat × Nat) :=
    l.map fun e => (e.strand, e.start, if classOf i == 3 then n + 4 else e.start + (costOf i).2)
  { low := x.servedOf qk i a ((late.filter fun e => !e.hi).map LaneUse.strand) none
    high := x.servedOf qk j b ((late.filter fun e => e.hi).map LaneUse.strand) lost
    cycles := n, lowWb := wb i low, highWb := wb j high }

/-- Cycles of a layout, from the core cycle in which its pass begins. -/
def fromCycle (c : Nat) (l : List (Nat × Nat × Nat)) : List (Nat × Nat × Nat) := l.map fun e => (e.1, c + e.2.1, c + e.2.2)

/-! One pass -/

/-- A group that may issue program passes (R154). -/
def State.mayIssue (s : State) (u g : Nat) : Bool :=
  match Tbl.find u s.blocks with
  | none => false
  | some b =>
    let x := b.group g
    b.resident && !s.frozen u g && x.life == .live && (x.busy == .none || x.busy == .system) && x.maskProg.isNone &&
      x.handler.isNone

/-- Of a stopped block, only strands inside an instruction that has taken effect go on. -/
def Block.issuers (b : Block) (ks : List Nat) (x : Group) : List Nat :=
  ks.filter fun k => !b.stop || match (x.strand k).wait with
    | .system => true
    | .drain .. => true
    | _ => false

/-- What a group would issue: its path, or its handler's. -/
def State.choose (s : State) (u g : Nat) : State × Option (Path × Look) :=
  let b := s.block u
  let x := s.grp u g
  match x.handler with
  | some h =>
    if !b.resident || s.frozen u g || x.life != .live && x.life != .exitPending then (s, none)
    else if !s.answeredBy (.sys u (g + 2 ^ 16)) then (s, none)
    else
      match s.look (.handler u g) h.pc h.hdr h.idx with
      | (s, .blocked) => (s, none)
      | (s, l) => (s, some ({ pc := h.pc, hdr := h.hdr, idx := h.idx, wait := .none, ks := [] }, l))
  | none =>
    if s.mayIssue u g then s.firstReady u g (x.order (x.paths (b.issuers (s.eligible u g) x)))
    else (s, none)

/-- Which of a block's queues are of kind uniform word. -/
def Block.uniQ (b : Block) (k : Nat) : Bool := (b.queue k).kind == 2

/-- The instruction of a look; a trap at fetch or decode holds the lane as a uniform instruction does (log entry 33). -/
def Look.instr : Look → Instr
  | .go i _ _ _ => i
  | _ => .nop 0

/-- The D bit of a look's clause. -/
def Look.isDual : Look → Bool
  | .go _ _ d _ => d
  | .trap _ _ _ _ _ d => d
  | .blocked => false

/-- The second path of a pass (R152): the lowest after the first, both with D set and ready. -/
def State.second (s : State) (u g : Nat) (p : Path) (l : Look) : State × Option (Path × Look) :=
  let x := s.grp u g
  if !l.isDual || (s.block u).stop || x.handler.isSome then (s, none)
  else
    match (x.paths (s.eligible u g)).filter fun q => p.pc < q.pc with
    | [] => (s, none)
    | q :: _ =>
      let (s, m) := s.look (.path u g q.ks) q.pc q.hdr q.idx
      let c := counterOf l.instr
      -- when only one increment of a counter fits, the second waits (R23)
      if !m.isDual || c.isSome && c == counterOf m.instr && 62 ≤ x.ctr (c.getD 0) then (s, none) else (s, some (q, m))

/-- What a pass of a group would serve in so many lane-cycles. -/
def State.layout (s : State) (u g limit : Nat) (p : Path) (l : Look) (sec : Option (Path × Look)) : Layout :=
  (s.grp u g).layout (s.block u).uniQ limit l.instr p.ks (sec.map fun e => (e.2.instr, e.1.ks))

/-- The lane-cycles of what a group would issue. -/
def State.costIf (s : State) (u g : Nat) (p : Path) (l : Look) : Nat :=
  if (s.grp u g).handler.isSome then 1 else (s.layout u g 64 p l (s.second u g p l).2).cycles

/-- What the preparation of a planned pass gives: nothing to run, or an instruction with its focus set. -/
inductive Prep where
  | idle (s : State)
  | run (s : State) (i : Instr)
  deriving DecidableEq, Repr

/-- A trap at fetch, header or decode: every strand of the path records it with its address, in its place (R158, Table 5). -/
def State.fetchPark (s : State) (u g : Nat) (ks : List Nat) (code addr pc hdr idx : Nat) : State :=
  s.onStrands u g ks fun (t : Strand) =>
    if t.st == StrandSt.active then
      { t with st := .fatal code 0 addr, wait := .none, replay := none, pc := pc, hdr := hdr, idx := idx }
    else t

/-- Such a trap of the handler or of a service thread. -/
def State.fetchTrap (s : State) (kind : FocusKind) (code addr : Nat) : State :=
  { { s with focus := { kind := kind, pc := addr } }.trapPath code with focus := {} }

/-- Events of a pass (R476): the pass and its lane-cycles. -/
def State.countPass (s : State) (u cycles : Nat) : State :=
  let b := s.block u
  let v := vfNum b.dist b.vf
  (s.count b.dist v 0x02 1).count b.dist v 0x03 cycles

/-- Events of an instruction that a path issues (R476): a uniform execution, the instruction itself. -/
def State.countInstr (s : State) (u g : Nat) (i : Instr) : State :=
  let b := s.block u
  let x := s.grp u g
  let v := vfNum b.dist b.vf
  let s := if uniformNow i x b.uniQ || classOf i == 1 then s.count b.dist v 0x04 1 else s
  if (decodeTrap i s).isNone then s.count b.dist v 0x06 1 else s

/-- Strands (or the handler) at a header stand on the clause's first word when it issues, the results that its wait fields have
waited for join the strands' order, and its cue starts unless the instruction traps at decode (R150, R156, R46). -/
def State.enterClause (s : State) (u g : Nat) (ks : List Nat) (i : Instr) (f : Focus) (cue : Nat) : State :=
  let limits := ((s.core (s.block u).core).codeWord f.hdr).bind decodeHeader
  let s := s.onGrp u g fun x =>
    let t := match limits with
      | some h => x.joinTime h.ws h.wc h.wt
      | none => 0
    match f.kind with
    | .handler .. =>
      let x := if (x.handler.map Handler.idx) == some 0 then x.raise x.living t else x
      { x with handler := some ⟨f.pc, f.hdr, f.idx⟩ }
    | _ =>
      let x := x.raise (ks.filter fun k => (x.strand k).idx = 0) t
      x.onStrands ks fun t => { t with pc := f.pc, hdr := f.hdr, idx := f.idx }
  if cue = 0 || (decodeTrap i s).isSome || handlerFault i s then s else s.startCue u g cue

/-- The queues on which an instruction operates when it issues (R256, R260). -/
def queuesAt (i : Instr) : List Nat :=
  srcQueues i ++ (dstQueue i).toList ++ match i with
    | .qpeek _ (.q n) _ | .qcnt _ (.q n) _ | .qdrop (.q n) _ _ | .sacq _ (.q n) _ | .srel (.q n) _ => [n.val]
    | _ => []

/-- A pass that would issue an instruction on a queue that has served an operation in this cycle begins a cycle later (R258). -/
def State.queueTaken (s : State) (u : Nat) (l : Look) : Bool := (queuesAt l.instr).any (s.hasServed u)

/-- An instruction that issues has its turn on its queues. -/
def State.takeTurns (s : State) (u : Nat) (i : Instr) : State :=
  if (decodeTrap i s).isSome || guardOff i s || (execTrap i s).isSome then s else (queuesAt i).foldl (fun s q => s.serveQ u q) s

/-- Sets an instruction's focus and enters its clause; an instruction that waited inside itself was counted when it issued. -/
def State.enter (s : State) (u g : Nat) (ks : List Nat) (i : Instr) (f : Focus) (cue : Nat) (counted : Bool) : State :=
  let s := { s with focus := f }
  ((if counted then s else s.countInstr u g i).takeTurns u i).enterClause u g ks i f cue

/-- What the lanes of a core up to a lane write and retire in this cycle comes before a pass that begins on that lane (R258; of its own
lane, log entry 33). -/
def State.landBelow (s : State) (core lane : Nat) : State :=
  ((s.laneWork core).filter fun e => e.1 ≤ lane).foldl (fun s e => s.laneTurn e.2.1 e.2.2) s

/-- The core cycle in which what is planned begins; a thread's turn and a second path begin at once. -/
def PlanItem.start : PlanItem → Nat
  | .group _ _ c _ => c
  | _ => 0

/-- Puts a pass behind those that begin no later. -/
def insertPlan (p : PlanItem) : List PlanItem → List PlanItem
  | [] => [p]
  | q :: r => if p.start < q.start then p :: q :: r else q :: insertPlan p r

/-- The strands of a pass that are served have age 0, the other eligible ones are a pass older (R152). -/
def Group.ageAll (x : Group) (eligible served : List Nat) : Group :=
  (x.onStrands eligible fun t => { t with age := min (t.age + 1) 16 }).onStrands served fun t => { t with age := 0 }

/-- Prepares a group's next pass, which may take so many lane-cycles: what the group would issue now may differ from what it would
have issued at the start of the slot (log entry 33). -/
def State.prepGroup (s : State) (u g limit : Nat) : Prep :=
  let s := s.landBelow (s.block u).core (s.grp u g).lane
  match s.choose u g with
  | (s, none) => .idle s
  | (s, some (p, l)) =>
    let before := (s.district (s.block u).dist).events.length
    if s.queueTaken u l then .idle { s with plan := insertPlan (.group u g (s.cycle + 1) limit) s.plan }
    else
    match (s.grp u g).handler with
    | some _ =>
      match l with
      | .go i f _ cue =>
        let again := (s.parts.any fun p => p.src == .sys u (g + 2 ^ 16)) ||
          (s.district (s.block u).dist).ctxOps.any fun o => o.blk == u && o.grp == g && o.handler
        -- an exchange result is written four lane-cycles after the pass ends (R222)
        let f := { f with before := before, wb := [(0, s.cycle, s.cycle + if classOf i == 3 then 5 else (costOf i).2)] }
        .run ((if again then s else s.countPass u 1).enter u g [] i f cue again) i
      | .trap c addr _ _ _ _ => .idle (s.fetchTrap (.handler u g) c addr)
      | .blocked => .idle s
    | none =>
      let (s, sec) := s.second u g p l
      let lay := s.layout u g limit p l sec
      let s := s.onGrp u g fun x => x.ageAll (s.eligible u g) lay.low
      -- a path that issues again the instruction in which it waits holds no lane for it
      let s := if p.wait != .none && lay.high.isEmpty then s else s.countPass u lay.cycles
      let also (s : State) : State := match sec with
        | some (_, m) =>
          if lay.high.isEmpty then s
          else { s with plan := .second u g m lay.high (fromCycle s.cycle lay.highWb) :: s.plan }
        | none => s
      if lay.low.isEmpty then .idle (also s)
      else
        match l with
        | .go i f _ cue =>
          let f := { f with kind := .path u g lay.low, more := !lay.high.isEmpty, before := before, wb := fromCycle s.cycle lay.lowWb }
          .run ((also s).enter u g lay.low i f cue (p.wait != .none)) i
        | .trap c addr pc hdr idx _ =>
          let s := also (s.fetchPark u g lay.low c addr pc hdr idx)
          .idle (if lay.high.isEmpty then s.settle u g else s)
        | .blocked => .idle s

/-- Prepares the second path of a pass; what the first has done may leave it unready, and its strands then wait for a later pass.  The
end of the pass is here whatever it does. -/
def State.prepSecond (s : State) (u g : Nat) (l : Look) (ks : List Nat) (wb : List (Nat × Nat × Nat)) : Prep :=
  let halt (s : State) : Prep := .idle (({ s with focus := {} }.performScr).settle u g)
  let young (s : State) : State := s.onStrands u g ks fun t => { t with age := 0 }
  match l with
  | .go i f _ cue =>
    let f := { f with kind := .path u g ks, second := true, wb := wb }
    let t := { s with focus := f }
    if (decodeTrap i t).isSome || guardOff i t || (execTrap i t).isSome || ready i t then .run ((young s).enter u g ks i f cue false) i
    else halt s
  | .trap c addr pc hdr idx _ => halt ((young s).fetchPark u g ks c addr pc hdr idx)
  | .blocked => halt s

/-! Service threads (R442, R444) -/

/-- A thread that the service processor may issue from. -/
def State.threadReady (s : State) (q : Nat) : Bool :=
  let x := s.squeue q
  (x.tstate == 1 || x.tstate == 2 && x.thread.seen != some x.notify) && (x.stopping.isNone || x.thread.busy && x.tstate == 1) &&
    x.thread.next ≤ s.cycle &&
    s.answeredBy (.thread q) && (!x.thread.waiting || x.thread.woke || x.thread.monLines.isEmpty)

/-- Code lines that a thread has left behind are dropped. -/
def State.dropCode (s : State) (q : Nat) (f : Focus) : State :=
  { s with parts := s.parts.filter fun p => p.src != .thread q || p.kind != .fetch || lineOf p.va = lineOf f.pc ||
      lineOf p.va = lineOf f.hdr }

def State.prepThread (s : State) (q : Nat) : Prep :=
  if !s.threadReady q then .idle s
  else
    let t := (s.squeue q).thread
    match s.look (.thread q) t.pc t.hdr t.idx with
    | (s, .blocked) => .idle s
    | (s, .trap c addr _ _ _ _) => .idle (s.fetchTrap (.thread q) c addr)
    | (s, .go i f _ _) =>
      let s := (s.dropCode q f).setThread q fun t => { t with pc := f.pc, hdr := f.hdr, idx := f.idx, next := s.cycle + 4 }
      let s := { s with focus := { f with before := (s.district (s.squeue q).district).events.length } }
      .run (if (decodeTrap i s).isNone && !t.busy && !t.waiting && t.seen.isNone then s.countThread q 0x06 else s) i

/-- Where the operation stands that goes on beside a group's handler, or after its path has left it, and the strands that wait in it. -/
def Group.keptAt (x : Group) : Option (Nat × Nat × Nat × List Nat) :=
  if x.busy != .system then none
  else
    match x.kept with
    | some (pc, hdr, idx) => some (pc, hdr, idx, [])
    | none =>
      if x.handler.isNone then none
      else
        match x.living.filter fun k => (x.strand k).wait == .system with
        | k :: r => some ((x.strand k).pc, (x.strand k).hdr, (x.strand k).idx, k :: r)
        | [] => none

/-- Prepares an operation that a group is blocked in to go on without its path (R161). -/
def State.prepKept (s : State) (u g : Nat) : Prep :=
  match (s.grp u g).keptAt with
  | none => .idle s
  | some (pc, hdr, idx, ks) =>
    if (Tbl.find u s.blocks).isNone || !(s.block u).resident || s.frozen u g || !s.answeredBy (.sys u g) then .idle s
    else
      match State.look { s with focus := { kept := true } } (.path u g ks) pc hdr idx with
      | (s, .go i f _ _) => .run { s with focus := f } i
      | (s, _) => .idle { s with focus := {} }

/-- Prepares what the plan holds next. -/
def State.prep (s : State) : PlanItem → Prep
  | .group u g _ n => s.prepGroup u g n
  | .kept u g => s.prepKept u g
  | .second u g l ks wb => s.prepSecond u g l ks wb
  | .thread q => s.prepThread q

/-! ISSUE_SLOT (R133, R173) and SP_ISSUE_CYCLE (R444) -/

/-- The groups of a lane: block, group, slot of the last issue, place in dispatch order. -/
def State.laneGroups (s : State) (core lane : Nat) : List (Nat × Nat) :=
  s.blocks.flatMap fun e =>
    if e.2.core = core ∧ e.2.resident then
      ((List.range e.2.groups.length).filter fun g => (e.2.group g).lane = lane && (e.2.group g).life == .live).map
        fun g => (e.1, g)
    else []

/-- The groups of a lane whose blocking operation goes on without them: it takes no lane-cycle. -/
def State.keptGroups (s : State) (core lane : Nat) : List (Nat × Nat) :=
  s.blocks.flatMap fun e =>
    if e.2.core = core ∧ e.2.resident then
      ((List.range e.2.groups.length).filter fun g => (e.2.group g).lane = lane && (e.2.group g).keptAt.isSome).map fun g => (e.1, g)
    else []

/-- The order of R133: the slot of the last issue, groups that yielded behind the others of their slot, then dispatch order. -/
def State.slotKeyOf (s : State) (e : Nat × Nat) : Nat × Nat × Nat :=
  let b := s.block e.1
  let x := b.group e.2
  (x.lastSlot, x.yielded.toNat, b.order * 1024 + e.2)

def keyLess (a b : Nat × Nat × Nat) : Bool :=
  a.1 < b.1 || (a.1 == b.1 && (a.2.1 < b.2.1 || (a.2.1 == b.2.1 && a.2.2 < b.2.2)))

def insertBy (f : Nat × Nat → Nat × Nat × Nat) (a : Nat × Nat) : List (Nat × Nat) → List (Nat × Nat)
  | [] => [a]
  | b :: r => if keyLess (f a) (f b) then a :: b :: r else b :: insertBy f a r

/-- The number of the present issue slot. -/
def State.slotNow (s : State) : Nat := s.cycle / 64

/-- A group that yielded in the slot before issues only where no other group of its lane is ready (R173). -/
def State.mustSkip (s : State) (x : Group) : Bool := x.yielded && x.lastSlot + 1 == s.slotNow

/-- Walks the order once and packs the passes that fit. -/
def State.pack (s : State) (held : Bool) (left : Nat) : List (Nat × Nat) → State × Nat
  | [] => (s, left)
  | (u, g) :: r =>
    if s.mustSkip (s.grp u g) != held then State.pack s held left r
    else
      match s.choose u g with
      | (s, some (p, l)) =>
        let n := s.costIf u g p l
        if n ≤ left then
          let slot := s.slotNow
          let s := s.onGrp u g fun x => { x with lastSlot := slot, yielded := false }
          State.pack { s with plan := insertPlan (.group u g (s.cycle + (64 - left)) n) s.plan } held (left - n) r
        else State.pack s held left r
      | (s, none) => State.pack s held left r

def State.issueSlotBy (s : State) (core lane : Nat) : State :=
  let order := (s.laneGroups core lane).foldl (fun l e => insertBy s.slotKeyOf e l) []
  let s := (s.keptGroups core lane).foldl (fun s e => { s with plan := insertPlan (.kept e.1 e.2) s.plan }) s
  let before := s.plan.length
  let (s, left) := s.pack false 64 order
  if s.plan.length = before then (s.pack true left order).1 else s

def execIssueSlot (core lane : Nat) (s : State) : Host.Outcome State Fault Refusal := .next (s.issueSlotBy core lane)

/-- The next ready thread after the last one that issued, with wraparound (R444). -/
def execSpIssueCycle (s : State) : Host.Outcome State Fault Refusal :=
  .next (match firstWith s.threadReady ((List.range 64).map fun k => (s.spLast + 1 + k) % 64) with
    | some q => { s with spLast := q, plan := insertPlan (.thread q) s.plan }
    | none => s)

/-! ICACHE_FILL -/

/-- A line of code enters a core's cache, which keeps the newest 2,048 (R2; log entry 26). -/
def CoreSt.putCode (c : CoreSt) (line : Nat) (bs : List W8) : CoreSt :=
  { c with icache := ((line, bs) :: c.icache.filter fun e => e.1 != line).take 2048 }

/-- A code line arrives (R155): a good line fills the cache; a negative reply waits for the fill, and the fetch is made again;
what traps stays for the path that asked. -/
def execIcacheFill (core id : Nat) (s : State) : Host.Outcome State Fault Refusal :=
  .next (match s.part id with
    | none => s
    | some p =>
      match p.st with
      | .replied (.accept d _ _ bad) =>
        if bad = 0 then (s.onCore core fun c => c.putCode (lineOf p.va) d).dropPart id else s
      | .replied .negative => if p.early then s.dropPart id else s.onPart id fun q => { q with st := .parked }
      | .woken => s.dropPart id
      | _ => s)

end Sys2Proof.Machine
end

