-- ==== Sys2Proof/Machine/Clock.lean ====
section
/-! DEFINITION. The clocks (R128, R379), the cue timer (R165, R166), and what one core cycle brings: the events that fall due
(95_what_each_step_holds.md), in a fixed order, and the work that waits. -/

namespace Sys2Proof.Machine

/-! Clocks -/

/-- STRAND_CLOCK_TICK (R379): the strands of resident groups, and the threads that run or wait. -/
def execStrandClockTick (s : State) : Host.Outcome State Fault Refusal :=
  let tick (t : Strand) : Strand := if t.isExited then t else { t with tick := tick64 (t.tick + 1) }
  .next { s with
    blocks := s.blocks.map fun (e : Nat × Block) =>
      if e.2.resident then (e.1, { e.2 with groups := e.2.groups.map fun x => { x with strands := x.strands.map tick } }) else e
    squeues := s.squeues.map fun (e : Nat × SQueue) =>
      if e.2.tstate = 1 ∨ e.2.tstate = 2 then (e.1, { e.2 with thread := { e.2.thread with tick := tick64 (e.2.thread.tick + 1) } }) else e }

/-- DISPATCH_CLOCK_TICK (R128). -/
def execDispatchClockTick (d : Nat) (s : State) : Host.Outcome State Fault Refusal :=
  .next (if (s.district d).state = 0 then s else s.onDistrict d fun x => { x with clock := tick64 (x.clock + 1) })

/-- COUNTER_UPDATE (R476). -/
def execCounterUpdate (d : Nat) (s : State) : Host.Outcome State Fault Refusal := .next (s.addEvents d)

/-! The cue timer (R165, R166) -/

/-- The timer runs. -/
def Group.cueRuns (x : Group) : Bool := x.handler.isNone && !x.living.isEmpty

/-- Whether an overrun abandons a wait: its instruction has had no effect (R161). -/
def Wait.abandoned : Wait → Bool
  | .rjoin .. | .gsync .. | .sleep | .bwait .. | .fence .. | .drain .. => true
  | _ => false

/-- The counter of the lowest path that is eligible, else of any strand that is not exited (Table 5 of R161). -/
def Group.overrunAt (x : Group) (ks : List Nat) : Nat :=
  match minBy (fun k => (x.strand k).pc) (if ks.isEmpty then x.living else ks) with
  | some k => (x.strand k).pc
  | none => 0

/-- CUE_OVERRUN: trap 0x09 with every strand that is not exited. -/
def execCueOverrun (blk grp : Nat) (s : State) : Host.Outcome State Fault Refusal :=
  .next (
    let b := s.block blk
    let x := b.group grp
    if (Tbl.find blk s.blocks).isNone || x.cueTimer != some 0 || !x.cueRuns || s.dying blk || !b.resident then s
    else
      let at' := x.overrunAt (s.eligible blk grp)
      let s := s.onGrp blk grp fun x =>
        { x with cueTimer := none
                 strands := x.strands.map fun t => if t.wait.abandoned then { t with wait := .none } else t }
      -- what a CRNG has asked goes with its wait: issued again, it asks again
      let s := { s with parts := s.parts.filter fun p => match p.src with
        | .sys v h => v != blk || h % 2 ^ 16 != grp || h < 2 ^ 20
        | _ => true }
      s.trapWith blk grp 0x09 x.cue.toNat at' x.living)

/-- One cycle of every timer that runs. -/
def State.countCues (s : State) : State :=
  { s with blocks := s.blocks.map fun (e : Nat × Block) =>
      if !e.2.resident then e
      else (e.1, { e.2 with groups := e.2.groups.map fun x =>
        match x.cueTimer with
        | some (n + 1) => if x.cueRuns then { x with cueTimer := some n } else x
        | _ => x }) }

def State.cueEvents (s : State) : List Instr :=
  s.blocks.flatMap fun e =>
    if !e.2.resident then []
    else ((List.range e.2.groups.length).filter fun g => (e.2.group g).cueTimer == some 0 && (e.2.group g).cueRuns).map
      fun g => Instr.cueOverrun e.1 g

/-! Work that the machine's units do by themselves -/

/-- Cores that have work, in increasing number (R483). -/
def State.busyCores (s : State) : List Nat :=
  (s.blocks.filterMap fun e => if e.2.resident then some e.2.core else none).foldl (fun l c => insertNat c l) []

/-- The next steps of a core's engines (R324 to R329, R297, R334). -/
def CoreSt.engineEvents (c : CoreSt) (core cycle : Nat) : List Instr :=
  let heads := c.eqs.zipIdx.flatMap fun q =>
    match q.1 with
    | [] => []
    | e :: _ =>
      match e.st with
      | .queued => [Instr.engineEntryStart core q.2]
      | .running =>
        if e.fetch.isSome then []
        else if e.decodes then [Instr.bdxChunkDecode core q.2, Instr.chunk core q.2] else [Instr.chunk core q.2]
      | .ended => if cycle % 64 = 0 then [Instr.completionRecordRetry core q.2] else [Instr.finish core q.2]
  let ops := c.tileOps.flatMap fun o =>
    [Instr.tileOpStart core o.id, Instr.operandFetch core o.id] ++ (List.range o.quarters.length).map fun q => Instr.sectionStep core o.id q
  let joint := (c.eq6.take 1).map fun o => Instr.tileOpStart core o.id
  heads ++ ops ++ joint

/-- The dispatch engine of a district: a switch or the end of a quantum, then the current VF's launches by priority (R117, R125,
R135 to R137). -/
def State.dispatchEvents (s : State) (d : Nat) (x : District) : List Instr :=
  let sw := if x.switchTo.isSome || (s.switchDue d).isSome then [Instr.worldSwitch d] else []
  let qe := match x.quantumStart, x.curVf with
    | some t, some v => if x.switchTo.isNone && t + 1300 * (Tbl.getD v x.vfs {}).quantum ≤ s.cycle then [Instr.quantumEnd d] else []
    | _, _ => []
  let mine := x.launches.filter fun l => x.serves l.vf
  let byPrio := (List.range 256).reverse.flatMap fun p => mine.filter fun l => l.prio == p
  sw ++ qe ++ byPrio.flatMap fun l =>
    (if s.mayBegin d l || l.st == .reading then [Instr.launchBeginDispatch d l.lid] else []) ++
      (s.awayOf d l.lid).map (fun b => Instr.blockRestore b.1) ++
      (if s.mayPlace d l then [Instr.coreSetPlace d l.lid, Instr.preemption d l.lid] else [])

/-- Cycles that a VF is current for are counted (event 0x01 of R476). -/
def State.countCurrent (s : State) (d : Nat) : State :=
  let x := s.district d
  match x.curVf with
  | some v => if x.state != 0 && x.counting then s.count d (vfNum d v) 0x01 1 else s
  | none => s

/-- A district's own work: stopped and killed blocks, contexts, resets, fault records, and its end. -/
def State.pumpDistrict (s : State) (d : Nat) : State :=
  let s := s.onDistrict d fun x => { x with aged := x.events.length }
  let s := ((((s.countQuantum d).countCurrent d).pumpKills d).pumpResets d).pumpFaults d
  let s := if (s.district d).state = 0 then s else s.pumpCtx d
  if (s.district d).state = 2 && s.empty d && s.dev.bstate != 1 then s.fence d else s

/-- Flits that a link may send in a core cycle: 3.125 a nanosecond at any clock (R399). -/
def State.flitsNow (s : State) : Nat := 3125 * (s.time + s.cycleTime) / usUnits - 3125 * s.time / usUnits

/-- What links, timeouts and kept replies bring (R399, R400, R408, R420, R421). -/
def State.fabricEvents (s : State) : List Instr :=
  let up := (s.links.filter fun l => l.2.state == 2)
  let links := up.flatMap fun l =>
    ((List.range s.flitsNow).flatMap fun i =>
      if (l.2.txSlot + i) % 256 = 0 then [Instr.frameStart l.1, Instr.flitSlot l.1] else [Instr.flitSlot l.1]) ++
      (if s.passed l.2.heard 1 then [Instr.linkSilenceTimeout l.1] else [])
  let late := (s.parts.filter fun p => p.st == .atHost && p.port == 0 && s.passed p.sentTime 100000).map fun p =>
    Instr.partTimeout p.id
  let kept := ((s.dev.replies.filter fun r => s.passed r.2.2.2.2 16000).map fun r => (r.1, r.2.1)).dedup
  links ++ late ++ kept.map fun r => Instr.replyKeepExpiry r.1 r.2

/-- Queues whose CONSUMED is due to be read again (R488). -/
def State.recheckEvents (s : State) : List Instr :=
  if s.cycle % 4096 = 0 then (s.squeues.filter fun q => q.2.kind == 3 && q.2.tstate != 0).map fun q => Instr.consumedRecheck q.1 else []

/-- What a core's lanes do in a cycle, in increasing lane number (R258): results whose cycle has come (R222), consumer masks that are
being retired (R30), and in the first cycle of a slot the choice of what issues (R133). -/
def State.laneEvents (s : State) (core : Nat) : List Instr :=
  let work := s.laneWork core
  (List.range 64).flatMap fun l =>
    ((work.filter fun e => e.1 == l).flatMap fun e =>
      let x := s.grp e.2.1 e.2.2
      ((x.pendWb.filter fun wb => wb.due ≤ s.cycle).map fun _ => Instr.laneWriteback e.2.1 e.2.2) ++
        match x.maskProg with
        | some m => m.queues.map fun q => Instr.consumerMaskAccept e.2.1 e.2.2 q
        | none => []) ++
      if s.cycle % 64 = 0 && !(s.laneGroups core l).isEmpty then [Instr.issueSlot core l] else []

/-- The events of a cycle. -/
def State.cycleEvents (s : State) : List Instr :=
  let parts := (s.parts.filter fun p => p.moves && p.due = s.cycle).map partEvent
  let ticks := if s.cycle % 16 = 0 then
      [Instr.strandClockTick, Instr.portClockTick] ++ s.districts.map fun d => Instr.dispatchClockTick d.1 else []
  let counters := if s.cycle % 16 = 0 then (s.districts.filter fun d => !d.2.events.isEmpty).map fun d => Instr.counterUpdate d.1 else []
  let cores := s.busyCores
  let engines := cores.flatMap fun c => (s.core c).engineEvents c s.cycle
  let lanes := cores.flatMap s.laneEvents
  let dispatch := s.districts.flatMap fun d => s.dispatchEvents d.1 d.2
  let sp := if (List.range 64).any s.threadReady then [Instr.spIssueCycle] else []
  let notices := if s.dev.hanosUp && !s.dev.notices.isEmpty then [Instr.hanosNoticeDelivery] else []
  let warm := if s.dev.bstate = 1 then [Instr.warmReset] else []
  parts ++ ticks ++ counters ++ s.cueEvents ++ lanes ++ engines ++ dispatch ++ sp ++ s.fabricEvents ++ s.recheckEvents ++
    notices ++ warm

/-- The work that waits goes on where it can. -/
def State.pump (s : State) : State :=
  let s := s.busyCores.foldl (fun s c => (s.pstRelease c 64).pumpLatch c) s
  let s := (s.districts.map Prod.fst).foldl (fun s d => s.pumpDistrict d) s.pumpStops.pumpSaves
  ((((s.pumpBoot.pumpThreads).pumpWrites).pumpReports).pumpPort).pumpKeys.routeOut

/-- One core cycle passes, and what falls due in it comes to the agenda. -/
def State.heartbeat (s : State) : State :=
  let s := ({ s with cycle := s.cycle + 1, time := s.time + s.cycleTime }.countCues).pump
  { s with agenda := s.agenda ++ s.cycleEvents }

end Sys2Proof.Machine
end

