-- ==== Sys2Proof/Machine/Dispatch.lean ====
section
/-! DEFINITION. One arm per constructor of Instr. -/

namespace Sys2Proof.Machine

def exec (i : Instr) (s : State) : Host.Outcome State Fault Refusal :=
  match i with
  | .iadd d a b p => Sys2Proof.Machine.execIadd d a b p s
  | .isub d a b p => Sys2Proof.Machine.execIsub d a b p s
  | .iaddc d a b p => Sys2Proof.Machine.execIaddc d a b p s
  | .imul d a b p => Sys2Proof.Machine.execImul d a b p s
  | .imulhI d a b p => Sys2Proof.Machine.execImulhI d a b p s
  | .imulhN d a b p => Sys2Proof.Machine.execImulhN d a b p s
  | .imac d a b c p x => Sys2Proof.Machine.execImac d a b c p x s
  | .imacw d a b c p x => Sys2Proof.Machine.execImacw d a b c p x s
  | .iminI d a b p => Sys2Proof.Machine.execIminI d a b p s
  | .iminN d a b p => Sys2Proof.Machine.execIminN d a b p s
  | .imaxI d a b p => Sys2Proof.Machine.execImaxI d a b p s
  | .imaxN d a b p => Sys2Proof.Machine.execImaxN d a b p s
  | .iabs d a p => Sys2Proof.Machine.execIabs d a p s
  | .ineg d a p => Sys2Proof.Machine.execIneg d a p s
  | .andB d a b p => Sys2Proof.Machine.execAndB d a b p s
  | .orB d a b p => Sys2Proof.Machine.execOrB d a b p s
  | .xorB d a b p => Sys2Proof.Machine.execXorB d a b p s
  | .andn d a b p => Sys2Proof.Machine.execAndn d a b p s
  | .notB d a p => Sys2Proof.Machine.execNotB d a p s
  | .shl d a b p => Sys2Proof.Machine.execShl d a b p s
  | .shr d a b p => Sys2Proof.Machine.execShr d a b p s
  | .asr d a b p => Sys2Proof.Machine.execAsr d a b p s
  | .rol d a b p => Sys2Proof.Machine.execRol d a b p s
  | .fshf d a b c p x => Sys2Proof.Machine.execFshf d a b c p x s
  | .bfxI d a b p x => Sys2Proof.Machine.execBfxI d a b p x s
  | .bfxN d a b p x => Sys2Proof.Machine.execBfxN d a b p x s
  | .bfi d a b c p x => Sys2Proof.Machine.execBfi d a b c p x s
  | .popc d a p => Sys2Proof.Machine.execPopc d a p s
  | .clz d a p => Sys2Proof.Machine.execClz d a p s
  | .brev d a p => Sys2Proof.Machine.execBrev d a p s
  | .mov d a width p => Sys2Proof.Machine.execMov d a width p s
  | .sel d a b sel => Sys2Proof.Machine.execSel d a b sel s
  | .icmpI d a b p x => Sys2Proof.Machine.execIcmpI d a b p x s
  | .icmpN d a b p x => Sys2Proof.Machine.execIcmpN d a b p x s
  | .lea d a b p x => Sys2Proof.Machine.execLea d a b p x s
  | .bsel d a b c p x => Sys2Proof.Machine.execBsel d a b c p x s
  | .plog t a b c p x => Sys2Proof.Machine.execPlog t a b c p x s
  | .pmov d a p => Sys2Proof.Machine.execPmov d a p s
  | .iadd64 d a b p => Sys2Proof.Machine.execIadd64 d a b p s
  | .isub64 d a b p => Sys2Proof.Machine.execIsub64 d a b p s
  | .shl64 d a b p => Sys2Proof.Machine.execShl64 d a b p s
  | .shr64 d a b p => Sys2Proof.Machine.execShr64 d a b p s
  | .fadd d a b p => Sys2Proof.Machine.execFadd d a b p s
  | .fsub d a b p => Sys2Proof.Machine.execFsub d a b p s
  | .fmul d a b p => Sys2Proof.Machine.execFmul d a b p s
  | .ffma d a b c p x => Sys2Proof.Machine.execFfma d a b c p x s
  | .fmin d a b p => Sys2Proof.Machine.execFmin d a b p s
  | .fmax d a b p => Sys2Proof.Machine.execFmax d a b p s
  | .fcmp d a b p x => Sys2Proof.Machine.execFcmp d a b p x s
  | .fneg d a p => Sys2Proof.Machine.execFneg d a p s
  | .fabs d a p => Sys2Proof.Machine.execFabs d a p s
  | .frcp d a p => Sys2Proof.Machine.execFrcp d a p s
  | .frsq d a p => Sys2Proof.Machine.execFrsq d a p s
  | .fsqrt d a p => Sys2Proof.Machine.execFsqrt d a p s
  | .fdiv d a b p => Sys2Proof.Machine.execFdiv d a b p s
  | .fex2 d a p => Sys2Proof.Machine.execFex2 d a p s
  | .flg2 d a p => Sys2Proof.Machine.execFlg2 d a p s
  | .fsin d a p => Sys2Proof.Machine.execFsin d a p s
  | .fcos d a p => Sys2Proof.Machine.execFcos d a p s
  | .fscale d a b p => Sys2Proof.Machine.execFscale d a b p s
  | .duoadd d a b p x => Sys2Proof.Machine.execDuoadd d a b p x s
  | .duomul d a b p x => Sys2Proof.Machine.execDuomul d a b p x s
  | .duofma d a b c p x => Sys2Proof.Machine.execDuofma d a b c p x s
  | .dadd d a b p => Sys2Proof.Machine.execDadd d a b p s
  | .dmul d a b p => Sys2Proof.Machine.execDmul d a b p s
  | .dfma d a b c p x => Sys2Proof.Machine.execDfma d a b c p x s
  | .dcmp d a b p x => Sys2Proof.Machine.execDcmp d a b p x s
  | .cvt d a p x => Sys2Proof.Machine.execCvt d a p x s
  | .pack d a b p x => Sys2Proof.Machine.execPack d a b p x s
  | .unpk d a p x => Sys2Proof.Machine.execUnpk d a p x s
  | .dot4 d a b c p x => Sys2Proof.Machine.execDot4 d a b c p x s
  | .dot8 d a b c p x => Sys2Proof.Machine.execDot8 d a b c p x s
  | .poll d a p x => Sys2Proof.Machine.execPoll d a p x s
  | .ballot d a b p => Sys2Proof.Machine.execBallot d a b p s
  | .pick d a b c p x => Sys2Proof.Machine.execPick d a b c p x s
  | .xget d a b => Sys2Proof.Machine.execXget d a b s
  | .xput d a b => Sys2Proof.Machine.execXput d a b s
  | .bcast d a b p => Sys2Proof.Machine.execBcast d a b p s
  | .redX d a p x => Sys2Proof.Machine.execRedX d a p x s
  | .scan d a p x => Sys2Proof.Machine.execScan d a p x s
  | .matchX d a p => Sys2Proof.Machine.execMatchX d a p s
  | .rots d a b p => Sys2Proof.Machine.execRots d a b p s
  | .nop bp => Sys2Proof.Machine.execNop bp s
  | .bra bp ps off => Sys2Proof.Machine.execBra bp ps off s
  | .brc bp ps off => Sys2Proof.Machine.execBrc bp ps off s
  | .brd bp ps off => Sys2Proof.Machine.execBrd bp ps off s
  | .brx a bp => Sys2Proof.Machine.execBrx a bp s
  | .call bp off => Sys2Proof.Machine.execCall bp off s
  | .ret bp => Sys2Proof.Machine.execRet bp s
  | .rjoin bp => Sys2Proof.Machine.execRjoin bp s
  | .exit bp => Sys2Proof.Machine.execExit bp s
  | .wait wl ws wc wt bp => Sys2Proof.Machine.execWait wl ws wc wt bp s
  | .yield bp => Sys2Proof.Machine.execYield bp s
  | .trap k bp => Sys2Proof.Machine.execTrapI k bp s
  | .rett => Sys2Proof.Machine.execRett s
  | .loop bp cr off => Sys2Proof.Machine.execLoop bp cr off s
  | .cue k bp => Sys2Proof.Machine.execCue k bp s
  | .wmov d a bp => Sys2Proof.Machine.execWmov d a bp s
  | .wli d lo hi bp => Sys2Proof.Machine.execWli d lo hi bp s
  | .wadd d a b bp => Sys2Proof.Machine.execWadd d a b bp s
  | .wsub d a b bp => Sys2Proof.Machine.execWsub d a b bp s
  | .wmul d a b bp => Sys2Proof.Machine.execWmul d a b bp s
  | .wand d a b bp => Sys2Proof.Machine.execWand d a b bp s
  | .wor d a b bp => Sys2Proof.Machine.execWor d a b bp s
  | .wxor d a b bp => Sys2Proof.Machine.execWxor d a b bp s
  | .wshl d a b bp => Sys2Proof.Machine.execWshl d a b bp s
  | .wshr d a b bp => Sys2Proof.Machine.execWshr d a b bp s
  | .wasr d a b bp => Sys2Proof.Machine.execWasr d a b bp s
  | .wmin d a b bp => Sys2Proof.Machine.execWmin d a b bp s
  | .wmax d a b bp => Sys2Proof.Machine.execWmax d a b bp s
  | .wcmp c t a b bp => Sys2Proof.Machine.execWcmp c t a b bp s
  | .wsel d a b sel => Sys2Proof.Machine.execWsel d a b sel s
  | .wadd64 d a b bp => Sys2Proof.Machine.execWadd64 d a b bp s
  | .wrs d reg bp => Sys2Proof.Machine.execWrs d reg bp s
  | .wws reg a bp => Sys2Proof.Machine.execWws reg a bp s
  | .wpopc d a bp => Sys2Proof.Machine.execWpopc d a bp s
  | .ld k data base index p sx hint off => Sys2Proof.Machine.execLd k data base index p sx hint off s
  | .st k data base index p hint off => Sys2Proof.Machine.execSt k data base index p hint off s
  | .lds k data base index p sx off => Sys2Proof.Machine.execLds k data base index p sx off s
  | .sts k data base index p off => Sys2Proof.Machine.execSts k data base index p off s
  | .ldw data base index p ty hint off => Sys2Proof.Machine.execLdw data base index p ty hint off s
  | .stw data base index p ty hint off => Sys2Proof.Machine.execStw data base index p ty hint off s
  | .atom data base index c p ty aop hint off => Sys2Proof.Machine.execAtom data base index c p ty aop hint off s
  | .atoms data base index c p ty aop off => Sys2Proof.Machine.execAtoms data base index c p ty aop off s
  | .red data base index p ty aop hint off => Sys2Proof.Machine.execRed data base index p ty aop hint off s
  | .pst data base index p ty off => Sys2Proof.Machine.execPst data base index p ty off s
  | .pref base index p hint off => Sys2Proof.Machine.execPref base index p hint off s
  | .fenceP p => Sys2Proof.Machine.execFenceP p s
  | .fenceH p => Sys2Proof.Machine.execFenceH p s
  | .fenceA p => Sys2Proof.Machine.execFenceA p s
  | .mon base index p off => Sys2Proof.Machine.execMon base index p off s
  | .sleep p => Sys2Proof.Machine.execSleep p s
  | .qpeek d q bp => Sys2Proof.Machine.execQpeek d q bp s
  | .qcnt d q bp => Sys2Proof.Machine.execQcnt d q bp s
  | .qdrop q b bp => Sys2Proof.Machine.execQdrop q b bp s
  | .binit a b bp => Sys2Proof.Machine.execBinit a b bp s
  | .barr a bp => Sys2Proof.Machine.execBarr a bp s
  | .barx a b bp => Sys2Proof.Machine.execBarx a b bp s
  | .brmt a bp => Sys2Proof.Machine.execBrmt a bp s
  | .bwait a b bp => Sys2Proof.Machine.execBwait a b bp s
  | .btest t a b bp => Sys2Proof.Machine.execBtest t a b bp s
  | .gsync bp => Sys2Proof.Machine.execGsync bp s
  | .sacq d q bp => Sys2Proof.Machine.execSacq d q bp s
  | .srel q bp => Sys2Proof.Machine.execSrel q bp s
  | .gang a bp => Sys2Proof.Machine.execGang a bp s
  | .obres a imm bp => Sys2Proof.Machine.execObres a imm bp s
  | .obrel imm bp => Sys2Proof.Machine.execObrel imm bp s
  | .mbld a b mode imm bp => Sys2Proof.Machine.execMbld a b mode imm bp s
  | .mma a b c mode imm bp => Sys2Proof.Machine.execMma a b c mode imm bp s
  | .mzero imm bp => Sys2Proof.Machine.execMzero imm bp s
  | .mdrn a b c e mode imm bp => Sys2Proof.Machine.execMdrn a b c e mode imm bp s
  | .mstat d bp => Sys2Proof.Machine.execMstat d bp s
  | .mldacc a b imm bp => Sys2Proof.Machine.execMldacc a b imm bp s
  | .msvacc a b imm bp => Sys2Proof.Machine.execMsvacc a b imm bp s
  | .mcancel mode bp => Sys2Proof.Machine.execMcancel mode bp s
  | .cpy d a b c e eq mode bp => Sys2Proof.Machine.execCpy d a b c e eq mode bp s
  | .cpyt d a b c e eq mode bp => Sys2Proof.Machine.execCpyt d a b c e eq mode bp s
  | .cpym d a b c e eq mode bp => Sys2Proof.Machine.execCpym d a b c e eq mode bp s
  | .gath d a b c e eq mode bp => Sys2Proof.Machine.execGath d a b c e eq mode bp s
  | .scat d a b c e eq mode bp => Sys2Proof.Machine.execScat d a b c e eq mode bp s
  | .rcpy d a b c e eq mode bp => Sys2Proof.Machine.execRcpy d a b c e eq mode bp s
  | .crng a eq mode bp => Sys2Proof.Machine.execCrng a eq mode bp s
  | .xfmMove d a b c e eq lo hi bp => Sys2Proof.Machine.execXfmMove d a b c e eq lo hi bp s
  | .xfmCvt d a b c e eq lo hi bp => Sys2Proof.Machine.execXfmCvt d a b c e eq lo hi bp s
  | .xfmMxq d a b c e eq lo hi bp => Sys2Proof.Machine.execXfmMxq d a b c e eq lo hi bp s
  | .xfmMxdq d a b c e eq lo hi bp => Sys2Proof.Machine.execXfmMxdq d a b c e eq lo hi bp s
  | .xfmBdxd d a b c e eq lo hi bp => Sys2Proof.Machine.execXfmBdxd d a b c e eq lo hi bp s
  | .xfmBdxe d a b c e eq lo hi bp => Sys2Proof.Machine.execXfmBdxe d a b c e eq lo hi bp s
  | .xfmCrcg d a b c e eq lo hi bp => Sys2Proof.Machine.execXfmCrcg d a b c e eq lo hi bp s
  | .xfmCrcv d a b c e eq lo hi bp => Sys2Proof.Machine.execXfmCrcv d a b c e eq lo hi bp s
  | .qfence mask bp => Sys2Proof.Machine.execQfence mask bp s
  | .drainScr bp => Sys2Proof.Machine.execDrainScr bp s
  | .drainL1 bp => Sys2Proof.Machine.execDrainL1 bp s
  | .drainMem bp => Sys2Proof.Machine.execDrainMem bp s
  | .trig bp => Sys2Proof.Machine.execTrig bp s
  | .svc d a b bp => Sys2Proof.Machine.execSvc d a b bp s
  | .cntr d a bp => Sys2Proof.Machine.execCntr d a bp s
  | .cntc d a b bp => Sys2Proof.Machine.execCntc d a b bp s
  | .pkw d a b bp => Sys2Proof.Machine.execPkw d a b bp s
  | .dtw d a b bp => Sys2Proof.Machine.execDtw d a b bp s
  | .hinv d a b bp => Sys2Proof.Machine.execHinv d a b bp s
  | .watch d a bp => Sys2Proof.Machine.execWatch d a bp s
  | .spwtWait d a bp => Sys2Proof.Machine.execSpwtWait d a bp s
  | .spwtSubmit d a bp => Sys2Proof.Machine.execSpwtSubmit d a bp s
  | .spwtReply d a bp => Sys2Proof.Machine.execSpwtReply d a bp s
  | .spwtKill d a bp => Sys2Proof.Machine.execSpwtKill d a bp s
  | .ctxs d a b bp => Sys2Proof.Machine.execCtxs d a b bp s
  | .ctxr d a bp => Sys2Proof.Machine.execCtxr d a bp s
  | .halt bp => Sys2Proof.Machine.execHalt bp s
  | .issueSlot core lane => Sys2Proof.Machine.execIssueSlot core lane s
  | .laneWriteback blk grp => Sys2Proof.Machine.execLaneWriteback blk grp s
  | .consumerMaskAccept blk grp queue => Sys2Proof.Machine.execConsumerMaskAccept blk grp queue s
  | .strandClockTick => Sys2Proof.Machine.execStrandClockTick s
  | .dispatchClockTick d => Sys2Proof.Machine.execDispatchClockTick d s
  | .portClockTick => Sys2Proof.Machine.execPortClockTick s
  | .cueOverrun blk grp => Sys2Proof.Machine.execCueOverrun blk grp s
  | .quantumEnd d => Sys2Proof.Machine.execQuantumEnd d s
  | .worldSwitch d => Sys2Proof.Machine.execWorldSwitch d s
  | .launchBeginDispatch d lid => Sys2Proof.Machine.execLaunchBeginDispatch d lid s
  | .coreSetPlace d lid => Sys2Proof.Machine.execCoreSetPlace d lid s
  | .preemption d lid => Sys2Proof.Machine.execPreemption d lid s
  | .blockRestore blk => Sys2Proof.Machine.execBlockRestore blk s
  | .partReply part => Sys2Proof.Machine.execPartReply part s
  | .loadDataArrival part => Sys2Proof.Machine.execLoadDataArrival part s
  | .icacheFill core part => Sys2Proof.Machine.execIcacheFill core part s
  | .wake part => Sys2Proof.Machine.execWake part s
  | .engineWake part => Sys2Proof.Machine.execEngineWake part s
  | .brmtArrival blk off uid tick => Sys2Proof.Machine.execBrmtArrival blk off uid tick s
  | .engineEntryStart core eq => Sys2Proof.Machine.execEngineEntryStart core eq s
  | .chunk core eq => Sys2Proof.Machine.execChunk core eq s
  | .bdxChunkDecode core eq => Sys2Proof.Machine.execBdxChunkDecode core eq s
  | .finish core eq => Sys2Proof.Machine.execFinish core eq s
  | .completionRecordRetry core eq => Sys2Proof.Machine.execCompletionRecordRetry core eq s
  | .operandFetch core op => Sys2Proof.Machine.execOperandFetch core op s
  | .tileOpStart core op => Sys2Proof.Machine.execTileOpStart core op s
  | .sectionStep core op quarter => Sys2Proof.Machine.execSectionStep core op quarter s
  | .tileFault core op code => Sys2Proof.Machine.execTileFault core op code s
  | .homeRead part => Sys2Proof.Machine.execHomeRead part s
  | .homeWrite part => Sys2Proof.Machine.execHomeWrite part s
  | .homeAtomic part => Sys2Proof.Machine.execHomeAtomic part s
  | .retryReply part => Sys2Proof.Machine.execRetryReply part s
  | .timestampEvict home line => Sys2Proof.Machine.execTimestampEvict home line s
  | .delegate home line => Sys2Proof.Machine.execDelegate home line s
  | .ceilingRaise home line ceiling => Sys2Proof.Machine.execCeilingRaise home line ceiling s
  | .writeThrough home line first ts bytes => Sys2Proof.Machine.execWriteThrough home line first ts bytes s
  | .recall home line => Sys2Proof.Machine.execRecall home line s
  | .lineReturn home line wts rts => Sys2Proof.Machine.execLineReturn home line wts rts s
  | .flitSlot link => Sys2Proof.Machine.execFlitSlot link s
  | .frameStart link => Sys2Proof.Machine.execFrameStart link s
  | .linkSilenceTimeout link => Sys2Proof.Machine.execLinkSilenceTimeout link s
  | .linkDown link => Sys2Proof.Machine.execLinkDown link s
  | .partTimeout part => Sys2Proof.Machine.execPartTimeout part s
  | .replyKeepExpiry src tag => Sys2Proof.Machine.execReplyKeepExpiry src tag s
  | .spIssueCycle => Sys2Proof.Machine.execSpIssueCycle s
  | .consumedRecheck q => Sys2Proof.Machine.execConsumedRecheck q s
  | .hanosNoticeDelivery => Sys2Proof.Machine.execHanosNoticeDelivery s
  | .warmReset => Sys2Proof.Machine.execWarmReset s
  | .coldReset => Sys2Proof.Machine.execColdReset s
  | .counterUpdate d => Sys2Proof.Machine.execCounterUpdate d s
  | .hanosLinkDown => Sys2Proof.Machine.execHanosLinkDown s
  | .flitReceive link f => Sys2Proof.Machine.execFlitReceive link f s
  | .packetReceive link k => Sys2Proof.Machine.execPacketReceive link k s
  | .linkTraining master link rtt plane plaza => Sys2Proof.Machine.execLinkTraining master link rtt plane plaza s
  | .linkStop master link => Sys2Proof.Machine.execLinkStop master link s
  | .avtWrite master link group value => Sys2Proof.Machine.execAvtWrite master link group value s
  | .districtForm master d => Sys2Proof.Machine.execDistrictForm master d s
  | .districtDrain master d => Sys2Proof.Machine.execDistrictDrain master d s
  | .vfReset master d v scrub => Sys2Proof.Machine.execVfReset master d v scrub s
  | .vfFlr f => Sys2Proof.Machine.execVfFlr f s
  | .queueEnable master q => Sys2Proof.Machine.execQueueEnable master q s
  | .queueDisable master q => Sys2Proof.Machine.execQueueDisable master q s
  | .notify q value => Sys2Proof.Machine.execNotify q value s
  | .notifyPageWrite f q value tc ide => Sys2Proof.Machine.execNotifyPageWrite f q value tc ide s
  | .semaphoreAcquire master => Sys2Proof.Machine.execSemaphoreAcquire master s
  | .semaphoreRelease master => Sys2Proof.Machine.execSemaphoreRelease master s
  | .semaphoreBreak master => Sys2Proof.Machine.execSemaphoreBreak master s
  | .controlPlaneWrite master off size value tc ide => Sys2Proof.Machine.execControlPlaneWrite master off size value tc ide s
  | .hostMemoryRead f off len tc tag ide => Sys2Proof.Machine.execHostMemoryRead f off len tc tag ide s
  | .hostMemoryWrite f off tc ide bytes => Sys2Proof.Machine.execHostMemoryWrite f off tc ide bytes s
  | .hostAtomicop f off tc op size operand cmp tag ide => Sys2Proof.Machine.execHostAtomicop f off tc op size operand cmp tag ide s
  | .hanosHostRead stream va len tag => Sys2Proof.Machine.execHanosHostRead stream va len tag s
  | .hanosHostWrite stream va bytes => Sys2Proof.Machine.execHanosHostWrite stream va bytes s
  | .hanosHostAtomic stream va aop ty operand cmp tag => Sys2Proof.Machine.execHanosHostAtomic stream va aop ty operand cmp tag s
  | .keyGen master slot => Sys2Proof.Machine.execKeyGen master slot s
  | .keyLoad master slot => Sys2Proof.Machine.execKeyLoad master slot s
  | .keyClear master slot => Sys2Proof.Machine.execKeyClear master slot s
  | .bootFromRecovery master => Sys2Proof.Machine.execBootFromRecovery master s
  | .commitSvn master => Sys2Proof.Machine.execCommitSvn master s
  | .extendMr master mri => Sys2Proof.Machine.execExtendMr master mri s
  | .attestationRequest f nonce => Sys2Proof.Machine.execAttestationRequest f nonce s
  | .ideKeyProgram stream key funcs => Sys2Proof.Machine.execIdeKeyProgram stream key funcs s
  | .powerClockStep watts => Sys2Proof.Machine.execPowerClockStep watts s
  | .dcfgWrite master d reg value => Sys2Proof.Machine.execDcfgWrite master d reg value s
  | .softError k => Sys2Proof.Machine.execSoftError k s
  | .hostFrameCompletion part good bytes => Sys2Proof.Machine.execHostFrameCompletion part good bytes s
  | .pcieLinkDown => Sys2Proof.Machine.execPcieLinkDown s
  | .pcieLinkUp => Sys2Proof.Machine.execPcieLinkUp s

end Sys2Proof.Machine
end

