-- ==== Sys2Proof/Machine/Place.lean ====
section
/-! DEFINITION. A program placed for one instruction: the launch, block and group that a dispatch would have made, with the
clause of the instruction in the instruction cache (log entry 40). -/

namespace Sys2Proof.Machine

/-- A launch header (Table 2 of R118) with ENTRY 0, groups of 8 strands, 64 registers, no role map, domain 0 and privilege. -/
def placedHeader : List W8 :=
  leBytes 8 0 ++ leBytes 8 3 ++ leBytes 8 1 ++ leBytes 4 (64 * 4) ++ leBytes 4 0 ++ leBytes 8 (2 ^ 64 - 1) ++
    List.replicate 0x57 0 ++ leBytes 1 2 ++ List.replicate 0x80 0

/-- The class of a table word, and its words: a control transfer stands alone in its clause. -/
def placedClause (nbits w : Nat) : Nat × List W32 :=
  match tableClass nbits w with
  | some (c, _) =>
    let ws := tableWords nbits w
    (c, match decode c ws with
      | .ok (_, n) => ws.take n
      | .error _ => ws.take 1)
  | none => (0, tableWords nbits w)

/-- The bytes of the line that holds the header and the words of a clause. -/
def placedLine (cls : Nat) (ws : List W32) : List W8 :=
  let h : Header := { cue := 0, dual := false, yieldAfter := false, join := false, wt := 7, wc := 7, ws := 7, wl := 7,
                      cls := cls, n := ws.length }
  let bs := (encodeHeader h :: ws).flatMap fun x => leBytes 4 x.toNat
  bs ++ List.replicate (64 - bs.length) 0

/-- A strand that stands on the clause's first word. -/
def placedStrand : Strand := { pc := 4, hdr := 0, idx := 1 }

/-- A group of eight strands as the dispatch engine leaves it (R126). -/
def placedGroup : Group :=
  { w := List.replicate 32 0, vregs := List.replicate 64 { deltas := List.replicate 8 0 },
    strands := List.replicate 8 placedStrand }

/-- Places a clause on core 0 of district 0 and plans its pass. -/
def State.place (s : State) (cls : Nat) (ws : List W32) : State :=
  let u := s.nextUid
  let launch : Launch := { lid := 1, vf := 0, prio := 0, header := placedHeader, st := .dispatching, counts := [1, 1, 1, 1], cursor := 1, untrig := 8 }
  let s := s.onDistrict 0 fun d => { d with state := 2, vfcount := 1, curVf := some 0, clusters := 1, launches := [launch] }
  let s := s.onCore 0 fun c =>
    { c.putCode 0 (placedLine cls ws) with
             slots := [some { dist := 0, domain := 0, entries := [BitVec.ofNat 32 0x1f] }, none, none, none] }
  { s with
    nextUid := u + 1
    blocks := Tbl.put u { lid := 1, queues := List.replicate 16 {}, groups := [placedGroup] } s.blocks
    plan := [.group u 0 0 64], agenda := [] }

end Sys2Proof.Machine
end

