-- ==== Sys2Proof/Machine/Step.lean ====
section
/-! DEFINITION. One step of the machine: the next planned pass, else the next event, else one core cycle. -/

namespace Sys2Proof.Machine

/-- The present instruction is over. -/
def unfocus : Host.Outcome State Fault Refusal → Host.Outcome State Fault Refusal
  | .next s => .next { s with focus := {} }
  | o => o

/-- The planned pass that begins now, if one does, and the plan behind it. -/
def State.planned (s : State) : Option (PlanItem × List PlanItem) :=
  match s.plan with
  | item :: r => if item.start ≤ s.cycle then some (item, r) else none
  | [] => none

def step (s : State) : Host.Outcome State Fault Refusal :=
  match s.planned with
  | some (item, r) =>
    match { s with plan := r }.prep item with
    | .idle t => .next t
    | .run t i => unfocus (exec i t)
  | none =>
    match s.agenda with
    | e :: r => exec e { s with agenda := r }
    | [] => .next s.heartbeat

/-- The state with one instruction of the opcode table placed where the next step fetches: programs come to the machine through
a launch, and this stands for it (log entry 40). -/
def State.withFetchWord (s : State) (nbits w : Nat) : State :=
  let c := placedClause nbits w
  s.place c.1 c.2

end Sys2Proof.Machine
end

