-- ==== Sys2Proof/Safety.lean ====
section
/-! DEFINITION. The terms that claims about runs use: when an instruction has its own effect, from which operands, and what
every step keeps. -/

namespace Sys2Proof.Machine

/-- The state in which the effect of an instruction starts, and the elements that its queue sources gave: its register soft errors
are read (R218) and its sources are popped in order (R256, R259).  A service thread has neither. -/
def State.operands (s : State) (i : Instr) : State × List Elem :=
  match s.who with
  | some (u, g, _) => (s.softRead u g i).popSrcs u g ((s.softRead u g i).coverOf i) (srcs i)
  | none => (s, [])

/-- An instruction has its own effect in a state: something issues it, no check at decode or at execution stops it (R53, R157,
R162, R260, R442), its guard lets it run (R69), it is ready (R132), and a register soft error leaves its path a strand (R218). -/
def State.runs (s : State) (i : Instr) : Bool :=
  s.focus.kind != .none && !handlerFault i s && (decodeTrap i s).isNone && !guardOff i s && (execTrap i s).isNone && ready i s &&
    match s.who with
    | some (u, g, _) => ((s.softRead u g i).focus.kind != .path u g [] || (s.softRead u g i).focus.kept)
    | none => true

/-- The path goes on behind the present instruction, and the pass ends (R150, R158, R164, R170, R171). -/
def State.passes (s : State) : State := s.advance.endPass

/-- What every step keeps: memory holds its one form. -/
def State.Inv (s : State) : Prop := Memory.wf s.mem = true

/-- What a reader of memory sees at an address. -/
def State.byteAt (s : State) (a : Nat) : W8 := cellGet a s.mem

end Sys2Proof.Machine
end

