-- ==== Sys2Proof/Certificates/Slice0/Obligations.lean ====
section
/-! DEFINITION. The statements for the provers, each formalising rules of spec/, and the tables of results that they use, written from
the rules beside the meanings. -/

namespace Sys2Proof.Claims
open Sys2Proof.Machine

/-! Results of the strand instructions: the format of each source, and the result from the old value of the destination and the
sources. -/

/-- A result rule. -/
abbrev Rule := List Fmt × (Nat → List Nat → Nat)

/-- A signed 32-bit reading. -/
def int32 (x : Nat) : Int := (BitVec.ofNat 32 x).toInt

/-- Word operands and a word result. -/
def words (n : Nat) (op : List Nat → Int) : Option Rule :=
  some (List.replicate n .n32, fun _ l => (op l % 2 ^ 32).toNat)

/-- A sum of products, wrapped or clamped (R227). -/
def macRule (x : Fx) (fc : Fmt) (n : Nat) : Option Rule :=
  let sa := x.opxN % 2 = 1
  let sb := x.opxN / 2 % 2 = 1
  let as (signed : Bool) (w v : Nat) : Int := if signed then (BitVec.ofNat w v).toInt else ((v % 2 ^ w : Nat) : Int)
  some ([.n32, .n32, fc], fun _ l =>
    let t := as sa 32 (l.getD 0 0) * as sb 32 (l.getD 1 0) + as (sa || sb) n (l.getD 2 0)
    let lo : Int := if sa || sb then -2 ^ (n - 1) else 0
    let hi : Int := if sa || sb then 2 ^ (n - 1) - 1 else 2 ^ n - 1
    ((if x.sat then max lo (min t hi) else t) % 2 ^ n).toNat)

/-- Position and length of a bit field: IMM [4:0] and [10:5], or bytes 0 and 1 of B (R230). -/
def fieldAt (x : Fx) (b : Nat) : Nat × Nat :=
  if x.opxN % 2 = 1 then (x.immN % 32, x.immN / 32 % 64) else (b % 256, b / 256 % 256)

/-- The results of R226 to R231 and R233, R234 for integers and logic. -/
def intRule : Instr → Option Rule
  | .iadd .. => words 2 fun l => (l.getD 0 0 + l.getD 1 0 : Nat)
  | .isub .. => words 2 fun l => (l.getD 0 0 : Int) - l.getD 1 0
  | .iaddc .. => some ([.n32, .n32], fun _ l => if 2 ^ 32 ≤ l.getD 0 0 + l.getD 1 0 then 1 else 0)
  | .imul .. => words 2 fun l => (l.getD 0 0 * l.getD 1 0 : Nat)
  | .imulhI .. => words 2 fun l => int32 (l.getD 0 0) * int32 (l.getD 1 0) / 2 ^ 32
  | .imulhN .. => words 2 fun l => (l.getD 0 0 * l.getD 1 0 / 2 ^ 32 : Nat)
  | .imac _ _ _ _ _ x => macRule x .n32 32
  | .imacw _ _ _ _ _ x => macRule x (if x.opxN % 4 = 0 then .n64 else .i64) 64
  | .iminI .. => words 2 fun l => min (int32 (l.getD 0 0)) (int32 (l.getD 1 0))
  | .iminN .. => words 2 fun l => (min (l.getD 0 0) (l.getD 1 0) : Nat)
  | .imaxI .. => words 2 fun l => max (int32 (l.getD 0 0)) (int32 (l.getD 1 0))
  | .imaxN .. => words 2 fun l => (max (l.getD 0 0) (l.getD 1 0) : Nat)
  | .iabs .. => words 1 fun l => |int32 (l.getD 0 0)|
  | .ineg .. => words 1 fun l => -(l.getD 0 0 : Int)
  | .andB .. => words 2 fun l => (l.getD 0 0 &&& l.getD 1 0 : Nat)
  | .orB .. => words 2 fun l => (l.getD 0 0 ||| l.getD 1 0 : Nat)
  | .xorB .. => words 2 fun l => (l.getD 0 0 ^^^ l.getD 1 0 : Nat)
  | .andn .. => words 2 fun l => (l.getD 0 0 &&& (2 ^ 32 - 1 - l.getD 1 0) : Nat)
  | .notB .. => words 1 fun l => -1 - (l.getD 0 0 : Int)
  | .shl .. => words 2 fun l => if l.getD 1 0 < 32 then (l.getD 0 0 <<< l.getD 1 0 : Nat) else 0
  | .shr .. => words 2 fun l => if l.getD 1 0 < 32 then (l.getD 0 0 >>> l.getD 1 0 : Nat) else 0
  | .asr .. => words 2 fun l => int32 (l.getD 0 0) / 2 ^ min (l.getD 1 0) 32
  | .rol .. => words 2 fun l => (l.getD 0 0 * 2 ^ (l.getD 1 0 % 32) + l.getD 0 0 / 2 ^ (32 - l.getD 1 0 % 32) : Nat)
  | .fshf _ _ _ _ _ x => words 3 fun l =>
    if x.opxN % 2 = 0 then ((l.getD 1 0 * 2 ^ 32 + l.getD 0 0) * 2 ^ (l.getD 2 0 % 32) / 2 ^ 32 : Nat)
    else ((l.getD 1 0 * 2 ^ 32 + l.getD 0 0) / 2 ^ (l.getD 2 0 % 32) : Nat)
  | .bfxI _ _ _ _ x => words 2 fun l =>
    let f := fieldAt x (l.getD 1 0)
    let n := min f.2 (32 - f.1)
    (BitVec.ofNat n (l.getD 0 0 / 2 ^ f.1)).toInt
  | .bfxN _ _ _ _ x => words 2 fun l =>
    let f := fieldAt x (l.getD 1 0)
    (l.getD 0 0 / 2 ^ f.1 % 2 ^ min f.2 (32 - f.1) : Nat)
  | .bfi _ _ _ _ _ x =>
    let ins (v b c : Nat) : Nat :=
      let f := fieldAt x b
      let mask := (2 ^ min f.2 (32 - f.1) - 1) * 2 ^ f.1
      (c &&& (2 ^ 32 - 1 - mask)) ||| (v * 2 ^ f.1 &&& mask)
    if x.opxN % 2 = 1 then words 2 fun l => (ins (l.getD 0 0) 0 (l.getD 1 0) : Nat)
    else words 3 fun l => (ins (l.getD 0 0) (l.getD 1 0) (l.getD 2 0) : Nat)
  | .popc .. => words 1 fun l => (((List.range 32).filter (l.getD 0 0).testBit).length : Nat)
  | .clz .. => words 1 fun l => if l.getD 0 0 = 0 then 32 else 31 - Nat.log2 (l.getD 0 0)
  | .brev .. => words 1 fun l =>
    (maskOf (((List.range 32).filter (l.getD 0 0).testBit).map fun k => 31 - k) : Nat)
  | .lea _ _ _ _ x => some ([.n32, .i64], fun _ l =>
    let a : Int := if x.opxN % 2 = 1 then int32 (l.getD 0 0) else ((l.getD 0 0 % 2 ^ 32 : Nat) : Int)
    bits (l.getD 1 0) 63 48 * 2 ^ 48 + (((bits (l.getD 1 0) 47 0 : Nat) + a * 2 ^ (x.immN % 8)) % 2 ^ 48).toNat)
  | .bsel _ _ _ _ _ x =>
    let byte (l : List Nat) (n : Nat) : Nat := (l.getD 1 0 * 2 ^ 32 + l.getD 0 0) / 2 ^ (8 * n) % 256
    let join (f : Nat → Nat) : Int := ((f 0 + f 1 * 2 ^ 8 + f 2 * 2 ^ 16 + f 3 * 2 ^ 24 : Nat) : Int)
    if x.opxN % 2 = 1 then words 2 fun l => join fun k => byte l (x.immN / 8 ^ k % 8)
    else words 3 fun l => join fun k =>
      let c := l.getD 2 0 / 16 ^ k
      if c / 8 % 2 = 1 then (if x.opxN / 2 % 2 = 1 then 0xff else 0) else byte l (c % 8)
  | .mov _ _ w _ =>
    if w.toNat = 0 then some ([.n32], fun _ l => l.getD 0 0)
    else if w.toNat = 1 then some ([.i64], fun _ l => l.getD 0 0) else none
  | .iadd64 .. => some ([.i64, .i64], fun _ l => (l.getD 0 0 + l.getD 1 0) % 2 ^ 64)
  | .isub64 .. => some ([.i64, .i64], fun _ l => (((l.getD 0 0 : Int) - l.getD 1 0) % 2 ^ 64).toNat)
  | .shl64 .. => some ([.i64, .n32], fun _ l => if l.getD 1 0 < 64 then (l.getD 0 0 <<< l.getD 1 0) % 2 ^ 64 else 0)
  | .shr64 .. => some ([.i64, .n32], fun _ l => if l.getD 1 0 < 64 then l.getD 0 0 >>> l.getD 1 0 else 0)
  | _ => none

/-! Float results (R237 to R240): operands are flushed first and results last where the launch flushes (R93). -/

/-- One, two and three float sources, a result rounded to nearest even. -/
def flt1R (fl : Bool) (f : Fmt) (op : Ex → Ex) : Option Rule :=
  some ([f], fun _ l => outVal fl f 0 false (op (inVal fl f (l.getD 0 0))))
def flt2R (fl : Bool) (f : Fmt) (op : Ex → Ex → Ex) : Option Rule :=
  some ([f, f], fun _ l => outVal fl f 0 false (op (inVal fl f (l.getD 0 0)) (inVal fl f (l.getD 1 0))))

/-- One rounding of a·b + c with the negations and the mode of the extension word (R106). -/
def fmaOf (fl : Bool) (f : Fmt) (x : Fx) (a b c : Nat) : Nat :=
  let val (n : Bool) (v : Nat) : Ex := if n then (inVal fl f v).neg else inVal fl f v
  outVal fl f x.rm.toNat x.sat (Ex.add (x.rm = 2) (Ex.mul (val x.na a) (val x.nb b)) (val x.nc c))

/-- The two halves of a DUO result (R239): the half of b by OPX [2:1]. -/
def duoR (x : Fx) (n : Nat) (half : Fmt → Nat → Nat → Nat → Nat) : Option Rule :=
  let f : Fmt := if x.opxN % 2 = 1 then .bf16 else .f16
  let h (w k : Nat) : Nat := w / 65536 ^ k % 65536
  let bk (k : Nat) : Nat := if x.opxN / 2 % 4 = 1 then 0 else if x.opxN / 2 % 4 = 2 then 1 else k
  let out (l : List Nat) (k : Nat) : Nat := half f (h (l.getD 0 0) k) (h (l.getD 1 0) (bk k)) (h (l.getD 2 0) k)
  some (List.replicate n f, fun _ l => out l 0 + out l 1 * 65536)

def fltRule (fl : Bool) : Instr → Option Rule
  | .fadd .. => flt2R fl .f32 (Ex.add false)
  | .fsub .. => flt2R fl .f32 fun a b => Ex.add false a b.neg
  | .fmul .. => flt2R fl .f32 Ex.mul
  | .ffma _ _ _ _ _ x => some ([.f32, .f32, .f32], fun _ l => fmaOf fl .f32 x (l.getD 0 0) (l.getD 1 0) (l.getD 2 0))
  | .fmin .. => flt2R fl .f32 (Ex.pick false)
  | .fmax .. => flt2R fl .f32 (Ex.pick true)
  | .fneg .. => flt1R fl .f32 Ex.neg
  | .fabs .. => flt1R fl .f32 Ex.abs
  | .frcp .. => flt1R fl .f32 (Ex.div (.fin false 1 0))
  | .frsq .. => flt1R fl .f32 Ex.rsqrt
  | .fsqrt .. => flt1R fl .f32 Ex.sqrt
  | .fdiv .. => flt2R fl .f32 Ex.div
  | .fex2 .. => flt1R fl .f32 Ex.exp2
  | .flg2 .. => flt1R fl .f32 Ex.log2
  | .fsin .. => flt1R fl .f32 (Ex.trig false)
  | .fcos .. => flt1R fl .f32 (Ex.trig true)
  | .fscale .. => some ([.f32, .i32], fun _ l =>
    outVal fl .f32 0 false (Ex.scale (int32 (l.getD 1 0)) (inVal fl .f32 (l.getD 0 0))))
  | .duoadd _ _ _ _ x => duoR x 2 fun f a b _ =>
    outVal fl f x.rm.toNat x.sat (Ex.add (x.rm = 2) (negIf x.na (inVal fl f a)) (negIf x.nb (inVal fl f b)))
  | .duomul _ _ _ _ x => duoR x 2 fun f a b _ =>
    outVal fl f x.rm.toNat x.sat (Ex.mul (negIf x.na (inVal fl f a)) (negIf x.nb (inVal fl f b)))
  | .duofma _ _ _ _ _ x => duoR x 3 fun f a b c => fmaOf fl f x a b c
  | .dadd .. => flt2R fl .f64 (Ex.add false)
  | .dmul .. => flt2R fl .f64 Ex.mul
  | .dfma _ _ _ _ _ x => some ([.f64, .f64, .f64], fun _ l => fmaOf false .f64 x (l.getD 0 0) (l.getD 1 0) (l.getD 2 0))
  | _ => none

/-! Conversions, packed elements and dot products (R241 to R244) -/

/-- Bits of one place for a packed element: a six-bit one lies in a byte (R99). -/
def slotBits (f : Fmt) : Nat := if f.width = 6 then 8 else f.width

/-- Element k of a register: bits of it, or the whole of a format of 32 or 64 bits (R99, R241). -/
def elementIn (f : Fmt) (v k : Nat) : Nat := if 32 ≤ f.width then v else bits v (slotBits f * k + f.width - 1) (slotBits f * k)

/-- The register with another element k: its place holds the element's bits, and zeros above a six-bit one; the other bits stay (R99). -/
def withElement (f : Fmt) (v k e : Nat) : Nat :=
  v - bits v (slotBits f * k + slotBits f - 1) (slotBits f * k) * 2 ^ (slotBits f * k) + e % 2 ^ f.width * 2 ^ (slotBits f * k)

/-- An integer element as a number. -/
def intOf (f : Fmt) (e : Nat) : Int := if f.isSigned then (BitVec.ofNat f.width e).toInt else ((e % 2 ^ f.width : Nat) : Int)

/-- The range of an integer format. -/
def lowest (f : Fmt) : Int := if f.isSigned then -2 ^ (f.width - 1) else 0
def highest (f : Fmt) : Int := if f.isSigned then 2 ^ (f.width - 1) - 1 else 2 ^ f.width - 1

/-- A number rounded to an integer by a mode: 0 to the nearest, even on a tie, 1 to zero, 2 down, 3 up (R102). -/
def toInteger (mode : Nat) (x : Rat) : Int :=
  if mode = 1 then (if x < 0 then ⌈x⌉ else ⌊x⌋)
  else if mode = 2 then ⌊x⌋
  else if mode = 3 then ⌈x⌉
  else if x - ⌊x⌋ < 1 / 2 ∨ (x - ⌊x⌋ = 1 / 2 ∧ ⌊x⌋ % 2 = 0) then ⌊x⌋ else ⌊x⌋ + 1

/-- The value of a source: its float operands are flushed where the launch flushes (R93). -/
def sourceVal (fl : Bool) (f : Fmt) (b : Nat) : Ex := if f.ff.isSome then inVal fl f b else f.value b

/-- Table 7 of R105: a conversion.  An infinite source takes the row of Table 6 that a number beyond the range takes (R103). -/
def table7 (fl : Bool) (fr ft : Fmt) (mode : Nat) (sat : Bool) (b : Nat) : Nat :=
  if fr.isInt ∧ ft.isInt then
    ((if sat then max (lowest ft) (min (intOf fr b) (highest ft)) else intOf fr b) % 2 ^ ft.width).toNat
  else if ft.isInt then
    match sourceVal fl fr b with
    | .nan => 0
    | .inf neg => ((if neg then lowest ft else highest ft) % 2 ^ ft.width).toNat
    | .fin neg m e =>
      let x : Rat := (if neg then -1 else 1) * m * (2 : Rat) ^ e
      (max (lowest ft) (min (toInteger mode x) (highest ft)) % 2 ^ ft.width).toNat
  else if ft = .e8m0 then
    match sourceVal fl fr b with
    | .nan => 0xff
    | .inf _ => if sat then 0xfe else 0xff
    | .fin _ m e => if m = 0 then 0 else (max 0 (min (((if mode = 3 then Nat.clog 2 m else Nat.log2 m : Nat) : Int) + e + 127) 254)).toNat
  else
    match sourceVal fl fr b with
    | .inf neg => outVal fl ft mode sat (.fin neg 1 2000)
    | x => outVal fl ft mode sat x

/-- The elements widened (R243): floats exactly to FP32, integers with their sign to 32 bits. -/
def widened (f : Fmt) (e : Nat) : Nat :=
  if f.isInt then (intOf f e % 2 ^ 32).toNat else outVal false .f32 0 false (f.value e)

/-- The exact sum of products with the accumulator, rounded once, or the integer sum, wrapped or clamped (R107, R244). -/
def dotR (fl : Bool) (n : Nat) (fa fb : Fmt) (x : Fx) : Rule :=
  let el (f : Fmt) (v k : Nat) : Nat := bits v (32 / n * k + f.width - 1) (32 / n * k)
  if x.immN % 2 = 1 then
    ([fa, fb, .i32], fun _ l =>
      let t : Int := ((List.range n).map fun k => intOf fa (el fa (l.getD 0 0) k) * intOf fb (el fb (l.getD 1 0) k)).sum + int32 (l.getD 2 0)
      ((if x.sat then max (-2 ^ 31) (min t (2 ^ 31 - 1)) else t) % 2 ^ 32).toNat)
  else
    ([fa, fb, .f32], fun _ l =>
      let prod (k : Nat) : Ex := Ex.mul (fa.value (el fa (l.getD 0 0) k)) (fb.value (el fb (l.getD 1 0) k))
      let c := negIf x.nc (inVal fl .f32 (l.getD 2 0))
      outVal fl .f32 x.rm.toNat false (Ex.sum (x.rm = 2) ((List.range (n - 1)).map (fun k => prod (k + 1)) ++ [c]) (prod 0)))

def packedRule (fl : Bool) : Instr → Option Rule
  | .cvt _ _ _ x =>
    match Fmt.ofCode (x.immN / 32 % 32), Fmt.ofCode (x.immN % 32) with
    | some fr, some ft =>
      let conv (a : Nat) : Nat := table7 fl fr ft x.rm.toNat x.sat (elementIn fr a (x.opxN % 8))
      some ([fr], fun old l => if ft.width < 32 then withElement ft old (x.opxN / 8 % 8) (conv (l.getD 0 0)) else conv (l.getD 0 0))
    | _, _ => none
  | .pack _ _ _ _ x =>
    match Fmt.ofCode (x.opxN % 32) with
    | some ft =>
      let fr : Fmt := if ft.isInt then .i32 else .f32
      let k := 2 * (x.immN % 4)
      let conv := table7 fl fr ft x.rm.toNat x.sat
      some ([fr, fr], fun old l => withElement ft (withElement ft old k (conv (l.getD 0 0))) (k + 1) (conv (l.getD 1 0)))
    | none => none
  | .unpk _ _ _ x =>
    match Fmt.ofCode (x.opxN % 32) with
    | some f =>
      let k := 2 * (x.immN % 4)
      some ([f], fun _ l => widened f (elementIn f (l.getD 0 0) k) + 2 ^ 32 * widened f (elementIn f (l.getD 0 0) (k + 1)))
    | none => none
  | .dot4 _ _ _ _ _ x =>
    match dot4Fmt (x.opxN % 8), dot4Fmt (x.opxN / 8 % 8) with
    | some fa, some fb => some (dotR fl 4 fa fb x)
    | _, _ => none
  | .dot8 _ _ _ _ _ x =>
    match dot8Fmt (x.opxN % 8), dot8Fmt (x.opxN / 8 % 8) with
    | some fa, some fb => some (dotR fl 8 fa fb x)
    | _, _ => none
  | _ => none

/-- What a strand instruction delivers by a rule: the result of each covered strand, in rising order. -/
def results (s : State) (u g : Nat) (i : Instr) (es : List Elem) (f : LaneForm) (r : Rule) : List (Nat × Nat) :=
  (s.covered (predOf i)).map fun k =>
    (k, r.2 (laneVal (s.grp u g) .n32 f.d none k)
      ((List.range f.srcs.length).map fun n => laneVal (s.grp u g) (r.1.getD n .n32) (f.srcs.getD n (.i32, .zero)).2 (es.getD n none) k))

/-- A strand instruction with a rule completes, and delivers the rule's results. -/
def Follows (rule : Bool → Instr → Option Rule) : Prop :=
  ∀ (i : Instr) (s : State) (u g : Nat) (ks : List Nat) (f : LaneForm) (r : Rule),
    s.focus.kind = .path u g ks → s.runs i = true → laneForm i = some f → rule (s.operands i).1.flushes i = some r →
      exec i s = .next (((s.operands i).1.deliver u g f (results (s.operands i).1 u g i (s.operands i).2 f r) []).passes)

/-! Results and predicate writes of the other strand instructions (R231, R232, R235, R236, R240): the format of each source, the result
from a strand and its sources, and the predicate registers written. -/

/-- The condition of a compare on exact numbers: 0 equal, 1 not equal, 2 less, 3 less or equal, 4 greater, 5 greater or equal (R232). -/
def intHolds (c : Nat) (a b : Int) : Bool :=
  (c == 0 && a == b) || (c == 1 && a != b) || (c == 2 && decide (a < b)) || (c == 3 && decide (a ≤ b)) || (c == 4 && decide (b < a)) ||
    (5 ≤ c && decide (b ≤ a))

/-- A compare: its combine with the predicate of IMM [5:3], its target IMM [2:0], all ones or zeros as a word (R232). -/
def cmpRule (fs : List Fmt) (x : Fx) (holds : List Nat → Bool) :
    List Fmt × (Strand → List Nat → Nat) × List (Nat × (Strand → List Nat → Bool)) :=
  let bit (t : Strand) (l : List Nat) : Bool :=
    let p := t.getP (x.immN / 8 % 8)
    let r := holds l
    if x.opxN / 8 % 4 = 0 then r else if x.opxN / 8 % 4 = 1 then r && p else if x.opxN / 8 % 4 = 2 then r || p else r != p
  (fs, fun t l => if bit t l then 2 ^ 32 - 1 else 0, [(x.immN % 8, bit)])

/-- A float compare: with a NaN only "not equal" holds (R240); the other conditions are those of the exact values. -/
def fltCmp (fl : Bool) (f : Fmt) (x : Fx) :
    List Fmt × (Strand → List Nat → Nat) × List (Nat × (Strand → List Nat → Bool)) :=
  cmpRule [f, f] x fun l =>
    Ex.cond (x.opxN % 8) (negIf x.na (inVal fl f (l.getD 0 0))) (negIf x.nb (inVal fl f (l.getD 1 0)))

def predRule (fl : Bool) : Instr → Option (List Fmt × (Strand → List Nat → Nat) × List (Nat × (Strand → List Nat → Bool)))
  | .icmpI _ _ _ _ x => some (cmpRule [.i32, .i32] x fun l => intHolds (x.opxN % 8) (int32 (l.getD 0 0)) (int32 (l.getD 1 0)))
  | .icmpN _ _ _ _ x => some (cmpRule [.n32, .n32] x fun l => intHolds (x.opxN % 8) (l.getD 0 0 : Nat) (l.getD 1 0 : Nat))
  | .fcmp _ _ _ _ x => some (fltCmp fl .f32 x)
  | .dcmp _ _ _ _ x => some (fltCmp false .f64 x)
  | .plog t a b c _ x => some ([], fun _ _ => 0, [(t.val, fun y _ =>
    x.immN.testBit ((if y.getP a.val then 4 else 0) + (if y.getP b.val then 2 else 0) + if y.getP c.val then 1 else 0))])
  | .pmov _ a _ => some ([.n32], fun y _ => maskOf ((List.range 8).filter fun k => k = 0 || y.preds.getLsbD k),
    if a = .zero then [] else [1, 2, 3, 4, 5, 6, 7].map fun n => (n, fun _ l => (l.getD 0 0).testBit n))
  | .sel _ _ _ c => some ([.n32, .n32], fun y l => if y.getP c.val then l.getD 0 0 else l.getD 1 0, [])
  | _ => none

/-! Exchange (R245 to R250): the covered strands, the value of source n of a strand, the group, and the reading strand. -/

/-- A reduction (Table 9 of R250) of the values in rising strand order. -/
def reduced (fl : Bool) (x : Fx) (l : List Nat) : Nat :=
  let wide (signed : Bool) (t : Int) : Nat :=
    if !x.sat then (t % 2 ^ 32).toNat
    else if signed then (max (-2 ^ 31) (min t (2 ^ 31 - 1)) % 2 ^ 32).toNat else (max 0 (min t (2 ^ 32 - 1))).toNat
  if x.opxN = 0 then wide false (l.sum : Nat)
  else if x.opxN = 1 then wide true (l.map int32).sum
  else if x.opxN = 2 then ((l.map int32).foldl min (2 ^ 31 - 1) % 2 ^ 32).toNat
  else if x.opxN = 3 then l.foldl min (2 ^ 32 - 1)
  else if x.opxN = 4 then ((l.map int32).foldl max (-2 ^ 31) % 2 ^ 32).toNat
  else if x.opxN = 5 then l.foldl max 0
  else if x.opxN = 6 then l.foldl (· &&& ·) (2 ^ 32 - 1)
  else if x.opxN = 7 then l.foldl (· ||| ·) 0
  else if x.opxN = 8 then l.foldl (· ^^^ ·) 0
  else if x.opxN = 9 then
    match l.map (inVal fl .f32) with
    | [] => 0
    | v :: r => outVal fl .f32 x.rm.toNat false (Ex.sum (x.rm = 2) r v)
  else
    match l.map (inVal fl .f32) with
    | [] => if x.opxN = 10 then 0x7f800000 else 0xff800000
    | v :: r => outVal fl .f32 0 false (r.foldl (Ex.pick (x.opxN != 10)) v)

/-- The value of A in a source strand, or the reader's own where the source is exited or out of range (R245). -/
def fromOther (x : Group) (v : Nat → Nat → Nat) (t : Option Nat) (k : Nat) : Nat :=
  match t with
  | some j => if j < x.width ∧ (x.strand j).st ≠ .exited then v 0 j else v 0 k
  | none => v 0 k

/-- The formats of the sources, and the result of strand k. -/
def xRule (fl : Bool) : Instr → Option (List Fmt × (Group → List Nat → (Nat → Nat → Nat) → Nat → Nat))
  | .ballot .. => some ([.n32, .n32], fun _ ks v _ => maskOf (ks.filter fun k => v 0 k / 2 ^ (v 1 k % 32) % 2 = 1))
  | .matchX .. => some ([.n32], fun _ ks v k => maskOf (ks.filter fun j => v 0 j = v 0 k))
  | .pick d _ _ _ _ x => some ([.n32, .n32, .n32], fun y _ v k =>
    let n := if x.immN % 8 = 0 then y.width else min (2 ^ (x.immN % 8)) y.width
    let first := k / n * n
    let b := v 1 k
    let t : Option Nat :=
      if x.opxN % 4 = 0 then some (first + b % n)
      else if x.opxN % 4 = 1 then (if first + b ≤ k then some (k - b) else none)
      else if x.opxN % 4 = 2 then (if k + b < first + n then some (k + b) else none)
      else some (k ^^^ (b % n))
    (laneVal y .n32 d none k &&& (2 ^ 32 - 1 - v 2 k)) ||| (fromOther y v t k &&& v 2 k))
  | .bcast .. => some ([.n32, .n32], fun y _ v k => fromOther y v (some (v 1 k % y.width)) k)
  | .rots .. => some ([.n32, .n32], fun y _ v k => fromOther y v (some ((k + y.width - v 1 k % y.width) % y.width)) k)
  | .redX _ _ _ x => some ([if 9 ≤ x.opxN then .f32 else .n32], fun _ ks v _ => reduced fl x (ks.map (v 0)))
  | .scan _ _ _ x => some ([if 9 ≤ x.opxN then .f32 else .n32], fun _ ks v k =>
    reduced fl x ((ks.filter fun j => if x.immN % 2 = 1 then j < k else j ≤ k).map (v 0)))
  | _ => none

def PredicateResults : Prop :=
  ∀ (i : Instr) (s : State) (u g : Nat) (ks : List Nat) (f : LaneForm) (fs : List Fmt) (word : Strand → List Nat → Nat)
    (bit : List (Nat × (Strand → List Nat → Bool))),
    s.focus.kind = .path u g ks → s.runs i = true → laneForm i = some f →
      predRule (s.operands i).1.flushes i = some (fs, word, bit) →
      let t := (s.operands i).1
      let x := t.grp u g
      let args (k : Nat) : List Nat := (List.range f.srcs.length).map fun n =>
        laneVal x (fs.getD n .n32) (f.srcs.getD n (.i32, .zero)).2 ((s.operands i).2.getD n none) k
      let ks := t.covered (predOf i)
      exec i s = .next ((t.deliver u g f (ks.map fun k => (k, word (x.strand k) (args k)))
        (bit.map fun b => (b.1, ks.map fun k => (k, b.2 (x.strand k) (args k))))).passes)

def WideMove : Prop :=
  ∀ (d a : Opd) (w : BitVec 7) (p : Pr) (s : State) (u g : Nat) (ks : List Nat) (f : LaneForm),
    s.focus.kind = .path u g ks → s.runs (.mov d a w p) = true → laneForm (.mov d a w p) = some f → 2 ≤ w.toNat →
      let t := (s.operands (.mov d a w p)).1
      exec (.mov d a w p) s = .next ((t.deliver u g f ((t.covered p).map fun k => (k, laneVal128 (t.grp u g) a true k)) []).passes)

def ExchangeResults : Prop :=
  ∀ (i : Instr) (s : State) (u g : Nat) (ks : List Nat) (f : LaneForm) (fs : List Fmt)
    (r : Group → List Nat → (Nat → Nat → Nat) → Nat → Nat),
    s.focus.kind = .path u g ks → s.runs i = true → ((s.operands i).1.grp u g).form i = some f →
      xRule (s.operands i).1.flushes i = some (fs, r) →
      let t := (s.operands i).1
      let x := t.grp u g
      let v (n k : Nat) : Nat :=
        laneVal x (fs.getD n .n32) (f.srcs.getD n (.i32, .zero)).2 ((s.operands i).2.getD n none) k
      let ks := t.covered (predOf i)
      exec i s = .next ((t.deliver u g f (ks.map fun k => (k, r x ks v k)) []).passes)

/-- POLL (R246): how many of the covered strands hold the predicate, and what the mode says of them. -/
def PollResult : Prop :=
  ∀ (d : Opd) (a p : Pr) (x : Fx) (s : State) (u g : Nat) (ks : List Nat) (f : LaneForm),
    s.focus.kind = .path u g ks → s.runs (.poll d a p x) = true → laneForm (.poll d a p x) = some f →
      let t := (s.operands (.poll d a p x)).1
      let cov := t.covered p
      let n := cov.countP fun k => ((t.grp u g).strand k).getP a.val
      let res : Bool :=
        if x.opxN % 4 = 0 then n = cov.length else if x.opxN % 4 = 1 then 1 ≤ n
        else if x.opxN % 4 = 2 then n = 0 ∨ n = cov.length else cov.length < 2 * n
      exec (.poll d a p x) s = .next ((t.deliver u g f (cov.map fun k => (k, n)) [(x.immN % 8, cov.map fun k => (k, res))]).passes)

/-! What a delivered result does (R220, R222, R30) -/

/-- A register write leaves every strand's own value, and the written strand holds the new one (R213, R215). -/
def RegisterWrite : Prop :=
  ∀ (v : VReg) (k : Nat) (x : W32), k < v.deltas.length → ∀ j, (v.set k x).get j = if j = k then x else v.get j

/-- Compression keeps the value of every strand that is not exited; the base is the value of the lowest of them, and the width is the
smallest of 0, 4, 8, 16 and 32 bits that holds every difference (R214, R215). -/
def Compression : Prop :=
  ∀ (v : VReg) (w : Nat) (living : List Nat), (∀ k ∈ living, k < w) →
    (∀ k ∈ living, (v.compress w living).get k = v.get k) ∧
    (∀ k r, living = k :: r → (v.compress w living).base = v.get k) ∧
    (v.compress w living).width ∈ [0, 4, 8, 16, 32] ∧
    (∀ d ∈ (v.compress w living).deltas,
      -(2 : Int) ^ (v.compress w living).width ≤ 2 * d.toInt ∧ 2 * d.toInt < 2 ^ (v.compress w living).width ∨
        d = 0 ∧ (v.compress w living).width = 0) ∧
    ∀ n ∈ [0, 4, 8, 16], n < (v.compress w living).width →
      ∃ d ∈ (v.compress w living).deltas, ¬ (-(2 : Int) ^ n ≤ 2 * d.toInt ∧ 2 * d.toInt < 2 ^ n) ∨ (n = 0 ∧ d ≠ 0)

/-- A write-back of one vector register without a push: every strand that the register's results name then holds its result, and every
other strand and register keeps its value (R213, R222). -/
def WritebackLands : Prop :=
  ∀ (s : State) (u g n : Nat) (b : Block) (x : Group) (wb : WriteBack) (rest : List WriteBack) (ws : List (Nat × W32)),
    Tbl.find u s.blocks = some b → b.groups[g]? = some x →
    x.pendWb = wb :: rest → (∀ o ∈ rest, wb.due ≤ o.due) → wb.due ≤ s.cycle → wb.vWrites = [(n, ws)] → wb.wWrites = [] →
    wb.push = none →
    (ws.map Prod.fst).Nodup → (∀ e ∈ ws, e.1 ∈ x.living) → n < x.vregs.length → (x.vregs.getD n {}).deltas.length = x.width →
      ∃ t, exec (.laneWriteback u g) s = .next t ∧ (t.grp u g).pendWb = rest ∧
        (∀ e ∈ ws, (t.grp u g).getV n e.1 = e.2) ∧
        (∀ k ∈ x.living, k ∉ ws.map Prod.fst → (t.grp u g).getV n k = x.getV n k) ∧
        (∀ m k, m ≠ n → (t.grp u g).getV m k = x.getV m k) ∧
        (t.grp u g).w = x.w ∧ (t.grp u g).b = x.b ∧ t.mem = s.mem ∧ t.parts = s.parts

/-- A result for a v register of one word waits for LANE_WRITEBACK and changes no register yet: each strand's result falls due in the
core cycle of its own write-back, results of one cycle together (R222). -/
def VectorDelivery : Prop :=
  ∀ (s : State) (u g : Nat) (f : LaneForm) (n : Fin 64) (res : List (Nat × Nat)), f.d = .v n → f.bits = 32 →
    ∃ wbs : List WriteBack,
      s.deliver u g f res [] = s.onGrp u g (fun x => { x with pendWb := x.pendWb ++ wbs }) ∧
      (wbs.map WriteBack.due).Pairwise (· < ·) ∧ (∀ e ∈ res, ∃ wb ∈ wbs, wb.due = s.focus.dueOf e.1) ∧
      ∀ wb ∈ wbs, wb.pWrites = [] ∧ wb.wWrites = [] ∧ wb.push = none ∧ wb.vWrites =
        [(n.val, (res.filter fun e => s.focus.dueOf e.1 = wb.due).map fun e => (e.1, BitVec.ofNat 32 e.2))]

/-- The core cycle in which the last result of the present pass is written (R222). -/
def lastDue (s : State) : Nat := s.focus.wb.foldl (fun a e => max a e.2.2) 0

/-- A result for a w register waits for the write-back of the pass. -/
def awaitsW (s : State) (u g n : Nat) (v : W32) : State :=
  s.onGrp u g fun x => { x with pendWb := x.pendWb ++ [{ wWrites := [(n, v)], due := lastDue s, pass := s.cycle }] }

/-- A uniform destination waits for the write-back of the last strand, and then takes the first covered strand's result (R220, R222); the
write-back writes that register and no other. -/
def UniformDelivery : Prop :=
  (∀ (s : State) (u g : Nat) (f : LaneForm) (n : Fin 32) (k v : Nat) (res : List (Nat × Nat)),
    f.d = .w n → f.bits = 32 → s.deliver u g f ((k, v) :: res) [] = awaitsW s u g n.val (BitVec.ofNat 32 v)) ∧
  (∀ (s : State) (u g n : Nat) (v : W32) (b : Block) (x : Group) (due pass : Nat) (rest : List WriteBack),
    Tbl.find u s.blocks = some b → b.groups[g]? = some x → n < x.w.length →
    x.pendWb = { wWrites := [(n, v)], due := due, pass := pass } :: rest → (∀ o ∈ rest, due ≤ o.due) → due ≤ s.cycle →
      ∃ t, exec (.laneWriteback u g) s = .next t ∧ (t.grp u g).pendWb = rest ∧ (t.grp u g).getW n = v ∧
        (∀ m, m ≠ n → (t.grp u g).getW m = x.getW m) ∧ (t.grp u g).vregs = x.vregs ∧ (t.grp u g).b = x.b ∧ t.mem = s.mem ∧
        t.parts = s.parts)

/-- A queue of a consumer mask with room takes its element: its place is reserved, and it is written now, or with the instruction's
write-back where that is still to come (R257).  With the last queue the mask ends and its path goes on (R30, R161). -/
def MaskAccept : Prop :=
  ∀ (s : State) (u g q : Nat) (m : MaskProg), (s.grp u g).maskProg = some m → q ∈ m.queues →
    let k := (s.block u).queue q
    let r := s.reserveQ u q
    let bytes := if k.kind = 1 then m.vecBytes else leBytes 4 m.word.toNat
    let time := (r.1.grp u g).pathTime m.strands
    let done := r.1.fillQ u q r.2 bytes time
    let t := if s.cycle < m.due then
        r.1.onGrp u g fun x => { x with pendWb := x.pendWb ++ [{ push := some (q, r.2, bytes, m.strands), due := m.due }] }
      else done.onGrp u g fun x => x.raise m.strands (max time (done.block u).clk)
    k.count + k.resv < k.depth →
      exec (.consumerMaskAccept u g q) s = .next ((t.onGrp u g fun x =>
        if m.queues.all (· == q) then
          { x with maskProg := none, strands := x.strands.map fun y => match y.wait with
              | .mask len n => y.pastWait len n
              | _ => y }
        else { x with maskProg := some { m with queues := m.queues.filter (· != q) } }).settle u g)

/-! Control (R167 to R177) -/

/-- The address at a signed count of words from the header of the present clause (R64). -/
def wordsFromHeader (s : State) (off : BitVec 18) : Nat := (((s.focus.hdr : Int) + 4 * off.toInt) % 2 ^ 64).toNat

/-- The header of the next clause (R167). -/
def nextHeader (s : State) : Nat := (s.focus.hdr + 4 * (s.focus.n + 1)) % 2 ^ 64

/-- The strands of a path P that a branch sends to its target, from those that hold its predicate (R168). -/
def branchTakes (P T : List Nat) : Instr → Option (BitVec 18 × List Nat)
  | .bra _ _ off => some (off, T)
  | .brc _ _ off => some (off, if T = P then P else [])
  | .brd _ _ off => some (off, if T = [] then [] else P)
  | _ => none

/-- The strand predicate of a branch. -/
def branchPred : Instr → Nat
  | .bra _ ps _ | .brc _ ps _ | .brd _ ps _ => ps.val
  | _ => 0

def Branches : Prop :=
  ∀ (i : Instr) (s t : State) (u g : Nat) (P : List Nat) (off : BitVec 18) (T : List Nat),
    s.runs i = true → (s.operands i).1 = t → t.focus.kind = .path u g P →
      branchTakes P (P.filter fun k => ((t.grp u g).strand k).getP (branchPred i)) i = some (off, T) →
        exec i s = .next (t.onGrp u g fun x =>
          (x.sendTo T (wordsFromHeader t off)).sendTo (P.filter fun k => k ∉ T) (nextHeader t)).endPass

/-- In the handler a branch tests every strand of trapm that is not exited (R168). -/
def HandlerBranches : Prop :=
  ∀ (i : Instr) (s t : State) (u g : Nat) (off : BitVec 18) (P T : List Nat),
    s.runs i = true → (s.operands i).1 = t → t.focus.kind = .handler u g →
      P = (strandsOf (t.grp u g).trapm.toNat (t.grp u g).width).filter (fun k => ((t.grp u g).strand k).st != .exited) →
      T = P.filter (fun k => ((t.grp u g).strand k).getP (branchPred i)) →
      ((∃ bp ps, i = .bra bp ps off) → exec i s = .next (t.goto (if T = P then wordsFromHeader t off else nextHeader t)).endPass) ∧
      ((∃ bp ps, i = .brc bp ps off) → exec i s = .next (t.goto (if T = P then wordsFromHeader t off else nextHeader t)).endPass) ∧
      ((∃ bp ps, i = .brd bp ps off) → exec i s = .next (t.goto (if T = [] then nextHeader t else wordsFromHeader t off)).endPass)

def IndirectBranch : Prop :=
  ∀ (a : Opd) (bp : Pr) (s t : State), s.runs (.brx a bp) = true → (s.operands (.brx a bp)).1 = t →
    (t.uniWord64 a false % 4 = 0 → exec (.brx a bp) s = .next (t.goto (t.uniWord64 a false)).endPass) ∧
    (t.uniWord64 a false % 4 ≠ 0 → exec (.brx a bp) s = .next (t.trapPath 0x08).endPass)

/-- CALL with fewer than four entries pushes the address behind its clause with the path as the mask (R169). -/
def Calls : Prop :=
  ∀ (bp : Pr) (off : BitVec 18) (s t : State) (u g : Nat), s.runs (.call bp off) = true → (s.operands (.call bp off)).1 = t →
    (∀ P, t.focus.kind = .path u g P → (t.grp u g).calls.length < 4 →
      exec (.call bp off) s = .next (t.onGrp u g fun x =>
        { x with calls := { ret := nextHeader t, mask := P } :: x.calls }.sendTo P (wordsFromHeader t off)).endPass) ∧
    (∀ P, t.focus.kind = .path u g P → 4 ≤ (t.grp u g).calls.length → exec (.call bp off) s = .next (t.trapPath 0x05).endPass) ∧
    (t.focus.kind = .handler u g → (t.grp u g).calls.length < 4 →
      exec (.call bp off) s = .next (t.onGrp u g fun x =>
        { x with calls := { ret := nextHeader t, mask := [], handler := true } :: x.calls,
                 handler := some ⟨wordsFromHeader t off, wordsFromHeader t off, 0⟩ }).endPass) ∧
    (t.focus.kind = .handler u g → 4 ≤ (t.grp u g).calls.length → exec (.call bp off) s = .next (t.trapPath 0x05).endPass)

/-- The topmost entry of a call stack that holds a strand (R169). -/
def topCall (calls : List CallEntry) (k : Nat) : Option CallEntry := calls.find? fun c => !c.handler && c.mask.contains k

/-- The addresses that a strand has yet to return to, from the top. -/
def returnsOf (calls : List CallEntry) (k : Nat) : List Nat :=
  (calls.filter fun c => !c.handler && c.mask.contains k).map CallEntry.ret

/-- RET sends every strand of the path to its own call's address and takes it out of that entry; entries without a strand that is not
exited go (R169).  Of one strand, the group that results is written out; of several, each goes to the topmost address of its own, and has
the others left, as strands outside the path have theirs. -/
def Returns : Prop :=
  ∀ (bp : Pr) (s t : State) (u g k : Nat), s.runs (.ret bp) = true → (s.operands (.ret bp)).1 = t →
    (∀ (c : CallEntry) (above below : List CallEntry), t.focus.kind = .path u g [k] → (t.grp u g).calls = above ++ c :: below →
      topCall above k = none → c.handler = false → k ∈ c.mask →
        exec (.ret bp) s = .next (t.onGrp u g fun x =>
          ({ x with calls := above ++ { c with mask := c.mask.filter (· != k) } :: below }.sendTo [k] c.ret).pruneCalls).endPass) ∧
    (∀ P, t.focus.kind = .path u g P → (∃ k ∈ P, topCall (t.grp u g).calls k = none) →
      exec (.ret bp) s =
        .next (t.onGrp u g fun x => x.park (P.filter fun k => (topCall x.calls k).isNone) 0x05 0).endPass) ∧
    (∀ P, t.focus.kind = .path u g P → P.Nodup → (∀ k ∈ P, (topCall (t.grp u g).calls k).isSome = true) →
      let x := t.grp u g
      (∀ k ∈ P, k < x.strands.length ∧ (x.strand k).st = .active) →
        ∃ y, exec (.ret bp) s = .next (t.onGrp u g fun _ => y).endPass ∧ y = { x with calls := y.calls, strands := y.strands } ∧
          (∀ k ∈ P, ∃ a l, returnsOf x.calls k = a :: l ∧ y.strand k = { (x.strand k).goto a with wait := .none } ∧ returnsOf y.calls k = l) ∧
          (∀ k, k ∉ P → y.strand k = x.strand k ∧ ((x.strand k).st ≠ .exited → returnsOf y.calls k = returnsOf x.calls k)) ∧
          ∀ c ∈ y.calls, c.handler = true ∨ ∃ k ∈ c.mask, (y.strand k).st ≠ .exited)

/-- RET of a handler goes to the address of the topmost handler entry and removes it; with none it is a fault in the handler (R169). -/
def HandlerReturnCalls : Prop :=
  ∀ (bp : Pr) (s t : State) (u g : Nat), s.runs (.ret bp) = true → (s.operands (.ret bp)).1 = t → t.focus.kind = .handler u g →
    (∀ c above below, (t.grp u g).calls = above ++ c :: below → c.handler = true → (∀ d ∈ above, d.handler = false) →
      exec (.ret bp) s = .next (t.onGrp u g fun x =>
        { x with calls := above ++ below, handler := some ⟨c.ret, c.ret, 0⟩ }).endPass) ∧
    ((∀ c ∈ (t.grp u g).calls, c.handler = false) → exec (.ret bp) s = .next (t.trapPath 0x05).endPass)

/-- The state of a service thread's queue after a transfer. -/
def threadTo (t : State) (q va : Nat) : State := t.onSqueue q fun x => { x with thread := { x.thread with pc := va, hdr := va, idx := 0 } }

/-- Transfers of a service thread, one strand whose only predicate is p0, with a call stack of four addresses (R168, R169, R442). -/
def ThreadTransfers : Prop :=
  ∀ (s : State) (q : Nat) (bp ps cr : Pr) (off : BitVec 18) (a : Opd), s.focus.kind = .thread q →
    let x := (s.squeue q).thread
    let taken (i : Instr) (yes : Bool) : Prop := s.runs i = true →
      exec i s = .next (threadTo s q (if yes then wordsFromHeader s off else nextHeader s))
    taken (.bra bp ps off) (ps = 0) ∧ taken (.brc bp ps off) (ps = 0) ∧ taken (.brd bp ps off) (ps = 0) ∧
    (s.runs (.brx a bp) = true → s.uniWord64 a false % 4 = 0 → exec (.brx a bp) s = .next (threadTo s q (s.uniWord64 a false))) ∧
    (s.runs (.call bp off) = true →
      exec (.call bp off) s = .next (if x.calls.length < 4 then
          threadTo (s.onSqueue q fun y => { y with thread := { y.thread with calls := nextHeader s :: y.thread.calls } }) q (wordsFromHeader s off)
        else s.trapPath 0x05)) ∧
    (∀ va r, s.runs (.ret bp) = true → x.calls = va :: r → exec (.ret bp) s =
      .next (threadTo (s.onSqueue q fun y => { y with thread := { y.thread with calls := r } }) q va)) ∧
    (s.runs (.ret bp) = true → x.calls = [] → exec (.ret bp) s = .next (s.trapPath 0x05)) ∧
    (s.runs (.loop bp cr off) = true →
      let v := x.w.getD (8 + cr.val) 0 - 1
      exec (.loop bp cr off) s = .next (threadTo (s.onSqueue q fun y =>
        { y with thread := { y.thread with w := listSet y.thread.w (8 + cr.val) v } }) q (if v = 0 then nextHeader s else wordsFromHeader s off)))

/-- RJOIN, EXIT, WAIT, YIELD, TRAP, RETT, LOOP, CUE and NOP. -/
def Flow : Prop :=
  ∀ (s t : State) (u g : Nat) (P : List Nat), t.focus.kind = .path u g P →
    (∀ bp, s.runs (.nop bp) = true → (s.operands (.nop bp)).1 = t → exec (.nop bp) s = .next t.passes) ∧
    (∀ bp, s.runs (.rjoin bp) = true → (s.operands (.rjoin bp)).1 = t →
      exec (.rjoin bp) s = .next (t.onGrp u g fun x =>
        x.onStrands P fun y => if y.st = .active then { y with wait := .rjoin t.focus.n } else y).endPass) ∧
    (∀ wl ws wc wt bp, s.runs (.wait wl ws wc wt bp) = true → (s.operands (.wait wl ws wc wt bp)).1 = t →
      exec (.wait wl ws wc wt bp) s =
        .next (t.onGrp u g fun x => x.raise P (x.joinTime ws.toNat wc.toNat wt.toNat)).passes) ∧
    (∀ bp, s.runs (.yield bp) = true → (s.operands (.yield bp)).1 = t →
      exec (.yield bp) s = .next (t.onGrp u g fun x => { x with yielded := true }).passes) ∧
    (∀ k bp, s.runs (.trap k bp) = true → (s.operands (.trap k bp)).1 = t →
      exec (.trap k bp) s = .next (t.onGrp u g fun x => (x.sendTo P (nextHeader t)).park P 0x0a k.toNat).endPass) ∧
    (∀ bp cr off, s.runs (.loop bp cr off) = true → (s.operands (.loop bp cr off)).1 = t →
      let v := (t.grp u g).getW (8 + cr.val) - 1
      exec (.loop bp cr off) s = .next (t.onGrp u g fun x =>
        (x.setW (8 + cr.val) v).sendTo P (if v = 0 then nextHeader t else wordsFromHeader t off)).endPass) ∧
    (∀ (k : W8) bp l, s.runs (.cue k bp) = true → (s.operands (.cue k bp)).1 = t → t.launchOf (t.block u) = some l →
      let budget := if k = 0 then 0 else (l.cues.getD (k.toNat - 1) 0).toNat
      exec (.cue k bp) s = .next (t.onGrp u g fun x =>
        { x with cue := BitVec.ofNat 32 k.toNat
                 cueTimer := if budget = 0 then none else some (budget + hCueMargin (t.launchHdr (t.block u))) }).passes) ∧
    (∀ bp, s.runs (.exit bp) = true → (s.operands (.exit bp)).1 = t → exec (.exit bp) s = .next (t.exitStrands u g P).endPass)

/-- The same instructions in a handler, which is one path (R161, R170, R172 to R175): RJOIN goes on to the next clause, WAIT raises the ticks of
every strand, TRAP is a fault in the handler, and EXIT ends the strands of trapm and the handler. -/
def HandlerFlow : Prop :=
  ∀ (s t : State) (u g : Nat), t.focus.kind = .handler u g →
    (∀ bp, s.runs (.nop bp) = true → (s.operands (.nop bp)).1 = t → exec (.nop bp) s = .next t.passes) ∧
    (∀ bp, s.runs (.rjoin bp) = true → (s.operands (.rjoin bp)).1 = t → exec (.rjoin bp) s = .next (t.goto (nextHeader t)).endPass) ∧
    (∀ wl ws wc wt bp, s.runs (.wait wl ws wc wt bp) = true → (s.operands (.wait wl ws wc wt bp)).1 = t →
      exec (.wait wl ws wc wt bp) s =
        .next (t.onGrp u g fun x => x.raise x.living (x.joinTime ws.toNat wc.toNat wt.toNat)).passes) ∧
    (∀ bp, s.runs (.yield bp) = true → (s.operands (.yield bp)).1 = t →
      exec (.yield bp) s = .next (t.onGrp u g fun x => { x with yielded := true }).passes) ∧
    (∀ k bp, s.runs (.trap k bp) = true → (s.operands (.trap k bp)).1 = t → exec (.trap k bp) s =
      .next (t.killLaunch (t.block u).dist (t.block u).lid 0x0a (t.grp u g).trapa.toNat
        (workId (t.launchHdr (t.block u)) (t.block u).ident g ((strandsOf (t.grp u g).trapm.toNat (t.grp u g).width).headD 0))).endPass) ∧
    (∀ bp cr off, s.runs (.loop bp cr off) = true → (s.operands (.loop bp cr off)).1 = t →
      let v := (t.grp u g).getW (8 + cr.val) - 1
      exec (.loop bp cr off) s = .next ((t.onGrp u g fun x => x.setW (8 + cr.val) v).goto (if v = 0 then nextHeader t else wordsFromHeader t off)).endPass) ∧
    (∀ (k : W8) bp l, s.runs (.cue k bp) = true → (s.operands (.cue k bp)).1 = t → t.launchOf (t.block u) = some l →
      let budget := if k = 0 then 0 else (l.cues.getD (k.toNat - 1) 0).toNat
      exec (.cue k bp) s = .next (t.onGrp u g fun x =>
        { x with cue := BitVec.ofNat 32 k.toNat
                 cueTimer := if budget = 0 then none else some (budget + hCueMargin (t.launchHdr (t.block u))) }).passes) ∧
    (∀ bp, s.runs (.exit bp) = true → (s.operands (.exit bp)).1 = t →
      let ks := (strandsOf (t.grp u g).trapm.toNat (t.grp u g).width).filter fun k => ((t.grp u g).strand k).st != .exited
      exec (.exit bp) s = .next (((t.exitStrands u g ks).onGrp u g Group.endHandler).resumeOps u g).endPass)

/-- The same instructions in a service thread (R442): NOP, YIELD and WAIT go on, EXIT acts as HALT, and TRAP, CUE, RJOIN and RETT are no
instructions of a thread: it faults with 0x01. -/
def ThreadFlow : Prop :=
  ∀ (s : State) (q : Nat) (bp : Pr), s.focus.kind = .thread q →
    (s.runs (.nop bp) = true → exec (.nop bp) s = .next s.advance) ∧
    (s.runs (.yield bp) = true → exec (.yield bp) s = .next s.advance) ∧
    (∀ wl ws wc wt, s.runs (.wait wl ws wc wt bp) = true → exec (.wait wl ws wc wt bp) s = .next s.advance) ∧
    (s.runs (.exit bp) = true → exec (.exit bp) s = .next (s.onSqueue q fun x => { x with tstate := 3 })) ∧
    (∀ i, encoded i = true → (i = .rjoin bp ∨ i = .rett ∨ (∃ k, i = .trap k bp) ∨ (∃ k, i = .cue k bp)) →
      s.focus.n < s.focus.idx + s.focus.len →
      exec i s = .next (s.onSqueue q fun x => { x with tstate := 4, fcode := 1, fpc := s.focus.pc }))

/-- What EXIT leaves of its strands: each is exited and in no call mask, and each counts as triggered (R129, R169, R171). -/
def ExitedStrands : Prop :=
  ∀ (s : State) (u g : Nat) (P : List Nat) (b : Block) (x : Group), Tbl.find u s.blocks = some b → b.groups[g]? = some x →
    (∀ k ∈ P, k < x.width) →
      (∀ k ∈ P, (((s.exitStrands u g P).grp u g).strand k).st = .exited ∧ (((s.exitStrands u g P).grp u g).strand k).triggered = true) ∧
      (∀ k, k ∉ P → ((s.exitStrands u g P).grp u g).strand k = x.strand k) ∧
      (∀ c ∈ ((s.exitStrands u g P).grp u g).calls, ∀ k ∈ P, k ∉ c.mask) ∧
      (s.exitStrands u g P).mem = s.mem ∧ ((s.exitStrands u g P).grp u g).w = x.w

/-- The strands that wait at one RJOIN, the last word of their clause, go on together to the next clause, once no other strand is left
to wait for; where they wait at several, those at the lowest take the trap (R170). -/
def JoinReleases : Prop :=
  ∀ (x : Group) (pc : Nat), x.living ≠ [] → x.anyParked = false →
    (∀ k ∈ x.living, (x.strand k).wait = .rjoin (x.strand k).idx) →
    ((∀ k ∈ x.living, (x.strand k).pc = pc) →
      x.settleJoin = x.onStrands x.living fun t => { t.goto ((t.hdr + 4 * (t.idx + 1)) % 2 ^ 64) with wait := .none }) ∧
    ((∃ j ∈ x.living, (x.strand j).pc ≠ pc) → (∃ k ∈ x.living, (x.strand k).pc = pc) → (∀ k ∈ x.living, pc ≤ (x.strand k).pc) →
      x.settleJoin = x.park (x.living.filter fun k => (x.strand k).pc = pc) 0x05 0)

/-! Traps (R158, R161, R163, R164, R175) -/

/-- Trap entry with a handler: the registers of Table 5, and the handler's one path at TRAPE (R161). -/
def TrapEntry : Prop :=
  ∀ (s : State) (u g code arg pc : Nat) (ks : List Nat) (b : Block) (x : Group), Tbl.find u s.blocks = some b → b.groups[g]? = some x →
    s.focus.more = false → s.dying u = false → x.handler = none → x.trapSet = some (code, arg, pc, ks) →
      hTrapE (s.launchHdr b) ≠ 0 → (∀ k ∈ ks, k < 64) →
      code < 256 → arg < 256 →
      let y := (s.takeTrap u g).grp u g
      y.trapc.toNat = code + 256 * arg ∧ (∀ k, k < 64 → (y.trapm.getLsbD k = true ↔ k ∈ ks)) ∧ y.trapa = BitVec.ofNat 64 pc ∧
      y.handler = some { pc := hTrapE (s.launchHdr b), hdr := hTrapE (s.launchHdr b), idx := 0 } ∧
      y.strands = x.strands ∧ y.vregs = x.vregs ∧ y.w = x.w ∧ y.b = x.b ∧ y.calls = x.calls ∧
      y.ld = x.ld ∧ y.st = x.st ∧ y.cp = x.cp ∧ y.tl = x.tl ∧ y.monLines = [] ∧
      (s.takeTrap u g).mem = s.mem ∧ (s.takeTrap u g).parts = s.parts

/-- The understudies of one entry stand at the lowest counter and recorded the code of the lowest of them (R164). -/
def TrapChoice : Prop :=
  ∀ (x : Group) (code arg pc : Nat) (ks : List Nat), x.trapSet = some (code, arg, pc, ks) →
    ks ≠ [] ∧ (∀ k ∈ ks, (x.strand k).st = .fatal code arg pc) ∧
    (∀ j < x.width, ∀ c a va, (x.strand j).st = .fatal c a va → ∀ k ∈ ks, (x.strand k).pc ≤ (x.strand j).pc) ∧
    (∀ j < x.width, ∀ c a va, (x.strand j).st = .fatal c a va → (∃ k ∈ ks, (x.strand j).pc = (x.strand k).pc) →
      (∃ k ∈ ks, k ≤ j) ∧ ((c, a, va) = (code, arg, pc) → j ∈ ks))

/-- Trap entry with TRAPE 0 kills the launch (R163). -/
def TrapKills : Prop :=
  ∀ (s : State) (u g code arg pc : Nat) (ks : List Nat) (b : Block) (x : Group), Tbl.find u s.blocks = some b → b.groups[g]? = some x →
    s.focus.more = false → s.dying u = false → x.handler = none → x.trapSet = some (code, arg, pc, ks) → hTrapE (s.launchHdr b) = 0 →
      s.takeTrap u g = (s.count b.dist (vfNum b.dist b.vf) 0x11 1).killLaunch b.dist b.lid code pc
        (workId (s.launchHdr b) b.ident g (ks.headD 0))

/-- A check at decode that fails parks the whole path with its code and takes the trap (R53, R158). -/
def DecodeTraps : Prop :=
  ∀ (i : Instr) (s : State) (u g code : Nat) (P : List Nat), encoded i = true → s.focus.kind = .path u g P →
    decodeTrap i s = some code → exec i s = .next ((s.onGrp u g fun x => x.park P code 0).takeTrap u g).endPass

/-- A guard that is false: a control transfer falls through to the next clause, and any other instruction to the next word (R69, R167). -/
def GuardsSkip : Prop :=
  ∀ (i : Instr) (s : State) (u g : Nat) (P : List Nat), encoded i = true → s.focus.kind = .path u g P →
    decodeTrap i s = none → guardOff i s = true →
      exec i s = .next (if isTransfer i then (s.goto (nextHeader s)).endPass else s.passes)

/-- A fault in the handler kills the launch, and the report carries its code, trapa and the lowest strand of trapm (R163). -/
def HandlerFaults : Prop :=
  ∀ (i : Instr) (s : State) (u g code : Nat), encoded i = true → s.focus.kind = .handler u g → handlerFault i s = false →
    decodeTrap i s = some code →
      exec i s = .next ((s.killLaunch (s.block u).dist (s.block u).lid code (s.grp u g).trapa.toNat
        (workId (s.launchHdr (s.block u)) (s.block u).ident g
          ((strandsOf (s.grp u g).trapm.toNat (s.grp u g).width).headD 0))).endPass)

/-- The end of a handler (R175): with trapa unchanged every strand of trapm that is no replayable understudy and not exited runs
again where it stands; with a new trapa it goes there. -/
def HandlerEnd : Prop :=
  ∀ (x : Group) (k : Nat), k < x.width → k < 64 →
    let y := x.endHandler
    y.handler = none ∧ y.w = x.w ∧ y.vregs = x.vregs ∧ (∀ c ∈ y.calls, c ∈ x.calls ∧ c.handler = false) ∧
    (x.trapm.getLsbD k = true → (x.strand k).st ≠ .exited → (∀ b, (x.strand k).st ≠ .replay b) → x.trapa = x.trapaEntry →
      y.strand k = { x.strand k with st := .active, age := 0 }) ∧
    (x.trapm.getLsbD k = true → (x.strand k).st ≠ .exited → (∀ b, (x.strand k).st ≠ .replay b) → x.trapa ≠ x.trapaEntry →
      (y.strand k).st = .active ∧ (y.strand k).pc = x.trapa.toNat ∧ (y.strand k).hdr = x.trapa.toNat ∧ (y.strand k).idx = 0 ∧
        (y.strand k).age = 0) ∧
    (x.trapm.getLsbD k = false → (x.strand k).st ≠ .replay true → y.strand k = x.strand k)

/-- RETT in the handler ends it (R175); a return of a strand to an address that is not a multiple of 4 is a fault in the handler with
code 0x08 (R48, R163). -/
def HandlerReturns : Prop :=
  ∀ (s t : State) (u g : Nat), t.focus.kind = .handler u g → s.runs .rett = true → (s.operands .rett).1 = t →
    let x := t.grp u g
    let bad : Prop := x.trapa ≠ x.trapaEntry ∧ x.trapa.toNat % 4 ≠ 0 ∧
      ∃ k ∈ strandsOf x.trapm.toNat x.width, (x.strand k).st ≠ .exited ∧ ∀ b, (x.strand k).st ≠ .replay b
    (¬ bad → exec .rett s = .next ((t.onGrp u g Group.endHandler).resumeOps u g).endPass) ∧
    (bad → exec .rett s = .next (t.trapPath 0x08).endPass)

/-! Uniform arithmetic (R178 to R182) -/

/-- Destination, sources and result of the 32-bit uniform instructions (R71, R179, R180). -/
def uniRule : Instr → Option (Opd × List Opd × (W32 → W32 → W32))
  | .wmov d a _ => some (d, [a], fun x _ => x)
  | .wadd d a b _ => some (d, [a, b], fun x y => BitVec.ofNat 32 (x.toNat + y.toNat))
  | .wsub d a b _ => some (d, [a, b], fun x y => BitVec.ofInt 32 (x.toNat - y.toNat))
  | .wmul d a b _ => some (d, [a, b], fun x y => BitVec.ofNat 32 (x.toNat * y.toNat))
  | .wand d a b _ => some (d, [a, b], fun x y => BitVec.ofNat 32 (x.toNat &&& y.toNat))
  | .wor d a b _ => some (d, [a, b], fun x y => BitVec.ofNat 32 (x.toNat ||| y.toNat))
  | .wxor d a b _ => some (d, [a, b], fun x y => BitVec.ofNat 32 (x.toNat ^^^ y.toNat))
  | .wshl d a b _ => some (d, [a, b], fun x y => if y.toNat < 32 then BitVec.ofNat 32 (x.toNat * 2 ^ y.toNat) else 0)
  | .wshr d a b _ => some (d, [a, b], fun x y => if y.toNat < 32 then BitVec.ofNat 32 (x.toNat / 2 ^ y.toNat) else 0)
  | .wasr d a b _ => some (d, [a, b], fun x y => BitVec.ofInt 32 (x.toInt / 2 ^ (min y.toNat 32)))
  | .wmin d a b _ => some (d, [a, b], fun x y => BitVec.ofInt 32 (min x.toInt y.toInt))
  | .wmax d a b _ => some (d, [a, b], fun x y => BitVec.ofInt 32 (max x.toInt y.toInt))
  | .wpopc d a _ => some (d, [a], fun x _ => BitVec.ofNat 32 ((List.range 32).countP fun k => x.getLsbD k))
  | _ => none

def UniformResults : Prop :=
  ∀ (i : Instr) (s : State) (d : Opd) (os : List Opd) (op : W32 → W32 → W32), s.runs i = true → uniRule i = some (d, os, op) →
    let t := (s.operands i).1
    let v (n : Nat) : W32 := match os[n]? with
      | some o => t.uniWord o ((s.operands i).2.getD n none)
      | none => 0
    exec i s = .next (t.putUni d (op (v 0) (v 1))).passes

/-- The eight conditions of WCMP (R71): equal, not equal, signed less and not less, unsigned less and not less, and whether the
operands have a bit in common. -/
def wHolds (c : Nat) (x y : W32) : Bool :=
  [x == y, x != y, decide (x.toInt < y.toInt), decide (y.toInt ≤ x.toInt), decide (x.toNat < y.toNat), decide (y.toNat ≤ x.toNat),
    (List.range 32).any fun k => x.getLsbD k && y.getLsbD k,
    (List.range 32).all fun k => !(x.getLsbD k && y.getLsbD k)].getD c false

/-- WCMP, WSEL, WLI, WADD64, WRS and WWS. -/
def UniformOthers : Prop :=
  ∀ (s : State),
    (∀ c t a b bp, s.runs (.wcmp c t a b bp) = true →
      let r := s.operands (.wcmp c t a b bp)
      exec (.wcmp c t a b bp) s =
        .next (r.1.putB t.val (wHolds c.toNat (r.1.uniWord a (r.2.getD 0 none)) (r.1.uniWord b (r.2.getD 1 none)))).passes) ∧
    (∀ d a b c, s.runs (.wsel d a b c) = true →
      let r := s.operands (.wsel d a b c)
      exec (.wsel d a b c) s =
        .next (r.1.putUni d (if r.1.readB c.val then r.1.uniWord a (r.2.getD 0 none) else r.1.uniWord b (r.2.getD 1 none))).passes) ∧
    (∀ (n : Fin 32) lo hi bp, s.runs (.wli (.w n) lo hi bp) = true →
      let t := (s.operands (.wli (.w n) lo hi bp)).1
      exec (.wli (.w n) lo hi bp) s = .next ((t.putW n.val lo).putW (n.val + 1) hi).passes) ∧
    (∀ lo hi bp, s.runs (.wli .zero lo hi bp) = true →
      exec (.wli .zero lo hi bp) s = .next (s.operands (.wli .zero lo hi bp)).1.passes) ∧
    (∀ d a b bp, s.runs (.wadd64 d a b bp) = true →
      let t := (s.operands (.wadd64 d a b bp)).1
      exec (.wadd64 d a b bp) s = .next (t.putUni64 d ((t.uniWord64 a true + t.uniWord64 b true) % 2 ^ 64)).passes) ∧
    (∀ d i bp, s.runs (.wrs d i bp) = true →
      let t := (s.operands (.wrs d i bp)).1
      exec (.wrs d i bp) s =
        .next (if spr64 i.toNat then t.putUni64 d (t.readSpr i.toNat) else t.putUni d (BitVec.ofNat 32 (t.readSpr i.toNat))).passes) ∧
    (∀ i a bp u g ks, s.runs (.wws i a bp) = true → s.who = some (u, g, ks) →
      let r := s.operands (.wws i a bp)
      exec (.wws i a bp) s = .next (r.1.onGrp u g fun x =>
        if i = 0x13 then { x with trapc := BitVec.ofNat 32 ((r.1.uniWord a (r.2.getD 0 none)).toNat % 2 ^ 16) }
        else if i = 0x14 then { x with trapm := BitVec.ofNat 64 (r.1.uniWord64 a false) }
        else if i = 0x15 then { x with trapa := BitVec.ofNat 64 (r.1.uniWord64 a false) } else x).passes)

/-- The width of a field of the work identifier, and where it lies (R118, R119). -/
def fieldWidth (h : List W8) (i : Nat) : Nat := bits (fieldLe h 8 8) (6 * i + 5) (6 * i)
def fieldBase (h : List W8) (i : Nat) : Nat := ((List.range i).map (fieldWidth h)).sum

/-- What a special register reads (Table 14 of R72): in a path the values of its lowest strand, in a handler those of the lowest strand of
trapm, and in a service thread its own district, domain, clock and tick, and 0 of every other (R442). -/
def SpecialRegisters : Prop :=
  (∀ (s : State) (u g k : Nat),
    (∃ r, s.focus.kind = .path u g (k :: r)) ∨ (s.focus.kind = .handler u g ∧
      k = ((strandsOf (s.grp u g).trapm.toNat (s.grp u g).width).filter fun j => ((s.grp u g).strand j).st != .exited).headD 0) →
    let b := s.block u
    let x := s.grp u g
    let h := s.launchHdr b
    let id := b.ident + k + g * 2 ^ fieldWidth h 0
    s.readSpr 0x00 = k ∧ s.readSpr 0x01 = g ∧ s.readSpr 0x02 = b.ident / 2 ^ (fieldWidth h 0 + fieldWidth h 1) % 2 ^ 32 ∧
    (∀ i, i < 6 → s.readSpr (3 + i) = id / 2 ^ fieldBase h i % 2 ^ fieldWidth h i) ∧
    s.readSpr 0x0b = x.lane ∧ s.readSpr 0x0c = b.core ∧ s.readSpr 0x0d = b.core / 4 ∧
    s.readSpr 0x0e = b.dist ∧ s.readSpr 0x0f = hDomain h ∧ s.readSpr 0x10 = s.cycle % 2 ^ 64 ∧
    s.readSpr 0x11 = (x.strand k).tick % 2 ^ 64 ∧ s.readSpr 0x12 = x.cue.toNat ∧ s.readSpr 0x13 = x.trapc.toNat ∧
    s.readSpr 0x14 = x.trapm.toNat ∧ s.readSpr 0x15 = x.trapa.toNat ∧ s.readSpr 0x16 = x.gang.toNat ∧
    s.readSpr 0x09 + 2 ^ 32 * s.readSpr 0x0a = id % 2 ^ 64) ∧
  (∀ (s : State) (q i : Nat), s.focus.kind = .thread q → s.readSpr i =
    if i = 0x0e then (s.squeue q).district else if i = 0x0f then (s.squeue q).domain else if i = 0x10 then s.cycle % 2 ^ 64
    else if i = 0x11 then (s.squeue q).thread.tick % 2 ^ 64 else 0)

/-! The handler's registers of one strand (R251) -/

/-- A result for one strand of a v register waits for its write-back (R222). -/
def awaitsV (s : State) (u g n k : Nat) (v : W32) : State :=
  s.onGrp u g fun x => { x with pendWb := x.pendWb ++ [{ vWrites := [(n, [(k, v)])], due := s.focus.dueOf k, pass := s.cycle }] }

/-- XGET and XPUT of a handler complete wherever the checks at decode pass, no write-back that is awaited holds them, and the strand
that B names exists. -/
def HandlerAccessCompletes : Prop :=
  ∀ (s : State) (u g : Nat) (d a b : Opd), s.focus.kind = .handler u g →
    let k := laneVal (s.grp u g) .n32 b none 0
    k < (s.grp u g).width →
    (decodeTrap (.xget d a b) s = none → (s.grp u g).holdsBack (.xget d a b) = false →
      ∃ (n : Fin 32) (r : Fin 64), d = .w n ∧ a = .v r ∧ s.runs (.xget d a b) = true ∧
        exec (.xget d a b) s =
          .next (let t := (s.operands (.xget d a b)).1
                 awaitsW t u g n.val ((t.grp u g).getV r.val k)).passes) ∧
    (decodeTrap (.xput d a b) s = none → (s.grp u g).holdsBack (.xput d a b) = false →
      ∃ r : Fin 64, d = .v r ∧ s.runs (.xput d a b) = true ∧
        exec (.xput d a b) s =
          .next (let t := (s.operands (.xput d a b)).1
                 if (t.grp u g).strand k |>.isExited then t
                 else awaitsV t u g r.val k (BitVec.ofNat 32 (laneVal (t.grp u g) .n32 a none k))).passes)

def HandlerRegisters : Prop :=
  ∀ (s : State) (u g : Nat), s.focus.kind = .handler u g →
    (∀ (n : Fin 32) (r : Fin 64) (b : Opd), s.runs (.xget (.w n) (.v r) b) = true →
      let t := (s.operands (.xget (.w n) (.v r) b)).1
      let k := laneVal (t.grp u g) .n32 b none 0
      (k < (t.grp u g).width → exec (.xget (.w n) (.v r) b) s =
        .next (awaitsW t u g n.val ((t.grp u g).getV r.val k)).passes) ∧
      ((t.grp u g).width ≤ k → exec (.xget (.w n) (.v r) b) s = .next (t.trapPath 0x02).endPass)) ∧
    (∀ (r : Fin 64) (a b : Opd), s.runs (.xput (.v r) a b) = true →
      let t := (s.operands (.xput (.v r) a b)).1
      let k := laneVal (t.grp u g) .n32 b none 0
      (k < (t.grp u g).width → ((t.grp u g).strand k).st ≠ .exited → exec (.xput (.v r) a b) s =
        .next (awaitsV t u g r.val k (BitVec.ofNat 32 (laneVal (t.grp u g) .n32 a none k))).passes) ∧
      (k < (t.grp u g).width → ((t.grp u g).strand k).st = .exited → exec (.xput (.v r) a b) s = .next t.passes) ∧
      ((t.grp u g).width ≤ k → exec (.xput (.v r) a b) s = .next (t.trapPath 0x02).endPass))

/-! Accesses to memory (R62, R183, R192, R194, R198 to R211) -/

/-- The address of a strand's access: the key of the base stays, and the offset is the sum of base, index and the scaled constant in
48 bits (R62). -/
def address (base : Nat) (index : W32) (off : BitVec 12) (n : Nat) : Nat :=
  base / 2 ^ 48 % 2 ^ 16 * 2 ^ 48 + ((((base % 2 ^ 48 : Nat) : Int) + index.toInt + off.toInt * n) % 2 ^ 48).toNat

/-- The same sum in 32 bits, for the scratchpad. -/
def scrAddress (base : Nat) (index : W32) (off : BitVec 12) (n : Nat) : Nat := (((base : Int) + index.toInt + off.toInt * n) % 2 ^ 32).toNat

/-- What a memory form does in its strands: kind and size of a part, the rights it needs (Table 3), whether it is collapsed (R199), its
counter and destination, hint, operation and type, and address, data and compare value of a strand. -/
structure Access where
  kind : PartKind
  size : Nat
  need : Nat
  once : Bool
  issue : Issue
  hint : Nat := 0
  aop : Nat := 0
  ty : Nat := 0
  va : Nat → Nat
  data : Nat → List W8 := fun _ => []
  cmp : Nat → List W8 := fun _ => []

def accessOf (u g : Nat) (x : Group) : Instr → Option Access
  | .ld k d b i _ sx hint off => some
    { kind := .load, size := 2 ^ k.val, need := rightRD, once := x.flat 2 b && x.flat 1 i, hint := hint.toNat
      issue := { id := 0, blk := u, grp := g, ctr := 0, dest := d, bits := 8 * 2 ^ k.val, sx := sx, size := 2 ^ k.val }
      va := fun j => address (baseVal x true b j) (indexVal x i j) off (2 ^ k.val) }
  | .st k d b i _ hint off => some
    { kind := .store, size := 2 ^ k.val, need := rightW, hint := hint.toNat
      once := x.flat 2 b && x.flat 1 i && x.flat (if k.val = 4 then 4 else if k.val = 3 then 2 else 1) d
      issue := { id := 0, blk := u, grp := g, ctr := 1, size := 2 ^ k.val }
      va := fun j => address (baseVal x true b j) (indexVal x i j) off (2 ^ k.val), data := storeBytes x d (2 ^ k.val) }
  | .atom d b i c _ ty aop hint off => some
    { kind := .atom, size := atomSize ty.toNat, need := rightRD + rightA, once := false, hint := hint.toNat, aop := aop.toNat, ty := ty.toNat
      issue := { id := 0, blk := u, grp := g, ctr := 0, dest := d, bits := 8 * atomSize ty.toNat, size := atomSize ty.toNat }
      va := fun j => address (baseVal x true b j) (indexVal x i j) off (atomSize ty.toNat), data := atomBytes x ty.toNat c
      cmp := cmpBytes x ty.toNat d }
  | .red d b i _ ty aop hint off => some
    { kind := .red, size := atomSize ty.toNat, need := rightA, once := false, hint := hint.toNat, aop := aop.toNat, ty := ty.toNat
      issue := { id := 0, blk := u, grp := g, ctr := 1, size := atomSize ty.toNat }
      va := fun j => address (baseVal x true b j) (indexVal x i j) off (atomSize ty.toNat), data := atomBytes x ty.toNat d }
  | .pst d b i _ ty off => some
    { kind := .pst, size := 2 ^ ty.toNat, need := rightW, once := false
      issue := { id := 0, blk := u, grp := g, ctr := 1, size := 2 ^ ty.toNat, pst := true }
      va := fun j => address (baseVal x true b j) (indexVal x i j) off (2 ^ ty.toNat), data := storeBytes x d (2 ^ ty.toNat) }
  | _ => none

/-- The parts of the covered strands, one for all of them where the access is collapsed. -/
def Access.parts (a : Access) (t : State) (u g : Nat) (cov : List Nat) : List Part :=
  let one (ks : List Nat) (k : Nat) : Part :=
    { t.strandPart u g ks a.kind (a.va k) a.size with data := a.data k, cmp := a.cmp k, hint := a.hint, aop := a.aop, ty := a.ty }
  if a.once then [one cov (cov.headD 0)] else cov.map fun k => one [k] k

/-- Loads, stores, atomics, reductions and posted writes whose strands all pass the checks: their parts are sent and their counter rises
by one; a load asks the L1 first, and the parts of a posted write make one entry of eq7.  A collapsed access has the same operands in
every strand (R199): its registers have delta width 0. -/
def AccessIssue : Prop :=
  ∀ (i : Instr) (s t : State) (u g : Nat) (ks : List Nat) (a : Access),
    s.runs i = true → (s.operands i).1 = t → t.focus.kind = .path u g ks → accessOf u g (t.grp u g) i = some a →
    t.covered (predOf i) ≠ [] →
    (∀ k ∈ t.covered (predOf i), t.checkMem u (a.va k) a.size a.need = none ∧ ((t.grp u g).strand k).replay = none) →
    (a.once = true → ∀ j ∈ t.covered (predOf i), ∀ k ∈ t.covered (predOf i), a.va j = a.va k ∧ a.data j = a.data k) →
      let ps := a.parts t u g (t.covered (predOf i))
      let t1 := (if a.once then t.count (t.block u).dist (vfNum (t.block u).dist (t.block u).vf) 0x08 1 else t).openIssue a.issue ps
      exec i s = .next (
        (match a.kind with
        | .load => (List.range ps.length).foldl (fun (y : State) j => y.l1Serve (t.nextId + 1 + j)) t1
        | .pst => t1.onCore (t.block u).core fun (c : CoreSt) =>
          { c with eq7 := c.eq7 ++
            [({ id := t.nextId, blk := u, grp := g, parts := (List.range ps.length).map (t.nextId + 1 + ·) } : PstEntry)] }
        | _ => t1).passes)

/-- What the start of a counted instruction changes: its parts are on their way, and its counter rises (R22). -/
def IssueOpens : Prop :=
  ∀ (s : State) (e : Issue) (ps : List Part) (b : Block) (x : Group), Tbl.find e.blk s.blocks = some b → b.groups[e.grp]? = some x →
    ps ≠ [] → e.ctr < 4 →
      let t := s.openIssue e ps
      t.mem = s.mem ∧ t.nextId = s.nextId + 1 + ps.length ∧
      (t.grp e.blk e.grp).ctr e.ctr = x.ctr e.ctr + 1 ∧ (∀ k < 4, k ≠ e.ctr → (t.grp e.blk e.grp).ctr k = x.ctr k) ∧
      (t.grp e.blk e.grp).strands = x.strands ∧ (t.grp e.blk e.grp).vregs = x.vregs ∧ (t.grp e.blk e.grp).w = x.w ∧
      (∀ v h, (v, h) ≠ (e.blk, e.grp) → t.grp v h = s.grp v h) ∧
      (t.parts.map fun p => (p.id, p.kind, p.va, p.len, p.data, p.clk)) =
        (s.parts.map fun p => (p.id, p.kind, p.va, p.len, p.data, p.clk)) ++
          ps.zipIdx.map fun p => (s.nextId + 1 + p.2, p.1.kind, p.1.va, p.1.len, p.1.data, p.1.clk)

/-- A strand that fails a check parks with the check's code at the instruction; the others go on (R183). -/
def AccessFaults : Prop :=
  ∀ (s : State) (u g align need : Nat) (opnds : Nat → Nat × List W8 × List W8) (cov : List Nat) (b : Block) (x : Group),
    Tbl.find u s.blocks = some b → b.groups[g]? = some x → cov.Nodup → (∀ k ∈ cov, k < x.width ∧ (x.strand k).st = .active ∧ (x.strand k).replay = none) →
      let r := s.checkAll u g align need opnds cov
      (r.2.map Prod.fst = cov.filter fun k => (s.checkMem u (opnds k).1 align need).isNone) ∧
      (∀ k ∈ cov, ∀ c, s.checkMem u (opnds k).1 align need = some c →
        ((r.1.grp u g).strand k).st = .fatal c 0 (x.strand k).pc ∧ ((r.1.grp u g).strand k).pc = (x.strand k).pc) ∧
      (∀ k, (k ∈ cov → s.checkMem u (opnds k).1 align need = none) → (r.1.grp u g).strand k = x.strand k) ∧
      r.1.mem = s.mem ∧ r.1.parts = s.parts ∧ (r.1.grp u g).w = x.w ∧ (r.1.grp u g).vregs = x.vregs

/-- The order of the checks of Table 1 (R183). -/
def CheckOrder : Prop :=
  ∀ (s : State) (u va n need : Nat),
    let b := s.block u
    let h := s.launchHdr b
    let key := va / 2 ^ 48 % 2 ^ 16
    s.checkMem u va n need =
      if va % n ≠ 0 then some 0x08
      else if key = 0xfffd then (if hPriv h then none else some 0x06)
      else if key = 0xfffe ∨ key = 0xffff ∨
          !hasRights (rightsIn ((s.core b.core).domainEntries b.dist (hDomain h)) key) need then some 0x06
      else if (s.distLookup b.dist va).isNone then some 0x07 else none

/-- LDW and STW of a path or a handler: one part for every covered strand (R198). -/
def UniformAccess : Prop :=
  ∀ (s t : State) (u g : Nat) (d b x : Opd) (p : Pr) (ty hint : BitVec 3) (off : BitVec 12),
    (∃ P, t.focus.kind = .path u g P) ∨ t.focus.kind = .handler u g →
    (let va := address (match b with | .w n => t.readW64 n.val | _ => 0) (match x with | .w n => t.readW n.val | _ => 0) off (2 ^ ty.toNat)
     let part (kind : PartKind) (data : List W8) : Part :=
       { t.strandPart u g (t.covered p) kind va (2 ^ ty.toNat) with data := data, hint := hint.toNat }
     (∀ k ∈ t.covered p, ((t.grp u g).strand k).replay = none) →
      (s.runs (.ldw d b x p ty hint off) = true → (s.operands (.ldw d b x p ty hint off)).1 = t →
        t.checkMem u va (2 ^ ty.toNat) rightRD = none →
        exec (.ldw d b x p ty hint off) s = .next ((t.openIssue
          { id := 0, blk := u, grp := g, ctr := 0, dest := d, bits := 8 * 2 ^ ty.toNat, size := 2 ^ ty.toNat }
          [part .load []]).l1Serve (t.nextId + 1)).passes) ∧
      (s.runs (.stw d b x p ty hint off) = true → (s.operands (.stw d b x p ty hint off)).1 = t →
        t.checkMem u va (2 ^ ty.toNat) rightW = none →
        exec (.stw d b x p ty hint off) s = .next (t.openIssue
          { id := 0, blk := u, grp := g, ctr := 1, size := 2 ^ ty.toNat } [part .store (t.wBytes d (2 ^ ty.toNat))]).passes))

/-! Scratchpad (R194, R198, R202) -/

/-- The lane-cycle of a strand in the pass, and the cycle in which its result comes (R194, R222). -/
def laneTimes (t : State) (k : Nat) : Nat × Nat :=
  match t.focus.wb.find? fun e => e.1 == k with
  | some e => e.2
  | none => (t.cycle, t.cycle + 6)

/-- A form's accesses in the pass: one in each covered strand's lane-cycle, or one for all of them in the first's, with the result of the
last, where it is collapsed (R199). -/
def scrPlan (t : State) (cov : List Nat) (once : Bool) (o : ScrOp) (off : Nat → Nat) (data cmp : Nat → List W8) : State :=
  let op (k : Nat) (js : List Nat) : ScrOp :=
    { o with ks := js, cyc := (laneTimes t k).1, due := (js.map fun j => (laneTimes t j).2).foldl max 0, off := off k, data := data k
             cmp := cmp k, second := t.focus.second }
  let ops := if once then [op (cov.headD 0) cov] else cov.map fun k => op k [k]
  let b := t.block o.blk
  let t := if once then t.count b.dist (vfNum b.dist b.vf) 0x08 1 else t
  { t with scrOps := ops.foldl (fun l o => insertScr o l) t.scrOps }

/-- LDS, STS and ATOMS put the accesses of their covered strands among those of the pass. -/
def ScratchpadAccess : Prop :=
  ∀ (s t : State) (u g : Nat) (ks : List Nat) (d b x c : Opd) (p : Pr) (off : BitVec 12), t.focus.kind = .path u g ks →
    t.covered p ≠ [] →
    (let y := t.grp u g
     let at0 (n : Nat) (j : Nat) : Nat := scrAddress (baseVal y false b j) (indexVal y x j) off n
     let fits (n : Nat) : Prop := ∀ j ∈ t.covered p, at0 n j % n = 0 ∧ at0 n j + n ≤ (t.block u).scrBytes
     (∀ (k : Fin 5) (sx : Bool), s.runs (.lds k d b x p sx off) = true → (s.operands (.lds k d b x p sx off)).1 = t → fits (2 ^ k.val) →
        exec (.lds k d b x p sx off) s = .next (scrPlan t (t.covered p) (y.flat 1 b && y.flat 1 x)
          { blk := u, grp := g, ks := [], cyc := 0, off := 0, size := 2 ^ k.val, act := 0, dest := d, bits := 8 * 2 ^ k.val, sx := sx }
          (at0 (2 ^ k.val)) (fun _ => []) (fun _ => [])).passes) ∧
     (∀ (k : Fin 5), s.runs (.sts k d b x p off) = true → (s.operands (.sts k d b x p off)).1 = t → fits (2 ^ k.val) →
        exec (.sts k d b x p off) s = .next (scrPlan t (t.covered p)
          (y.flat 1 b && y.flat 1 x && y.flat (if k.val = 4 then 4 else if k.val = 3 then 2 else 1) d)
          { blk := u, grp := g, ks := [], cyc := 0, off := 0, size := 2 ^ k.val, act := 1 }
          (at0 (2 ^ k.val)) (storeBytes y d (2 ^ k.val)) (fun _ => [])).passes) ∧
     (∀ (ty : BitVec 3) (aop : BitVec 4), s.runs (.atoms d b x c p ty aop off) = true → (s.operands (.atoms d b x c p ty aop off)).1 = t →
        fits (atomSize ty.toNat) →
        exec (.atoms d b x c p ty aop off) s = .next (scrPlan t (t.covered p) false
          { blk := u, grp := g, ks := [], cyc := 0, off := 0, size := atomSize ty.toNat, act := 2, aop := aop.toNat, ty := ty.toNat
            dest := d, bits := 8 * atomSize ty.toNat }
          (at0 (atomSize ty.toNat)) (atomBytes y ty.toNat c) (cmpBytes y ty.toNat d)).passes))

/-- The bytes that a scratchpad access writes over `old`: none for a load, its data for a store, the result for an atomic that
writes. -/
def scrPut (o : ScrOp) (old : List W8) : Option (List W8) :=
  if o.act = 0 then none
  else if o.act = 1 then some o.data
  else
    let z := atomicOp o.aop o.ty (ofLe old) (ofLe o.data) (ofLe o.cmp)
    if z.2 then some (leBytes o.size z.1) else none

/-- The accesses of a pass stand in lane-cycle order and take their turns: each reads the bytes as the earlier ones left them, writes
what its form says, and moves the scratchpad's clock; the results of a load or an atomic are on their way then, and LD is one higher
(R22, R194). -/
def ScratchpadTurns : Prop :=
  (∀ (o : ScrOp) (l : List ScrOp), (l.map ScrOp.cyc).Pairwise (· ≤ ·) → ((insertScr o l).map ScrOp.cyc).Pairwise (· ≤ ·)) ∧
  (∀ (s : State),
    let turns := s.scrOps.foldl (fun (a : State × List (ScrOp × List W8)) o =>
      let old := a.1.scrRead o.blk o.off o.size
      let y := match scrPut o old with
        | some bs => a.1.scrWrite o.blk o.off bs
        | none => a.1
      ((y.scrTime o.blk o.grp o.ks 0).1, a.2 ++ [(o, old)])) ({ s with scrOps := [] }, [])
    let got := turns.2.filter fun e => e.1.act != 1
    s.performScr = (turns.1.scrResults (got.filter fun e => !e.1.second)).scrResults (got.filter fun e => e.1.second)) ∧
  (∀ (s : State) (l : List (ScrOp × List W8)) (u g : Nat) (b : Block) (x : Group), Tbl.find u s.blocks = some b →
    b.groups[g]? = some x → l ≠ [] → (∀ e ∈ l, e.1.blk = u ∧ e.1.grp = g) →
      let t := s.scrResults l
      (t.grp u g).ld = x.ld + 1 ∧ (t.grp u g).vregs = x.vregs ∧ t.mem = s.mem ∧
      t.parts.map (fun p => (p.src, p.st, p.due)) = s.parts.map (fun p => (p.src, p.st, p.due)) ++
        l.map fun e => (.strands u g e.1.ks, .data e.2, max (s.cycle + 1) e.1.due))

/-- A scratchpad write is what the next read of the same bytes gives, inside the block's share. -/
def ScratchpadMemory : Prop :=
  ∀ (s : State) (u off : Nat) (bs : List W8) (b : Block), Tbl.find u s.blocks = some b → off + bs.length ≤ b.scrBytes →
    Memory.wf (s.core b.core).sram = true → b.scr.Nodup →
      (s.scrWrite u off bs).scrRead u off bs.length = bs ∧
      (∀ o, o < b.scrBytes → (o < off ∨ off + bs.length ≤ o) → (s.scrWrite u off bs).scrRead u o 1 = s.scrRead u o 1) ∧
      (s.scrWrite u off bs).mem = s.mem

/-! Fences, monitors, hints -/

/-- PREF, FENCE, MON and SLEEP (R207, R208, R210, R211). -/
def Fences : Prop :=
  ∀ (s t : State) (u g : Nat) (ks : List Nat) (p : Pr), t.focus.kind = .path u g ks →
    (∀ i pstOnly, (i = .fenceP p ∧ pstOnly = true) ∨ (i = .fenceH p ∧ pstOnly = false) ∨ (i = .fenceA p ∧ pstOnly = false) →
      s.runs i = true → (s.operands i).1 = t →
        let newest := if pstOnly then (t.grp u g).pstTs else (t.grp u g).ctrTs.foldl max 0
        (∀ n ts k, t.pathWait = .fence n ts k → exec i s = .next (t.onGrp u g fun x => x.raise ks ts).passes) ∧
        ((∀ n ts k, t.pathWait ≠ .fence n ts k) → t.fenceHolds u g t.nextId pstOnly = false →
          exec i s = .next (t.onGrp u g fun x => x.raise ks newest).passes) ∧
        ((∀ n ts k, t.pathWait ≠ .fence n ts k) → t.fenceHolds u g t.nextId pstOnly = true →
          exec i s = .next (t.onGrp u g fun x =>
            x.onStrands ks fun y => if y.st = .active then { y with wait := .fence t.nextId newest pstOnly } else y).endPass)) ∧
    (∀ b x hint off, s.runs (.pref b x p hint off) = true → (s.operands (.pref b x p hint off)).1 = t →
      let va (k : Nat) : Nat := address (baseVal (t.grp u g) true b k) (indexVal (t.grp u g) x k) off 1
      let sent := (t.covered p).filter fun k =>
        (t.checkMem u (va k) 1 rightRD).isNone && (hint != 2 || (t.l1Find (t.block u).core (va k)).isSome)
      exec (.pref b x p hint off) s =
        .next (t.sendParts (sent.map fun k => { t.strandPart u g [k] .pref (va k) 1 with hint := hint.toNat })).1.passes) ∧
    (∀ b x off, s.runs (.mon b x p off) = true → (s.operands (.mon b x p off)).1 = t →
      let va (k : Nat) : Nat := address (baseVal (t.grp u g) true b k) (indexVal (t.grp u g) x k) off 1
      (∀ k ∈ t.covered p, t.checkMem u (va k) 1 rightRD = none ∧ ((t.grp u g).strand k).replay = none) →
        let m := addLines ((t.covered p).map fun k => va k / 64) (t.grp u g).monLines
        exec (.mon b x p off) s = .next
          (((t.onGrp u g fun y => { y with monLines := m.1, overF := y.overF || m.2.2 }).sendParts
            (m.2.1.map fun l => t.strandPart u g ((t.covered p).filter fun k => va k / 64 = l) .mon (64 * l) 1)).1).passes) ∧
    (s.runs (.sleep p) = true → (s.operands (.sleep p)).1 = t →
      let x := t.grp u g
      let ends (ts : Group → Nat) : Prop :=
        exec (.sleep p) s = .next (((t.onGrp u g fun x => x.raise ks (ts x)).onGrp u g fun x =>
          { x with monLines := [], woke := false, overF := false, wokeTs := 0 }).disarm (.grp u g)).passes
      (∀ ts, t.pathWait = .woken ts → ends fun _ => ts) ∧
      ((∀ ts, t.pathWait ≠ .woken ts) → x.monLines = [] ∨ x.overF = true ∨ x.woke = true →
        ends fun x => if x.woke then x.wokeTs else 0) ∧
      ((∀ ts, t.pathWait ≠ .woken ts) → x.monLines ≠ [] → x.overF = false → x.woke = false →
        exec (.sleep p) s = .next (t.onGrp u g fun x =>
          x.onStrands ks fun y => if y.st = .active then { y with wait := .sleep } else y).endPass))

/-! A service thread's accesses (R442) -/

def ThreadAccess : Prop :=
  ∀ (s : State) (q : Nat) (d b x : Opd) (p : Pr) (ty hint : BitVec 3) (off : BitVec 12), s.focus.kind = .thread q →
    (let va := address (match b with | .w n => s.readW64 n.val | _ => 0) (match x with | .w n => s.readW n.val | _ => 0) off (2 ^ ty.toNat)
     let k := s.squeue q
     va % 2 ^ ty.toNat = 0 →
      (s.runs (.ldw d b x p ty hint off) = true → s.mayAccess (s.keyEntries k.district k.domain) k.priv k.district va rightRD = none →
        (∀ (y : Part) (line : List W8) (wts rts bad : Nat),
          s.asked (s.threadPart q .load va (2 ^ ty.toNat) []) = some y → y.st = .replied (.accept line wts rts bad) →
          exec (.ldw d b x p ty hint off) s = .next (putWords ((s.dropSrc (.thread q)).setThread q fun t =>
            { t with busy := false, tick := max t.tick wts }) d ((line.drop (va % 64)).take (2 ^ ty.toNat))).passes)) ∧
      (s.runs (.stw d b x p ty hint off) = true → s.mayAccess (s.keyEntries k.district k.domain) k.priv k.district va rightW = none →
        (∀ (y : Part) (line : List W8) (wts rts bad : Nat),
          s.asked (s.threadPart q .store va (2 ^ ty.toNat) (s.wBytes d (2 ^ ty.toNat))) = some y → y.st = .replied (.accept line wts rts bad) →
          exec (.stw d b x p ty hint off) s = .next (
            let t := (s.dropSrc (.thread q)).setThread q fun t => { t with busy := false, tick := max t.tick wts }
            if va / 64 = (s.squeue q).ring / 64 then t.post (.consumedRecheck q) else t).passes)))

/-! Queues and stage rings (R254 to R265, R272, R273) -/

/-- The position and the lap bit of a ring slot as SACQ and QPEEK give them (R264). -/
def ringWord (q : Queue) : W32 := BitVec.ofNat 32 (q.head % q.depth + if q.head < q.depth then 65536 else 0)

/-- How many elements a queue holds, or how many slots of a ring in a row are full from the next one on (R272). -/
def held (t : State) (u k : Nat) : Nat := if ((t.block u).queue k).kind = 3 then t.fullRun u k ((t.block u).queue k).head ((t.block u).queue k).depth
  else ((t.block u).queue k).count

def QueueOperations : Prop :=
  ∀ (s t : State) (u g : Nat) (ks : List Nat) (k : Fin 16) (d : Opd) (bp : Pr), t.focus.kind = .path u g ks →
    let q := (t.block u).queue k.val
    (s.runs (.qpeek d (.q k) bp) = true → (s.operands (.qpeek d (.q k) bp)).1 = t → q.kind ≠ 0 → (q.kind = 1 → isW d = false) →
      exec (.qpeek d (.q k) bp) s = .next (((t.scrTime u g ks (q.times.headD 0)).1).putQueued d fun j =>
        if q.kind = 1 then BitVec.ofNat 32 (ofLe (t.scrRead u (q.slotOff (t.block u).gwidth q.head + 4 * j) 4))
        else if q.kind = 2 then BitVec.ofNat 32 (ofLe (t.scrRead u (q.slotOff (t.block u).gwidth q.head) 4)) else ringWord q).passes) ∧
    (s.runs (.qcnt d (.q k) bp) = true → (s.operands (.qcnt d (.q k) bp)).1 = t → q.kind ≠ 0 →
      exec (.qcnt d (.q k) bp) s = .next (((t.scrTime u g ks 0).1).putQueued d fun _ => BitVec.ofNat 32 (held t u k.val)).passes) ∧
    (∀ b, s.runs (.qdrop (.q k) b bp) = true → (s.operands (.qdrop (.q k) b bp)).1 = t → q.kind ≠ 0 →
      let n := min ((t.grp u g).uniOpd b).toNat (held t u k.val)
      exec (.qdrop (.q k) b bp) s = .next (((t.scrTime u g ks ((q.times.take n).foldl max 0)).1).onBlock u fun x => x.onQueue k.val fun q =>
        if q.kind = 3 then { q with head := (q.head + n) % (2 * q.depth) }
        else { q with head := (q.head + n) % q.depth, count := q.count - n, times := q.times.drop n }).passes) ∧
    (s.runs (.sacq d (.q k) bp) = true → (s.operands (.sacq d (.q k) bp)).1 = t → q.kind = 3 →
      exec (.sacq d (.q k) bp) s = .next ((((t.scrTime u g ks 0).1).onBlock u fun x => x.onQueue k.val fun q =>
        { q with head := (q.head + 1) % (2 * q.depth) }).putQueued d fun _ => ringWord q).passes) ∧
    (s.runs (.srel (.q k) bp) = true → (s.operands (.srel (.q k) bp)).1 = t → q.kind = 3 →
      let r := (t.scrTime u g ks 0).1
      exec (.srel (.q k) bp) s = .next ((r.scrWrite u (q.base * 2048 + q.tail % q.depth * 8)
        (leBytes 4 q.relcnt.toNat ++ leBytes 4 (if q.tail < q.depth then 1 else 0))).onBlock u fun x => x.onQueue k.val fun q =>
          { q with relcnt := q.relcnt + 1, tail := (q.tail + 1) % (2 * q.depth) }).passes)

/-- A queue operation on a queue that is not configured, or is of another kind, or a peek of elements into a uniform register, traps
with 0x0d and changes nothing else (R260).  A peek into a uniform register waits for an element first (log entry 107). -/
def QueueTraps : Prop :=
  ∀ (s t : State) (u g : Nat) (ks : List Nat) (k : Fin 16) (d : Opd) (bp : Pr), t.focus.kind = .path u g ks →
    (((t.block u).queue k.val).kind = 0 ∨ ((t.block u).queue k.val).kind = 1 ∧ isW d = true → s.runs (.qpeek d (.q k) bp) = true →
      (s.operands (.qpeek d (.q k) bp)).1 = t → exec (.qpeek d (.q k) bp) s = .next (t.trapPath 0x0d).endPass) ∧
    (∀ b, ((t.block u).queue k.val).kind = 0 → s.runs (.qdrop (.q k) b bp) = true → (s.operands (.qdrop (.q k) b bp)).1 = t →
      exec (.qdrop (.q k) b bp) s = .next (t.trapPath 0x0d).endPass) ∧
    (((t.block u).queue k.val).kind ≠ 3 → s.runs (.srel (.q k) bp) = true → (s.operands (.srel (.q k) bp)).1 = t →
      exec (.srel (.q k) bp) s = .next (t.trapPath 0x0d).endPass) ∧
    (((t.block u).queue k.val).kind = 0 → s.runs (.qcnt d (.q k) bp) = true → (s.operands (.qcnt d (.q k) bp)).1 = t →
      exec (.qcnt d (.q k) bp) s = .next (t.trapPath 0x0d).endPass) ∧
    (((t.block u).queue k.val).kind ≠ 3 → s.runs (.sacq d (.q k) bp) = true → (s.operands (.sacq d (.q k) bp)).1 = t →
      exec (.sacq d (.q k) bp) s = .next (t.trapPath 0x0d).endPass)

/-- What is pushed on an empty queue is what the next pop gives (R256, R257). -/
def QueueOrder : Prop :=
  ∀ (s : State) (u k : Nat) (b : Block) (q : Queue) (bytes : List W8) (time : Nat), Tbl.find u s.blocks = some b →
    b.queues[k]? = some q → 0 < q.depth → q.count = 0 → q.resv = 0 → q.waiting = [] → q.times = [] →
    q.head < q.depth → q.tail = q.head → bytes.length = q.elemBytes b.gwidth → b.scr.Nodup → Memory.wf (s.core b.core).sram = true →
    q.slotOff b.gwidth q.head + bytes.length ≤ b.scrBytes →
      let r := s.reserveQ u k
      let t := r.1.fillQ u k r.2 bytes time
      ((t.block u).queue k).count = 1 ∧ ((t.block u).queue k).resv = 0 ∧ (t.popQ u k).2.1 = bytes ∧
        (((t.popQ u k).1.block u).queue k).count = 0 ∧ (t.popQ u k).2.2 = max time b.clk

/-! Barrier objects (R34, R266 to R271) -/

/-- A barrier object is written with a phase, at a time: the paths that wait for its other phase go on with that time (R34, R267,
R270). -/
def phaseTaken (t : State) (u off time : Nat) (x : Barrier) : State :=
  let wake (y : Strand) : Strand := if y.wait = .bwait off (!x.phase) then { y with wait := .bdone time } else y
  (t.scrWrite u off (leBytes 2 x.expected ++ leBytes 2 x.pending ++ leBytes 4 x.xbytes ++ leBytes 8 x.phase.toNat)).onBlock u fun b =>
    { b with barTimes := Tbl.put off time b.barTimes, groups := b.groups.map fun g => { g with strands := g.strands.map wake } }

/-- A barrier object after an update: when nothing is owed the phase completes and the arrivals are owed again (R34). -/
def barrierAfter (t : State) (u off time : Nat) (x : Barrier) : State :=
  if x.pending = 0 ∧ x.xbytes = 0 then phaseTaken t u off time { x with pending := x.expected, phase := !x.phase }
  else t.scrWrite u off (leBytes 2 x.expected ++ leBytes 2 x.pending ++ leBytes 4 x.xbytes ++ leBytes 8 x.phase.toNat)

def BarrierOperations : Prop :=
  ∀ (s t : State) (u g : Nat) (ks : List Nat) (a b : Opd) (bp : Pr), t.focus.kind = .path u g ks →
    let off := ((t.grp u g).uniOpd a).toNat
    let x := t.barrier u off
    let r := t.scrTime u g ks 0
    let arrived (credit : Nat) : State :=
      barrierAfter r.1 u off r.2 { x with pending := x.pending - 1, xbytes := (x.xbytes + credit) % 2 ^ 32 }
    (t.block u).barFault off = none →
      (s.runs (.binit a b bp) = true → (s.operands (.binit a b bp)).1 = t →
        0 < ((t.grp u g).uniOpd b).toNat → ((t.grp u g).uniOpd b).toNat ≤ 65535 →
          exec (.binit a b bp) s = .next (phaseTaken r.1 u off r.2
            ⟨((t.grp u g).uniOpd b).toNat, ((t.grp u g).uniOpd b).toNat, 0, false⟩).passes) ∧
      (s.runs (.barr a bp) = true → (s.operands (.barr a bp)).1 = t → x.pending ≠ 0 →
        exec (.barr a bp) s = .next (arrived 0).passes) ∧
      (s.runs (.barx a b bp) = true → (s.operands (.barx a b bp)).1 = t → x.pending ≠ 0 →
        exec (.barx a b bp) s = .next (arrived ((t.grp u g).uniOpd b).toNat).passes) ∧
      (s.runs (.bwait a b bp) = true → (s.operands (.bwait a b bp)).1 = t →
        let back (time : Nat) : Prop := exec (.bwait a b bp) s = .next (t.onGrp u g fun y => y.raise ks time).passes
        let parity := ((t.grp u g).uniOpd b).getLsbD 0
        (∀ time, s.pathWait = .bdone time → back time) ∧
        (∀ o k, s.pathWait = .bwait o k → back (Tbl.getD o (t.block u).barTimes 0)) ∧
        ((∀ time, s.pathWait ≠ .bdone time) → (∀ o k, s.pathWait ≠ .bwait o k) →
          (x.phase ≠ parity → back (Tbl.getD off (t.block u).barTimes 0)) ∧
          (x.phase = parity → exec (.bwait a b bp) s = .next (t.onGrp u g fun y =>
            y.onStrands ks fun z => if z.st = .active then { z with wait := .bwait off parity } else z).endPass))) ∧
      (∀ n, s.runs (.btest n a b bp) = true → (s.operands (.btest n a b bp)).1 = t →
        let differs := x.phase != ((t.grp u g).uniOpd b).getLsbD 0
        exec (.btest n a b bp) s = .next (if differs then
            (t.putB n.val true).onGrp u g fun y => y.raise ks (Tbl.getD off (t.block u).barTimes 0)
          else t.putB n.val false).passes) ∧
      (s.runs (.barr a bp) = true → (s.operands (.barr a bp)).1 = t → x.pending = 0 →
        exec (.barr a bp) s = .next (t.trapPath 0x0d).endPass)

/-- GSYNC waits, and BRMT sends its arrival and waits until it is taken (R269, R271). -/
def SyncAndRemote : Prop :=
  ∀ (s t : State) (u g : Nat) (ks : List Nat) (a : Opd) (bp : Pr), t.focus.kind = .path u g ks →
    (s.runs (.gsync bp) = true → (s.operands (.gsync bp)).1 = t →
      exec (.gsync bp) s = .next (t.onGrp u g fun x =>
        x.onStrands ks fun y => if y.st = .active then { y with wait := .gsync t.focus.n } else y).endPass) ∧
    (∀ (ident v : Nat), s.runs (.brmt a bp) = true → (s.operands (.brmt a bp)).1 = t →
      let va := t.uniWord64 a false
      va / 2 ^ 48 % 2 ^ 16 = 0xffff → va / 2 ^ 40 % 2 ^ 8 = 0 → t.member u (va / 2 ^ 32 % 2 ^ 8) = some ident →
      va % 16 = 0 → va % 2 ^ 32 + 16 ≤ (t.block u).scrBytes → t.blockOf (t.block u).dist (t.block u).lid ident = some v →
        let w : State := State.onGrp { t with nextId := t.nextId + 1 } u g fun x =>
          x.onStrands ks fun y => if y.st = .active then { y with wait := .brmt t.nextId t.focus.n } else y
        exec (.brmt a bp) s = .next (State.endPass { w with
          agenda := w.agenda ++ [.brmtArrival v (va % 2 ^ 32) t.nextId ((t.grp u g).pathTime ks)] }))

/-- The release of GSYNC: every live group has arrived, and each strand goes on behind its own GSYNC at the largest tick of all (R271). -/
def SyncReleases : Prop :=
  ∀ (b : Block), b.liveGroups ≠ [] →
    ((∀ g ∈ b.liveGroups, (b.group g).anyParked = false ∧ (b.group g).handler = none ∧
      ∀ k ∈ (b.group g).living, ∃ n, ((b.group g).strand k).wait = .gsync n) →
      ∀ g ∈ b.liveGroups, ∀ k ∈ (b.group g).living, ∀ n,
        let y := (b.group g).strand k
        let z := (b.settleSync.group g).strand k
        y.wait = .gsync n →
        z.wait = .none ∧ z.pc = (if y.idx < n then y.pc + 4 else y.hdr + 4 * (n + 1)) % 2 ^ 64 ∧
        ∀ h ∈ b.liveGroups, ∀ j ∈ (b.group h).living, ((b.group h).strand j).tick ≤ z.tick) ∧
    ((∃ g ∈ b.liveGroups, ∃ k ∈ (b.group g).living, ∀ n, ((b.group g).strand k).wait ≠ .gsync n) → b.settleSync = b)

/-- BRMT_ARRIVAL (R269): at a resident target the object counts one arrival less and the sender goes on; an arrival at PENDING 0 is
dropped and counted; at a target that is away it is held; one whose target has exited is dropped and counted against the district. -/
def RemoteArrival : Prop :=
  ∀ (s : State) (u off id tick : Nat),
    (∀ b, Tbl.find u s.blocks = some b → b.resident = true → (s.barrier u off).pending ≠ 0 →
      exec (.brmtArrival u off id tick) s = .next ((barrierAfter (s.onBlock u fun z => { z with clk := max tick b.clk }) u off (max tick b.clk)
        { s.barrier u off with pending := (s.barrier u off).pending - 1 }).brmtDone id)) ∧
    (∀ b, Tbl.find u s.blocks = some b → b.resident = true → (s.barrier u off).pending = 0 →
      exec (.brmtArrival u off id tick) s = .next ((s.countErr b.dist 5 1).brmtDone id)) ∧
    (∀ b, Tbl.find u s.blocks = some b → b.resident = false →
      exec (.brmtArrival u off id tick) s = .next (s.onBlock u fun z => { z with held := z.held ++ [{ id := id, off := off, tick := tick }] })) ∧
    (Tbl.find u s.blocks = none → ∀ e ∈ s.blocks, (∃ x ∈ e.2.groups, ∃ y ∈ x.strands, ∃ n, y.wait = .brmt id n) →
      (∀ q ∈ s.blocks, (∃ x ∈ q.2.groups, ∃ y ∈ x.strands, ∃ n, y.wait = .brmt id n) → q = e) → exec (.brmtArrival u off id tick) s = .next ((s.countErr e.2.dist 5 1).brmtDone id)) ∧
    (Tbl.find u s.blocks = none → (∀ e ∈ s.blocks, ∀ x ∈ e.2.groups, ∀ y ∈ x.strands, ∀ n, y.wait ≠ .brmt id n) →
      exec (.brmtArrival u off id tick) s = .next (s.brmtDone id))

/-! Tile instructions (R289, R292 to R294, R305 to R312) -/

/-- GANG, OBRES, OBREL, MZERO and MSTAT. -/
def TileRegisters : Prop :=
  ∀ (s t : State) (u g : Nat) (ks : List Nat) (bp : Pr), t.focus.kind = .path u g ks →
    (∀ a, s.runs (.gang a bp) = true → (s.operands (.gang a bp)).1 = t → gangTrap (t.block u) g (t.uniWord a none) = none →
      exec (.gang a bp) s = .next (t.onGrp u g fun x => { x with gang := t.uniWord a none, gangSeq := 0 }).passes) ∧
    (∀ a imm, s.runs (.obres a imm bp) = true → (s.operands (.obres a imm bp)).1 = t →
      let n := (t.uniWord a ((s.operands (.obres a imm bp)).2.getD 0 none)).toNat
      0 < n → n ≤ 262144 → (t.block u).obres.getD (imm.toNat % 8) none = none →
        exec (.obres a imm bp) s =
          .next (t.onBlock u fun b => { b with obres := listSet b.obres (imm.toNat % 8) (some ((n + 4095) / 4096)) }).passes) ∧
    (∀ imm r, s.runs (.obrel imm bp) = true → (s.operands (.obrel imm bp)).1 = t →
      (t.block u).obres.getD (imm.toNat % 8) none = some r →
      (t.core (t.block u).core).resvBusy u (imm.toNat % 8) = false →
        exec (.obrel imm bp) s = .next ((t.onBlock u fun b => { b with obres := listSet b.obres (imm.toNat % 8) none }).onGrp u g
          fun x => { x with busy := .none }).passes) ∧
    (∀ imm, s.runs (.mzero imm bp) = true → (s.operands (.mzero imm bp)).1 = t → t.pathWait ≠ .system →
      (t.core (t.block u).core).tileBusy u imm.toNat t.nextId true = false → t.tileOk u imm.toNat = true →
        exec (.mzero imm bp) s = .next ((t.accWrite u (24576 * imm.toNat) (List.replicate 24576 0)).onGrp u g
          fun x => { x with busy := .none }).passes) ∧
    (∀ d, s.runs (.mstat d bp) = true → (s.operands (.mstat d bp)).1 = t →
      (∀ o ∈ (t.core (t.block u).core).tileOps, o.blk = u → o.has g = true → o.fault = none) →
        exec (.mstat d bp) s = .next (t.putUni d (BitVec.ofNat 32 ((t.grp u g).tl % 64 * 2 ^ 16 +
          if 2 ≤ (gangMembers (t.grp u g).gang).length then 64 else 0))).passes)

/-- A tile operation of a group outside a gang enters the engine at once, and TL rises (R291, R305). -/
def enters (t : State) (u g : Nat) (i : Instr) (m : TileMember) (rows : Nat) : State :=
  ((State.onGrp { t with nextId := t.nextId + 1 } u g fun x => { x with tl := x.tl + 1 }).onCore (t.block u).core fun c =>
    { c with tileOps := c.tileOps ++ [{ id := t.nextId, instr := i, blk := u, members := [m], clk := m.clk, rows := rows }] }).passes

/-- A member of a gang is held at the curtain latch with its sequence number: TL rises, and the path waits (R294); the latch opens when the
last member has come. -/
def latched (t : State) (u g : Nat) (ks : List Nat) (i : Instr) (m : TileMember) (rows : Nat) (vals : List Nat) : State :=
  let x := t.grp u g
  let y := (t.onGrp u g fun x => { x with tl := x.tl + 1, gangSeq := x.gangSeq + 1, busy := .latch }).onGrp u g fun x =>
    x.onStrands ks fun z => if z.st = .active then { z with wait := .system } else z
  ((y.onCore (t.block u).core fun c => { c with latch := c.latch ++
    [{ blk := u, grp := g, seq := x.gangSeq, gang := x.gang, instr := i, vals := vals, rows := rows, place := t.focus, self := m }] }).pumpLatch
      (t.block u).core).endPass

/-- What becomes of a tile instruction whose checks pass: it enters, or it is held with its gang, all of whose members live (R291, R294). -/
def issuesTile (t : State) (u g : Nat) (ks : List Nat) (i : Instr) (m : TileMember) (rows : Nat) (vals : List Nat) : State :=
  if gangMembers (t.grp u g).gang = [] then enters t u g i m rows
  else if ∀ k ∈ gangMembers (t.grp u g).gang, ((t.block u).group k).life = .live then latched t u g ks i m rows vals
  else (t.trapPath 0x0e).endPass

def member (t : State) (u g : Nat) (ks : List Nat) (tile : Nat) (h sc : Record) (o : Opd) : TileMember :=
  { grp := g, pc := t.focus.pc, ks := ks, clk := (t.grp u g).pathTime ks, tile := tile, handle := h, scale := sc,
    origin := originOf (t.wordsAt o 3) }

/-- The scale record of a form: none, or an E8M0 record whose keys the launch may use, at a multiple of 32 of its first coordinate where the
form reads elements (R306 to R308). -/
def scaleRecord (t : State) (u : Nat) (mx : Bool) (at' : Nat) (need : Nat) (sc : Record) : Prop :=
  (mx = false ∧ sc = []) ∨ (mx = true ∧ t.recordOf u at' = some sc ∧ rFmtCode sc = 17 ∧ t.engineKey u (rBase sc) need = true ∧
    t.sideKey u sc = true)

/-- The columns of a member's slice (R288, R294): all of a group alone; in a gang of n its units of 32 columns, by its rank. -/
def sliceColumns (ms : List Nat) (g cols : Nat) : Nat :=
  if ms.length ≤ 1 then cols
  else 32 * (cols / 32 / ms.length + if (ms.filter (· < g)).length < cols / 32 % ms.length then 1 else 0)

/-- The first coordinates of an origin, as many as the record has dimensions (R41). -/
def firstCoords (h : Record) (ws : List W32) : List Nat := ((originOf ws).take (rRank h)).map fun c => (c % 2 ^ 16).toNat

/-- MBLD, MMA and MDRN, with scales or without, of a group alone or in a gang: the checks of R306 to R308, and the operation. -/
def TileIssue : Prop :=
  ∀ (s t : State) (u g : Nat) (ks : List Nat) (bp : Pr) (mode : BitVec 12) (imm : W8) (h sc : Record),
    t.focus.kind = .path u g ks → 2 ≤ rRank h → t.sideKey u h = true →
    let mx := mode.getLsbD 3
    let ms := gangMembers (t.grp u g).gang
    (∀ a b, s.runs (.mbld a b mode imm bp) = true → (s.operands (.mbld a b mode imm bp)).1 = t →
      let n := (t.uniWord a none).toNat
      t.recordOf u n = some h → scaleRecord t u mx (n + 1) rightRD sc → (mx = true → coord (originOf (t.wordsAt b 3)) 0 % 32 = 0) →
      rFmtCode h = matCode (mode.toNat % 8) →
      (mode.toNat % 8 = 5 ∨ mx = true → 131072 ≤ (t.block u).accBytes) → (t.block u).resvOk (mode.toNat / 16 % 8) 4 = true → t.engineKey u (rBase h) rightRD = true →
        exec (.mbld a b mode imm bp) s = .next (issuesTile t u g ks (.mbld a b mode imm bp) (member t u g ks 0 h sc b) 0
          ([n, imm.toNat] ++ firstCoords h (t.wordsAt b 3)))) ∧
    (∀ a b c, s.runs (.mma a b c mode imm bp) = true → (s.operands (.mma a b c mode imm bp)).1 = t →
      let n := (t.uniWord a none).toNat
      let rows := (t.uniWord c ((s.operands (.mma a b c mode imm bp)).2.getD 0 none)).toNat
      t.recordOf u n = some h → scaleRecord t u mx (n + 1) rightRD sc → (mx = true → coord (originOf (t.wordsAt b 3)) 0 % 32 = 0) →
      rFmtCode h = matCode (mode.toNat % 8) →
      (t.block u).resvOk (mode.toNat / 16 % 8) 1 = true → 1 ≤ rows → rows ≤ 1024 →
      (let cols := match (t.core (t.block u).core).tileAt u (mode.toNat / 128 % 16) with
        | some tile => sliceColumns ms g tile.cols
        | none => 4 * macroCols (mode.toNat % 8)
      imm.toNat < (t.block u).accTiles ∧ (extentFrom imm.toNat rows cols).1 + (extentFrom imm.toNat rows cols).2 ≤ (t.block u).accTiles) →
      t.engineKey u (rBase h) rightRD = true →
        exec (.mma a b c mode imm bp) s = .next (issuesTile t u g ks (.mma a b c mode imm bp) (member t u g ks imm.toNat h sc b) rows
          ([n, rows] ++ firstCoords h (t.wordsAt b 3)))) ∧
    (∀ a b c e, s.runs (.mdrn a b c e mode imm bp) = true → (s.operands (.mdrn a b c e mode imm bp)).1 = t →
      t.recordOf u (t.uniWord a none).toNat = some h → scaleRecord t u mx (t.uniWord c none).toNat rightW sc →
      rFmtCode h = drnCode (mode.toNat % 8) → imm.toNat < (t.block u).accTiles → t.engineKey u (rBase h) rightW = true →
        exec (.mdrn a b c e mode imm bp) s = .next (issuesTile t u g ks (.mdrn a b c e mode imm bp)
          { member t u g ks imm.toNat h sc b with scaleOrigin := originOf (t.wordsAt e 3) } 0 [])) ∧
    (∀ a b, s.runs (.mbld a b mode imm bp) = true → (s.operands (.mbld a b mode imm bp)).1 = t →
      t.recordOf u (t.uniWord a none).toNat = none → exec (.mbld a b mode imm bp) s = .next (t.trapPath 0x0b).endPass)

/-- The path waits inside its instruction, and its group is blocked (R305). -/
def blocked (t : State) (u g : Nat) (ks : List Nat) : State :=
  ((t.onGrp u g fun x => { x with busy := .system, upto := t.nextId }).onGrp u g fun x =>
    x.onStrands ks fun z => if z.st = .active then { z with wait := .system } else z).endPass

/-- The group is no longer blocked, and its path goes on. -/
def unblocked (t : State) (u g : Nat) : State := (t.onGrp u g fun x => { x with busy := .none }).passes

/-- MLDACC and MSVACC once nothing conflicts with their tile (R309); their record is read once, at issue (R40).  MLDACC asks for the lines
of its elements in memory, waits for them, and loads every row; a line that its home refuses traps.  MSVACC writes what lies in the scratchpad,
and sends its lines to their homes; when all are accepted it releases them, and when they are performed it goes on. -/
def AccumulatorImages : Prop :=
  ∀ (s t : State) (u g : Nat) (ks : List Nat) (bp : Pr) (a b : Opd) (imm : W8) (h : Record), t.focus.kind = .path u g ks →
    (t.pathWait = .system ∧ h = (t.grp u g).imageRec ∨
      t.pathWait ≠ .system ∧ t.recordOf u (t.uniWord a none).toNat = some h ∧ 2 ≤ rRank h ∧ rFmtCode h = 4 ∧ t.sideKey u h = true) →
    let y := t.onGrp u g fun x => { x with imageRec := h }
    let o := originOf (y.wordsAt b 3)
    let bound := if t.pathWait = .system then (y.grp u g).upto else y.nextId
    (∀ (t' : State) (xs : List (Nat × Ans)), s.runs (.mldacc a b imm bp) = true → (s.operands (.mldacc a b imm bp)).1 = t →
      (t.pathWait ≠ .system → t.engineKey u (rBase h) rightRD = true) →
      (y.core (y.block u).core).tileBusy u imm.toNat bound true = false → y.tileOk u imm.toNat = true →
      y.askAll (y.accPart u g) (coalesce ((tileIdx.flatMap fun e => (List.range 3).flatMap fun w =>
        srcSpan h (readOf h (y.block u).scrBytes (wordAt o e.1 e.2 w))).filter fun e => keyOf e.1 != 0xfffe)) = (t', xs) →
        let lines : Tbl (List W8) := xs.foldl (fun l x => match x.2 with
          | .ok d _ _ _ => Tbl.put x.1 d l
          | _ => l) []
        let newest := xs.foldl (fun n x => match x.2 with
          | .ok _ w _ _ => max n w
          | _ => n) 0
        let lost := xs.filterMap fun x => match x.2 with
          | .fatal c => some (x.1, c)
          | _ => none
        let loaded := (t'.onGrp u g fun x => x.raise ks newest).loadRows u imm.toNat h o { lines := lines, clk := newest } (lost.map Prod.fst) 16 0
        ((∃ x ∈ xs, x.2 = .wait) → t.pathWait ≠ .system → t'.pathWait ≠ .system →
          exec (.mldacc a b imm bp) s = .next (blocked t' u g ks)) ∧
        ((∀ x ∈ xs, x.2 ≠ .wait) → lost = [] →
          exec (.mldacc a b imm bp) s = .next (unblocked (loaded.dropSrc (.sys u g)) u g)) ∧
        (∀ l c r, (∀ x ∈ xs, x.2 ≠ .wait) → lost = (l, c) :: r → exec (.mldacc a b imm bp) s =
          .next (((loaded.dropSrc (.sys u g)).onGrp u g fun x => { x with busy := .none }).trapPath c).endPass)) ∧
    (s.runs (.msvacc a b imm bp) = true → (s.operands (.msvacc a b imm bp)).1 = t →
      (t.pathWait ≠ .system → t.engineKey u (rBase h) rightW = true) → y.writeParts (.sys u g) = [] →
      (y.core (y.block u).core).tileBusy u imm.toNat bound false = false → y.tileOk u imm.toNat = true → (y.block u).softAcc = [] →
        let ws := y.imageWrites u imm.toNat h o
        let ps := lineParts (y.accPart u g) 0 ws
        let r := y.scrTime u g ks 0
        let wrote := r.1.scrApply u r.2 (ws.filter fun w => keyOf w.va == 0xfffe)
        (ps = [] → exec (.msvacc a b imm bp) s = .next (unblocked wrote u g)) ∧
        (∀ t', ps ≠ [] → t.pathWait ≠ .system → t'.pathWait ≠ .system → wrote.sendWrites ps = (t', none) →
          exec (.msvacc a b imm bp) s = .next (blocked t' u g ks))) ∧
    (s.runs (.msvacc a b imm bp) = true → (s.operands (.msvacc a b imm bp)).1 = t →
      (t.pathWait ≠ .system → t.engineKey u (rBase h) rightW = true) →
      let wp := y.writeParts (.sys u g)
      wp ≠ [] → (∀ p ∈ wp, ∀ c, p.st ≠ .replied (.fatal c)) →
        ((∃ p ∈ wp, p.rel = false) → exec (.msvacc a b imm bp) s = .next (y.releaseParts (wp.filter fun p => !p.rel)).endPass) ∧
        ((∀ p ∈ wp, p.rel = true) → exec (.msvacc a b imm bp) s =
          .next (unblocked ((y.onGrp u g fun x => x.raise ks (newest wp)).dropSrc (.sys u g)) u g)))

/-- MCANCEL (R311): the operations that MODE selects, those of the group alone or those that are joint of its whole gang with the arrivals at
the latch, are cancelled, and with MODE [1] the group's entries too; the path goes on once none of them is left to stop. -/
def Cancels : Prop :=
  ∀ (s t : State) (u g : Nat) (ks : List Nat) (bp : Pr) (mode : BitVec 12), t.focus.kind = .path u g ks →
    s.runs (.mcancel mode bp) = true → (s.operands (.mcancel mode bp)).1 = t →
    let core := (t.block u).core
    let ms := gangMembers (t.grp u g).gang
    let joint := mode.getLsbD 0
    let mine := (t.core core).allOps.filter fun o => o.blk == u && o.has g && (if joint then o.joint && o.members.map TileMember.grp == ms else !o.joint)
    let held := (t.core core).latch.filter fun l => joint && l.blk == u && !ms.isEmpty && gangMembers l.gang == ms
    let t1 := held.foldl (fun (y : State) l => y.leaveLatch u l none true)
      (t.onCore core fun c => { c with latch := c.latch.filter fun l => !held.contains l })
    let t2 := mine.foldl (fun (y : State) o => y.cancelOp core o) t1
    let t3 := if mode.getLsbD 1 then t2.onCore core fun c => { c with eqs := c.eqs.map fun q => q.map fun e =>
        if e.blk = u ∧ e.grp = g ∧ e.fetch.isNone then { e with cancel := true } else e } else t2
    let r := t3.pumpLatch core
    (t.pathWait ≠ .system → (r.core core).cancelling u g r.nextId = false → exec (.mcancel mode bp) s = .next (unblocked r u g)) ∧
    (t.pathWait ≠ .system → r.pathWait ≠ .system → (r.core core).cancelling u g r.nextId = true →
      exec (.mcancel mode bp) s = .next (blocked r u g ks)) ∧
    (t.pathWait = .system → (t.core core).cancelling u g (t.grp u g).upto = false → exec (.mcancel mode bp) s = .next (unblocked t u g))

/-! Running tile operations (R290, R297, R298, R301, R334) -/

/-- TILE_OP_START, SECTION, OPERAND_FETCH and TILE_FAULT on an operation of one group. -/
def TileEvents : Prop :=
  ∀ (s : State) (core op : Nat) (o : TileOp), s.opAt core op = some o →
    (o.started = false → (s.core core).fences = [] → (s.core core).latch = [] → (s.core core).eq6 = [] →
      s.mayStart core o = true → s.startOk core o = true →
        exec (.tileOpStart core op) s = .next ((s.startOp core o).onOp core op fun p =>
          { p with clk := max p.clk ((s.core core).floors.getD 6 0) })) ∧
    (∀ (t : Tile) (q i : Nat) (row : OpRow), (s.core core).tileAt o.blk o.first = some t → o.quarters[q]? = some i →
      firstWith (fun r => r.num == i) o.buf = some row → o.runs = true → (s.block o.blk).stop = false →
      i < o.quarters.foldl min i + o.ahead t.depth → s.awaitsMate core o i = false → o.cancel = false → (s.core core).soft = [] → (s.block o.blk).softAcc = [] →
        let counted := (s.count (s.block o.blk).dist (vfNum (s.block o.blk).dist (s.block o.blk).vf)
          (if o.skipPair row q then 0x0f else 0x0e) 1).onOp core op fun p => { p with quarters := listSet o.quarters q (i + 1) }
        ((∃ k ∈ listSet o.quarters q (i + 1), k ≤ o.cursor) → exec (.sectionStep core op q) s = .next counted) ∧
        (∀ first, (∀ k ∈ listSet o.quarters q (i + 1), o.cursor < k) → firstWith (fun r => r.num == o.cursor) o.buf = some first →
          o.cursor + 1 ≠ o.rows → exec (.sectionStep core op q) s = .next (counted.retire core o t first))) ∧
    ((s.core core).eqs.getD 3 [] = [] → o.isMma = false → o.started = true → o.fault = none → o.next < min o.units (o.cursor + 8) →
      o.isMbld = true → (s.block o.blk).resident = true → (s.core core).eqCount 3 < 16 →
      (o.members.any fun m => s.pathAccesses o.blk m.grp m.ks o.id) = false →
        let m := o.members.headD { grp := 0 }
        exec (.operandFetch core op) s = .next ((State.onCore { s with nextId := s.nextId + 1 } core fun c =>
          { c with eqs := c.eqs.modify 3 fun q => q ++ [{ id := s.nextId, instr := o.instr, blk := o.blk, grp := m.grp, pc := m.pc, ks := m.ks,
                                                          clk := o.clk, fetch := some (o.id, o.next) }] }).onOp core o.id fun p =>
            { p with next := p.next + 1 })) ∧
    (∀ (m : TileMember) (code : Nat), o.members = [m] → o.isMbld = false → o.fault = none → (s.grp o.blk m.grp).life = .live →
      exec (.tileFault core op code) s = .next ((((s.count (s.block o.blk).dist (vfNum (s.block o.blk).dist (s.block o.blk).vf) 0x11 1).dropFetches
        core o.id).onOp core o.id fun p =>
          { p with fault := some code, next := p.cursor, buf := [], quarters := p.quarters.map fun _ => p.cursor,
                   paused := p.started && p.isMma, back := [], mate := [] }).pendTrap o.blk m.grp code m.pc (some o.id)))

/-! Engine queues (R27, R28, R317 to R323, R341 to R358) -/

/-- A copy or transform whose operands are a destination, a source and a length in bytes: its queue, its MODE, its operands (48 is no
barrier) and what its checks ask beside keys and ranges: alignment of destination, source and length, the rights of the
destination, and the bytes that it covers there. -/
def byteStream (x : Instr) : Option (BitVec 3 × Nat × Opd × Opd × Opd × Opd × Opd × (Nat → Nat → Nat → Bool) × Nat × (Nat → Nat)) :=
  match x with
  | .cpy d a b c e eq m _ => some (eq, m.toNat, d, a, b, c, e, fun _ _ _ => true, rightW, id)
  | .rcpy d a b c e eq m _ =>
    let z := atomSize (rcpyTy (m.toNat / 1024 % 8))
    some (eq, m.toNat, d, a, b, c, e, fun x y n => x % z = 0 && y % z = 0 && n % z = 0, rightW + rightA, id)
  | .xfmBdxe d a b c e eq lo hi _ => some (eq, lo.toNat, d, a, b, c, e, fun x _ n => x % 8 = 0 && n % 2 ^ (hi.toNat / 8 % 4) = 0, rightW, fun _ => 0)
  | .xfmCrcg d a b c e eq lo _ _ => some (eq, lo.toNat, d, a, b, c, e, fun x _ _ => x % 16 = 0, rightW, fun n => 16 * ((n + 4095) / 4096))
  | .xfmCrcv d a b c e eq lo _ _ => some (eq, lo.toNat, d, a, b, c, e, fun x _ _ => x % 16 = 0, rightRD, fun n => 16 * ((n + 4095) / 4096))
  | _ => none

/-- What every entry begins with: its place, its path and the path's time, and how its end is told. -/
def entryOf (t : State) (u g : Nat) (ks : List Nat) (i : Instr) (lo : Nat) : Entry :=
  { id := t.nextId, instr := i, blk := u, grp := g, pc := t.focus.pc, ks := ks, clk := (t.grp u g).pathTime ks, isRec := lo % 2 = 1, rel := ringOf lo,
    targets := [(t.block u).ident] }

/-- An entry enters its queue behind the others, CP rises, and its ring reserves a release (R22, R27, R265). -/
def entersQueue (t : State) (u g q : Nat) (e : Entry) : State :=
  let r := (State.onCore { t with nextId := t.nextId + 1 } (t.block u).core fun c => { c with eqs := c.eqs.modify q fun l => l ++ [e] }).onGrp u g
    fun x => { x with cp := x.cp + 1 }
  (match e.rel with
  | some k => r.onBlock u fun b => b.onQueue k fun z => { z with resv := z.resv + 1, releases := z.releases ++ [(t.nextId, none)] }
  | none => r).passes

/-- The barrier of an entry: none, or an aligned object inside the share (Table 4 of R317). -/
def barrierFits (b : Block) (bar : Option Nat) : Prop := ∀ o, bar = some o → o % 16 = 0 ∧ o + 16 ≤ b.scrBytes

/-- A ring that the entry releases is a stage ring (R260, R265). -/
def ringFits (b : Block) (lo : Nat) : Prop := ∀ q, ringOf lo = some q → (b.queue q).kind = 3

/-- Issue of CPY, RCPY, BDXE, CRCG and CRCV. -/
def ByteStreams : Prop :=
  ∀ (i : Instr) (s t : State) (u g : Nat) (ks : List Nat) (eq : BitVec 3) (lo : Nat) (d a b c e : Opd) (fits : Nat → Nat → Nat → Bool)
    (right : Nat) (cover : Nat → Nat), s.runs i = true → (s.operands i).1 = t → t.focus.kind = .path u g ks →
    byteStream i = some (eq, lo, d, a, b, c, e, fits, right, cover) →
      let es := (s.operands i).2
      let dst := t.pairOf d
      let src := t.pairOf a
      let len := (t.uniWord b (es.getD 0 none)).toNat
      let bar := if e = .zero then none else some (t.uniWord e (es.getD 1 none)).toNat
      fits dst src len = true → t.engineKey u src rightRD = true → t.engineKey u dst right = true →
      (t.block u).rangeOk src len = true → (t.block u).rangeOk dst (cover len) = true →
      barrierFits (t.block u) bar → ringFits (t.block u) lo →
        exec i s = .next (entersQueue t u g eq.toNat
          { entryOf t u g ks i lo with dst := dst, src := src, len := len, tag := t.tagOf c, bar := bar })

/-- Issue of CPYM (R320). -/
def Multicast : Prop :=
  ∀ (s t : State) (u g : Nat) (ks : List Nat) (d a b c e : Opd) (eq : BitVec 3) (m : BitVec 17) (bp : Pr) (ts : List Nat),
    s.runs (.cpym d a b c e eq m bp) = true → (s.operands (.cpym d a b c e eq m bp)).1 = t → t.focus.kind = .path u g ks →
      let es := (s.operands (.cpym d a b c e eq m bp)).2
      let dst := t.pairOf d
      let src := t.pairOf a
      let len := (t.uniWord b (es.getD 0 none)).toNat
      let bar := if e = .zero then none else some (t.uniWord e (es.getD 1 none)).toNat
      let mask := t.tagOf c
      t.engineKey u src rightRD = true → keyOf dst = 0xfffe → (t.block u).rangeOk src len = true → (t.block u).rangeOk dst len = true →
      t.membersAt u ((setBits mask 64).map fun j => m.toNat / 64 % 256 + j) = some ts →
      barrierFits (t.block u) bar → ringFits (t.block u) m.toNat →
        exec (.cpym d a b c e eq m bp) s = .next (entersQueue t u g eq.toNat
          { entryOf t u g ks (.cpym d a b c e eq m bp) m.toNat with
              dst := dst, src := src, len := len, tag := mask, bar := bar, targets := ts })

/-- Issue of GATH and SCAT (R322): the index list of n words, elements of z bytes. -/
def Indexed : Prop :=
  ∀ (i : Instr) (s t : State) (u g : Nat) (ks : List Nat) (gath : Bool) (d a b c e : Opd) (eq : BitVec 3) (m : BitVec 17) (bp : Pr),
    i = (if gath then .gath d a b c e eq m bp else .scat d a b c e eq m bp) →
    s.runs i = true → (s.operands i).1 = t → t.focus.kind = .path u g ks →
      let w := t.wordsAt b 3
      let idx := (w.getD 0 0).toNat + 2 ^ 32 * (w.getD 1 0).toNat
      let n := (w.getD 2 0).toNat
      let z := 2 ^ (m.toNat / 64 % 4)
      let dst := t.pairOf d
      let src := t.pairOf a
      let bar := if e = .zero then none else some (t.uniWord e ((s.operands i).2.getD 0 none)).toNat
      dst % z = 0 → src % z = 0 → t.engineKey u src rightRD = true → t.engineKey u idx rightRD = true → t.engineKey u dst rightW = true →
      (t.block u).rangeOk idx (4 * n) = true → (t.block u).rangeOk (if gath then dst else src) (n * z) = true →
      barrierFits (t.block u) bar → ringFits (t.block u) m.toNat →
        exec i s = .next (entersQueue t u g eq.toNat
          { entryOf t u g ks i m.toNat with dst := dst, src := src, idx := idx, len := n * z, tag := t.tagOf c, bar := bar })

/-- The tensor forms: queue, MODE, operands, whether a scale record stands beside the destination or the source, and what the formats
must be (R319, R343 to R346). -/
def tensorForm (x : Instr) : Option (BitVec 3 × Nat × Opd × Opd × Opd × Opd × Opd × Bool × Bool × (Nat → Nat → Bool)) :=
  let plain (k : Nat) : Bool := k = 8 || k = 9 || k = 10
  match x with
  | .xfmMove d a b c e eq lo _ _ => some (eq, lo.toNat, d, a, b, c, e, false, false, fun x y => x = y)
  | .xfmCvt d a b c e eq lo _ _ => some (eq, lo.toNat, d, a, b, c, e, false, false, fun _ _ => true)
  | .xfmMxq d a b c e eq lo _ _ => some (eq, lo.toNat, d, a, b, c, e, true, false, fun x y => plain y && narrowCode x)
  | .xfmMxdq d a b c e eq lo _ _ => some (eq, lo.toNat, d, a, b, c, e, false, true, fun x y => narrowCode y && plain x)
  | _ => none

/-- Issue of the tensor transforms whose source names no sidecar. -/
def Tensors : Prop :=
  ∀ (i : Instr) (s t : State) (u g : Nat) (ks : List Nat) (eq : BitVec 3) (lo : Nat) (d a b c e : Opd) (scaleD scaleA : Bool)
    (fits : Nat → Nat → Bool) (dr ar : Record) (sc : Option Record),
    s.runs i = true → (s.operands i).1 = t → t.focus.kind = .path u g ks →
    tensorForm i = some (eq, lo, d, a, b, c, e, scaleD, scaleA, fits) →
      let ws := t.wordsAt b 9
      let bar := if e = .zero then none else some (t.uniWord e ((s.operands i).2.getD 0 none)).toNat
      t.recordOf u (t.uniWord d none).toNat = some dr → t.recordOf u (t.uniWord a none).toNat = some ar →
      sc = (if scaleD then t.recordOf u ((t.uniWord d none).toNat + 1) else if scaleA then t.recordOf u ((t.uniWord a none).toNat + 1) else none) →
      (scaleD = true ∨ scaleA = true → ∃ r, sc = some r ∧ rRank r = rRank dr ∧ rFmtCode r = 17 ∧
        t.engineKey u (rBase r) (if scaleD then rightW else rightRD) = true ∧ t.sideKey u r = true) →
      (scaleD = true → (extentOf (ws.drop 6)).getD 0 0 % 32 = 0 ∧ coord (originOf ws) 0 % 32 = 0) →
      (scaleA = true → coord (originOf (ws.drop 3)) 0 % 32 = 0) →
      rRank dr = rRank ar → fits (rFmtCode dr) (rFmtCode ar) = true → rSide ar = 0 →
      t.engineKey u (rBase ar) rightRD = true → t.engineKey u (rBase dr) rightW = true → t.sideKey u dr = true →
      barrierFits (t.block u) bar → ringFits (t.block u) lo →
        exec i s = .next (entersQueue t u g eq.toNat
          { entryOf t u g ks i lo with
              dst := rBase dr, src := rBase ar, len := (tileCount (extentOf (ws.drop 6)) (rRank dr) * rBits dr + 7) / 8, words := ws,
              recs := [dr, ar] ++ sc.toList, tag := t.tagOf c, bar := bar })

/-- Issue of CPYT (R319) and BDXD (R354). -/
def TileCopyAndDecode : Prop :=
  ∀ (s t : State) (u g : Nat) (ks : List Nat) (d a b c e : Opd) (eq : BitVec 3) (bp : Pr), t.focus.kind = .path u g ks →
    (∀ (m : BitVec 17) (dr ar : Record), s.runs (.cpyt d a b c e eq m bp) = true → (s.operands (.cpyt d a b c e eq m bp)).1 = t →
      let ws := t.wordsAt b 9
      let bar := if e = .zero then none else some (t.uniWord e ((s.operands (.cpyt d a b c e eq m bp)).2.getD 0 none)).toNat
      t.recordOf u (t.uniWord d none).toNat = some dr → t.recordOf u (t.uniWord a none).toNat = some ar → rRank dr = rRank ar →
      rFmtCode dr = rFmtCode ar → t.engineKey u (rBase ar) rightRD = true → t.engineKey u (rBase dr) rightW = true →
      t.sideKey u ar = true → t.sideKey u dr = true →
      barrierFits (t.block u) bar → ringFits (t.block u) m.toNat →
        exec (.cpyt d a b c e eq m bp) s = .next (entersQueue t u g eq.toNat
          { entryOf t u g ks (.cpyt d a b c e eq m bp) m.toNat with
              dst := rBase dr, src := rBase ar, len := (tileCount (extentOf (ws.drop 6)) (rRank dr) * rBits dr + 7) / 8, words := ws,
              recs := [dr, ar], tag := t.tagOf c, bar := bar })) ∧
    (∀ (lo hi : BitVec 6), s.runs (.xfmBdxd d a b c e eq lo hi bp) = true → (s.operands (.xfmBdxd d a b c e eq lo hi bp)).1 = t →
      let w := t.wordsAt b 3
      let side := (w.getD 0 0).toNat + 2 ^ 32 * (w.getD 1 0).toNat
      let dst := t.pairOf d
      let src := t.pairOf a
      let bar := if e = .zero then none else some (t.uniWord e ((s.operands (.xfmBdxd d a b c e eq lo hi bp)).2.getD 0 none)).toNat
      src % 8 = 0 → side % 16 = 0 → dst % 16 = 0 → t.engineKey u src rightRD = true → t.engineKey u dst rightW = true →
      (side = 0 ∨ t.engineKey u side rightW = true ∧ (t.block u).rangeOk side 0 = true) →
      (t.block u).rangeOk src 0 = true → (t.block u).rangeOk dst 0 = true → barrierFits (t.block u) bar → ringFits (t.block u) lo.toNat →
        exec (.xfmBdxd d a b c e eq lo hi bp) s = .next (entersQueue t u g eq.toNat
          { entryOf t u g ks (.xfmBdxd d a b c e eq lo hi bp) lo.toNat with
              dst := dst, src := src, idx := side, next := (w.getD 2 0).toNat, tag := t.tagOf c, bar := bar }))

/-- CRNG on a ring in the scratchpad and its removal, QFENCE, and the three DRAINs with nothing to wait for (R330, R335, R336). -/
def RingsAndFences : Prop :=
  ∀ (s t : State) (u g : Nat) (ks : List Nat) (bp : Pr), t.focus.kind = .path u g ks →
    (∀ (a : Opd) (eq : BitVec 3) (m : BitVec 17), s.runs (.crng a eq m bp) = true → (s.operands (.crng a eq m bp)).1 = t →
      (∀ n k, t.pathWait ≠ .drain n k) →
      (∀ e ∈ (t.core (t.block u).core).eqs.getD eq.toNat [], e.blk = u → e.fetch.isSome = true) →
        (a = .zero → exec (.crng a eq m bp) s = .next (t.onBlock u fun b => { b with rings := listSet b.rings eq.toNat none }).passes) ∧
        (a ≠ .zero → t.pairOf a % 64 = 0 → keyOf (t.pairOf a) = 0xfffe →
          (t.block u).rangeOk (t.pairOf a) (64 + 32 * 2 ^ (m.toNat % 16 + 2)) = true →
          exec (.crng a eq m bp) s = .next (((t.scrWrite u (t.pairOf a % 2 ^ 32) (List.replicate 16 0)).onBlock u fun b =>
            { b with rings := listSet b.rings eq.toNat (some { va := t.pairOf a, size := 2 ^ (m.toNat % 16 + 2), written := 0 }) }).passes))) ∧
    (∀ (m : W8), s.runs (.qfence m bp) = true → (s.operands (.qfence m bp)).1 = t →
      let k := t.core (t.block u).core
      exec (.qfence m bp) s = .next (State.onCore { t with nextId := t.nextId + 1 } (t.block u).core fun c =>
        { c with fences := c.fences ++ [{
            id := t.nextId, mask := m.toNat, blk := u, grp := g, ks := (t.grp u g).all, clk := (t.grp u g).pathTime ks
            ahead := (((List.range 6).filter fun q => m.getLsbD q).flatMap fun q => (k.eqs.getD q []).map Entry.id) ++
              (if m.getLsbD 6 then k.allOps.map TileOp.id else []) ++ if m.getLsbD 7 then k.eq7.map PstEntry.id else [] }] }).passes) ∧
    (∀ i path, (i = .drainScr bp ∧ path = 0) ∨ (i = .drainL1 bp ∧ path = 1) ∨ (i = .drainMem bp ∧ path = 2) →
      s.runs i = true → (s.operands i).1 = t →
      let ids := ((t.core (t.block u).core).eqs.flatten.filter fun e => e.fetch.isNone).map Entry.id
      let ended := (t.entriesIn ids).filter fun e => e.st == .ended && e.into path
      let y := t.onGrp u g fun x => x.raise ks ((ended.map Entry.clk).foldl max 0)
      (∀ n k, t.pathWait = .drain n k → exec i s = .next t.passes) ∧
      ((∀ n k, t.pathWait ≠ .drain n k) → y.drainHolds ids i = false → exec i s = .next y.passes) ∧
      ((∀ n k, t.pathWait ≠ .drain n k) → y.drainHolds ids i = true →
        exec i s = .next (y.onGrp u g fun x =>
          x.onStrands ks fun z => if z.st = .active then { z with wait := .drain ids path } else z).endPass))

/-! The running of entries (R324 to R329, R331) -/

/-- ENGINE_ENTRY_START, FINISH without ring and release, COMPLETION_RECORD_RETRY, and the wake of an engine's part. -/
def EngineEvents : Prop :=
  ∀ (s : State) (core eq : Nat) (e : Entry), s.head core eq = some e →
    ((s.core core).fences = [] → s.startable core eq e = true →
      exec (.engineEntryStart core eq) s = .next (s.onCore core fun c =>
        { c with eqs := c.eqs.modify eq fun q => updWhere (fun x => x.id == e.id)
                        (fun x => { x with st := .running, clk := max x.clk ((s.core core).floors.getD eq 0) }) q })) ∧
    (e.st = .ended → e.posted = false → (s.block e.blk).rings.getD eq none = none → e.status ≠ 2 →
      (let r := (s.sawEntry { e with posted := true }).sawWork core eq e.id e.clk
      r.targetsHere e = true → e.bar = none → e.rel = none →
        exec (.finish core eq) s = .next ((((r.onCore core fun c => { c with eqs := c.eqs.modify eq fun q => q.filter fun x => x.id != e.id }).dropWhere
          (.engine core eq e.id) fun _ => true).onGrp e.blk e.grp fun x => Group.sawCtr { x with cp := x.cp - 1 } 2 e.clk).settle e.blk e.grp))) ∧
    (e.st = .ended → exec (.completionRecordRetry core eq) s =
      .next (State.post (s.dropWhere (.engine core eq e.id) fun p => p.kind == .load) (.finish core eq))) ∧
    (∀ (id : Nat) (p : Part), s.part id = some p → p.src = .engine core eq e.id → e.st ≠ .ended →
      exec (.engineWake id) s = .next (s.dropWhere p.src fun q => ((q.tag < 2 && p.tag < 2) || p.tag == q.tag) && !q.rel)) ∧
    (∀ (n : Nat) (s' : State) (e' : Entry) (code : Nat) (bs : List W8), e.decodes = true → e.cancel = false → (s.block e.blk).stop = false →
      s.laneChunk core eq e = some n → s.bdxLane { s.entryPart core eq e with tag := n + 2 } e n = (s', some (e', code, bs)) →
        exec (.bdxChunkDecode core eq) s = .next ((s'.dropWhere (.engine core eq e.id) fun p => p.tag = n + 2).onEntry core eq e.id
          fun _ => { e' with bufs := e'.bufs ++ [(n, code, bs)] }))

/-- One CHUNK of a copy inside the scratchpad copies its bytes and moves the entry on (R318, R325). -/
def ChunkCopies : Prop :=
  ∀ (s : State) (core eq u : Nat) (e : Entry) (b : Block) (d a l c z : Opd) (q : BitVec 3) (m : BitVec 17) (bp : Pr),
    s.head core eq = some e → e.instr = .cpy d a l c z q m bp → e.blk = u → Tbl.find u s.blocks = some b → b.core = core →
    e.st = .running → e.fetch = none → e.cancel = false → e.bar = none → e.cursor = 0 → e.badVa = none → b.stop = false → b.resident = true →
    0 < e.len → e.len ≤ 4096 → keyOf e.src = 0xfffe → keyOf e.dst = 0xfffe → bits e.src 47 32 = 0 → bits e.dst 47 32 = 0 →
    e.src % 2 ^ 32 + e.len ≤ b.scrBytes → e.dst % 2 ^ 32 + e.len ≤ b.scrBytes → b.scr.Nodup → Memory.wf (s.core core).sram = true →
    (∀ p ∈ s.parts, p.src ≠ .engine core eq e.id) → ((s.core core).eqs.getD eq []).Pairwise (fun x y => x.id ≠ y.id) → eq < (s.core core).eqs.length →
      ∃ t, exec (.chunk core eq) s = .next t ∧
        t.scrRead u (e.dst % 2 ^ 32) e.len = s.scrRead u (e.src % 2 ^ 32) e.len ∧
        (∀ o, o < b.scrBytes → (o < e.dst % 2 ^ 32 ∨ e.dst % 2 ^ 32 + e.len ≤ o) → t.scrRead u o 1 = s.scrRead u o 1) ∧
        (t.head core eq).map (fun x => x.cursor) = some 1 ∧ t.mem = s.mem ∧ t.parts = s.parts

/-! Class 7 -/

/-- TRIG (R131): the strands of the path that had not triggered count for their launch, and the dispatch clock takes their time (R128, R129). -/
def Triggers : Prop :=
  ∀ (s t : State) (u g : Nat) (ks : List Nat) (bp : Pr), s.runs (.trig bp) = true → (s.operands (.trig bp)).1 = t →
    t.focus.kind = .path u g ks →
      let b := t.block u
      let x := t.grp u g
      exec (.trig bp) s = .next ((((t.onLaunch b.dist b.lid fun l =>
          { l with untrig := l.untrig - (ks.filter fun k => !(x.strand k).triggered).length }).onDistrict b.dist fun d =>
          { d with clock := max d.clock (x.pathTime ks) }).onStrands u g ks fun y => { y with triggered := true }).passes)

/-- What a counter reads (R482): fabric classes read 0; else the value, with OVF in bit 63. -/
def counterWord (c : Counter) : Nat :=
  if 0x20 ≤ c.cfg.toNat % 256 ∧ c.cfg.toNat % 256 ≤ 0x23 then 0 else c.value + if c.ovf then 2 ^ 63 else 0

/-- CNTR and CNTC (R482, R483): before a CNTR the district's events are added, before a CNTC those of the cycles before and its own pass's, so
that the other events of its cycle are added to what it writes; operation 0 configures, 1 clears, 2 sets the value. -/
def CounterOps : Prop :=
  ∀ (s t : State) (d a b : Opd) (bp : Pr),
    (s.runs (.cntr d a bp) = true → (s.operands (.cntr d a bp)).1 = t → t.noCounters = false →
      let t' := t.addEvents (t.issuerVf / 64)
      let k := (t.uniWord a ((s.operands (.cntr d a bp)).2.getD 0 none)).toNat % 4
      exec (.cntr d a bp) s = .next (t'.putUni64 d (counterWord ((t'.vfCounters t.issuerVf).getD k {}))).passes) ∧
    (s.runs (.cntc d a b bp) = true → (s.operands (.cntc d a b bp)).1 = t → t.noCounters = false →
      let t' := t.addOwn (t.issuerVf / 64)
      let x := (t.uniWord a ((s.operands (.cntc d a b bp)).2.getD 0 none)).toNat
      let cfg := t'.uniWord b ((s.operands (.cntc d a b bp)).2.getD 1 none)
      let e := cfg.toNat % 256
      let c := (t'.vfCounters t.issuerVf).getD (x % 4) {}
      let new (y : Counter) : Host.Outcome State Fault Refusal := .next ((t'.setVfCounter t.issuerVf (x % 4) y).putUni d 0).passes
      (x / 4 % 4 = 0 → cfg.toNat / 2 ^ 16 = 0 → cfg.toNat / 2 ^ 8 % 2 ^ 6 = 0 → e ≠ 0 → (e < 0x12 ∨ 0x20 ≤ e ∧ e < 0x24) →
        exec (.cntc d a b bp) s = new { value := 0, ovf := false, cfg := cfg }) ∧
      (x / 4 % 4 = 1 → exec (.cntc d a b bp) s = new { c with value := 0, ovf := false }) ∧
      (∀ n, x / 4 % 4 = 2 → b = .w n → n.val % 2 = 0 → t'.readW64 n.val < 2 ^ 48 →
        exec (.cntc d a b bp) s = new { c with value := t'.readW64 n.val, ovf := false }))

/-- PKW and DTW (R365, R388): an entry that passes the checks is written, and status 0 is answered. -/
def TableWrites : Prop :=
  ∀ (s t : State) (d a b : Opd) (bp : Pr),
    (s.runs (.pkw d a b bp) = true → (s.operands (.pkw d a b bp)).1 = t →
      let sel := (t.uniWord a ((s.operands (.pkw d a b bp)).2.getD 0 none)).toNat
      let w := t.uniWord b ((s.operands (.pkw d a b bp)).2.getD 1 none)
      let dom := sel % 2 ^ 16
      let vf := sel / 2 ^ 20
      w.toNat / 2 ^ 5 % 2 ^ 11 = 0 → (w.toNat % 2 = 1 → w.toNat / 2 ^ 16 ≤ 0xfffc) → (t.district (vf / 64)).state ≠ 0 →
      vf % 64 < (t.district (vf / 64)).vfcount →
      (t.domainVf dom = some vf ∨ t.domainVf dom = none ∧ (w.toNat % 2 = 0 ∨ (t.keyLists.filter t.registered).length < 4096)) →
        exec (.pkw d a b bp) s = .next ((t.putKey dom vf (sel / 2 ^ 16 % 16) w).putUni d 0).passes) ∧
    (s.runs (.dtw d a b bp) = true → (s.operands (.dtw d a b bp)).1 = t →
      let sel := (t.uniWord b ((s.operands (.dtw d a b bp)).2.getD 0 none)).toNat
      let e : DistEntry := BitVec.ofNat 128 (wordsNat (t.wordsAt a 4))
      let idx := sel % 2 ^ 10
      let td := sel / 2 ^ 16 % 2 ^ 6
      sel / 2 ^ 10 % 2 ^ 6 = 0 → sel / 2 ^ 22 = 0 → (t.district td).state ≠ 0 →
      (deV e = true → t.dtwBad td e = false ∧ ∀ o ∈ (t.district td).dtab, o.1 ≠ idx → deV o.2 = true → deKey o.2 = deKey e →
        deLast o.2 < deFirst e ∨ deLast e < deFirst o.2) →
        exec (.dtw d a b bp) s = .next ((t.putDist td idx e).putUni d 0).passes)

/-- The entry that PKW has written is the one that its domain's key list holds, and every domain slot of the device that holds the domain
has it too (R388). -/
def KeyEntryLands : Prop :=
  ∀ (s : State) (dom vf i : Nat) (w : W32), i < 16 → w.getLsbD 0 = true →
    (∀ k ∈ s.keyLists, k.entries.length = 16 ∧ k.dist = k.vf / 64) → s.keyLists.Pairwise (fun x y => x.domain ≠ y.domain) →
    (s.domainVf dom = none ∨ s.domainVf dom = some vf) →
      ((s.putKey dom vf i w).keyEntries (vf / 64) dom)[i]? = some w ∧
      (∀ j, j ≠ i → j < 16 → s.domainVf dom = some vf →
        ((s.putKey dom vf i w).keyEntries (vf / 64) dom)[j]? = (s.keyEntries (vf / 64) dom)[j]?) ∧
      ∀ c ∈ (s.putKey dom vf i w).cores, ∀ o ∈ c.2.slots, ∀ x, o = some x → x.dist = vf / 64 → x.domain = dom → x.entries.length = 16 →
        x.entries[i]? = some w

/-- HINV on a home that is enabled, when nothing is delegated or under way: status 0, and a wake of the page's parked parts if it is
asked for (R372). -/
def HomeInvalidates : Prop :=
  ∀ (s t : State) (d a b : Opd) (bp : Pr), s.runs (.hinv d a b bp) = true → (s.operands (.hinv d a b bp)).1 = t →
    let va := t.pairOf a
    let sel := (t.uniWord b none).toNat
    let h := sel % 32
    let cover (page : Nat) : Bool := if sel.testBit 6 then page / 512 = va / 2 ^ 21 else page = va / 4096
    h < 28 → sel / 2 ^ 7 = 0 → (t.home h).enable = true → (∀ e ∈ (t.home h).deleg, cover (e.1 / 64) = false) → t.heldAt h cover = false →
      exec (.hinv d a b bp) s = .next ((if sel.testBit 5 then t.wakePages h cover else t).sysStatus d 0).endPass

/-- WATCH on a home of this device, with its descriptor read (R390): it arms, and disarms. -/
def Watches : Prop :=
  ∀ (s t : State) (d a : Opd) (bp : Pr) (y : Part) (line : List W8) (wts rts bad h : Nat), s.runs (.watch d a bp) = true →
    (s.operands (.watch d a bp)).1 = t → (∃ u g ks, t.focus.kind = .path u g ks) →
    let va := t.pairOf a
    let dist := t.accessor.2.2
    let r := (line.drop (va % 64)).take 32
    let t' := t.sysSaw wts
    let w := t'.watchOf r
    va % 32 = 0 → t.sysRight va rightRD = true → t.asked (t.sysReq .load va 32 []) = some y → y.st = .replied (.accept line wts rts bad) →
    watchTrap r t'.sysRight (fun x => (t'.route dist x).isSome) = none → t'.route dist (fieldLe r 0 8) = some (t'.dev.devnum, h) →
      ((fieldLe r 16 8).testBit 13 = true → (∃ x ∈ (t'.home h).watches, x.is dist w.domain w.index = true ∧ x.line = w.line) →
        exec (.watch d a bp) s = .next ((t'.onHome h fun m =>
          { m with watches := m.watches.filter fun x => !(x.is dist w.domain w.index && x.line == w.line) }).sysStatus d 0).endPass) ∧
      ((fieldLe r 16 8).testBit 13 = false → (t'.home h).watches.length < 256 →
        (∀ m ∈ t'.homes, ∀ x ∈ m.2.watches, x.is dist w.domain w.index = false) →
        (∀ x ∈ t'.dev.farWatches, x.is dist w.domain w.index = false) →
        (∀ k, k < w.lines → Tbl.find (w.line + k) (t'.home h).deleg = none) → fieldLe r 8 8 = 0 →
        exec (.watch d a bp) s = .next ((t'.onHome h fun m => { m with watches := m.watches ++ [w] }).sysStatus d 0).endPass)

/-- SVC when its image has been read (R434, R488): status 2 for a queue that is none of the launch's, which is judged once, before the SVC
is let in to post; 1 for a full ring, and the post of one record with 0 (R433: one post of a queue at a time, those that wait in the order
in which they came). -/
def ServicePosts : Prop :=
  ∀ (s t : State) (d a b : Opd) (bp : Pr) (u g : Nat) (ks : List Nat) (y : Part) (r : List W8) (w0 r0 b0 : Nat),
    s.runs (.svc d a b bp) = true → (s.operands (.svc d a b bp)).1 = t → t.focus.kind = .path u g ks →
    let img := t.pairOf a
    let q := (t.uniWord b none).toNat
    let x := t.squeue q
    let reply := fieldLe r 8 8
    let t' := t.sysSaw w0
    img % 64 = 0 → t.sysCheck img rightRD = none → t.asked (t.sysReq .load img 64 []) = some y → y.st = .replied (.accept r w0 r0 b0) →
    reply % 64 = 0 → (reply = 0 ∨ keyOf reply < 0xfffd ∧ t'.sysRight reply rightW = true) →
      (x.posting ≠ some (u, g) → (u, g) ∉ x.waitPost → t'.postable q t'.accessor.2.2 = false → exec (.svc d a b bp) s = .next (t'.sysStatus d 2).endPass) ∧
      (∀ (c : Part) (cl : List W8) (w1 r1 b1 : Nat), t'.postable q t'.accessor.2.2 = true → (x.posting = none ∨ x.posting = some (u, g)) →
        (∀ o ∈ x.waitPost, o = (u, g)) →
        t'.ringRight q rightRD = true → t.asked (t.sysReq .load (x.ring + 8) 4 []) = some c → c.st = .replied (.accept cl w1 r1 b1) →
        let used := (x.produced + 2 ^ 32 - fieldLe (cl.drop ((x.ring + 8) % 64)) 0 4 % 2 ^ 32) % 2 ^ 32
        let t2 := ((t'.setPosting q (some (u, g))).sysSaw w1)
        (x.records ≤ used → exec (.svc d a b bp) s = .next ((t2.setPosting q none).sysStatus d 1).endPass) ∧
        (∀ (p1 p2 : Part) (l1 l2 : List W8) (tw1 ts1 e1 tw2 ts2 e2 : Nat), used < x.records →
          let n := x.produced
          let bytes := recordHead n (fieldLe r 4 2) 1 t.issuerVf ++ (r.drop 8).take 56
          t.asked { t.sysReq .store (x.slot n) bytes.length bytes with writer := 8 } = some p1 → p1.st = .replied (.accept l1 tw1 ts1 e1) →
          t.asked { t.sysReq .store x.ring 4 (leBytes 4 (n + 1)) with writer := 8 } = some p2 → p2.st = .replied (.accept l2 tw2 ts2 e2) →
            exec (.svc d a b bp) s = .next (((t2.sysSaw tw2).posted q (max tw1 tw2)
              [(n, reply, t.issuerVf, fieldLe r 0x10 8)]).sysStatus d 0).endPass))

/-- What a post leaves in its queue (R433): PRODUCED and NOTIFY, one more outstanding record, the ring free, and a thread that was idle runs
from ENTRY with the registers of R429. -/
def PostLands : Prop :=
  ∀ (s : State) (q ts : Nat) (o : Nat × Nat × Nat × Nat), (Tbl.find q s.squeues).isSome = true →
    let x := s.squeue q
    let y := (s.posted q ts [o]).squeue q
    let n := (x.produced + 1) % 2 ^ 32
    y.produced = n ∧ y.notify = n ∧ y.outstanding = x.outstanding ++ [o] ∧ y.posting = none ∧
      (x.tstate = 3 → x.notify ≠ n → y.tstate = 1 ∧ y.thread.pc = x.entry ∧ y.thread.w[19]? = some (BitVec.ofNat 32 q)) ∧
      (x.tstate ≠ 3 → y.tstate = x.tstate ∧ y.thread = x.thread)

/-- The service ports (R436, R438, R439, R441): WAIT, REPLY with no reply address, KILL and HALT. -/
def ServicePorts : Prop :=
  ∀ (s : State) (q : Nat) (d a : Opd) (bp : Pr), s.focus.kind = .thread q →
    let x := s.squeue q
    let v := (s.uniWord a none).toNat
    (s.runs (.spwtWait d a bp) = true →
      (x.notify = v → exec (.spwtWait d a bp) s =
        .next (s.onSqueue q fun x => { x with tstate := 2, thread := { x.thread with seen := some v, busy := true } }).endPass) ∧
      (x.notify ≠ v → exec (.spwtWait d a bp) s = .next (((s.onSqueue q fun x =>
        { x with tstate := 1, thread := { x.thread with seen := none, busy := false, tick := max x.thread.tick x.postTs } }).putUni d
          (BitVec.ofNat 32 x.notify)).passes))) ∧
    (s.runs (.spwtReply d a bp) = true →
      let img := (s.readW (match a with | .w n => n.val | _ => 0)).toNat + 2 ^ 32 * (s.readW (match a with | .w n => n.val + 1 | _ => 0)).toNat
      ∀ (n : Fin 32) (o : Nat × Nat × Nat × Nat) (g : Got), a = .w n → x.closing = none → x.kind = 1 →
        firstWith (fun o => o.1 == (s.readW (n.val + 2)).toNat) x.outstanding = some o → s.readW (n.val + 3) = 0 →
        s.sysCheck img rightRD = none → s.fetchSpans (s.sysReq .load img 64 []) [(img, 64)] = (s, .ok g) →
        let t := s.sysSaw g.clk
        let st := fieldLe (s.gotBytes 0 g img 64) 0 2
        st ≠ 0 → (st < 0x10 ∨ 0x2f < st) →
        ∀ g', t.fetchSpans (t.sysReq .load (x.slot (s.readW (n.val + 2)).toNat + 8) 8 []) [(x.slot (s.readW (n.val + 2)).toNat + 8, 8)] = (t, .ok g') →
          ofLe (t.gotBytes 0 g' (x.slot (s.readW (n.val + 2)).toNat + 8) 8) = 0 →
          exec (.spwtReply d a bp) s = .next ((((t.sysSaw g'.clk).closeRecord q (s.readW (n.val + 2)).toNat).recordClosed q).sysStatus d 0).endPass) ∧
    (s.runs (.spwtKill d a bp) = true → ∀ l, firstWith (fun l => l.lid == v) (s.district x.district).launches = some l →
      (0xffe ≤ x.owner ∨ vfNum x.district l.vf = x.owner) →
        exec (.spwtKill d a bp) s = .next ((s.killLaunch x.district v 0 0 0).putUni d 0).passes) ∧
    (s.runs (.halt bp) = true → exec (.halt bp) s = .next (s.onSqueue q fun x => { x with tstate := 3 }).endPass)

/-- SUBMIT of a header without a cue table that has been read and passes Table 3 of R120 (R437), where its domain may read the header, the
parameter block and the record table: the launch joins its district's queue, the
identifier goes to the high word of the destination, and the reply line, if there is one, says so. -/
def Submits : Prop :=
  ∀ (s : State) (q : Nat) (d : Opd) (n : Fin 32) (bp : Pr) (g : Got), s.focus.kind = .thread q → s.runs (.spwtSubmit d (.w n) bp) = true →
    let x := s.squeue q
    let va := s.readW64 n.val
    let reply := (s.readW (n.val + 2)).toNat + 2 ^ 32 * (s.readW (n.val + 3)).toNat
    reply % 64 = 0 → (reply = 0 ∨ keyOf reply < 0xfffd ∧ s.sysRight reply rightW = true) → keyOf va < 0xfffd →
    s.fetchSpans (s.sysReq .load va 256 []) [(va, 256)] = (s, .ok g) →
    let h := s.gotBytes 0 g va 256
    let t := s.sysSaw g.clk
    let y := t.district x.district
    let lid := lidOf y.nextNumber
    let reads (at' : Nat) : Bool := t.domainReads x.district (hDomain h) at'
    hCueP h = 0 → t.acceptCode x.district x.owner h 0
        (reads va && (hParamP h = 0 || reads (hParamP h)) && (hRecCount h = 0 || reads (hRecP h))) = 0 →
      exec (.spwtSubmit d (.w n) bp) s =
        let t1 := t.onDistrict x.district fun z => { z with nextLid := y.nextNumber + 1, launches := z.launches ++ [
          { lid := lid, vf := (t.domainVf (hDomain h)).getD 0 % 64, prio := hPrio h, header := h, reply := reply, domain := x.domain, tag := va }] }
        let t2 := if reply = 0 then t1 else t1.sendWrite
          { chain := reply, dist := x.district, domain := x.domain, vf := x.owner, va := reply, data := replyLine 0x0010 0 lid va 0 0,
            clk := max y.clock (t.squeue q).thread.tick }
        .next ((t2.putUni64 d (lid * 2 ^ 32)).sysDone).endPass

/-- CTXS and CTXR hand their work to the dispatch engine and wait (R142, R143); they end with its status. -/
def Contexts : Prop :=
  ∀ (i : Instr) (s t : State) (d a b : Opd) (bp : Pr) (u g : Nat) (ks : List Nat) (restore : Bool),
    i = (if restore then .ctxr d a bp else .ctxs d a b bp) → s.runs i = true → (s.operands i).1 = t → t.focus.kind = .path u g ks →
      let k := t.block u
      let area := t.pairOf a
      let mine (o : CtxOp) : Bool := o.blk == u && o.grp == g && !o.handler
      (∀ o r, firstWith mine (t.district k.dist).ctxOps = some o → o.result = some r →
        exec i s = .next (((t.onDistrict k.dist fun x => { x with ctxOps := x.ctxOps.filter fun o => !mine o }).sysSaw
          (t.district k.dist).clock).sysStatus d r).endPass) ∧
      ((∀ o ∈ (t.district k.dist).ctxOps, mine o = false) → area % 64 = 0 →
        t.sysCheck area (if restore then rightRD else rightW) = none →
        exec i s = .next ((t.onDistrict k.dist fun x => { x with ctxOps := x.ctxOps ++ [
            { restore := restore, blk := u, grp := g, handler := false, own := k.lid, vf := k.vf, area := area,
              lid := if restore then 0 else (t.uniWord b none).toNat, clk := (t.grp u g).pathTime ks }] }).blockIn u g).endPass)

/-! Parts at their homes -/

/-- A part of this device that its home serves on a present page of device memory: the page's entry, where the entry stands, the byte on its
controller, and the key (R361, R366, R367, R370, R385, R416). -/
structure AtPage (s : State) (id : Nat) (p : Part) (e addr off : Nat) (key : List W8) : Prop where
  here : s.part id = some p
  number : p.id = id
  own : p.dev = s.dev.devnum
  plain : keyOf p.va ≠ 0xfffd
  turn : s.portHolds p = false
  home : ∃ d, s.homeDistrict p.home = some d ∧ s.walk (s.home p.home) (s.district d) p.va = .page e addr off ∧
    (pteFill e = true → p.priv = true ∧ p.dist = d ∧ p.origin = s.dev.devnum)
  enabled : (s.home p.home).enable = true
  still : pteM e = false
  order : s.flagHolds p e = false
  device : pteHost e = false
  slot : s.slotKey (pteSlot e) = some key
  owner : s.slotMatches e = true
  authority : Tbl.find (lineOf p.va) (s.home p.home).deleg = none

/-- The home notes the cycle of a part of its own device (R416). -/
def noted (s : State) (p : Part) : State :=
  if p.origin = s.dev.devnum then s.onHome p.home fun x => { x with touched := Tbl.put (lineOf p.va) s.cycle x.touched } else s

/-- The times of a line at a home: both the home's FLOOR where it keeps none (R376). -/
def timesOf (s : State) (h line : Nat) : Nat × Nat :=
  match Tbl.find line (s.home h).lines with
  | some t => (t.wts, t.rts)
  | none => ((s.home h).floor, (s.home h).floor)

/-- Sets the times of a line. -/
def stamped (s : State) (h line wts rts : Nat) : State := s.onHome h fun m => { m with lines := Tbl.put line ⟨wts, rts⟩ m.lines }

/-- The slice that keeps what a part reads (R489): its cluster's, of a strand's or an engine's read. -/
def keeperOf (s : State) (p : Part) : Option Nat := if p.fillsL2 then s.clusterOf p else none

/-- Times are 64 bits wide; a full one stays (log entry 100). -/
def wide64 (t : Nat) : Nat := min t (2 ^ 64 - 1)

/-- HOME_READ of a load on a page without corrupt words: the line, decrypted, and the times of R377; a slice that keeps such lines does. -/
def HomeReads : Prop :=
  ∀ (s : State) (id : Nat) (p : Part) (e addr off : Nat) (key : List W8), AtPage s id p e addr off key → p.kind = .load →
    s.badMask (lineAddr e off) 8 = 0 → (∀ cl, keeperOf s p = some cl → s.l2Find cl p.va = none) →
      let line := lineOf p.va
      let q := p.placed e
      let w := (timesOf s p.home line).1
      let r := max (timesOf s p.home line).2 (wide64 (max q.clk w + p.lam - 1))
      let data := xtsDecrypt key p.va (cellsRead s.mem (lineAddr e off) 64)
      let t := stamped (noted s p) p.home line w r
      exec (.homeRead id) s = .next (((match keeperOf s p with
        | some cl => State.l2Fill (if p.byStrands then t.count p.dist p.vf 0x0c 1 else t) cl p.va data w r p.vf p.sentAt
        | none => t)).later id (.replied (.accept data w r 0)))

/-- A load that the cluster's slice may serve is answered from it (R188, R489); it is counted as a hit, if it is a strand's, on a line of its
own VF or of another (R477).  A copy that a store has updated since is passed over (log entry 110). -/
def SliceHits : Prop :=
  ∀ (s : State) (id : Nat) (p : Part) (cl : Nat) (c : CacheLine), s.part id = some p → p.id = id → p.kind = .load →
    keyOf p.va ≠ 0xfffd → keeperOf s p = some cl → s.l2Find cl p.va = some c → max p.clk c.wts ≤ c.rts → s.cycle < c.grant + 16 * p.lam →
    c.stored = false →
      let t := s.setL2 cl (c :: (s.slice cl).filter fun y => y.line != c.line)
      exec (.homeRead id) s = .next ((State.onPart (if p.byStrands then t.count p.dist p.vf (if c.owner = p.vf then 0x0b else 0x10b) 1 else t)
        id fun q => { q with sentAt := c.grant }).later id (.replied (.accept c.data c.wts c.rts 0)))

/-- DIRTY in the entry at addr, if it still names the frame of the entry e that the write was accepted with (R368). -/
def dirtied (m : List Host.Cell) (e addr : Nat) : List Host.Cell :=
  let now := ofLe (cellsRead m addr 8)
  if pteType now = 2 ∧ pteTier now = pteTier e ∧ pteCtrl now = pteCtrl e ∧ pteFrame now = pteFrame e then
    cellsWrite addr (leBytes 8 (now ||| 2 ^ 58)) m
  else m

/-- What a write leaves (R368, R378, R385, R389, R392): the line, encrypted with the bytes at their place; DIRTY in the page's entry; both times
at the write's; the parties armed on the line woken; and a report to every watchpoint on it. -/
def wrote (s : State) (h : Nat) (p : Part) (e addr off : Nat) (key bytes : List W8) (ts : Nat) : State :=
  let a := lineAddr e off
  let old := xtsDecrypt key p.va (cellsRead s.mem a 64)
  let new := old.take (p.va % 64) ++ bytes ++ old.drop (p.va % 64 + bytes.length)
  (State.wakeMonitors (stamped { s with
    mem := dirtied (cellsWrite a (xtsEncrypt key p.va new) s.mem) e addr } h (lineOf p.va) ts ts) h (lineOf p.va) ts).watchHits
      h p ts false

/-- The time of a write (R378). -/
def writeTime (s : State) (h line clk : Nat) : Nat := wide64 (max (clk + 1) ((timesOf s h line).2 + 1))

/-- HOME_WRITE of a store on a page without corrupt words (R202, R361, R378): the bytes are written, and the time is answered. -/
def HomeWrites : Prop :=
  ∀ (s : State) (id : Nat) (p : Part) (e addr off : Nat) (key : List W8), AtPage s id p e addr off key → p.kind = .store → p.st ≠ .released →
    s.badMask (lineAddr e off) 8 = 0 → s.stopped p.home p = false →
      let ts := writeTime s p.home (lineOf p.va) (p.placed e).clk
      let t := wrote (noted s p) p.home (p.placed e) e addr off key p.data ts
      exec (.homeWrite id) s = .next ((match s.clusterOf p with
        | some cl => State.l2Store t cl p.va p.data ts
        | none => t).later id (.replied (.accept [] ts ts 0)))

/-- Wrapping, signed and unsigned results of the integer atomics, by number (R202): whether memory is written, and what. -/
def atomRule (aop ty old x cmp : Nat) : Nat × Bool :=
  let n := if ty = 6 then 128 else if ty = 2 ∨ ty = 3 then 64 else 32
  let int (v : Nat) : Int := if ty = 1 ∨ ty = 3 then (BitVec.ofNat n v).toInt else v
  match aop with
  | 0 => ((old + x) % 2 ^ n, true)
  | 1 => (if int x < int old then x else old, true)
  | 2 => (if int old < int x then x else old, true)
  | 3 => (old &&& x, true)
  | 4 => (old ||| x, true)
  | 5 => (old ^^^ x, true)
  | 6 => (x, true)
  | 7 => (if old = cmp then x else old, old == cmp)
  | 8 => (if x = 0 then (old + 1) % 2 ^ n else (old + 1) % x, true)
  | _ => (if x = 0 then (old + 2 ^ n - 1) % 2 ^ n else (((old : Int) + x - 1) % x).toNat, true)

/-- HOME_ATOMIC of an integer atomic (R202, R382): memory takes the result, the old value is answered, and a CAS that fails writes nothing. -/
def HomeAtomics : Prop :=
  ∀ (s : State) (id : Nat) (p : Part) (e addr off : Nat) (key : List W8), AtPage s id p e addr off key → p.kind = .atom →
    (p.ty < 4 ∨ p.ty = 6) → p.aop < 10 → p.len = atomSize p.ty → p.data.length = p.len → p.cmp.length = p.len →
    s.behind p = false → s.badMask (lineAddr e off) 8 = 0 → s.stopped p.home p = false →
      let q := { p.placed e with writer := if p.writer = 0 then 5 else p.writer }
      let line := lineOf p.va
      let bytes := ((xtsDecrypt key p.va (cellsRead s.mem (lineAddr e off) 64)).drop (p.va % 64)).take p.len
      let r := atomRule p.aop p.ty (ofLe bytes) (ofLe p.data) (ofLe p.cmp)
      let ts := writeTime s p.home line q.clk
      let t := if r.2 then wrote (noted s p) p.home q e addr off key (leBytes p.len r.1) ts
        else stamped (noted s p) p.home line (timesOf s p.home line).1 ts
      exec (.homeAtomic id) s = .next ((match s.clusterOf p with
        | some cl => if p.byStrands then (t.l2Drop cl p.va).count p.dist p.vf 0x0c 1 else t.l2Drop cl p.va
        | none => t).later id (.replied (.accept (leBytes p.len (ofLe bytes)) ts ts 0)))

/-- A page that is absent, or being moved or filled, parks the part: a negative reply, and one record for the pager while the page's fill is
outstanding (R370, R371). -/
def HomeParks : Prop :=
  ∀ (s : State) (id : Nat) (p : Part) (d : Nat), s.part id = some p → p.id = id → p.dev = s.dev.devnum → keyOf p.va ≠ 0xfffd → p.kind = .store →
    p.st ≠ .released → s.portHolds p = false → s.homeDistrict p.home = some d → (s.home p.home).enable = true →
    (s.home p.home).parked.length < 16384 → p.origin = s.dev.devnum →
      let parked := (s.onHome p.home fun x => { x with parked := x.parked ++ [{ part := id, page := p.va / 4096 }] }).count p.dist p.vf 0x0d 1
      (∀ e addr off, s.walk (s.home p.home) (s.district d) p.va = .page e addr off → pteM e = true →
        exec (.homeWrite id) s = .next (parked.later id (.replied .negative))) ∧
      (∀ level e, s.walk (s.home p.home) (s.district d) p.va = .absent level e →
        exec (.homeWrite id) s = .next ((if (s.home p.home).fills.contains (p.va / 4096) then parked
          else State.onDistrict (parked.onHome p.home fun x =>
            { x with fills := x.fills ++ [p.va / 4096], held := x.held ++ [(faultRecord p p.home level e, p.vf)] }) d fun x =>
            { x with faultHomes := x.faultHomes ++ [p.home] }).later id (.replied .negative)))

/-- A write that the home has performed changes no byte of memory but those of its line and of its page's entry. -/
def HomeWriteFrame : Prop :=
  ∀ (s t : State) (id : Nat) (p : Part) (e addr off : Nat) (key : List W8) (a : Nat), AtPage s id p e addr off key → p.kind = .store ∨ p.kind = .atom →
    exec (if p.kind = .store then .homeWrite id else .homeAtomic id) s = .next t → p.st ≠ .released →
    (a < lineAddr e off ∨ lineAddr e off + 64 ≤ a) → (a < addr ∨ addr + 8 ≤ a) → t.byteAt a = s.byteAt a

/-! Replies (R191 to R196) -/

/-- PART_REPLY to strands: a load within its lease raises the strands' time to its place and fills the L1, a store lets go of its part;
LOAD_DATA_ARRIVAL writes the bytes, zero- or sign-extended, to the registers of the part's strands; RETRY_REPLY sends the part again no earlier
than 256 cycles later; ICACHE_FILL puts the line into the instruction cache, which keeps its 2,048 newest lines. -/
def Replies : Prop :=
  ∀ (s : State) (id : Nat) (p : Part), s.part id = some p → p.id = id →
    (∀ (u g : Nat) (ks : List Nat) (d : List W8) (wts rts : Nat), p.src = .strands u g ks → (Tbl.find u s.blocks).isSome = true → ks ≠ [] →
      s.earlier p u g ks = false → keyOf p.va ≠ 0xfffd → p.st = .replied (.accept d wts rts 0) →
      (let t := max ((s.grp u g).pathTime ks) wts
       let x := s.onGrp u g fun x => x.raise ks t
       p.kind = .load → t ≤ rts → p.l1 = false → 64 ≤ d.length → x.uncached p = false →
        exec (.partReply id) s = .next ((x.l1Fill (s.block u).core p.va p.hint d wts rts p.sentAt).later id
          (.data ((d.drop (p.va % 64)).take p.len)))) ∧
      (p.kind = .store → exec (.partReply id) s =
        .next ((((s.onGrp u g fun x => x.raise ks wts).l1Store (s.block u).core p.va p.hint p.data wts).closePart p wts).dropPart id))) ∧
    (∀ (u g : Nat) (ks : List Nat) (bytes : List W8) (e : Issue) (n : Fin 64), p.src = .strands u g ks → p.st = .data bytes →
      firstWith (fun e => e.id == p.issue) s.issues = some e → e.blk = u → e.grp = g → e.dest = .v n →
      (e.bits = 8 ∨ e.bits = 16 ∨ e.bits = 32) → bytes.length = e.bits / 8 →
      let v := ofLe bytes
      let word : W32 := if e.sx ∧ e.bits < 32 then BitVec.ofInt 32 (BitVec.ofNat e.bits v).toInt else BitVec.ofNat 32 v
      let t := s.onGrp u g fun x => (ks.foldl (fun x k => x.setV n.val k word) x).compressV n.val
      exec (.loadDataArrival id) s = .next (((t.count (t.block u).dist (vfNum (t.block u).dist (t.block u).vf) 0x05
        (((t.grp u g).vregs.getD n.val {}).words (t.grp u g).width)).closePart p 0).dropPart id)) ∧
    (exec (.retryReply id) s = .next (s.onPart id fun p => { p with st := .sent, due := s.cycle + 256 })) ∧
    (∀ core d wts rts, p.st = .replied (.accept d wts rts 0) →
      exec (.icacheFill core id) s = .next ((s.onCore core fun c =>
        { c with icache := ((p.va / 64, d) :: c.icache.filter fun l => l.1 != p.va / 64).take 2048 }).dropPart id))

/-- WAKE (R159, R195, R373): strands that waited for the page issue their access again, with the operands that it had; in the handler's presence
they do so once it has ended. -/
def Wakes : Prop :=
  ∀ (s : State) (id : Nat) (p : Part) (u g : Nat) (ks : List Nat), s.part id = some p → p.id = id → p.src = .strands u g ks → ks ≠ [] →
    (Tbl.find u s.blocks).isSome = true →
      let held := (s.grp u g).handler.isSome || !(s.block u).resident
      exec (.wake id) s = .next (((s.onStrands u g ks fun t =>
        match t.st with
        | .replay _ =>
          { t with
            replay := some { va := p.va, data := p.data, cmp := p.cmp }, st := if held then .replay true else .active, age := if held then t.age else 0 }
        | _ => t).dropPart id).settle u g)

/-! Gated writes (R450, R451) -/

/-- A control-plane write of a master is noted: BREAKMS counts from it (R450). -/
def masterWrote (s : State) (m : Nat) : State := { s with dev := { s.dev with lastWrite := Tbl.put m s.time s.dev.lastWrite } }

/-- The master holds the semaphore, outside a warm reset. -/
def Holds (s : State) (m : Nat) : Prop := s.dev.owner = m ∧ s.dev.bstate ≠ 1

/-- A control-plane write or read of the master is served now: of the physical function in BSTATE 2 or 3, over the stream that IDE asks for,
with no earlier one waiting at its port; of the agent over a link that is up in BSTATE 1 or 2, with nothing of its stream under way
(R448, R456, R461, R472, R473). -/
def Served (s : State) (m tc : Nat) (ide : Option Nat) : Prop :=
  m = 1 ∧ (s.dev.bstate = 2 ∨ s.dev.bstate = 3) ∧ s.ideOk 0 ide = true ∧ s.portWaits 0 tc false = false ∨
  m = 2 ∧ s.dev.hanosUp = true ∧ (s.dev.bstate = 1 ∨ s.dev.bstate = 2) ∧ s.streamHolds (tc % 64) s.nextId = false ∧
    ∀ w ∈ s.dev.portQ, w.page < 8192

/-- The events that are gated writes, with their master. -/
def gatedBy : Instr → Option Nat
  | .linkTraining m .. | .linkStop m _ | .avtWrite m .. | .districtForm m _ | .districtDrain m _ | .vfReset m .. | .queueEnable m _
  | .queueDisable m _ | .keyGen m _ | .keyLoad m _ | .keyClear m _ | .bootFromRecovery m | .commitSvn m | .extendMr m _ | .dcfgWrite m .. => some m
  | _ => none

/-- A gated write of a master that does not hold the semaphore writes nothing, and SEMVIOL counts it, up to its top (R451). -/
def GateRefuses : Prop :=
  ∀ (i : Instr) (m : Nat) (s : State), gatedBy i = some m → s.dev.owner ≠ m →
    exec i s = .next { masterWrote s m with dev := { (masterWrote s m).dev with semviol := min (s.dev.semviol + 1) (2 ^ 32 - 1) } }

/-- The semaphore is the master's from now on (R450). -/
def taken (s : State) (m : Nat) : State := { s with dev := { s.dev with owner := m, lastHolder := m } }

/-- The semaphore (R450): a free one is taken, its holder gives it back, and a silent holder loses it to a write of 3.  Of two masters that
write in one cycle the one that has not held it last goes first. -/
def Semaphore : Prop :=
  ∀ (s : State) (m : Nat), m = 1 ∨ m = 2 →
    (s.ownerEvent (3 - m) = none →
      (s.dev.owner = 0 → exec (.semaphoreAcquire m) s = .next (taken (masterWrote s m) m)) ∧
      (s.dev.owner ≠ 0 → exec (.semaphoreAcquire m) s = .next (masterWrote s m)) ∧
      (s.dev.owner = m → exec (.semaphoreRelease m) s = .next { masterWrote s m with dev := { (masterWrote s m).dev with owner := 0 } }) ∧
      (s.dev.owner = 3 - m → Tbl.getD (3 - m) s.dev.lastWrite 0 + 1000 * s.dev.breakms * usUnits ≤ s.time →
        exec (.semaphoreBreak m) s = .next (taken { masterWrote s m with
          dev := { (masterWrote s m).dev with breaks := min (s.dev.breaks + 1) 15 } } m))) ∧
    (∀ e, s.ownerEvent (3 - m) = some (e, 3 - m) → s.dev.owner = 0 →
      let other := { masterWrote s (3 - m) with agenda := s.agenda.erase e }
      (s.dev.lastHolder = m → exec (.semaphoreAcquire m) s = .next (masterWrote (taken other (3 - m)) m)) ∧
      (s.dev.lastHolder ≠ m → exec (.semaphoreAcquire m) s = .next (taken (masterWrote s m) m))) ∧
    (∀ e, s.ownerEvent (3 - m) = some (e, 0) → s.dev.owner = 3 - m → s.dev.lastHolder = 3 - m →
      exec (.semaphoreAcquire m) s = .next (masterWrote s m))

/-! Links (R399, R400, R408 to R414, R422) -/

/-- The trailer of a flit that a link sends: the next SEQ, the last SEQ received, NAK where a drop is unanswered, and the stop bits of the
shared buffers and of the buffers of the owner of the slot's group. -/
def sentFlit (s : State) (k : Link) (seq : Nat) : Flit :=
  { seq := seq, ack := (k.expectSeq + 2 ^ 32 - 1) % 2 ^ 32, nak := k.nakDue, stops := k.halt
    stopo := match s.groupOwner k.avt (k.txSlot / 4 % 64) with
      | some d => Tbl.getD d k.haltO 0
      | none => 0 }

/-- A flit goes on the wire, with the CRC of its body and its trailer. -/
def onWire (s : State) (l : Nat) (f : Flit) (naks : Nat) : State :=
  s.onLink l fun x => { x with wire := { f with crc := flitCrc f }, txSlot := x.txSlot + 1, nakDue := false, naks := naks }

/-- FLIT_SLOT: an idle flit, a flit that goes again, or the next flit of the packet that R408 and R410 pick. -/
def FlitSlots : Prop :=
  ∀ (s : State) (l : Nat), (s.link l).state = 2 → (s.link l).nakDue = false → (s.link l).naks < 16 →
    let k := s.link l
    (k.again = [] → (2048 ≤ k.kept.length ∨ s.pickFlit k = none) →
      exec (.flitSlot l) s = .next (onWire s l { sentFlit s k k.sendSeq with idle := true } k.naks)) ∧
    (∀ f p r, k.again = (f, p) :: r → exec (.flitSlot l) s =
      .next (onWire ((s.onLink l fun x => { x with again := r }).count p.avd (packetForVf p true) 0x22 1) l
        { f with ack := (sentFlit s k 0).ack, nak := false, stops := (sentFlit s k 0).stops, stopo := (sentFlit s k 0).stopo } k.naks)) ∧
    (∀ (t : TxPacket) (own : Bool), k.again = [] → k.kept.length < 2048 → s.pickFlit k = some (t, own) → t.sent + 1 = t.pkt.flits →
      let f := { sentFlit s k k.sendSeq with
        first := t.sent == 0, fpri := t.pkt.fpri, own := own, avd := t.pkt.avd, body := packetBody t.pkt t.sent }
      exec (.flitSlot l) s = .next (onWire (((s.onLink l fun x =>
          { x with
            sendQ := k.sendQ.erase t, sendSeq := (x.sendSeq + 1) % 2 ^ 32, kept := x.kept ++ [(f, t.pkt)]
            turns := if own then x.turns else Tbl.put t.pkt.fpri t.pkt.avd x.turns }).count t.pkt.avd (packetForVf t.pkt true) 0x20 1).output
          (.packet t.pkt)) l f k.naks))

/-- FLIT_RECEIVE: a flit with a bad CRC is dropped and counted; one in its turn joins its packet, and a packet of one flit is received (R400,
R410). -/
def FlitReceives : Prop :=
  ∀ (s : State) (l : Nat) (f : Flit), (s.link l).state = 2 →
    let k := s.link l
    let t := s.onLink l fun x => { x with heard := s.time, rxSlot := x.rxSlot + 1 }
    (f.crc % 2 ^ 32 ≠ flitCrc f → exec (.flitReceive l f) s =
      .next (t.onLink l fun x => { x with crcerr := (x.crcerr + 1) % 2 ^ 32, nakDue := true })) ∧
    (f.crc % 2 ^ 32 = flitCrc f → f.idle = false → f.seq = k.expectSeq → f.first = true → packetFlits (packetOf f.body).len = 1 →
      (∀ r ∈ k.recv, r.same f = false) →
      ∃ t, exec (.flitReceive l f) s = .next t ∧ (t.link l).expectSeq = (k.expectSeq + 1) % 2 ^ 32 ∧ (t.link l).nakDue = false ∧
        t.agenda = s.agenda ++ [.packetReceive l
          { packetOf f.body with flits := 1, data := (f.body.drop 32).take (packetOf f.body).len }] ∧
        t.mem = s.mem ∧ (t.link l).kept = k.kept.filter fun e => 2 ^ 31 ≤ (f.ack + 2 ^ 32 - e.1.seq) % 2 ^ 32)

/-- The header of a packet reads back as the packet's fields (R401). -/
def HeaderFields : Prop :=
  ∀ k : Packet, k.va < 2 ^ 64 → k.op < 2 ^ 7 → k.len < 2 ^ 9 → k.fpri < 8 → k.avd < 2 ^ 6 → k.home < 2 ^ 5 → k.reserved = 0 → k.src < 2 ^ 12 →
    k.dst < 2 ^ 12 → k.reqvf < 2 ^ 12 → k.tag < 2 ^ 32 →
    (if k.op = 0x10 ∨ k.op = 0x13 then k.clk < 2 ^ 32 ∧ k.rts < 2 ^ 32 else k.clk < 2 ^ 64 ∧ k.rts = 0) →
      packetOf (packetHeader k) = { k with data := (packetOf (packetHeader k)).data, flits := (packetOf (packetHeader k)).flits }

/-- PACKET_RECEIVE (R402, R420): a malformed packet is dropped and kept in ELOG; a request starts at its home, which may then delegate its
line (R416); a reply answers its part, and ends the keeping of the request; a negative one is counted for the requester (R475). -/
def Packets : Prop :=
  ∀ (s : State) (l : Nat) (k : Packet), (s.link l).state = 2 →
    (packetWellFormed k = false → exec (.packetReceive l k) s =
      .next (s.onLink l fun x => { x with dropped := (x.dropped + 1) % 2 ^ 32, elog := packetHeader k })) ∧
    (packetWellFormed k = true → 1 ≤ k.op → k.op ≤ 9 → k.op ≠ 6 → (∀ p ∈ s.parts, p.src ≠ .remote k.src k.tag) →
      s.keptReply k.src k.tag 0 = none →
      let t := s.send (remotePart k s.dev.devnum)
      exec (.packetReceive l k) s = .next (if k.op ≤ 3 ∧ keyOf k.va < 0xfffd ∧ t.mayDelegate k.home (lineOf k.va) = true ∧
          t.delegFits (lineOf k.va) = true ∧ Config.plazaAccepts t.cycle (lineOf k.va) = true then State.post (t.onHome k.home fun m => { m with asked := Tbl.put (lineOf k.va) k.avd m.asked }) (.delegate k.home (lineOf k.va))
        else t)) ∧
    (∀ p, packetWellFormed k = true → 0x10 ≤ k.op → k.op ≤ 0x19 → s.waitingFor k.tag = some p →
      let t := { s with dev := { s.dev with sent := s.dev.sent.filter fun e => e.2.tag != k.tag } }
      let t := if k.op = 0x18 then State.count t p.dist p.vf 0x0d 1 else t
      exec (.packetReceive l k) s = .next ((t.sliceSees p (replyOf k p)).later p.id (.replied (replyOf k p))))

/-- What a link that goes down leaves (R422): its undelivered packets wait for other links, its delegated lines are back at their homes. -/
def LinkGone (s t : State) (l state : Nat) : Prop :=
  (t.link l).state = state ∧ (t.link l).sendQ = [] ∧ (t.link l).kept = [] ∧
    (∀ p, p ∈ (s.link l).kept.map Prod.snd ∨ p ∈ (s.link l).sendQ.map TxPacket.pkt → p ∈ t.outbox) ∧
    (∀ h line, line % 32 = l → Tbl.find line (t.home h).deleg = none) ∧ t.mem = s.mem ∧ ∀ j, j ≠ l → t.link j = s.link j

/-- LINK_DOWN, LINK_SILENCE_TIMEOUT, LINK_STOP, LINK_TRAINING, FRAME_START and AVT_WRITE (R400, R409, R414, R422). -/
def LinkStates : Prop :=
  ∀ (s : State) (l m : Nat),
    ((s.link l).state = 2 → (∃ t, exec (.linkDown l) s = .next t ∧ LinkGone s t l 3 ∧ (t.link l).downs = ((s.link l).downs + 1) % 2 ^ 32 ∧
      t.out = s.out ++ [.downNotice l]) ∧
      ((s.link l).heard + usUnits ≤ s.time → exec (.linkSilenceTimeout l) s = .next { s with agenda := s.agenda ++ [.linkDown l] })) ∧
    (∀ t, (s.link l).pendAvt = some t →
      exec (.frameStart l) s = .next (s.onLink l fun x => { x with avt := t, pendAvt := none })) ∧
    (Holds s m → (s.link l).state = 2 → ∃ t, exec (.linkStop m l) s = .next t ∧ LinkGone s t l 0) ∧
    (∀ rtt plaza, Holds s m → (s.link l).state ≠ 2 → (s.link l).bufs.foldl (· + ·) 0 ≤ 8192 →
      (∀ p, p < 8 → (s.link l).shrs.getD p 0 ≤ (s.link l).bufs.getD p 0) → (masterWrote s m).marksOk (s.link l) (s.link l).avt rtt = true →
      ∃ t, exec (.linkTraining m l rtt l plaza) s = .next t ∧ (t.link l).state = 2 ∧ (t.link l).err = 0 ∧ (t.link l).rtt = rtt % 2 ^ 16 ∧
        (t.link l).plaza = plaza % 2 ^ 12 ∧ (t.link l).sendSeq = 0 ∧ (t.link l).expectSeq = 0 ∧ (t.link l).avt = (s.link l).avt ∧ t.mem = s.mem) ∧
    (∀ g v, Holds s m → (s.link l).state ≠ 2 → g < 64 → v % 256 &&& 0xbf ≠ 0 →
      exec (.avtWrite m l g v) s = .next ((masterWrote s m).onLink l fun x =>
        { x with
          avt := Tbl.put g (v % 256 &&& 0xbf) (match (s.link l).pendAvt with | some t => t | none => (s.link l).avt) })) ∧
    (∀ g v, Holds s m → (s.link l).state = 2 → g < 64 → v % 256 &&& 0xbf ≠ 0 →
      let t := Tbl.put g (v % 256 &&& 0xbf) (match (s.link l).pendAvt with | some t => t | none => (s.link l).avt)
      exec (.avtWrite m l g v) s = .next ((masterWrote s m).onLink l fun x =>
        if (masterWrote s m).marksOk (s.link l) t (s.link l).rtt then { x with pendAvt := some t } else { x with err := 1 }))

/-! Delegation (R376, R416 to R418) -/

/-- A message of a home to the plaza of a line, in the avenue of the request that it answers, with a TAG of its own (R401, R412). -/
def toPlaza (s : State) (h avd line op clk : Nat) (data : List W8) : State :=
  { s with
    nextId := s.nextId + 1
    outbox := s.outbox ++ [
      { va := 64 * line, op := op, fpri := 3, avd := avd, home := h, src := s.dev.devnum, dst := s.dev.devnum, clk := clk,
        reqvf := 0xfff, tag := s.nextId % 2 ^ 32, len := data.length, data := data, flits := packetFlits data.length }] }

/-- The district that owns the page of a line: the OWNER's (R367, R419). -/
def ownerDistrict (s : State) (h line : Nat) : Nat :=
  match s.homeDistrict h with
  | none => 0
  | some d =>
    match s.walk (s.home h) (s.district d) (64 * line) with
    | .page e _ _ => e / 2 ^ 46 % 2 ^ 12 / 64
    | _ => 0

/-- DELEGATE, whose message carries the line, its times, the ceiling and the owner's district; CEILING_RAISE, RECALL, LINE_RETURN and
TIMESTAMP_EVICT (R376, R416 to R419). -/
def Delegation : Prop :=
  ∀ (s : State) (h line : Nat),
    let w := (timesOf s h line).1
    let r := (timesOf s h line).2
    (s.mayDelegate h line = true → exec (.delegate h line) s =
      .next ((toPlaza s h (Tbl.getD line (s.home h).asked ((s.homeDistrict h).getD 0)) line 0x20 w
          (s.lineAt h line ++ leBytes 8 w ++ leBytes 8 r ++ leBytes 8 (wide64 (r + 65536)) ++ leBytes 1 (ownerDistrict s h line))).onHome h
          fun m =>
        { m with
          lines := Tbl.put line ⟨w, wide64 (r + 65536)⟩ m.lines, asked := Tbl.del line m.asked
          deleg := Tbl.put line { ceiling := wide64 (r + 65536), avd := Tbl.getD line (s.home h).asked ((s.homeDistrict h).getD 0) } m.deleg })) ∧
    (∀ g c, Tbl.find line (s.home h).deleg = some g →
      (let new := if g.ceiling = c then wide64 (c + 65536) else g.ceiling
       exec (.ceilingRaise h line c) s = .next (toPlaza (s.onHome h fun m =>
         { m with lines := Tbl.put line ⟨w, new⟩ m.lines, deleg := Tbl.put line { g with ceiling := new } m.deleg }) h g.avd line 0x26 new [])) ∧
      (g.recalled = false → exec (.recall h line) s = .next (toPlaza (s.onHome h fun m =>
         { m with deleg := Tbl.put line { g with recalled := true } m.deleg }) h g.avd line 0x21 0 [])) ∧
      (∀ wts rts, wts ≤ rts → exec (.lineReturn h line wts rts) s = .next (s.onHome h fun m =>
         { m with lines := Tbl.put line ⟨wts, rts⟩ m.lines, deleg := Tbl.del line m.deleg }))) ∧
    (∀ x, Tbl.find line (s.home h).lines = some x → Tbl.find line (s.home h).deleg = none →
      exec (.timestampEvict h line) s = .next (s.onHome h fun m =>
        { m with floor := max m.floor x.rts, lines := Tbl.del line m.lines }))

/-- WRITE_THROUGH: the bytes come to the home's line under its page and key, DIRTY is set, and the plaza is answered (R412, R417). -/
def WritesThrough : Prop :=
  ∀ (s : State) (h line first ts d e addr off : Nat) (g : Delegated) (key bytes : List W8), Tbl.find line (s.home h).deleg = some g →
    s.homeDistrict h = some d → first < 64 → first + bytes.length ≤ 64 → s.walk (s.home h) (s.district d) (64 * line + first) = .page e addr off →
    s.slotKey (pteSlot e) = some key → s.badMask (lineAddr e off) 8 = 0 →
      let a := lineAddr e off
      let old := xtsDecrypt key (64 * line + first) (cellsRead s.mem a 64)
      exec (.writeThrough h line first ts bytes) s = .next (toPlaza (stamped { s with
        mem := dirtied (cellsWrite a (xtsEncrypt key (64 * line + first)
          (old.take first ++ bytes ++ old.drop (first + bytes.length))) s.mem) e addr } h line ts (timesOf s h line).2) h g.avd line 0x24 ts [])

/-- PART_TIMEOUT and REPLY_KEEP_EXPIRY (R420, R421). -/
def Timeouts : Prop :=
  ∀ (s : State) (id src tag : Nat) (p : Part),
    (s.part id = some p → p.st = .atHost → p.port = 0 → p.sentTime + 100000 * usUnits ≤ s.time →
      exec (.partTimeout id) s = .next (s.later id (.replied (.fatal 7)))) ∧
    (∃ t, exec (.replyKeepExpiry src tag) s = .next t ∧ t = { s with dev := { s.dev with replies := t.dev.replies } } ∧
      ∀ r, r ∈ t.dev.replies ↔ r ∈ s.dev.replies ∧ ¬ (r.1 = src ∧ r.2.1 = tag ∧ r.2.2.2.2 + 16000 * usUnits ≤ s.time))

/-! Clocks and counters (R128, R379, R459, R476, R480) -/

/-- STRAND_CLOCK_TICK: one tick, of 64 bits (R9), for every strand that is not exited of a resident block, and for every thread that runs or waits; nothing else
changes. -/
def StrandTicks : Prop :=
  ∀ s : State, ∃ t, exec .strandClockTick s = .next t ∧ t = { s with blocks := t.blocks, squeues := t.squeues } ∧
    (∀ u b, Tbl.find u s.blocks = some b → b.resident = false → Tbl.find u t.blocks = some b) ∧
    (∀ u b g k, Tbl.find u s.blocks = some b → b.resident = true → g < b.groups.length → k < (b.group g).width →
      (t.grp u g).strand k = (let y := (b.group g).strand k; if y.isExited then y else { y with tick := wide64 (y.tick + 1) }) ∧
        { t.grp u g with strands := (b.group g).strands } = b.group g) ∧
    (∀ q x, Tbl.find q s.squeues = some x →
      Tbl.find q t.squeues = some (if x.tstate = 1 ∨ x.tstate = 2 then { x with thread := { x.thread with tick := wide64 (x.thread.tick + 1) } } else x))

/-- DISPATCH_CLOCK_TICK and PORT_CLOCK_TICK. -/
def OtherTicks : Prop :=
  (∀ (s : State) (d : Nat), (s.district d).state ≠ 0 →
    exec (.dispatchClockTick d) s = .next (s.onDistrict d fun x => { x with clock := wide64 (x.clock + 1) })) ∧
  (∀ s : State, ∃ t, exec .portClockTick s = .next t ∧
    t = { s with dev := { s.dev with tcClocks := t.dev.tcClocks, streamClocks := t.dev.streamClocks } } ∧
    (∀ k, k < 8 → Tbl.getD k t.dev.tcClocks 0 = wide64 (Tbl.getD k s.dev.tcClocks 0 + 1)) ∧
    ∀ k, k < 64 → Tbl.getD k t.dev.streamClocks 0 = wide64 (Tbl.getD k s.dev.streamClocks 0 + 1))

/-- How much a VF counter gains from events: those of its VF with its code, where it is on and counts no fabric event (R476, R479). -/
def gain (events : List (Nat × Nat × Nat)) (vf : Nat) (cfg : W32) : Nat :=
  let code := cfg.toNat % 256
  if cfg.getLsbD 15 = false ∨ code = 0 ∨ 0x12 ≤ code then 0
  else ((events.filter fun e => e.1 == vf && e.2.1 == code).map fun e => e.2.2).sum

/-- COUNTER_UPDATE (R480): the live counters of the current VF take the events, wrap at 48 bits, and OVF stays set once it is; the events are
consumed. -/
def CounterUpdates : Prop :=
  ∀ (s : State) (d v : Nat), (s.district d).curVf = some v →
    ∃ t, exec (.counterUpdate d) s = .next t ∧ (t.district d).events = [] ∧
      (t.district d).live = (s.district d).live.map (fun c =>
        let n := c.value + gain (s.district d).events (vfNum d v) c.cfg
        { c with value := n % 2 ^ 48, ovf := c.ovf || decide (2 ^ 48 ≤ n) }) ∧
      t.mem = s.mem ∧ t.blocks = s.blocks ∧ t.cores = s.cores

/-! Issue (R133, R154, R165, R444) -/

/-- ISSUE_SLOT with one group on its lane: a pass of it that fits 64 lane-cycles is planned for the slot's first cycle. -/
def IssueSlots : Prop :=
  ∀ (s t : State) (core lane u g : Nat) (p : Path) (l : Look), s.laneGroups core lane = [(u, g)] → s.keptGroups core lane = [] →
    s.mustSkip (s.grp u g) = false →
    s.choose u g = (t, some (p, l)) → t.plan = s.plan → t.costIf u g p l ≤ 64 →
      exec (.issueSlot core lane) s =
        .next { t.onGrp u g fun x => { x with lastSlot := t.slotNow, yielded := false } with
          plan := insertPlan (.group u g t.cycle (t.costIf u g p l)) s.plan }

/-- SP_ISSUE_CYCLE: the next ready thread behind the last one, with wraparound, is planned (R444). -/
def PortCycles : Prop :=
  ∀ (s : State) (n : Nat), n < 64 →
    let q := (s.spLast + 1 + n) % 64
    s.threadReady q = true → (∀ m, m < n → s.threadReady ((s.spLast + 1 + m) % 64) = false) →
      exec .spIssueCycle s = .next { s with spLast := q, plan := insertPlan (.thread q) s.plan }

/-- CUE_OVERRUN (R165, R166): trap 0x09 with the cue and every strand that is not exited, at the lowest counter of the strands that may run; what
a CRNG of the group has asked goes with its wait. -/
def CueOverruns : Prop :=
  ∀ (s : State) (u g k : Nat) (b : Block), Tbl.find u s.blocks = some b → b.resident = true → s.dying u = false →
    let x := b.group g
    let ks := if s.eligible u g = [] then x.living else s.eligible u g
    x.cueTimer = some 0 → x.handler = none → x.living ≠ [] → k ∈ ks → (∀ j ∈ ks, (x.strand k).pc ≤ (x.strand j).pc) →
      exec (.cueOverrun u g) s = .next (State.trapWith { s.onGrp u g fun x =>
        { x with
          cueTimer := none
          strands := x.strands.map fun t => if t.wait.abandoned then { t with wait := .none } else t } with
        parts := s.parts.filter fun p => match p.src with
          | .sys v h => v != u || h % 2 ^ 16 != g || h < 2 ^ 20
          | _ => true } u g 0x09 x.cue.toNat (x.strand k).pc x.living)

/-! The dispatch engine (R117, R124 to R129, R135 to R137, R147, R481) -/

/-- LAUNCH_BEGIN_DISPATCH of a launch whose header names no tables: full counts, no parameters, and every strand to trigger (R124). -/
def LaunchBegins : Prop :=
  ∀ (s : State) (d lid : Nat) (l : Launch), firstWith (fun l => l.lid == lid) (s.district d).launches = some l → l.lid = lid →
    s.mayBegin d l = true → hCountP l.header = 0 → hParamP l.header = 0 → hRecP l.header = 0 →
      let full := (List.range 4).map fun i => 2 ^ hFw l.header (i + 2)
      exec (.launchBeginDispatch d lid) s = .next (((((s.onLaunch d lid fun l => { l with st := .reading }).dropSrc (.dispatch d lid)).onLaunch d lid
        fun l => { l with
          st := .dispatching, counts := full, params := [], records := [], start := (s.district d).clock
          untrig := blockTotal full * (hGroups l.header * hWidth l.header) })).launchSettle d lid)

/-- CORE_SET_PLACE of a set of one block, where no launch of a higher priority has a set that fits (R125, R126): the block is resident on the core that was chosen, its strands stand at ENTRY with the launch's
start time, its w registers hold the parameters, and no unit of it was in use. -/
def CoreSets : Prop :=
  ∀ (s : State) (d lid core : Nat) (l : Launch), firstWith (fun l => l.lid == lid) (s.district d).launches = some l → l.lid = lid →
    s.mayPlace d l = true → s.higherFirst d l = false → s.placeFor d [] l.clustered (l.nextNeeds d) = some [core] → l.perCore = 1 →
    Tbl.find s.nextUid s.blocks = none →
      ∃ t, exec (.coreSetPlace d lid) s = .next t ∧ t.nextUid = s.nextUid + 1 ∧
        (let b := t.block s.nextUid
         b.core = core ∧ b.resident = true ∧ b.lid = lid ∧ b.dist = d ∧ b.groups.length = hGroups l.header ∧
           b.ident = blockAt l.header l.counts l.cursor ∧
           (∀ n, n ∈ b.reg ++ b.scr ++ b.acc → n < 1024 ∧ ∀ e ∈ s.residents core [], n ∉ e.2.reg ++ e.2.scr ++ e.2.acc) ∧
           (b.reg ++ b.scr ++ b.acc).Nodup ∧
           ∀ g, g < hGroups l.header → (b.group g).width = hWidth l.header ∧
             (b.group g).w = List.replicate 16 0 ++ (List.range 16).map (fun k => BitVec.ofNat 32 (fieldLe l.params (4 * k) 4)) ∧
             ∀ k, k < hWidth l.header → (b.group g).strand k = { pc := hEntry l.header, hdr := hEntry l.header, tick := l.start }) ∧
        (firstWith (fun l => l.lid == lid) (t.district d).launches).map Launch.cursor = some (l.cursor + 1) ∧ t.mem = s.mem

/-- PREEMPTION (R135): the blocks of the victims that suffice are told to stop, if the VF's region of the save area takes them. -/
def Preempts : Prop :=
  ∀ (s : State) (d lid : Nat) (l : Launch) (gone : List Nat), firstWith (fun l => l.lid == lid) (s.district d).launches = some l →
    s.mayPlace d l = true → s.placeFor d [] l.clustered (l.nextNeeds d) = none →
    let going := (s.blocks.filter fun e => e.2.dist == d && (e.2.resident && e.2.stop || e.2.saveJob.any SaveJob.write)).map Prod.fst
    s.enough d l.clustered (l.nextNeeds d) (s.victims d l.vf l.prio) going = some gone →
    s.saveRoom d l.vf (gone.filter fun u => !going.contains u) = true →
      ∃ t, exec (.preemption d lid) s = .next t ∧ t = { s with blocks := t.blocks } ∧
        ∀ u b, Tbl.find u s.blocks = some b →
          Tbl.find u t.blocks = some (if u ∈ gone ∧ u ∉ going then { b with stop := true } else b)

/-- Victims are resident blocks of the VF at a lower priority (R135). -/
def VictimsAreLower : Prop :=
  ∀ (s : State) (d v p u : Nat) (x : Victim), x ∈ s.victims d v p → u ∈ x.blocks →
    ∃ b, (u, b) ∈ s.blocks ∧ b.dist = d ∧ b.vf = v ∧ b.resident = true ∧ b.prio < p

/-- BLOCK_RESTORE of one block, where no launch of a higher priority has a set that fits (R125, R137): it takes a seat on the core that the plan gives, and its image begins to be read from the save area; a
block whose image stands nowhere is back at once. -/
def Restores : Prop :=
  ∀ (s : State) (u core : Nat) (b : Block) (l : Launch), Tbl.find u s.blocks = some b → s.launchOf b = some l → b.seated = false →
    b.image = false → s.mayRestore b.dist l = true → s.higherFirst b.dist l = false → s.backPlan b.dist l b = ([[(u, b)]], some [core]) →
      let t := s.startBack u core
      exec (.blockRestore u) s = .next t ∧
        (∀ off, b.saveOff = some off → (t.block u).core = core ∧ (t.block u).resident = false ∧ t.mem = s.mem ∧
          (t.block u).saveJob = some { write := false, len := b.saveLen } ∧ (t.block u).saveOff = some off) ∧
        (b.saveOff = none → b.held = [] → (t.block u).core = core ∧ (t.block u).resident = true ∧ t.mem = s.mem)

/-- A block that comes back (R136, R137, R335): it is resident with nothing saved left, and its entries stand in their queues, behind what is
there. -/
def ComesBack : Prop :=
  ∀ (s : State) (u : Nat) (b : Block), Tbl.find u s.blocks = some b → b.held = [] →
    let t := s.comeBack u
    (t.block u).resident = true ∧ (t.block u).saveJob = none ∧ (t.block u).saveEqs = [] ∧ (t.block u).saveOps = [] ∧
      (t.block u).saveFences = [] ∧ t.mem = s.mem ∧
      ∀ e, e ∈ b.saveEqs → e.1 < (s.core b.core).eqs.length →
        ∃ place, s.nextId ≤ place ∧ { e.2 with back := place } ∈ (t.core b.core).eqs.getD e.1 []

/-- WORLD_SWITCH and QUANTUM_END (R117, R147, R481): the outgoing VF's blocks stop; once none is left, the incoming VF is current and the counters
change places; and where none of its blocks is to come back, the switch is over. -/
def Switches : Prop :=
  ∀ (s : State) (d v : Nat),
    (∀ had, (s.district d).switchTo = some (v, had) → (s.district d).restoring = false → (∀ e ∈ s.blocks, e.2.dist = d → e.2.seated = false) →
      let t := s.addEvents d
      let live := Tbl.getD (vfNum d v) (match (t.district d).curVf with
        | some c => Tbl.put (vfNum d c) (t.district d).live t.images
        | none => t.images) [{}, {}, {}, {}]
      let y := (match (t.district d).curVf with
        | some c => { t with images := Tbl.put (vfNum d c) (t.district d).live t.images }
        | none => t).onDistrict d fun x => { x with curVf := some v, restoring := true, live := live, quantumStart := none }
      exec (.worldSwitch d) s = .next (y.switchBack d v had)) ∧
    (∀ had, (∀ e ∈ s.blocks, e.2.dist = d → e.2.vf = v → e.2.switched = false) →
      s.switchBack d v had = s.onDistrict d fun x =>
        { x with switchTo := none, restoring := false, quantumStart := if had then some s.cycle else none }) ∧
    ((s.district d).state = 1 → (s.district d).switchTo = none → s.nextVf d = some v →
      ((s.district d).curVf = some v → exec (.quantumEnd d) s = .next (s.onDistrict d fun x => { x with quantumStart := some s.cycle })) ∧
      (∀ c, (s.district d).curVf = some c → c ≠ v → (s.blocks.map Prod.fst).Nodup → ∃ t, exec (.quantumEnd d) s = .next t ∧
        (∃ had, (t.district d).switchTo = some (v, had)) ∧
        ∀ u b, Tbl.find u s.blocks = some b →
          let b' := if b.dist = d ∧ (b.saveJob.any fun j => !j.write && j.seat) = true then { b with saveJob := none, switched := true } else b
          Tbl.find u t.blocks = some (if b.dist = d ∧ b.resident = true ∧ b.vf = c then { b' with stop := true, switched := true } else b')))

/-! Districts and VFs (R114, R115, R149, R469, R473) -/

/-- DISTRICT_FORM and DISTRICT_DRAIN: a district that fails a check of R114 stays off with its ERR; one that passes is on, empty, and measured
into MR1; a drained one is off, with nothing in its clusters' slices, once no block of it is on a core. -/
def Districts : Prop :=
  ∀ (s : State) (m d : Nat), Holds s m → d < 64 →
    let x := s.district d
    let t := masterWrote s m
    (x.state = 0 → x.clusters = 0 → exec (.districtForm m d) s = .next (t.onDistrict d fun x => { x with err := 2 })) ∧
    (x.state = 0 → x.clusters ≠ 0 → s.overlaps d = true → exec (.districtForm m d) s = .next (t.onDistrict d fun x => { x with err := 1 })) ∧
    (x.state = 0 → x.clusters ≠ 0 → s.overlaps d = false → x.saveOk = false →
      exec (.districtForm m d) s = .next (t.onDistrict d fun x => { x with err := 3 })) ∧
    (x.state = 0 → x.clusters ≠ 0 → s.overlaps d = false → x.saveOk = true →
      ∃ t', exec (.districtForm m d) s = .next t' ∧ (t'.district d).state = 1 ∧ (t'.district d).err = 0 ∧ (t'.district d).launches = [] ∧
        (t'.district d).dtab = [] ∧ (t'.district d).curVf = none ∧ (t'.district d).clusters = x.clusters ∧
        t'.mr 1 = sha3 (s.mr 1 ++ sha3 (t'.district d).image) ∧ t'.mem = s.mem ∧ ∀ j, j ≠ d → t'.district j = s.district j) ∧
    (x.state ≠ 0 → (∀ e ∈ s.blocks, e.2.dist = d → e.2.seated = false) →
      exec (.districtDrain m d) s = .next (State.onDistrict { t with l2 := x.clusterList.foldl (fun l c => Tbl.del c l) s.l2 } d fun x =>
        { x with state := 0 })) ∧
    (x.state ≠ 0 → (∃ e ∈ s.blocks, e.2.dist = d ∧ e.2.seated = true) →
      exec (.districtDrain m d) s = .next (t.onDistrict d fun x => { x with state := 2 }))

/-- VF_RESET and VF_FLR: BUSY is 1, the request is kept with SCRUB, and every launch of the VF is being killed (R149). -/
def VfResets : Prop :=
  ∀ (s : State) (m d v : Nat) (scrub : Bool) (i : Instr), d < 64 → v < 64 →
    (i = .vfReset m d v scrub ∧ Holds s m ∨ i = .vfFlr (64 * d + v + 1) ∧ s.dev.bstate = 2 ∧ scrub = (s.dev.flrscrub == 1)) →
    (Tbl.getD v (s.district d).vfs {}).busy = false →
      ∃ t, exec i s = .next t ∧
        Tbl.find v (t.district d).vfs = some { Tbl.getD v (s.district d).vfs {} with busy := true, reset := some scrub } ∧
        (t.district d).launches.map Launch.lid = (s.district d).launches.map Launch.lid ∧
        (∀ l ∈ (t.district d).launches, l.vf = v →
          ((s.district d).launches.Pairwise fun x y => x.lid ≠ y.lid) → l.kill.isSome = true) ∧ t.mem = s.mem

/-! Service queues (R428, R429, R432, R440, R453) -/

/-- QUEUE_ENABLE and QUEUE_DISABLE: a queue that meets R429 starts its thread, any other gets FCODE 0x0b; a stopped one is off, but for a thread
inside an instruction, which it finishes first (R429). -/
def QueueStates : Prop :=
  ∀ (s : State) (m q : Nat), Holds s m →
    let x := s.squeue q
    let t := (masterWrote s m).onSqueue q fun x => { x with enable := true }
    (x.tstate = 0 → s.queueOk x = true → exec (.queueEnable m q) s = .next (t.startThread q)) ∧
    (x.tstate = 0 → s.queueOk x = false → exec (.queueEnable m q) s = .next (t.onSqueue q fun x => { x with fcode := 0x0b })) ∧
    (x.tstate = 0 → exec (.queueDisable m q) s = .next ((masterWrote s m).onSqueue q fun x => { x with enable := false })) ∧
    (x.tstate = 1 → x.thread.busy = true → exec (.queueDisable m q) s = .next ((masterWrote s m).onSqueue q fun x =>
      { x with enable := false, stopping := some 0 })) ∧
    (x.tstate ≠ 0 → ¬ (x.tstate = 1 ∧ x.thread.busy = true) → ∃ t, exec (.queueDisable m q) s = .next t ∧ (t.squeue q).tstate = 0 ∧ (t.squeue q).enable = false ∧
      (t.squeue q).outstanding = [] ∧ t.mem = s.mem ∧ ∀ p ∈ t.parts, p.src ≠ .thread q)

/-- The registers of a thread's start (R429): the pc at ENTRY, RING in w16:w17, its size in w18, the queue in w19, SCRATCH in w20:w21, zeros
elsewhere. -/
def ThreadStarts : Prop :=
  ∀ (s : State) (q : Nat), let x := s.squeue q
    let y := (s.startThread q).squeue q
    y.tstate = 1 ∧ y.thread.pc = x.entry ∧ y.thread.hdr = x.entry ∧ y.thread.idx = 0 ∧ y.thread.b = 0 ∧ y.thread.calls = [] ∧
      y.thread.w.length = 32 ∧ (x.ring < 2 ^ 64 → ((y.thread.w.getD 16 0).toNat + 2 ^ 32 * (y.thread.w.getD 17 0).toNat) = x.ring) ∧
      y.thread.w[18]? = some (BitVec.ofNat 32 x.records) ∧ y.thread.w[19]? = some (BitVec.ofNat 32 q) ∧
      (x.scratch < 2 ^ 64 → ((y.thread.w.getD 20 0).toNat + 2 ^ 32 * (y.thread.w.getD 21 0).toNat) = x.scratch) ∧
      ∀ k, k < 32 → (k < 16 ∨ 21 < k) → y.thread.w[k]? = some 0

/-- NOTIFY and NOTIFY_PAGE_WRITE (R432, R453): a host-fed queue takes the new PRODUCED, and each record of it is outstanding with its owner. -/
def Notifies : Prop :=
  ∀ (s : State) (i : Instr) (q v : Nat),
    (i = .notify q v ∨ ∃ f tc, i = .notifyPageWrite f q v tc none ∧ s.functionOn f = true ∧ s.dev.idereq = 0 ∧ q < 64 ∧
      (s.squeue q).owner = (if f = 0 then 0xfff else f - 1) ∧ s.portWaits (f + 1) tc true = false) →
    let x := s.squeue q
    let n := (v % 2 ^ 32 + 2 ^ 32 - x.produced) % 2 ^ 32
    x.kind = 1 → n ≤ x.records → (0xffe ≤ x.owner ∨ (Tbl.getD (x.owner % 64) (s.district (x.owner / 64)).vfs {}).busy = false) →
      ∃ t, exec i s = .next t ∧ (t.squeue q).produced = v % 2 ^ 32 ∧ (t.squeue q).notify = v % 2 ^ 32 ∧
        (t.squeue q).outstanding = x.outstanding ++ (List.range n).map (fun k => ((x.produced + k) % 2 ^ 32, 0, x.owner, 0)) ∧
        (x.tstate = 3 → x.notify ≠ v % 2 ^ 32 → (t.squeue q).tstate = 1) ∧ t.mem = s.mem

/-- CONSUMED_RECHECK: the answered read of CONSUMED is dropped, so that it is read again (R488). -/
def Rechecks : Prop :=
  ∀ (s : State) (q : Nat), ∃ t, exec (.consumedRecheck q) s = .next t ∧ t = { s with parts := t.parts } ∧
    ∀ p, p ∈ t.parts ↔ p ∈ s.parts ∧ ¬ (p.src = .ring q ∧ p.kind = .load ∧ ∃ d w r b, p.st = .replied (.accept d w r b))

/-! Keys, boot, measurement, power (R464 to R470, R474) -/

/-- The state after a key command that no access holds: SLOT, the slot, KSTAT 2, and no KDATA. -/
def keyed (s : State) (k : Nat) (slots : Tbl KeySlot) : State :=
  { s with fresh := s.fresh + 1, dev := { s.dev with kslot := k, slots := slots, kstat := 2, reason := 0, kdata := [], keyCmd := none } }

/-- KEY_GEN, KEY_LOAD and KEY_CLEAR (R464, R465): a generated key comes from the generator, a loaded one from KDATA, whose two halves must
differ. -/
def Keys : Prop :=
  ∀ (s : State) (m k : Nat), Holds s m → k < 4096 → s.dev.kstat ≠ 1 →
    let t := masterWrote s m
    let data := s.dev.kdata ++ List.replicate (64 - s.dev.kdata.length) 0
    (s.slotInUse k = false →
      exec (.keyGen m k) s = .next (keyed t k (Tbl.put k { loaded := true, key := leBytes 64 (Config.drbg s.fresh) } s.dev.slots)) ∧
      (data.take 32 ≠ (data.drop 32).take 32 → exec (.keyLoad m k) s = .next (keyed t k (Tbl.put k { loaded := true, key := data } s.dev.slots))) ∧
      exec (.keyClear m k) s = .next (keyed t k (Tbl.del k s.dev.slots))) ∧
    (data.take 32 = (data.drop 32).take 32 →
      exec (.keyLoad m k) s = .next { t with dev := { t.dev with kslot := k, kstat := 3, reason := 1, kdata := [] } })

/-- COMMIT_SVN, EXTEND_MR and BOOT_FROM_RECOVERY (R466 to R469): an image that passes is measured and starts, with the stages of Table 12 that
follow still to come; one that fails ends the boot. -/
def Boot : Prop :=
  ∀ (s : State) (m : Nat), Holds s m →
    let t := masterWrote s m
    (s.svnMin < s.dev.svn → exec (.commitSvn m) s = .next { t with dev := { t.dev with svnmin := s.dev.svn } }) ∧
    (s.dev.svn ≤ s.svnMin → exec (.commitSvn m) s = .next t) ∧
    (∀ k, 0 < k → k < 8 → exec (.extendMr m k) s = .next { t with dev := { t.dev with
      mri := k, mrs := Tbl.put k (sha3 (s.mr k ++ (s.dev.mdata ++ List.replicate (64 - s.dev.mdata.length) 0))) s.dev.mrs } }) ∧
    (s.dev.bstate = 3 → s.dev.boot = 0 → s.imageError s.dev.recovery = 0 → ∃ t', exec (.bootFromRecovery m) s = .next t' ∧
      t'.dev.boot = 4 ∧ t'.dev.bstate = 3 ∧ t'.dev.berr = s.dev.berr ∧ t'.dev.running = some s.dev.recovery ∧ t'.dev.svn = ofLe (cellsRead s.dev.recovery 4 4) ∧ t'.mr 0 = sha3 (s.mr 0 ++ sha3 (cellsRead s.dev.recovery 0 0x2000))) ∧
    (s.dev.bstate = 3 → s.dev.boot = 0 → s.imageError s.dev.recovery ≠ 0 → exec (.bootFromRecovery m) s =
      .next { t with dev := { t.dev with bstate := 4, berr := s.imageError s.dev.recovery } })

/-- The report of a function of a device that is up holds the nonce, the measurement registers and the ML-DSA signature of what comes before
it (R470). -/
def Reports : Prop :=
  ∀ (s : State) (f : Nat) (nonce : List W8), nonce.length = 64 → s.dev.devnum < 4096 → (∀ k, k < 8 → (s.mr k).length = 64) → s.dev.bstate = 2 →
    ∃ r, exec (.attestationRequest f nonce) s = .next { s with out := s.out ++ [.report (r ++ Config.mlDsaSign r)] } ∧
      r.take 64 = nonce ∧ fieldLe r 0x48 8 = s.dev.devnum * 2 ^ 32 + f % 2 ^ 13 ∧ ∀ k, k < 8 → (r.drop (0x60 + 64 * k)).take 64 = s.mr k

/-- POWER_CLOCK_STEP (R474): the clock falls by 25 MHz above the cap, rises by 25 below 95 percent of it, between 650 and 1300 MHz. -/
def Power : Prop :=
  ∀ (s : State) (w : Nat), w < 4096 → ∃ t, exec (.powerClockStep w) s = .next t ∧ t = { s with dev := { s.dev with pwrnow := w, clkmhz := t.dev.clkmhz } } ∧
    (s.dev.pwrcap < w → t.dev.clkmhz = max 650 (s.dev.clkmhz - 25)) ∧
    (w ≤ s.dev.pwrcap → 100 * w < 95 * s.dev.pwrcap → t.dev.clkmhz = min 1300 (s.dev.clkmhz + 25)) ∧
    (w ≤ s.dev.pwrcap → 95 * s.dev.pwrcap ≤ 100 * w → t.dev.clkmhz = s.dev.clkmhz)

/-! The control plane (R447 to R449, R485) -/

/-- CONTROL_PLANE_WRITE of a whole word that either master makes while it holds the semaphore, with nothing before it at its port: a district's policy, lease and save area, a home's
enable, BREAKMS, PWRCAP and a monitor's configuration, each with the range that its table gives; DCFG_WRITE as its own event. -/
def ControlPlane : Prop :=
  ∀ (s : State) (m v tc d h k : Nat) (ide : Option Nat), Holds s m → Served s m tc ide → v < 2 ^ 64 → d < 64 → h < 28 → k < 8 →
    let t := masterWrote s m
    let w (off : Nat) : Host.Outcome State Fault Refusal := exec (.controlPlaneWrite m off 8 v tc ide) s
    w (0x100000 + 1024 * d + 0x18) = .next (t.onDistrict d fun x => { x with policy := BitVec.ofNat 3 v }) ∧
    (1 ≤ v % 2 ^ 11 → v % 2 ^ 11 ≤ 1024 → w (0x100000 + 1024 * d + 0x20) = .next (t.onDistrict d fun x => { x with lease := v % 2 ^ 11 })) ∧
    ((s.district d).state = 0 → (s.district d).saveva < 2 ^ 64 → (s.district d).savelen < 2 ^ 64 → w (0x100000 + 1024 * d + 0x28) = .next (t.onDistrict d fun x => { x with saveva := v }) ∧
      w (0x100000 + 1024 * d + 0x30) = .next (t.onDistrict d fun x => { x with savelen := v }) ∧
      w (0x100000 + 1024 * d) = .next (t.onDistrict d fun x => { x with clusters := BitVec.ofNat 64 v })) ∧
    ((s.district d).state ≠ 0 → w (0x100000 + 1024 * d) = .next t) ∧
    (w (0x200000 + 256 * h + 0x18) = .next (t.onHome h fun x => { x with enable := v % 2 == 1 })) ∧
    ((s.home h).enable = false → w (0x200000 + 256 * h) = .next (t.onHome h fun x =>
      { x with kdir := v % 2 ^ 26 + v / 2 ^ 29 % 2 ^ 5 * 2 ^ 29 })) ∧
    (10 ≤ v % 2 ^ 32 → v % 2 ^ 32 ≤ 60000 → w 0x18 = .next { t with dev := { t.dev with breakms := v % 2 ^ 32 } }) ∧
    (800 ≤ v % 2 ^ 12 → v % 2 ^ 12 ≤ 2600 → w 0x30 = .next { t with dev := { t.dev with pwrcap := v % 2 ^ 12 } }) ∧
    exec (.dcfgWrite m d k v) s = .next ((t.addEvents d).onDistrict d fun x =>
      { x with mon := Tbl.put k { cfg := BitVec.ofNat 32 (v % 2 ^ 23) } x.mon })

/-- Reads of the control plane (R10, R447): a field as it stands, by whole words and by bytes; 0 of KDATA, of MDATA and of what the map does not
list. -/
def ControlReads : Prop :=
  ∀ (s : State) (d h off : Nat), d < 64 → h < 28 →
    s.readControl (0x100000 + 1024 * d + 0x18) 8 = (s.district d).policy.toNat ∧
    ((s.district d).lease < 2 ^ 64 → s.readControl (0x100000 + 1024 * d + 0x20) 8 = (s.district d).lease) ∧
    s.readControl (0x200000 + 256 * h + 0x18) 1 = (s.home h).enable.toNat ∧
    (s.dev.owner < 4 → s.dev.breaks < 16 → s.readControl 0x10 1 = s.dev.breaks * 16 + s.dev.owner) ∧
    (s.dev.devnum < 2 ^ 12 → s.readControl 0x08 2 = s.dev.devnum) ∧
    (0x500010 ≤ off → off < 0x500050 → s.readControl off 1 = 0) ∧
    (0x580040 ≤ off → off < 0x580080 → s.readControl off 1 = 0) ∧
    (0x1402000 ≤ off → s.readControl off 8 = 0)

/-- A control-plane write that is not served is dropped and counted; one that has to wait stands at its master's port, and a read of that master
waits behind it (R448, R461, R472). -/
def ControlWaits : Prop :=
  ∀ (s : State) (off v tc n : Nat) (ide : Option Nat), off < 2 ^ 25 → off % 8 = 0 →
    (s.dev.bstate ≠ 2 → s.dev.bstate ≠ 3 → exec (.controlPlaneWrite 1 off 8 v tc ide) s =
      .next { s with dev := { s.dev with hostDrops := s.dev.hostDrops + 1 } }) ∧
    (s.dev.hanosUp = true → s.dev.bstate = 2 → s.streamHolds (tc % 64) s.nextId = true →
      ∃ t, exec (.controlPlaneWrite 2 off 8 v tc ide) s = .next t ∧ t = { s with dev := { s.dev with portQ := t.dev.portQ } } ∧
        (∃ w, t.dev.portQ = s.dev.portQ ++ [w] ∧ w.off = off ∧ w.value = v ∧ w.bound = s.nextId) ∧ t.masterRead 2 off 8 n ide = .wait) ∧
    (∀ m, Served s m tc ide → (∀ w ∈ s.dev.portQ, w.page ≠ 0) → s.masterRead m off 8 tc ide = .value (s.readControl off 8))

/-! The host ports (R452 to R463) -/

/-- A request that a BAR2 aperture lets through, in one line at a home of this device (R453 to R455). -/
def throughBar (s : State) (f off len right : Nat) (d va home : Nat) : Prop :=
  s.functionOn f = true ∧ s.dev.idereq = 0 ∧ s.aperture f off right = some (va, d) ∧ va % 64 + len ≤ 64 ∧ 0 < len ∧
    s.route d va = some (s.dev.devnum, home)

/-- What a host's request sends to a home; a read or an atomic of PCIe carries a clock above the times that the writes of its class have
taken (R459, R460). -/
def hostPartOf (s : State) (src : PartSrc) (kind : PartKind) (d domain writer va len home : Nat) (data : List W8) : Part :=
  { src := src, kind := kind, va := va, len := len, data := data, vf := 0xfff, dist := d, domain := domain, writer := writer,
    clk := match src with
      | .pcie _ tc _ => if kind = .store then s.portClock src else max (s.portClock src) (Tbl.getD tc s.dev.tcAbove 0)
      | _ => s.portClock src
    dev := s.dev.devnum, home := home }

/-- HOST_MEMORY_READ, HOST_MEMORY_WRITE and HOST_ATOMICOP; a refused read is answered with an error, and a refused write is dropped and
counted (R453 to R455, R459). -/
def PcieRequests : Prop :=
  ∀ (s : State) (f off tc tag d va home : Nat) (bytes : List W8), tc < 8 → tag < 2 ^ 14 →
    (∀ len, throughBar s f off len 1 d va home →
      exec (.hostMemoryRead f off len tc tag none) s = .next (s.send (hostPartOf s (.pcie f tc tag) .load d 0 6 va len home []))) ∧
    (throughBar s f off bytes.length 2 d va home →
      exec (.hostMemoryWrite f off tc none bytes) s = .next (s.send (hostPartOf s (.pcie f tc 0) .store d 0 6 va bytes.length home bytes))) ∧
    (∀ op size x c, throughBar s f off size 3 d va home → va % size = 0 → (size = 4 ∨ size = 8) → op < 3 →
      exec (.hostAtomicop f off tc op size x c tag none) s = .next (s.send { hostPartOf s (.pcie f tc tag) .atom d 0 6 va size home (leBytes size x) with
        cmp := leBytes size c, aop := [0, 6, 7].getD op 0, ty := if size = 4 then 0 else 2 })) ∧
    (∀ len, len ≤ 4096 → s.functionOn f = false → exec (.hostMemoryRead f off len tc tag none) s = .next { s with out := s.out ++ [.hostReadReply tag [] 1] }) ∧
    (s.functionOn f = false ∨ 512 < bytes.length → exec (.hostMemoryWrite f off tc none bytes) s =
      .next { s with dev := { s.dev with hostDrops := s.dev.hostDrops + 1 } })

/-- HANOS_HOST_READ, HANOS_HOST_WRITE and HANOS_HOST_ATOMIC under the rights of HDOMAIN (R457). -/
def HanosRequests : Prop :=
  ∀ (s : State) (stream va tag home : Nat) (bytes : List W8), s.dev.bstate = 2 →
    let d := s.dev.hdistrict
    let dom := s.dev.hdomain
    let may (need : Nat) : Bool := hasRights (rightsIn (s.keyEntries d dom) (keyOf va)) need
    s.route d va = some (s.dev.devnum, home) →
    (∀ len, 0 < len → va % 64 + len ≤ 64 →
      (may rightRD = true → exec (.hanosHostRead stream va len tag) s =
        .next (s.send (hostPartOf s (.hanos (stream % 64) tag) .load d dom 7 va len home []))) ∧
      (may rightRD = false → exec (.hanosHostRead stream va len tag) s = .next { s with out := s.out ++ [.hanosReply stream tag [] 6] })) ∧
    (bytes ≠ [] → va % 64 + bytes.length ≤ 64 → may rightW = true → exec (.hanosHostWrite stream va bytes) s =
      .next (s.send (hostPartOf s (.hanos (stream % 64) 0) .store d dom 7 va bytes.length home bytes))) ∧
    (∀ aop ty x c, va % atomSize ty = 0 → aop ≤ 9 → ty ≤ 6 → may (rightRD + rightA) = true → exec (.hanosHostAtomic stream va aop ty x c tag) s =
      .next (s.send { hostPartOf s (.hanos (stream % 64) tag) .atom d dom 7 va (atomSize ty) home (leBytes (atomSize ty) x) with
        cmp := leBytes (atomSize ty) c, aop := aop, ty := ty }))

/-- HOST_FRAME_COMPLETION of a read (R458): the bytes come at their place in the line, with the line's times of R377; a fatal completion, and
PCIE_LINK_DOWN or HANOS_LINK_DOWN for every part that waits at the port, draws a fatal reply. -/
def HostFrames : Prop :=
  ∀ (s : State) (id : Nat) (p : Part) (e addr x : Nat) (bytes : List W8), s.part id = some p → p.st = .atHost → p.port ≠ 0 →
    (p.kind = .load → p.frame = some (e, addr, x) → bytes.length = p.len → p.va % 64 + p.len ≤ 64 →
      let w := (timesOf s p.home (lineOf p.va)).1
      let r := max (timesOf s p.home (lineOf p.va)).2 (wide64 (max (p.placed e).clk w + p.lam - 1))
      exec (.hostFrameCompletion id true bytes) s = .next ((stamped s p.home (lineOf p.va) w r).later id (.replied (.accept
        (List.replicate (p.va % 64) 0 ++ bytes ++ List.replicate (64 - p.va % 64 - p.len) 0) w r 0)))) ∧
    exec (.hostFrameCompletion id false bytes) s = .next (s.later id (.replied (.fatal 7)))

/-- The links to the hosts, IDE keys and notices (R456, R457). -/
def HostLinks : Prop :=
  ∀ s : State,
    (∃ t, exec .pcieLinkDown s = .next t ∧ t.dev = { s.dev with pcieUp := false } ∧ t.mem = s.mem ∧
      ∀ id p, s.part id = some p → p.st = .atHost → p.port = 15 → (t.part id).map Part.st = some (.replied (.fatal 7))) ∧
    exec .pcieLinkUp s = .next { s with dev := { s.dev with pcieUp := true } } ∧
    (∃ t, exec .hanosLinkDown s = .next t ∧ t.dev = { s.dev with hanosUp := false } ∧ t.mem = s.mem ∧
      ∀ id p, s.part id = some p → p.st = .atHost → p.port = 14 → (t.part id).map Part.st = some (.replied (.fatal 7))) ∧
    exec .hanosNoticeDelivery s = .next { s with
      dev := { s.dev with hanosUp := true, notices := [] }, out := s.out ++ s.dev.notices.map Output.notice } ∧
    (∀ st key fs, 1 ≤ st → st ≤ 8 → key < 2 ^ 256 → s.dev.bstate = 2 → exec (.ideKeyProgram st key fs) s =
      .next { s with dev := { s.dev with ideKeys := Tbl.put st (key, fs) s.dev.ideKeys } }) ∧
    ∀ st key fs, 2 ^ 256 ≤ key → exec (.ideKeyProgram st key fs) s = .next s

/-! Resets and soft errors (R190, R218, R303, R383, R471 to R473, R485) -/

/-- COLD_RESET and the stages of Table 12 that follow it: the machine of State.reset but for the flash, the fuse counter and what memory holds;
the first bank that passes is measured, memory is zeroed, the links come up and BSTATE is 2; a bank that fails leaves its code in BERR, and with
none the device waits in BSTATE 3 (R466 to R468, R471, R473). -/
def ColdResets : Prop :=
  ∀ (s : State) (a b : Cells) (r : List Cells), s.dev.flash = a :: b :: r →
    exec .coldReset s = .next { dev := { flash := s.dev.flash, svnmin := s.dev.svnmin, bstate := 0, boot := 1, pcieUp := false, hanosUp := false }
                                mem := s.mem, bad := s.bad, fresh := s.fresh } ∧
    (s.dev.boot = 1 → s.pumpBoot = { s with dev := { s.dev with boot := 2 } }) ∧
    (∀ img, (s.dev.boot = 2 ∧ img = a ∨ s.dev.boot = 3 ∧ img = b) → s.imageError img = 0 →
      s.pumpBoot = { s with dev := { s.dev with
        mrs := Tbl.put 0 (sha3 (s.mr 0 ++ sha3 (cellsRead img 0 0x2000))) s.dev.mrs, svn := ofLe (cellsRead img 4 4), running := some img, boot := 4 } }) ∧
    (s.dev.boot = 2 → s.imageError a ≠ 0 → s.pumpBoot = { s with dev := { s.dev with berr := s.imageError a, boot := 3 } }) ∧
    (s.dev.boot = 3 → s.imageError b ≠ 0 → s.pumpBoot = { s with dev := { s.dev with
      berr := s.imageError b, boot := 0, bstate := 3, pcieUp := true } }) ∧
    (s.dev.boot = 4 → s.pumpBoot = { s with mem := [], bad := [], dev := { s.dev with boot := 5 } }) ∧
    (s.dev.boot = 5 → s.pumpBoot = { s with dev := { s.dev with pcieUp := true, hanosUp := true, boot := 6 } }) ∧
    (s.dev.boot = 6 → s.pumpBoot = { s with dev := { s.dev with bstate := 2, owner := 0, boot := 0 } }) ∧
    (s.dev.boot = 0 → s.pumpBoot = s)

/-- WARM_RESET (R472): it starts with BSTATE 1 and kills every launch; once all is quiet, BSTATE is 2 where the running image's body still has its
digest, else 4, device memory stands, every home's FLOOR lies above its
timestamps, and links, districts, blocks, cores and key slots are at their reset values. -/
def WarmResets : Prop :=
  ∀ s : State,
    (s.dev.bstate = 2 → ∃ t, exec .warmReset s = .next t ∧ t.dev.bstate = 1 ∧ t.mem = s.mem ∧
      ∀ d, (s.district d).state ≠ 0 → (Tbl.find d s.districts).isSome = true → (t.district d).state = 2) ∧
    (s.dev.bstate = 1 → s.quiet = true → ∃ t, exec .warmReset s = .next t ∧
      t.dev.bstate = (match s.dev.running with
        | some img => if sha3 (cellsRead img 0x2000 (ofLe (cellsRead img 8 8))) = cellsRead img 0x20 64 then 2 else 4
        | none => 2) ∧ t.dev.devnum = s.dev.devnum ∧ t.dev.breakms = s.dev.breakms ∧ t.dev.pwrcap = s.dev.pwrcap ∧
      t.dev.hbasep = s.dev.hbasep ∧ t.dev.hbaseh = s.dev.hbaseh ∧ t.dev.svn = 0 ∧ t.dev.clkmhz = 1300 ∧ t.dev.owner = 0 ∧ t.mem = s.mem ∧ t.districts = [] ∧ t.blocks = [] ∧
      t.cores = [] ∧ t.links = [] ∧ t.squeues = [] ∧ t.dev.slots = [] ∧ t.keyLists = [] ∧ t.mr 0 = s.mr 0 ∧
      ∀ h m, Tbl.find h s.homes = some m → (t.home h).enable = false ∧ m.floor < (t.home h).floor ∧
        (∀ l x, (l, x) ∈ m.lines → x.rts < (t.home h).floor) ∧ ∀ l x, (l, x) ∈ m.deleg → x.ceiling < (t.home h).floor)

/-- SOFT_ERROR: a corrected one of memory or of an accumulator is only counted; an uncorrectable one stays at its word until something reads it;
a register and an L1 line keep either until the next read. -/
def SoftErrors : Prop :=
  ∀ (s : State) (a u g core m row slot off line r d : Nat) (mask : Option Nat) (b : Block),
    (s.memDistrict a = some d → exec (.softError (.memory true a)) s = .next (s.countErr d 1 1)) ∧
    (a / 8 ∉ s.bad → exec (.softError (.memory false a)) s = .next { s with bad := s.bad ++ [a / 8] }) ∧
    (Tbl.find u s.blocks = some b → exec (.softError (.accum true u off)) s = .next (s.countErr b.dist 1 1)) ∧
    exec (.softError (.accum false u off)) s = .next (s.onBlock u fun b => { b with softAcc := b.softAcc ++ [off] }) ∧
    exec (.softError (.register true u g r mask)) s = .next (s.onGrp u g fun x => { x with softOk := x.softOk ++ [r] }) ∧
    exec (.softError (.register false u g r none)) s = .next (s.onGrp u g fun x => { x with soft := x.soft ++ [(r, x.all, false)] }) ∧
    exec (.softError (.macroRow false core m row slot)) s =
      .next (s.onCore core fun c => { c with soft := c.soft ++ [(m, row, slot / 8 * 8)] }) ∧
    ∀ ok, exec (.softError (.l1Line ok core line)) s = .next (s.onCore core fun c => { c with
      l1 := updWhere (fun x => x.line == line) (fun x => { x with err := max x.err (if ok then 1 else 2) }) c.l1 })

/-! The semaphore and HALT, each rule whole -/

/-- The other cases of the table of R450: writes that meet no condition are ignored, and a control-plane write to OWNER that is served is the
acquisition, the release or the break that its value says; after a reset the agent counts as the one that held the semaphore last. -/
def SemaphoreOthers : Prop :=
  (∀ (s : State) (m : Nat), m = 1 ∨ m = 2 → s.ownerEvent (3 - m) = none →
    (s.dev.owner ≠ m → exec (.semaphoreRelease m) s = .next (masterWrote s m)) ∧
    (s.dev.owner ≠ 3 - m → exec (.semaphoreBreak m) s = .next (masterWrote s m)) ∧
    (s.time < Tbl.getD (3 - m) s.dev.lastWrite 0 + 1000 * s.dev.breakms * usUnits → exec (.semaphoreBreak m) s = .next (masterWrote s m))) ∧
  (∀ (s t : State) (m : Nat) (i : Instr), i = .semaphoreAcquire m ∨ i = .semaphoreRelease m ∨ i = .semaphoreBreak m → m = 1 ∨ m = 2 →
    s.dev.owner < 3 → exec i s = .next t → t.dev.owner < 3) ∧
  (∀ (s : State) (m v tc : Nat) (ide : Option Nat), Served s m tc ide →
    let w := exec (.controlPlaneWrite m 0x10 8 v tc ide) s
    (v % 4 = m → w = exec (.semaphoreAcquire m) s) ∧ (v % 4 = 0 → w = exec (.semaphoreRelease m) s) ∧
      (v % 4 = 3 → w = exec (.semaphoreBreak m) s) ∧ (v % 4 = 3 - m → s.ownerEvent (3 - m) = none → w = .next (masterWrote s m))) ∧
  State.reset.dev.owner = 0 ∧ State.reset.dev.lastHolder = 2

/-- HALT (R441): its word, what it does to its thread, and when an idle thread starts again. -/
def Halts : Prop :=
  (∀ (w : W32) (bp : Pr), decode 7 [w] = .ok (.halt bp, 1) ↔ w = BitVec.ofNat 32 (0x0d000000 + 8 * bp.val)) ∧
  (∀ (s : State) (q : Nat) (bp : Pr), s.focus.kind = .thread q → s.runs (.halt bp) = true →
    ∃ t, exec (.halt bp) s = .next t ∧ (t.squeue q).tstate = 3 ∧ (t.squeue q).outstanding = (s.squeue q).outstanding) ∧
  (∀ (s : State) (q v : Nat), (s.squeue q).tstate = 3 →
    ((s.squeue q).notify ≠ v → ((s.setNotify q v).squeue q).tstate = 1 ∧ ((s.setNotify q v).squeue q).thread.pc = (s.squeue q).entry ∧
      ((s.setNotify q v).squeue q).thread.w = (s.squeue q).startRegs q) ∧
    ((s.squeue q).notify = v → ((s.setNotify q v).squeue q).tstate = 3))

/-! Encodings (R50 to R79) -/

/-- Words that the spec writes out beside the instruction each stands for (Table 23 of 02_encoding.md, R130, R167, R179,
R182, R200, R231, R247, R273, R335, and the tables of 09_matrix.md, 10_block.md and 12_home.md). -/
def Words : Prop :=
  decode 0 [0x0102081b#32] = .ok (.iadd (.v 1) (.v 2) (.v 3) 3, 1) ∧
  decode 0 [0x33081430#32, 0x0e400000#32] =
    .ok (.ffma (.v 4) (.v 5) (.v 6) (.v 7) 0 { rm := 1, sat := false, na := false, nb := false, nc := false, opx := 0, imm := 0 }, 2) ∧
  decode 0 [0x011207c0#32, 0x000003e8#32] = .ok (.iadd (.v 9) (.v 1) (.lit 1000) 0, 2) ∧
  decode 0 [0x21080c21#32] = .ok (.sel (.v 4) (.v 3) (.v 4) 1, 1) ∧
  decode 1 [0x0123fff7#32] = .ok (.bra 1 0 0x3fff7, 1) ∧
  decode 1 [0x024ffffc#32] = .ok (.brc 2 3 0x3fffc, 1) ∧
  decode 1 [0x08000008#32] = .ok (.exit 1, 1) ∧
  decode 1 [0x0b005000#32] = .ok (.trap 5 0, 1) ∧
  decode 1 [0x220c4140#32] = .ok (.wadd (.w 3) (.w 4) (.w 5) 0, 1) ∧
  decode 1 [0x30193000#32] = .ok (.wrs (.w 6) 0x13 0, 1) ∧
  decode 2 [0x02111380#32, 0x00000010#32] = .ok (.ld 2 (.v 8) (.w 4) .zero 0 false 0 16, 2) ∧
  decode 2 [0x0b0c281a#32, 0x00000001#32] = .ok (.st 3 (.v 6) (.v 10) (.v 3) 2 0 1, 2) ∧
  decode 2 [0x28051808#32, 0x0a000000#32] = .ok (.atom (.v 2) (.w 6) (.v 1) (.v 5) 0 0 0 0 0, 2) ∧
  decode 2 [0x3a000000#32, 0x00000000#32] = .ok (.sleep 0, 2) ∧
  decode 3 [0x01060650#32] = .ok (.ballot (.v 3) (.v 1) (.w 10) 0, 1) ∧
  decode 4 [0x01098c00#32] = .ok (.qpeek (.v 4) (.q 3) 0, 1) ∧
  decode 4 [0x0c012249#32] = .ok (.bwait (.w 8) (.w 9) 1, 1) ∧
  decode 5 [0x0400c380#32, 0x24001004#32] = .ok (.mma (.w 12) (.w 14) (.w 9) 0x010 4 0, 2) ∧
  decode 6 [0x0008acc0#32, 0xc3040012#32, 0x00000040#32] = .ok (.cpy (.w 2) (.w 10) (.lit 64) .zero .zero 2 0x12 0, 3) ∧
  decode 6 [0x0c000000#32, 0x00000081#32] = .ok (.qfence 0x81 0, 2) ∧
  decode 7 [0x0b0c4180#32] = .ok (.ctxs (.w 3) (.w 4) (.w 6) 0, 1) ∧
  decode 7 [0x07044000#32] = .ok (.watch (.w 1) (.w 4) 0, 1)

/-- Every well-formed instruction reads back from its words, with nothing left over; one that is no control transfer also before other words. -/
def RoundTrip : Prop :=
  ∀ (i : Instr) (r : List W32), encoded i = true → wellFormed i = true → (isTransfer i = true → r = []) →
    decode (classOf i) (encode i ++ r) = .ok (i, (encode i).length)

/-- No two words of a class decode to one instruction: what is decoded encodes to the words that were taken. -/
def WordsAreUnique : Prop :=
  ∀ (c n : Nat) (ws : List W32) (i : Instr), decode c ws = .ok (i, n) → encode i = ws.take n ∧ classOf i = c ∧ 0 < n ∧ n ≤ ws.length

/-- Clause headers (Table 1 of R50, R51): a header whose fields fit reads back from its word; a word that is one is its header's; and a word is
none where N is 0, [31:30] is not, or D stands in a class other than 0, 2 and 3. -/
def Headers : Prop :=
  (∀ h : Header, h.cue < 256 → h.wt < 8 → h.wc < 8 → h.ws < 8 → h.wl < 8 → h.cls < 8 → 0 < h.n → h.n < 16 →
    (h.dual = true → h.cls = 0 ∨ h.cls = 2 ∨ h.cls = 3) → decodeHeader (encodeHeader h) = some h) ∧
  (∀ (w : W32) (h : Header), decodeHeader w = some h → encodeHeader h = w) ∧
  (∀ w : W32, decodeHeader w = none ↔
    (w.toNat % 16 = 0 ∨ w.toNat / 2 ^ 30 ≠ 0 ∨ (w.getLsbD 21 = true ∧ w.toNat / 16 % 8 ∉ [0, 2, 3])))

/-! The step -/

/-- The words at an address of a core's instruction cache. -/
def codeIs (c : CoreSt) (va : Nat) (ws : List W32) : Prop :=
  ∀ (j : Nat) (w : W32), ws[j]? = some w → c.codeWord ((va + 4 * j) % 2 ^ 64) = some w

/-- A planned pass, begun, of a group whose strands that may run stand together inside a clause, with no result due and no mask to serve on its
lane and the lower ones of its core, and no operation yet in this cycle on a queue that it names, runs the instruction that the words at their counter decode to for the strands that the pass serves, in a state that differs in its focus,
in ages and in counted events only. -/
def StepDecoded : Prop :=
  ∀ (s : State) (u g : Nat) (r : List PlanItem) (b : Block) (x : Group) (hw : W32) (h : Header) (ws : List W32) (i : Instr) (n pc hdr idx start limit : Nat)
    (ks : List Nat),
    s.plan = .group u g start limit :: r → start ≤ s.cycle →
    (∀ e ∈ s.blocks, e.2.core = b.core → e.2.resident = true → ∀ y ∈ e.2.groups, y.lane ≤ x.lane →
      (∀ w ∈ y.pendWb, s.cycle < w.due) ∧ y.maskProg = none) → Tbl.find u s.blocks = some b → b.groups[g]? = some x → b.resident = true → b.stop = false →
    x.life = .live → x.busy = .none → x.maskProg = none → x.handler = none →
    s.eligible u g = ks → ks ≠ [] →
    (∀ k ∈ ks, (x.strand k).pc = pc ∧ (x.strand k).hdr = hdr ∧ (x.strand k).idx = idx ∧ (x.strand k).wait = .none) →
    0 < idx → pc < 2 ^ 64 → (s.core b.core).codeWord hdr = some hw → decodeHeader hw = some h → h.dual = false → ws.length = h.n + 1 - idx →
    codeIs (s.core b.core) pc ws → decode h.cls ws = .ok (i, n) →
    (∀ q ∈ queuesAt i, s.hasServed u q = false) →
    let f : Focus :=
      { kind := .path u g ks, pc := pc, hdr := hdr, idx := idx, n := h.n, len := n, yieldAfter := h.yieldAfter, second := s.focus.second
        kept := s.focus.kept }
    let lay := x.layout b.uniQ limit i ks none
    ready i { s with plan := r, focus := f } = true → lay.low ≠ [] →
      ∃ t, step s = unfocus (exec i t) ∧ t.focus = { f with
          kind := .path u g lay.low, wb := fromCycle s.cycle lay.lowWb, before := (s.district b.dist).events.length } ∧ t.plan = r ∧ t.agenda = s.agenda ∧
        t.mem = s.mem ∧ t.cores = s.cores ∧ t.parts = s.parts ∧ t.homes = s.homes ∧ t.dev = s.dev ∧
        (∀ v, v ≠ u → Tbl.find v t.blocks = Tbl.find v s.blocks) ∧ (t.grp u g).w = x.w ∧ (t.grp u g).vregs = x.vregs ∧ (t.grp u g).b = x.b ∧
        ∀ k, (t.grp u g).strand k = { x.strand k with age := ((t.grp u g).strand k).age }

/-- With no planned pass that begins now the next event of the agenda takes place; with no event either, one core cycle passes (R2). -/
def StepEvents : Prop :=
  (∀ (s : State) (e : Instr) (r : List Instr), (∀ p ∈ s.plan.head?, s.cycle < p.start) → s.agenda = e :: r → step s = exec e { s with agenda := r }) ∧
  (∀ s : State, (∀ p ∈ s.plan.head?, s.cycle < p.start) → s.agenda = [] →
    ∃ t, step s = .next t ∧ t.cycle = s.cycle + 1 ∧ t.time = s.time + usUnits / s.dev.clkmhz)

/-! Reset and invariants -/

/-- The machine after reset (R114, R413, R428, R449, R464, R473): every byte of memory 0, BSTATE 2, the semaphore free, and every district, link,
service queue and key slot off; BREAKMS 1000, PWRCAP 2600, CLKMHZ 1300, LEASE 32. -/
def ResetValues : Prop :=
  let s := State.reset
  (∀ a, s.byteAt a = 0) ∧ s.dev.bstate = 2 ∧ s.dev.owner = 0 ∧ s.dev.breakms = 1000 ∧ s.dev.pwrcap = 2600 ∧ s.dev.clkmhz = 1300 ∧
    (∀ d, (s.district d).state = 0 ∧ (s.district d).lease = 32) ∧ (∀ l, (s.link l).state = 0) ∧ (∀ q, (s.squeue q).tstate = 0) ∧
    (∀ k, s.slotKey k = none) ∧ s.blocks = [] ∧ s.cycle = 0

/-- Memory has its one form after reset. -/
def ResetInvariant : Prop := State.reset.Inv

/-- Every step keeps memory in its one form: addresses rise strictly, and no zero byte is listed. -/
def MemoryInvariant : Prop := ∀ s t : State, s.Inv → step s = .next t → t.Inv

/-- An instruction writes no memory by itself: what it stores goes to a home as a part, and only a home's step performs it (R191, R361). -/
def EncodedLeavesMemory : Prop :=
  ∀ (i : Instr) (s t : State), encoded i = true → exec i s = .next t → t.mem = s.mem ∧ ∀ a, t.byteAt a = s.byteAt a

/-- What a lane, exchange or uniform instruction that names no queue leaves alone, for a path of all strands of its group that run on: all of
memory, every part, home, core and other block and group; of its own group everything but the destination: a v destination waits for the
write-backs of its strands, as does a w destination of a lane or exchange instruction, a class 1 instruction changes the words of its own w
destination at once, and the path stands behind the instruction (R22, R220, R222). -/
def LaneFrame : Prop :=
  ∀ (i : Instr) (s : State) (u g : Nat) (ks : List Nat) (b : Block) (x : Group), Tbl.find u s.blocks = some b → b.groups[g]? = some x →
    s.focus.kind = .path u g ks → s.focus.yieldAfter = false → s.focus.kept = false → s.runs i = true → s.scrOps = [] → x.soft = [] → x.softOk = [] → x.handler = none → x.life = .live → x.pendTraps = [] →
    ks ≠ [] → (∀ k, k ∈ ks ↔ k ∈ x.living) → (∀ k ∈ ks, (x.strand k).st = .active ∧ (x.strand k).wait = .none) →
    (laneForm i).isSome = true ∨ (uniRule i).isSome = true → (∀ q, .q q ∉ srcs i) → (∀ q, dst i ≠ .q q) → (∀ m, dst i ≠ .mask m) →
      ∃ t, exec i s = .next t ∧ (∀ a, t.byteAt a = s.byteAt a) ∧
        t = { s with blocks := t.blocks, agenda := t.agenda } ∧ (∀ v, v ≠ u → Tbl.find v t.blocks = Tbl.find v s.blocks) ∧
        (∀ h, h ≠ g → t.grp u h = s.grp u h) ∧
        (let y := t.grp u g
         y = { x with w := y.w, strands := y.strands, pendWb := y.pendWb } ∧ (∃ more, y.pendWb = x.pendWb ++ more ∧ ∀ w ∈ more, w.push = none ∧
             (∀ e ∈ w.wWrites, ∃ m : Fin 32, dst i = .w m ∧ m.val ≤ e.1 ∧ e.1 < m.val + 4) ∧
             ∀ e ∈ w.vWrites, ∃ m : Fin 64, dst i = .v m ∧ m.val ≤ e.1 ∧ e.1 < m.val + 4) ∧
           (∀ n, (∀ m : Fin 32, dst i = .w m → n < m.val ∨ m.val + 4 ≤ n) → y.getW n = x.getW n) ∧
           (∀ k, k ∉ ks → y.strand k = x.strand k) ∧
           ∀ k ∈ ks, y.strand k = { (x.strand k).past s.focus with wait := .none, replay := none })

end Sys2Proof.Claims

/-- Integer and logic results of the lanes (R30, R217, R219, R220, R226, R227, R228, R229, R230, R231, R233, R234). Where the spec leaves it
open, it rests on the model's choice in log entry 97. -/
def Obligations.LaneIntegerResults : Prop := Sys2Proof.Claims.Follows fun _ => Sys2Proof.Claims.intRule

/-- Float results of the lanes (R92, R93, R94, R95, R102, R103, R104, R106, R237, R238, R239, R240). Where the spec leaves it open, it rests
on the model's choice in log entry 94. -/
def Obligations.LaneFloatResults : Prop := Sys2Proof.Claims.Follows Sys2Proof.Claims.fltRule

/-- Conversions, packed elements and dot products (R99, R102, R103, R105, R107, R241, R242, R243, R244). Where the spec leaves it open, it
rests on the model's choice in log entries 15, 98. -/
def Obligations.LanePackedResults : Prop := Sys2Proof.Claims.Follows Sys2Proof.Claims.packedRule

/-- Compares, predicates, select and the 128-bit move (R231, R232, R235, R236, R240). Where the spec leaves it open, it rests on the model's
choice in log entry 14. -/
def Obligations.LanePredicateResults : Prop := Sys2Proof.Claims.PredicateResults ∧ Sys2Proof.Claims.WideMove

/-- Exchange between the strands of a group (R245, R246, R247, R248, R249, R250). Where the spec leaves it open, it rests on the model's
choice in log entry 14. -/
def Obligations.ExchangeResults : Prop := Sys2Proof.Claims.ExchangeResults ∧ Sys2Proof.Claims.PollResult

/-- The frame of lane, exchange and uniform instructions (R22, R167, R178, R220, R222). Where the spec leaves it open, it rests on the
model's choice in log entry 14. -/
def Obligations.LaneFrame : Prop := Sys2Proof.Claims.LaneFrame

/-- Register values and compression (R214). -/
def Obligations.RegisterValues : Prop := Sys2Proof.Claims.RegisterWrite ∧ Sys2Proof.Claims.Compression

/-- Write-backs, uniform destinations and consumer masks (R30, R213, R220, R222). Where the spec leaves it open, it rests on the model's
choice in log entries 14, 33. -/
def Obligations.ResultDelivery : Prop :=
  Sys2Proof.Claims.WritebackLands ∧ Sys2Proof.Claims.VectorDelivery ∧ Sys2Proof.Claims.UniformDelivery ∧ Sys2Proof.Claims.MaskAccept

/-- Branches, calls and returns (R64, R167, R168, R169, R442). Where the spec leaves it open, it rests on the model's choice in log entries
21, 24. -/
def Obligations.Branches : Prop :=
  Sys2Proof.Claims.Branches ∧ Sys2Proof.Claims.HandlerBranches ∧ Sys2Proof.Claims.IndirectBranch ∧ Sys2Proof.Claims.Calls ∧
    Sys2Proof.Claims.Returns ∧ Sys2Proof.Claims.HandlerReturnCalls ∧ Sys2Proof.Claims.ThreadTransfers

/-- The other control instructions (R165, R170, R171, R172, R173, R174, R175, R176, R177, R442). Where the spec leaves it open, it rests on
the model's choice in log entries 16, 21, 36, 49, 57, 101. -/
def Obligations.ControlFlow : Prop :=
  Sys2Proof.Claims.Flow ∧ Sys2Proof.Claims.HandlerReturns ∧ Sys2Proof.Claims.HandlerFlow ∧ Sys2Proof.Claims.ThreadFlow

/-- What EXIT leaves, and when RJOIN goes on (R129, R169, R170, R171). -/
def Obligations.ExitsAndJoins : Prop := Sys2Proof.Claims.ExitedStrands ∧ Sys2Proof.Claims.JoinReleases

/-- Taking a trap (R161, R163, R164). -/
def Obligations.TrapEntry : Prop := Sys2Proof.Claims.TrapEntry ∧ Sys2Proof.Claims.TrapKills ∧ Sys2Proof.Claims.TrapChoice

/-- Checks and guards at issue (R53, R69, R158, R163, R167). Where the spec leaves it open, it rests on the model's choice in log entries
10, 11, 12, 22, 96. -/
def Obligations.ChecksAtIssue : Prop := Sys2Proof.Claims.DecodeTraps ∧ Sys2Proof.Claims.GuardsSkip ∧ Sys2Proof.Claims.HandlerFaults

/-- The end of a trap handler (R175). -/
def Obligations.HandlerEnd : Prop := Sys2Proof.Claims.HandlerEnd

/-- Uniform arithmetic and moves (R71, R72, R178, R179, R180, R181, R182). Where the spec leaves it open, it rests on the model's choice in
log entry 93. -/
def Obligations.UniformResults : Prop := Sys2Proof.Claims.UniformResults ∧ Sys2Proof.Claims.UniformOthers

/-- Special registers, XGET and XPUT (R72, R251). Where the spec leaves it open, it rests on the model's choice in log entries 21, 93. -/
def Obligations.SpecialRegisters : Prop :=
  Sys2Proof.Claims.SpecialRegisters ∧ Sys2Proof.Claims.HandlerRegisters ∧ Sys2Proof.Claims.HandlerAccessCompletes

/-- What a memory access sends and counts (R22, R62, R183, R191, R198, R199, R202, R203, R204, R205). Where the spec leaves it open, it
rests on the model's choice in log entries 2, 20, 97. -/
def Obligations.AccessIssue : Prop := Sys2Proof.Claims.AccessIssue ∧ Sys2Proof.Claims.UniformAccess ∧ Sys2Proof.Claims.IssueOpens

/-- The checks of an access (R183, R184, R369). Where the spec leaves it open, it rests on the model's choice in log entry 11. -/
def Obligations.AccessChecks : Prop := Sys2Proof.Claims.AccessFaults ∧ Sys2Proof.Claims.CheckOrder

/-- Scratchpad accesses (R194, R198, R202). Where the spec leaves it open, it rests on the model's choice in log entries 32, 33. -/
def Obligations.Scratchpad : Prop :=
  Sys2Proof.Claims.ScratchpadAccess ∧ Sys2Proof.Claims.ScratchpadMemory ∧ Sys2Proof.Claims.ScratchpadTurns

/-- Fences, hints, monitors, and accesses of a service thread (R207, R208, R209, R210, R211, R442). Where the spec leaves it open, it rests
on the model's choice in log entries 2, 31, 57. -/
def Obligations.FencesAndMonitors : Prop := Sys2Proof.Claims.Fences ∧ Sys2Proof.Claims.ThreadAccess

/-- Queues and stage rings (R254, R256, R257, R260, R263, R264, R272, R273). Where the spec leaves it open, it rests on the model's choice
in log entry 107. -/
def Obligations.QueueOperations : Prop := Sys2Proof.Claims.QueueOperations ∧ Sys2Proof.Claims.QueueTraps ∧ Sys2Proof.Claims.QueueOrder

/-- Barrier objects, remote arrivals and GSYNC (R34, R266, R267, R268, R269, R270, R271, R485). Where the spec leaves it open, it rests on
the model's choice in log entries 38, 39. -/
def Obligations.BarrierOperations : Prop :=
  Sys2Proof.Claims.BarrierOperations ∧ Sys2Proof.Claims.SyncAndRemote ∧ Sys2Proof.Claims.RemoteArrival ∧ Sys2Proof.Claims.SyncReleases

/-- Gangs, reservations, accumulators and status of the tile engine (R289, R292, R293, R305, R309, R310, R311, R312). Where the spec leaves
it open, it rests on the model's choice in log entries 62, 105, 106. -/
def Obligations.TileRegisters : Prop := Sys2Proof.Claims.TileRegisters ∧ Sys2Proof.Claims.AccumulatorImages ∧ Sys2Proof.Claims.Cancels

/-- Issue of tile operations (R291, R305, R306, R307, R308). Where the spec leaves it open, it rests on the model's choice in log entries
59, 60, 64. -/
def Obligations.TileIssue : Prop := Sys2Proof.Claims.TileIssue

/-- The running of tile operations (R290, R297, R298, R301, R334). Where the spec leaves it open, it rests on the model's choice in log
entries 57, 60, 61. -/
def Obligations.TileEvents : Prop := Sys2Proof.Claims.TileEvents

/-- Issue of block-transfer and transform entries (R22, R27, R265, R317, R318, R319, R320, R322, R323, R341, R343, R354). Where the spec
leaves it open, it rests on the model's choice in log entries 50, 51, 52. -/
def Obligations.EngineIssue : Prop :=
  Sys2Proof.Claims.ByteStreams ∧ Sys2Proof.Claims.Multicast ∧ Sys2Proof.Claims.Indexed ∧ Sys2Proof.Claims.Tensors ∧
    Sys2Proof.Claims.TileCopyAndDecode

/-- Completion rings, QFENCE and DRAIN (R330, R335, R336). Where the spec leaves it open, it rests on the model's choice in log entries 41,
57. -/
def Obligations.RingsAndFences : Prop := Sys2Proof.Claims.RingsAndFences

/-- The running of entries (R28, R318, R324, R325, R326, R328, R331, R357). Where the spec leaves it open, it rests on the model's choice in
log entries 53, 55, 56, 57. -/
def Obligations.EngineEvents : Prop := Sys2Proof.Claims.EngineEvents ∧ Sys2Proof.Claims.ChunkCopies

/-- TRIG, counters, key lists and the distribution table (R128, R129, R131, R365, R388, R482, R483). Where the spec leaves it open, it rests
on the model's choice in log entries 58, 69, 112. -/
def Obligations.SystemRegistersAndTables : Prop :=
  Sys2Proof.Claims.Triggers ∧ Sys2Proof.Claims.CounterOps ∧ Sys2Proof.Claims.TableWrites ∧ Sys2Proof.Claims.KeyEntryLands

/-- HINV, WATCH, CTXS and CTXR (R142, R143, R372, R390). Where the spec leaves it open, it rests on the model's choice in log entries 46,
66, 68, 71. -/
def Obligations.HomesAndContexts : Prop := Sys2Proof.Claims.HomeInvalidates ∧ Sys2Proof.Claims.Watches ∧ Sys2Proof.Claims.Contexts

/-- SVC and the service ports (R429, R433, R434, R436, R437, R438, R439, R441, R488). Where the spec leaves it open, it rests on the model's
choice in log entries 70, 72. -/
def Obligations.Service : Prop :=
  Sys2Proof.Claims.ServicePosts ∧ Sys2Proof.Claims.PostLands ∧ Sys2Proof.Claims.ServicePorts ∧ Sys2Proof.Claims.Submits

/-- Loads at their home and in the slice (R188, R361, R367, R377, R489). Where the spec leaves it open, it rests on the model's choice in
log entries 2, 6, 7, 30, 100, 110. -/
def Obligations.HomeReads : Prop := Sys2Proof.Claims.HomeReads ∧ Sys2Proof.Claims.SliceHits

/-- Stores and atomics at their home (R202, R361, R368, R378, R382, R385, R389, R392). Where the spec leaves it open, it rests on the
model's choice in log entries 2, 6, 7, 28, 30, 100. -/
def Obligations.HomeWrites : Prop := Sys2Proof.Claims.HomeWrites ∧ Sys2Proof.Claims.HomeAtomics

/-- Parking at a home, and the frame of a write there (R361, R368, R370, R371). Where the spec leaves it open, it rests on the model's
choice in log entries 2, 7. -/
def Obligations.HomeParksAndFrame : Prop := Sys2Proof.Claims.HomeParks ∧ Sys2Proof.Claims.HomeWriteFrame

/-- Replies to strands, and wakes (R159, R191, R193, R195, R196, R373). Where the spec leaves it open, it rests on the model's choice in log
entries 2, 26, 35. -/
def Obligations.Replies : Prop := Sys2Proof.Claims.Replies ∧ Sys2Proof.Claims.Wakes

/-- The gate of the control plane (R450, R451). Where the spec leaves it open, it rests on the model's choice in log entry 113. -/
def Obligations.GateRefuses : Prop := Sys2Proof.Claims.GateRefuses

/-- The control-plane semaphore (R448, R450, R472, R473). Where the spec leaves it open, it rests on the model's choice in log entry 85. -/
def Obligations.SemaphoreTable : Prop := Sys2Proof.Claims.Semaphore ∧ Sys2Proof.Claims.SemaphoreOthers

/-- Flits of a link (R400, R408, R410). Where the spec leaves it open, it rests on the model's choice in log entries 79, 80. -/
def Obligations.Flits : Prop := Sys2Proof.Claims.FlitSlots ∧ Sys2Proof.Claims.FlitReceives

/-- Packets and their headers (R401, R402, R416, R420, R421, R475). Where the spec leaves it open, it rests on the model's choice in log
entries 8, 82. -/
def Obligations.Packets : Prop := Sys2Proof.Claims.HeaderFields ∧ Sys2Proof.Claims.Packets ∧ Sys2Proof.Claims.Timeouts

/-- Link training, loss and stop (R409, R413, R414, R422). Where the spec leaves it open, it rests on the model's choice in log entries 79,
81. -/
def Obligations.LinkStates : Prop := Sys2Proof.Claims.LinkStates

/-- Delegation of lines to a plaza (R376, R412, R416, R417, R418, R419). Where the spec leaves it open, it rests on the model's choice in
log entries 8, 82, 100. -/
def Obligations.Delegation : Prop := Sys2Proof.Claims.Delegation ∧ Sys2Proof.Claims.WritesThrough

/-- Clocks and counters (R9, R128, R379, R459, R476, R479, R480). Where the spec leaves it open, it rests on the model's choice in log
entries 18, 58, 100. -/
def Obligations.Clocks : Prop := Sys2Proof.Claims.StrandTicks ∧ Sys2Proof.Claims.OtherTicks ∧ Sys2Proof.Claims.CounterUpdates

/-- Issue slots, the service processor and the cue (R133, R154, R165, R166, R444). Where the spec leaves it open, it rests on the model's
choice in log entry 16. -/
def Obligations.IssueEvents : Prop := Sys2Proof.Claims.IssueSlots ∧ Sys2Proof.Claims.PortCycles ∧ Sys2Proof.Claims.CueOverruns

/-- Launches and their placement (R124, R126). Where the spec leaves it open, it rests on the model's choice in log entries 17, 75. -/
def Obligations.Dispatch : Prop := Sys2Proof.Claims.LaunchBegins ∧ Sys2Proof.Claims.CoreSets

/-- Pre-emption, restore and world switch (R117, R135, R137, R147, R481). Where the spec leaves it open, it rests on the model's choice in
log entries 46, 65, 75, 99. -/
def Obligations.Preemption : Prop :=
  Sys2Proof.Claims.Preempts ∧ Sys2Proof.Claims.VictimsAreLower ∧ Sys2Proof.Claims.Restores ∧ Sys2Proof.Claims.ComesBack ∧
    Sys2Proof.Claims.Switches

/-- Districts and VF resets (R114, R149, R469, R473). Where the spec leaves it open, it rests on the model's choice in log entries 6, 74,
85, 102. -/
def Obligations.Districts : Prop := Sys2Proof.Claims.Districts ∧ Sys2Proof.Claims.VfResets

/-- Service queues (R428, R429, R432, R440, R453, R488). Where the spec leaves it open, it rests on the model's choice in log entries 67,
73, 89. -/
def Obligations.ServiceQueues : Prop :=
  Sys2Proof.Claims.QueueStates ∧ Sys2Proof.Claims.ThreadStarts ∧ Sys2Proof.Claims.Notifies ∧ Sys2Proof.Claims.Rechecks

/-- Keys, boot, measurement and power (R464, R465, R466, R467, R468, R469, R470, R474). Where the spec leaves it open, it rests on the
model's choice in log entries 6, 86, 87. -/
def Obligations.KeysAndBoot : Prop := Sys2Proof.Claims.Keys ∧ Sys2Proof.Claims.Boot ∧ Sys2Proof.Claims.Reports ∧ Sys2Proof.Claims.Power

/-- Control-plane writes and reads (R10, R447, R448, R449, R461, R472, R473, R485). Where the spec leaves it open, it rests on the model's
choice in log entry 85. -/
def Obligations.ControlPlane : Prop := Sys2Proof.Claims.ControlPlane ∧ Sys2Proof.Claims.ControlReads ∧ Sys2Proof.Claims.ControlWaits

/-- The host ports (R452, R453, R454, R455, R456, R457, R458, R459, R460). Where the spec leaves it open, it rests on the model's choice in
log entries 2, 45, 84, 100. -/
def Obligations.HostPorts : Prop :=
  Sys2Proof.Claims.PcieRequests ∧ Sys2Proof.Claims.HanosRequests ∧ Sys2Proof.Claims.HostFrames ∧ Sys2Proof.Claims.HostLinks

/-- Resets and soft errors (R190, R218, R303, R383, R466, R467, R468, R471, R472, R473). Where the spec leaves it open, it rests on the
model's choice in log entries 6, 58, 87, 88, 90. -/
def Obligations.ResetsAndErrors : Prop := Sys2Proof.Claims.ColdResets ∧ Sys2Proof.Claims.WarmResets ∧ Sys2Proof.Claims.SoftErrors

/-- HALT (R441). -/
def Obligations.Halts : Prop := Sys2Proof.Claims.Halts

/-- Words of the spec decode to their instructions (Table 23 of 02_encoding.md, R130, R167, R179, R182, R200, R231, R247, R273,
09_matrix.md:288, 10_block.md:160, 280, 12_home.md:439). -/
def Obligations.DecodeWords : Prop := Sys2Proof.Claims.Words

/-- Decode of encode is the instruction (R50, R52, R53, R54, R55, R57, R58, R60, R61, R62, R63, R64). -/
def Obligations.RoundTrip : Prop := Sys2Proof.Claims.RoundTrip

/-- Words and clause headers are unique (R50, R51, R52, R53). -/
def Obligations.WordsAndHeaders : Prop := Sys2Proof.Claims.WordsAreUnique ∧ Sys2Proof.Claims.Headers

/-- A step runs what the words at the counter decode to (R133, R150, R151, R154, R155, R258). Where the spec leaves it open, it rests on the
model's choice in log entries 1, 18, 33, 36, 114. -/
def Obligations.StepDecoded : Prop := Sys2Proof.Claims.StepDecoded ∧ Sys2Proof.Claims.StepEvents

/-- The machine after reset (R114, R413, R428, R449, R464, R473). Where the spec leaves it open, it rests on the model's choice in log
entries 4, 92. -/
def Obligations.ResetValues : Prop := Sys2Proof.Claims.ResetValues

/-- Memory has its form after reset (R361). Where the spec leaves it open, it rests on the model's choice in log entry 92. -/
def Obligations.ResetInvariant : Prop := Sys2Proof.Claims.ResetInvariant

/-- Every step keeps the form of memory (R361). Where the spec leaves it open, it rests on the model's choice in log entry 92. -/
def Obligations.MemoryInvariant : Prop := Sys2Proof.Claims.MemoryInvariant

/-- No instruction writes memory by itself (R191, R361). -/
def Obligations.EncodedLeavesMemory : Prop := Sys2Proof.Claims.EncodedLeavesMemory
end

