-- ==== Sys2Proof/Laws/Cells.lean ====
section
/-! SUPPORT. The laws of memory as a sorted list of bytes: reading after writing, and that every operation keeps the
canonical form. -/

namespace Sys2Proof.Machine

theorem cellsAbove_mono {c : Cells} {lo hi : Nat} (h : cellsAbove hi c = true) (le : lo ≤ hi) : cellsAbove lo c = true := by
  cases c with
  | nil => rfl
  | cons x r =>
    simp only [cellsAbove, Bool.and_eq_true, decide_eq_true_eq] at h ⊢
    exact ⟨⟨le.trans h.1.1, h.1.2⟩, h.2⟩

/-- Below the first entry every byte reads as the empty one. -/
theorem cellGet_below {c : Cells} {lo a : Nat} (h : cellsAbove lo c = true) (lt : a < lo) : cellGet a c = emptyByte := by
  cases c with
  | nil => rfl
  | cons x r =>
    simp only [cellsAbove, Bool.and_eq_true, decide_eq_true_eq] at h
    have h1 : x.1 ≠ a := by omega
    have h2 : a < x.1 := by omega
    simp [cellGet, h1, h2]

theorem cellPut_above {c : Cells} {lo a : Nat} (v : W8) (h : cellsAbove lo c = true) (le : lo ≤ a) :
    cellsAbove lo (cellPut a v c) = true := by
  induction c generalizing lo with
  | nil =>
    by_cases hv : v = emptyByte
    · simp [cellPut, hv, cellsAbove]
    · simp [cellPut, hv, cellsAbove, le]
  | cons x r ih =>
    obtain ⟨k, b⟩ := x
    simp only [cellsAbove, Bool.and_eq_true, decide_eq_true_eq] at h
    obtain ⟨⟨h1, h2⟩, h3⟩ := h
    by_cases hlt : a < k
    · by_cases hv : v = emptyByte
      · simp [cellPut, hv, hlt, cellsAbove, h1, h2, h3]
      · simp [cellPut, hv, hlt, cellsAbove, le, h2, h3, Nat.succ_le_of_lt hlt]
    · by_cases heq : k = a
      · subst heq
        by_cases hv : v = emptyByte
        · simpa [cellPut, hv] using cellsAbove_mono h3 (by omega)
        · simp [cellPut, hv, cellsAbove, h1, h3]
      · have hr := ih h3 (by omega)
        simp [cellPut, hlt, heq, cellsAbove, h1, h2, hr]

/-- A byte written is the byte read, and no other byte changes. -/
theorem cellGet_put {c : Cells} {lo : Nat} (h : cellsAbove lo c = true) (a x : Nat) (v : W8) :
    cellGet x (cellPut a v c) = if x = a then v else cellGet x c := by
  induction c generalizing lo with
  | nil =>
    by_cases hv : v = emptyByte <;> by_cases hx : a = x
    · simp [cellPut, cellGet, hv, hx]
    · simp [cellPut, cellGet, hv]
    · simp [cellPut, cellGet, hv, hx]
    · simp [cellPut, cellGet, hv, hx, Ne.symm hx]
  | cons y r ih =>
    obtain ⟨k, b⟩ := y
    simp only [cellsAbove, Bool.and_eq_true, decide_eq_true_eq] at h
    obtain ⟨⟨-, -⟩, h3⟩ := h
    by_cases hlt : a < k
    · by_cases hv : v = emptyByte
      · by_cases hx : x = a
        · have : k ≠ a := by omega
          simp [cellPut, hlt, hv, hx, cellGet, this]
        · simp [cellPut, hlt, hv, hx]
      · by_cases hx : x = a
        · simp [cellPut, hlt, hv, hx, cellGet]
        · have hne : a ≠ x := fun e => hx e.symm
          by_cases hxa : x < a
          · have h1 : k ≠ x := by omega
            have h2 : x < k := by omega
            simp [cellPut, hlt, hv, hx, cellGet, hne, hxa, h1, h2]
          · simp [cellPut, hlt, hv, hx, cellGet, hne, hxa]
    · by_cases heq : k = a
      · subst heq
        by_cases hv : v = emptyByte
        · by_cases hx : x = k
          · subst hx
            simpa [cellPut, hv] using cellGet_below h3 (by omega)
          · have hne : k ≠ x := fun e => hx e.symm
            by_cases hxk : x < k
            · simpa [cellPut, hv, hx, cellGet, hne, hxk] using cellGet_below h3 (by omega)
            · simp [cellPut, hv, hx, cellGet, hne, hxk]
        · by_cases hx : x = k
          · simp [cellPut, hv, hx, cellGet]
          · have hne : k ≠ x := fun e => hx e.symm
            simp [cellPut, hv, hx, cellGet, hne]
      · by_cases hkx : k = x
        · subst hkx
          have : k ≠ a := by omega
          simp [cellPut, hlt, heq, cellGet]
        · by_cases hxk : x < k
          · have : x ≠ a := by omega
            simp [cellPut, hlt, heq, cellGet, hkx, hxk, this]
          · simp [cellPut, hlt, heq, cellGet, hkx, hxk, ih h3]

theorem cellPut_wf {c : Cells} (a : Nat) (v : W8) (h : Memory.wf c = true) : Memory.wf (cellPut a v c) = true :=
  cellPut_above v h (Nat.zero_le a)

theorem cellsWrite_wf {c : Cells} (a : Nat) (bs : List W8) (h : Memory.wf c = true) : Memory.wf (cellsWrite a bs c) = true := by
  induction bs generalizing a c with
  | nil => exact h
  | cons b r ih => exact ih (a + 1) (cellPut_wf a b h)

theorem cellsAbove_filter {c : Cells} (lo : Nat) (f : Host.Cell → Bool) (h : cellsAbove lo c = true) :
    cellsAbove lo (c.filter f) = true := by
  induction c generalizing lo with
  | nil => rfl
  | cons x r ih =>
    simp only [cellsAbove, Bool.and_eq_true, decide_eq_true_eq] at h
    by_cases hf : f x = true
    · simp [hf, cellsAbove, h.1.1, h.1.2, ih _ h.2]
    · simpa [hf] using ih lo (cellsAbove_mono h.2 (by omega))

theorem cellsZero_wf {c : Cells} (a n : Nat) (h : Memory.wf c = true) : Memory.wf (cellsZero a n c) = true :=
  cellsAbove_filter 0 _ h

/-- Bytes written outside of an address leave it alone. -/
theorem cellGet_write_outside {c : Cells} (bs : List W8) {a x : Nat} (h : Memory.wf c = true) (out : x < a ∨ a + bs.length ≤ x) :
    cellGet x (cellsWrite a bs c) = cellGet x c := by
  induction bs generalizing a c with
  | nil => rfl
  | cons b r ih =>
    simp only [List.length_cons] at out
    have hx : x ≠ a := by omega
    rw [cellsWrite, ih (cellPut_wf a b h) (by omega), cellGet_put h, if_neg hx]

/-- The bytes written are the bytes read. -/
theorem cellGet_write_inside {c : Cells} (bs : List W8) {a i : Nat} (h : Memory.wf c = true) (lt : i < bs.length) :
    cellGet (a + i) (cellsWrite a bs c) = bs.getD i 0 := by
  induction bs generalizing a c i with
  | nil => simp at lt
  | cons b r ih =>
    cases i with
    | zero =>
      rw [cellsWrite, cellGet_write_outside r (cellPut_wf a b h) (by omega), cellGet_put h]
      simp
    | succ i =>
      have e : a + (i + 1) = a + 1 + i := by omega
      rw [cellsWrite, e, ih (cellPut_wf a b h) (by simpa using lt)]
      simp

theorem cellsRead_write {c : Cells} (a : Nat) (bs : List W8) (h : Memory.wf c = true) :
    cellsRead (cellsWrite a bs c) a bs.length = bs := by
  have key : ∀ (n k : Nat), k + n = bs.length → cellsRead (cellsWrite a bs c) (a + k) n = bs.drop k := by
    intro n
    induction n with
    | zero => intro k hk; simp [cellsRead, List.drop_eq_nil_of_le (by omega : bs.length ≤ k)]
    | succ n ih =>
      intro k hk
      have lt : k < bs.length := by omega
      rw [cellsRead, cellGet_write_inside bs h lt, Nat.add_assoc, ih (k + 1) (by omega), List.drop_eq_getElem_cons lt]
      simp [lt]
  simpa using key bs.length 0 (by omega)

theorem cellsRead_length (c : Cells) (a n : Nat) : (cellsRead c a n).length = n := by
  induction n generalizing a with
  | zero => rfl
  | succ n ih => simp [cellsRead, ih]

end Sys2Proof.Machine
end

