-- ==== Sys2Proof/Laws/State.lean ====
section
/-! SUPPORT. One lemma per field per update of the state, each true by computation: what an update leaves as it was. -/

namespace Sys2Proof.Machine

/-! onCore -/

@[simp] theorem State.onCore_cycle (s : State) (c : Nat) (f : CoreSt → CoreSt) : (s.onCore c f).cycle = s.cycle := rfl
@[simp] theorem State.onCore_time (s : State) (c : Nat) (f : CoreSt → CoreSt) : (s.onCore c f).time = s.time := rfl
@[simp] theorem State.onCore_mem (s : State) (c : Nat) (f : CoreSt → CoreSt) : (s.onCore c f).mem = s.mem := rfl
@[simp] theorem State.onCore_bad (s : State) (c : Nat) (f : CoreSt → CoreSt) : (s.onCore c f).bad = s.bad := rfl
@[simp] theorem State.onCore_l2 (s : State) (c : Nat) (f : CoreSt → CoreSt) : (s.onCore c f).l2 = s.l2 := rfl
@[simp] theorem State.onCore_districts (s : State) (c : Nat) (f : CoreSt → CoreSt) : (s.onCore c f).districts = s.districts := rfl
@[simp] theorem State.onCore_blocks (s : State) (c : Nat) (f : CoreSt → CoreSt) : (s.onCore c f).blocks = s.blocks := rfl
@[simp] theorem State.onCore_homes (s : State) (c : Nat) (f : CoreSt → CoreSt) : (s.onCore c f).homes = s.homes := rfl
@[simp] theorem State.onCore_parts (s : State) (c : Nat) (f : CoreSt → CoreSt) : (s.onCore c f).parts = s.parts := rfl
@[simp] theorem State.onCore_writes (s : State) (c : Nat) (f : CoreSt → CoreSt) : (s.onCore c f).writes = s.writes := rfl
@[simp] theorem State.onCore_reports (s : State) (c : Nat) (f : CoreSt → CoreSt) : (s.onCore c f).reports = s.reports := rfl
@[simp] theorem State.onCore_issues (s : State) (c : Nat) (f : CoreSt → CoreSt) : (s.onCore c f).issues = s.issues := rfl
@[simp] theorem State.onCore_keyLists (s : State) (c : Nat) (f : CoreSt → CoreSt) : (s.onCore c f).keyLists = s.keyLists := rfl
@[simp] theorem State.onCore_squeues (s : State) (c : Nat) (f : CoreSt → CoreSt) : (s.onCore c f).squeues = s.squeues := rfl
@[simp] theorem State.onCore_spLast (s : State) (c : Nat) (f : CoreSt → CoreSt) : (s.onCore c f).spLast = s.spLast := rfl
@[simp] theorem State.onCore_links (s : State) (c : Nat) (f : CoreSt → CoreSt) : (s.onCore c f).links = s.links := rfl
@[simp] theorem State.onCore_images (s : State) (c : Nat) (f : CoreSt → CoreSt) : (s.onCore c f).images = s.images := rfl
@[simp] theorem State.onCore_dev (s : State) (c : Nat) (f : CoreSt → CoreSt) : (s.onCore c f).dev = s.dev := rfl
@[simp] theorem State.onCore_out (s : State) (c : Nat) (f : CoreSt → CoreSt) : (s.onCore c f).out = s.out := rfl
@[simp] theorem State.onCore_outbox (s : State) (c : Nat) (f : CoreSt → CoreSt) : (s.onCore c f).outbox = s.outbox := rfl
@[simp] theorem State.onCore_nextUid (s : State) (c : Nat) (f : CoreSt → CoreSt) : (s.onCore c f).nextUid = s.nextUid := rfl
@[simp] theorem State.onCore_nextId (s : State) (c : Nat) (f : CoreSt → CoreSt) : (s.onCore c f).nextId = s.nextId := rfl
@[simp] theorem State.onCore_fresh (s : State) (c : Nat) (f : CoreSt → CoreSt) : (s.onCore c f).fresh = s.fresh := rfl
@[simp] theorem State.onCore_plan (s : State) (c : Nat) (f : CoreSt → CoreSt) : (s.onCore c f).plan = s.plan := rfl
@[simp] theorem State.onCore_scrOps (s : State) (c : Nat) (f : CoreSt → CoreSt) : (s.onCore c f).scrOps = s.scrOps := rfl
@[simp] theorem State.onCore_agenda (s : State) (c : Nat) (f : CoreSt → CoreSt) : (s.onCore c f).agenda = s.agenda := rfl
@[simp] theorem State.onCore_focus (s : State) (c : Nat) (f : CoreSt → CoreSt) : (s.onCore c f).focus = s.focus := rfl

/-! onDistrict -/

@[simp] theorem State.onDistrict_cycle (s : State) (d : Nat) (f : District → District) : (s.onDistrict d f).cycle = s.cycle := rfl
@[simp] theorem State.onDistrict_time (s : State) (d : Nat) (f : District → District) : (s.onDistrict d f).time = s.time := rfl
@[simp] theorem State.onDistrict_mem (s : State) (d : Nat) (f : District → District) : (s.onDistrict d f).mem = s.mem := rfl
@[simp] theorem State.onDistrict_bad (s : State) (d : Nat) (f : District → District) : (s.onDistrict d f).bad = s.bad := rfl
@[simp] theorem State.onDistrict_cores (s : State) (d : Nat) (f : District → District) : (s.onDistrict d f).cores = s.cores := rfl
@[simp] theorem State.onDistrict_l2 (s : State) (d : Nat) (f : District → District) : (s.onDistrict d f).l2 = s.l2 := rfl
@[simp] theorem State.onDistrict_blocks (s : State) (d : Nat) (f : District → District) : (s.onDistrict d f).blocks = s.blocks := rfl
@[simp] theorem State.onDistrict_homes (s : State) (d : Nat) (f : District → District) : (s.onDistrict d f).homes = s.homes := rfl
@[simp] theorem State.onDistrict_parts (s : State) (d : Nat) (f : District → District) : (s.onDistrict d f).parts = s.parts := rfl
@[simp] theorem State.onDistrict_writes (s : State) (d : Nat) (f : District → District) : (s.onDistrict d f).writes = s.writes := rfl
@[simp] theorem State.onDistrict_reports (s : State) (d : Nat) (f : District → District) : (s.onDistrict d f).reports = s.reports := rfl
@[simp] theorem State.onDistrict_issues (s : State) (d : Nat) (f : District → District) : (s.onDistrict d f).issues = s.issues := rfl
@[simp] theorem State.onDistrict_keyLists (s : State) (d : Nat) (f : District → District) : (s.onDistrict d f).keyLists = s.keyLists := rfl
@[simp] theorem State.onDistrict_squeues (s : State) (d : Nat) (f : District → District) : (s.onDistrict d f).squeues = s.squeues := rfl
@[simp] theorem State.onDistrict_spLast (s : State) (d : Nat) (f : District → District) : (s.onDistrict d f).spLast = s.spLast := rfl
@[simp] theorem State.onDistrict_links (s : State) (d : Nat) (f : District → District) : (s.onDistrict d f).links = s.links := rfl
@[simp] theorem State.onDistrict_images (s : State) (d : Nat) (f : District → District) : (s.onDistrict d f).images = s.images := rfl
@[simp] theorem State.onDistrict_dev (s : State) (d : Nat) (f : District → District) : (s.onDistrict d f).dev = s.dev := rfl
@[simp] theorem State.onDistrict_out (s : State) (d : Nat) (f : District → District) : (s.onDistrict d f).out = s.out := rfl
@[simp] theorem State.onDistrict_outbox (s : State) (d : Nat) (f : District → District) : (s.onDistrict d f).outbox = s.outbox := rfl
@[simp] theorem State.onDistrict_nextUid (s : State) (d : Nat) (f : District → District) : (s.onDistrict d f).nextUid = s.nextUid := rfl
@[simp] theorem State.onDistrict_nextId (s : State) (d : Nat) (f : District → District) : (s.onDistrict d f).nextId = s.nextId := rfl
@[simp] theorem State.onDistrict_fresh (s : State) (d : Nat) (f : District → District) : (s.onDistrict d f).fresh = s.fresh := rfl
@[simp] theorem State.onDistrict_plan (s : State) (d : Nat) (f : District → District) : (s.onDistrict d f).plan = s.plan := rfl
@[simp] theorem State.onDistrict_scrOps (s : State) (d : Nat) (f : District → District) : (s.onDistrict d f).scrOps = s.scrOps := rfl
@[simp] theorem State.onDistrict_agenda (s : State) (d : Nat) (f : District → District) : (s.onDistrict d f).agenda = s.agenda := rfl
@[simp] theorem State.onDistrict_focus (s : State) (d : Nat) (f : District → District) : (s.onDistrict d f).focus = s.focus := rfl

/-! onHome -/

@[simp] theorem State.onHome_cycle (s : State) (h : Nat) (f : Home → Home) : (s.onHome h f).cycle = s.cycle := rfl
@[simp] theorem State.onHome_time (s : State) (h : Nat) (f : Home → Home) : (s.onHome h f).time = s.time := rfl
@[simp] theorem State.onHome_mem (s : State) (h : Nat) (f : Home → Home) : (s.onHome h f).mem = s.mem := rfl
@[simp] theorem State.onHome_bad (s : State) (h : Nat) (f : Home → Home) : (s.onHome h f).bad = s.bad := rfl
@[simp] theorem State.onHome_cores (s : State) (h : Nat) (f : Home → Home) : (s.onHome h f).cores = s.cores := rfl
@[simp] theorem State.onHome_l2 (s : State) (h : Nat) (f : Home → Home) : (s.onHome h f).l2 = s.l2 := rfl
@[simp] theorem State.onHome_districts (s : State) (h : Nat) (f : Home → Home) : (s.onHome h f).districts = s.districts := rfl
@[simp] theorem State.onHome_blocks (s : State) (h : Nat) (f : Home → Home) : (s.onHome h f).blocks = s.blocks := rfl
@[simp] theorem State.onHome_parts (s : State) (h : Nat) (f : Home → Home) : (s.onHome h f).parts = s.parts := rfl
@[simp] theorem State.onHome_writes (s : State) (h : Nat) (f : Home → Home) : (s.onHome h f).writes = s.writes := rfl
@[simp] theorem State.onHome_reports (s : State) (h : Nat) (f : Home → Home) : (s.onHome h f).reports = s.reports := rfl
@[simp] theorem State.onHome_issues (s : State) (h : Nat) (f : Home → Home) : (s.onHome h f).issues = s.issues := rfl
@[simp] theorem State.onHome_keyLists (s : State) (h : Nat) (f : Home → Home) : (s.onHome h f).keyLists = s.keyLists := rfl
@[simp] theorem State.onHome_squeues (s : State) (h : Nat) (f : Home → Home) : (s.onHome h f).squeues = s.squeues := rfl
@[simp] theorem State.onHome_spLast (s : State) (h : Nat) (f : Home → Home) : (s.onHome h f).spLast = s.spLast := rfl
@[simp] theorem State.onHome_links (s : State) (h : Nat) (f : Home → Home) : (s.onHome h f).links = s.links := rfl
@[simp] theorem State.onHome_images (s : State) (h : Nat) (f : Home → Home) : (s.onHome h f).images = s.images := rfl
@[simp] theorem State.onHome_dev (s : State) (h : Nat) (f : Home → Home) : (s.onHome h f).dev = s.dev := rfl
@[simp] theorem State.onHome_out (s : State) (h : Nat) (f : Home → Home) : (s.onHome h f).out = s.out := rfl
@[simp] theorem State.onHome_outbox (s : State) (h : Nat) (f : Home → Home) : (s.onHome h f).outbox = s.outbox := rfl
@[simp] theorem State.onHome_nextUid (s : State) (h : Nat) (f : Home → Home) : (s.onHome h f).nextUid = s.nextUid := rfl
@[simp] theorem State.onHome_nextId (s : State) (h : Nat) (f : Home → Home) : (s.onHome h f).nextId = s.nextId := rfl
@[simp] theorem State.onHome_fresh (s : State) (h : Nat) (f : Home → Home) : (s.onHome h f).fresh = s.fresh := rfl
@[simp] theorem State.onHome_plan (s : State) (h : Nat) (f : Home → Home) : (s.onHome h f).plan = s.plan := rfl
@[simp] theorem State.onHome_scrOps (s : State) (h : Nat) (f : Home → Home) : (s.onHome h f).scrOps = s.scrOps := rfl
@[simp] theorem State.onHome_agenda (s : State) (h : Nat) (f : Home → Home) : (s.onHome h f).agenda = s.agenda := rfl
@[simp] theorem State.onHome_focus (s : State) (h : Nat) (f : Home → Home) : (s.onHome h f).focus = s.focus := rfl

/-! onSqueue -/

@[simp] theorem State.onSqueue_cycle (s : State) (q : Nat) (f : SQueue → SQueue) : (s.onSqueue q f).cycle = s.cycle := rfl
@[simp] theorem State.onSqueue_time (s : State) (q : Nat) (f : SQueue → SQueue) : (s.onSqueue q f).time = s.time := rfl
@[simp] theorem State.onSqueue_mem (s : State) (q : Nat) (f : SQueue → SQueue) : (s.onSqueue q f).mem = s.mem := rfl
@[simp] theorem State.onSqueue_bad (s : State) (q : Nat) (f : SQueue → SQueue) : (s.onSqueue q f).bad = s.bad := rfl
@[simp] theorem State.onSqueue_cores (s : State) (q : Nat) (f : SQueue → SQueue) : (s.onSqueue q f).cores = s.cores := rfl
@[simp] theorem State.onSqueue_l2 (s : State) (q : Nat) (f : SQueue → SQueue) : (s.onSqueue q f).l2 = s.l2 := rfl
@[simp] theorem State.onSqueue_districts (s : State) (q : Nat) (f : SQueue → SQueue) : (s.onSqueue q f).districts = s.districts := rfl
@[simp] theorem State.onSqueue_blocks (s : State) (q : Nat) (f : SQueue → SQueue) : (s.onSqueue q f).blocks = s.blocks := rfl
@[simp] theorem State.onSqueue_homes (s : State) (q : Nat) (f : SQueue → SQueue) : (s.onSqueue q f).homes = s.homes := rfl
@[simp] theorem State.onSqueue_parts (s : State) (q : Nat) (f : SQueue → SQueue) : (s.onSqueue q f).parts = s.parts := rfl
@[simp] theorem State.onSqueue_writes (s : State) (q : Nat) (f : SQueue → SQueue) : (s.onSqueue q f).writes = s.writes := rfl
@[simp] theorem State.onSqueue_reports (s : State) (q : Nat) (f : SQueue → SQueue) : (s.onSqueue q f).reports = s.reports := rfl
@[simp] theorem State.onSqueue_issues (s : State) (q : Nat) (f : SQueue → SQueue) : (s.onSqueue q f).issues = s.issues := rfl
@[simp] theorem State.onSqueue_keyLists (s : State) (q : Nat) (f : SQueue → SQueue) : (s.onSqueue q f).keyLists = s.keyLists := rfl
@[simp] theorem State.onSqueue_spLast (s : State) (q : Nat) (f : SQueue → SQueue) : (s.onSqueue q f).spLast = s.spLast := rfl
@[simp] theorem State.onSqueue_links (s : State) (q : Nat) (f : SQueue → SQueue) : (s.onSqueue q f).links = s.links := rfl
@[simp] theorem State.onSqueue_images (s : State) (q : Nat) (f : SQueue → SQueue) : (s.onSqueue q f).images = s.images := rfl
@[simp] theorem State.onSqueue_dev (s : State) (q : Nat) (f : SQueue → SQueue) : (s.onSqueue q f).dev = s.dev := rfl
@[simp] theorem State.onSqueue_out (s : State) (q : Nat) (f : SQueue → SQueue) : (s.onSqueue q f).out = s.out := rfl
@[simp] theorem State.onSqueue_outbox (s : State) (q : Nat) (f : SQueue → SQueue) : (s.onSqueue q f).outbox = s.outbox := rfl
@[simp] theorem State.onSqueue_nextUid (s : State) (q : Nat) (f : SQueue → SQueue) : (s.onSqueue q f).nextUid = s.nextUid := rfl
@[simp] theorem State.onSqueue_nextId (s : State) (q : Nat) (f : SQueue → SQueue) : (s.onSqueue q f).nextId = s.nextId := rfl
@[simp] theorem State.onSqueue_fresh (s : State) (q : Nat) (f : SQueue → SQueue) : (s.onSqueue q f).fresh = s.fresh := rfl
@[simp] theorem State.onSqueue_plan (s : State) (q : Nat) (f : SQueue → SQueue) : (s.onSqueue q f).plan = s.plan := rfl
@[simp] theorem State.onSqueue_scrOps (s : State) (q : Nat) (f : SQueue → SQueue) : (s.onSqueue q f).scrOps = s.scrOps := rfl
@[simp] theorem State.onSqueue_agenda (s : State) (q : Nat) (f : SQueue → SQueue) : (s.onSqueue q f).agenda = s.agenda := rfl
@[simp] theorem State.onSqueue_focus (s : State) (q : Nat) (f : SQueue → SQueue) : (s.onSqueue q f).focus = s.focus := rfl

/-! onLink -/

@[simp] theorem State.onLink_cycle (s : State) (l : Nat) (f : Link → Link) : (s.onLink l f).cycle = s.cycle := rfl
@[simp] theorem State.onLink_time (s : State) (l : Nat) (f : Link → Link) : (s.onLink l f).time = s.time := rfl
@[simp] theorem State.onLink_mem (s : State) (l : Nat) (f : Link → Link) : (s.onLink l f).mem = s.mem := rfl
@[simp] theorem State.onLink_bad (s : State) (l : Nat) (f : Link → Link) : (s.onLink l f).bad = s.bad := rfl
@[simp] theorem State.onLink_cores (s : State) (l : Nat) (f : Link → Link) : (s.onLink l f).cores = s.cores := rfl
@[simp] theorem State.onLink_l2 (s : State) (l : Nat) (f : Link → Link) : (s.onLink l f).l2 = s.l2 := rfl
@[simp] theorem State.onLink_districts (s : State) (l : Nat) (f : Link → Link) : (s.onLink l f).districts = s.districts := rfl
@[simp] theorem State.onLink_blocks (s : State) (l : Nat) (f : Link → Link) : (s.onLink l f).blocks = s.blocks := rfl
@[simp] theorem State.onLink_homes (s : State) (l : Nat) (f : Link → Link) : (s.onLink l f).homes = s.homes := rfl
@[simp] theorem State.onLink_parts (s : State) (l : Nat) (f : Link → Link) : (s.onLink l f).parts = s.parts := rfl
@[simp] theorem State.onLink_writes (s : State) (l : Nat) (f : Link → Link) : (s.onLink l f).writes = s.writes := rfl
@[simp] theorem State.onLink_reports (s : State) (l : Nat) (f : Link → Link) : (s.onLink l f).reports = s.reports := rfl
@[simp] theorem State.onLink_issues (s : State) (l : Nat) (f : Link → Link) : (s.onLink l f).issues = s.issues := rfl
@[simp] theorem State.onLink_keyLists (s : State) (l : Nat) (f : Link → Link) : (s.onLink l f).keyLists = s.keyLists := rfl
@[simp] theorem State.onLink_squeues (s : State) (l : Nat) (f : Link → Link) : (s.onLink l f).squeues = s.squeues := rfl
@[simp] theorem State.onLink_spLast (s : State) (l : Nat) (f : Link → Link) : (s.onLink l f).spLast = s.spLast := rfl
@[simp] theorem State.onLink_images (s : State) (l : Nat) (f : Link → Link) : (s.onLink l f).images = s.images := rfl
@[simp] theorem State.onLink_dev (s : State) (l : Nat) (f : Link → Link) : (s.onLink l f).dev = s.dev := rfl
@[simp] theorem State.onLink_out (s : State) (l : Nat) (f : Link → Link) : (s.onLink l f).out = s.out := rfl
@[simp] theorem State.onLink_outbox (s : State) (l : Nat) (f : Link → Link) : (s.onLink l f).outbox = s.outbox := rfl
@[simp] theorem State.onLink_nextUid (s : State) (l : Nat) (f : Link → Link) : (s.onLink l f).nextUid = s.nextUid := rfl
@[simp] theorem State.onLink_nextId (s : State) (l : Nat) (f : Link → Link) : (s.onLink l f).nextId = s.nextId := rfl
@[simp] theorem State.onLink_fresh (s : State) (l : Nat) (f : Link → Link) : (s.onLink l f).fresh = s.fresh := rfl
@[simp] theorem State.onLink_plan (s : State) (l : Nat) (f : Link → Link) : (s.onLink l f).plan = s.plan := rfl
@[simp] theorem State.onLink_scrOps (s : State) (l : Nat) (f : Link → Link) : (s.onLink l f).scrOps = s.scrOps := rfl
@[simp] theorem State.onLink_agenda (s : State) (l : Nat) (f : Link → Link) : (s.onLink l f).agenda = s.agenda := rfl
@[simp] theorem State.onLink_focus (s : State) (l : Nat) (f : Link → Link) : (s.onLink l f).focus = s.focus := rfl

/-! onBlock -/

@[simp] theorem State.onBlock_cycle (s : State) (u : Nat) (f : Block → Block) : (s.onBlock u f).cycle = s.cycle := rfl
@[simp] theorem State.onBlock_time (s : State) (u : Nat) (f : Block → Block) : (s.onBlock u f).time = s.time := rfl
@[simp] theorem State.onBlock_mem (s : State) (u : Nat) (f : Block → Block) : (s.onBlock u f).mem = s.mem := rfl
@[simp] theorem State.onBlock_bad (s : State) (u : Nat) (f : Block → Block) : (s.onBlock u f).bad = s.bad := rfl
@[simp] theorem State.onBlock_cores (s : State) (u : Nat) (f : Block → Block) : (s.onBlock u f).cores = s.cores := rfl
@[simp] theorem State.onBlock_l2 (s : State) (u : Nat) (f : Block → Block) : (s.onBlock u f).l2 = s.l2 := rfl
@[simp] theorem State.onBlock_districts (s : State) (u : Nat) (f : Block → Block) : (s.onBlock u f).districts = s.districts := rfl
@[simp] theorem State.onBlock_homes (s : State) (u : Nat) (f : Block → Block) : (s.onBlock u f).homes = s.homes := rfl
@[simp] theorem State.onBlock_parts (s : State) (u : Nat) (f : Block → Block) : (s.onBlock u f).parts = s.parts := rfl
@[simp] theorem State.onBlock_writes (s : State) (u : Nat) (f : Block → Block) : (s.onBlock u f).writes = s.writes := rfl
@[simp] theorem State.onBlock_reports (s : State) (u : Nat) (f : Block → Block) : (s.onBlock u f).reports = s.reports := rfl
@[simp] theorem State.onBlock_issues (s : State) (u : Nat) (f : Block → Block) : (s.onBlock u f).issues = s.issues := rfl
@[simp] theorem State.onBlock_keyLists (s : State) (u : Nat) (f : Block → Block) : (s.onBlock u f).keyLists = s.keyLists := rfl
@[simp] theorem State.onBlock_squeues (s : State) (u : Nat) (f : Block → Block) : (s.onBlock u f).squeues = s.squeues := rfl
@[simp] theorem State.onBlock_spLast (s : State) (u : Nat) (f : Block → Block) : (s.onBlock u f).spLast = s.spLast := rfl
@[simp] theorem State.onBlock_links (s : State) (u : Nat) (f : Block → Block) : (s.onBlock u f).links = s.links := rfl
@[simp] theorem State.onBlock_images (s : State) (u : Nat) (f : Block → Block) : (s.onBlock u f).images = s.images := rfl
@[simp] theorem State.onBlock_dev (s : State) (u : Nat) (f : Block → Block) : (s.onBlock u f).dev = s.dev := rfl
@[simp] theorem State.onBlock_out (s : State) (u : Nat) (f : Block → Block) : (s.onBlock u f).out = s.out := rfl
@[simp] theorem State.onBlock_outbox (s : State) (u : Nat) (f : Block → Block) : (s.onBlock u f).outbox = s.outbox := rfl
@[simp] theorem State.onBlock_nextUid (s : State) (u : Nat) (f : Block → Block) : (s.onBlock u f).nextUid = s.nextUid := rfl
@[simp] theorem State.onBlock_nextId (s : State) (u : Nat) (f : Block → Block) : (s.onBlock u f).nextId = s.nextId := rfl
@[simp] theorem State.onBlock_fresh (s : State) (u : Nat) (f : Block → Block) : (s.onBlock u f).fresh = s.fresh := rfl
@[simp] theorem State.onBlock_plan (s : State) (u : Nat) (f : Block → Block) : (s.onBlock u f).plan = s.plan := rfl
@[simp] theorem State.onBlock_scrOps (s : State) (u : Nat) (f : Block → Block) : (s.onBlock u f).scrOps = s.scrOps := rfl
@[simp] theorem State.onBlock_agenda (s : State) (u : Nat) (f : Block → Block) : (s.onBlock u f).agenda = s.agenda := rfl
@[simp] theorem State.onBlock_focus (s : State) (u : Nat) (f : Block → Block) : (s.onBlock u f).focus = s.focus := rfl

/-! onGrp -/

@[simp] theorem State.onGrp_cycle (s : State) (u g : Nat) (f : Group → Group) : (s.onGrp u g f).cycle = s.cycle := rfl
@[simp] theorem State.onGrp_time (s : State) (u g : Nat) (f : Group → Group) : (s.onGrp u g f).time = s.time := rfl
@[simp] theorem State.onGrp_mem (s : State) (u g : Nat) (f : Group → Group) : (s.onGrp u g f).mem = s.mem := rfl
@[simp] theorem State.onGrp_bad (s : State) (u g : Nat) (f : Group → Group) : (s.onGrp u g f).bad = s.bad := rfl
@[simp] theorem State.onGrp_cores (s : State) (u g : Nat) (f : Group → Group) : (s.onGrp u g f).cores = s.cores := rfl
@[simp] theorem State.onGrp_l2 (s : State) (u g : Nat) (f : Group → Group) : (s.onGrp u g f).l2 = s.l2 := rfl
@[simp] theorem State.onGrp_districts (s : State) (u g : Nat) (f : Group → Group) : (s.onGrp u g f).districts = s.districts := rfl
@[simp] theorem State.onGrp_homes (s : State) (u g : Nat) (f : Group → Group) : (s.onGrp u g f).homes = s.homes := rfl
@[simp] theorem State.onGrp_parts (s : State) (u g : Nat) (f : Group → Group) : (s.onGrp u g f).parts = s.parts := rfl
@[simp] theorem State.onGrp_writes (s : State) (u g : Nat) (f : Group → Group) : (s.onGrp u g f).writes = s.writes := rfl
@[simp] theorem State.onGrp_reports (s : State) (u g : Nat) (f : Group → Group) : (s.onGrp u g f).reports = s.reports := rfl
@[simp] theorem State.onGrp_issues (s : State) (u g : Nat) (f : Group → Group) : (s.onGrp u g f).issues = s.issues := rfl
@[simp] theorem State.onGrp_keyLists (s : State) (u g : Nat) (f : Group → Group) : (s.onGrp u g f).keyLists = s.keyLists := rfl
@[simp] theorem State.onGrp_squeues (s : State) (u g : Nat) (f : Group → Group) : (s.onGrp u g f).squeues = s.squeues := rfl
@[simp] theorem State.onGrp_spLast (s : State) (u g : Nat) (f : Group → Group) : (s.onGrp u g f).spLast = s.spLast := rfl
@[simp] theorem State.onGrp_links (s : State) (u g : Nat) (f : Group → Group) : (s.onGrp u g f).links = s.links := rfl
@[simp] theorem State.onGrp_images (s : State) (u g : Nat) (f : Group → Group) : (s.onGrp u g f).images = s.images := rfl
@[simp] theorem State.onGrp_dev (s : State) (u g : Nat) (f : Group → Group) : (s.onGrp u g f).dev = s.dev := rfl
@[simp] theorem State.onGrp_out (s : State) (u g : Nat) (f : Group → Group) : (s.onGrp u g f).out = s.out := rfl
@[simp] theorem State.onGrp_outbox (s : State) (u g : Nat) (f : Group → Group) : (s.onGrp u g f).outbox = s.outbox := rfl
@[simp] theorem State.onGrp_nextUid (s : State) (u g : Nat) (f : Group → Group) : (s.onGrp u g f).nextUid = s.nextUid := rfl
@[simp] theorem State.onGrp_nextId (s : State) (u g : Nat) (f : Group → Group) : (s.onGrp u g f).nextId = s.nextId := rfl
@[simp] theorem State.onGrp_fresh (s : State) (u g : Nat) (f : Group → Group) : (s.onGrp u g f).fresh = s.fresh := rfl
@[simp] theorem State.onGrp_plan (s : State) (u g : Nat) (f : Group → Group) : (s.onGrp u g f).plan = s.plan := rfl
@[simp] theorem State.onGrp_scrOps (s : State) (u g : Nat) (f : Group → Group) : (s.onGrp u g f).scrOps = s.scrOps := rfl
@[simp] theorem State.onGrp_agenda (s : State) (u g : Nat) (f : Group → Group) : (s.onGrp u g f).agenda = s.agenda := rfl
@[simp] theorem State.onGrp_focus (s : State) (u g : Nat) (f : Group → Group) : (s.onGrp u g f).focus = s.focus := rfl

/-! onStrands -/

@[simp] theorem State.onStrands_cycle (s : State) (u g : Nat) (ks : List Nat) (f : Strand → Strand) : (s.onStrands u g ks f).cycle = s.cycle := rfl
@[simp] theorem State.onStrands_time (s : State) (u g : Nat) (ks : List Nat) (f : Strand → Strand) : (s.onStrands u g ks f).time = s.time := rfl
@[simp] theorem State.onStrands_mem (s : State) (u g : Nat) (ks : List Nat) (f : Strand → Strand) : (s.onStrands u g ks f).mem = s.mem := rfl
@[simp] theorem State.onStrands_bad (s : State) (u g : Nat) (ks : List Nat) (f : Strand → Strand) : (s.onStrands u g ks f).bad = s.bad := rfl
@[simp] theorem State.onStrands_cores (s : State) (u g : Nat) (ks : List Nat) (f : Strand → Strand) : (s.onStrands u g ks f).cores = s.cores := rfl
@[simp] theorem State.onStrands_l2 (s : State) (u g : Nat) (ks : List Nat) (f : Strand → Strand) : (s.onStrands u g ks f).l2 = s.l2 := rfl
@[simp] theorem State.onStrands_districts (s : State) (u g : Nat) (ks : List Nat) (f : Strand → Strand) : (s.onStrands u g ks f).districts = s.districts := rfl
@[simp] theorem State.onStrands_homes (s : State) (u g : Nat) (ks : List Nat) (f : Strand → Strand) : (s.onStrands u g ks f).homes = s.homes := rfl
@[simp] theorem State.onStrands_parts (s : State) (u g : Nat) (ks : List Nat) (f : Strand → Strand) : (s.onStrands u g ks f).parts = s.parts := rfl
@[simp] theorem State.onStrands_writes (s : State) (u g : Nat) (ks : List Nat) (f : Strand → Strand) : (s.onStrands u g ks f).writes = s.writes := rfl
@[simp] theorem State.onStrands_reports (s : State) (u g : Nat) (ks : List Nat) (f : Strand → Strand) : (s.onStrands u g ks f).reports = s.reports := rfl
@[simp] theorem State.onStrands_issues (s : State) (u g : Nat) (ks : List Nat) (f : Strand → Strand) : (s.onStrands u g ks f).issues = s.issues := rfl
@[simp] theorem State.onStrands_keyLists (s : State) (u g : Nat) (ks : List Nat) (f : Strand → Strand) : (s.onStrands u g ks f).keyLists = s.keyLists := rfl
@[simp] theorem State.onStrands_squeues (s : State) (u g : Nat) (ks : List Nat) (f : Strand → Strand) : (s.onStrands u g ks f).squeues = s.squeues := rfl
@[simp] theorem State.onStrands_spLast (s : State) (u g : Nat) (ks : List Nat) (f : Strand → Strand) : (s.onStrands u g ks f).spLast = s.spLast := rfl
@[simp] theorem State.onStrands_links (s : State) (u g : Nat) (ks : List Nat) (f : Strand → Strand) : (s.onStrands u g ks f).links = s.links := rfl
@[simp] theorem State.onStrands_images (s : State) (u g : Nat) (ks : List Nat) (f : Strand → Strand) : (s.onStrands u g ks f).images = s.images := rfl
@[simp] theorem State.onStrands_dev (s : State) (u g : Nat) (ks : List Nat) (f : Strand → Strand) : (s.onStrands u g ks f).dev = s.dev := rfl
@[simp] theorem State.onStrands_out (s : State) (u g : Nat) (ks : List Nat) (f : Strand → Strand) : (s.onStrands u g ks f).out = s.out := rfl
@[simp] theorem State.onStrands_outbox (s : State) (u g : Nat) (ks : List Nat) (f : Strand → Strand) : (s.onStrands u g ks f).outbox = s.outbox := rfl
@[simp] theorem State.onStrands_nextUid (s : State) (u g : Nat) (ks : List Nat) (f : Strand → Strand) : (s.onStrands u g ks f).nextUid = s.nextUid := rfl
@[simp] theorem State.onStrands_nextId (s : State) (u g : Nat) (ks : List Nat) (f : Strand → Strand) : (s.onStrands u g ks f).nextId = s.nextId := rfl
@[simp] theorem State.onStrands_fresh (s : State) (u g : Nat) (ks : List Nat) (f : Strand → Strand) : (s.onStrands u g ks f).fresh = s.fresh := rfl
@[simp] theorem State.onStrands_plan (s : State) (u g : Nat) (ks : List Nat) (f : Strand → Strand) : (s.onStrands u g ks f).plan = s.plan := rfl
@[simp] theorem State.onStrands_scrOps (s : State) (u g : Nat) (ks : List Nat) (f : Strand → Strand) : (s.onStrands u g ks f).scrOps = s.scrOps := rfl
@[simp] theorem State.onStrands_agenda (s : State) (u g : Nat) (ks : List Nat) (f : Strand → Strand) : (s.onStrands u g ks f).agenda = s.agenda := rfl
@[simp] theorem State.onStrands_focus (s : State) (u g : Nat) (ks : List Nat) (f : Strand → Strand) : (s.onStrands u g ks f).focus = s.focus := rfl

/-! onLaunch -/

@[simp] theorem State.onLaunch_cycle (s : State) (d lid : Nat) (f : Launch → Launch) : (s.onLaunch d lid f).cycle = s.cycle := rfl
@[simp] theorem State.onLaunch_time (s : State) (d lid : Nat) (f : Launch → Launch) : (s.onLaunch d lid f).time = s.time := rfl
@[simp] theorem State.onLaunch_mem (s : State) (d lid : Nat) (f : Launch → Launch) : (s.onLaunch d lid f).mem = s.mem := rfl
@[simp] theorem State.onLaunch_bad (s : State) (d lid : Nat) (f : Launch → Launch) : (s.onLaunch d lid f).bad = s.bad := rfl
@[simp] theorem State.onLaunch_cores (s : State) (d lid : Nat) (f : Launch → Launch) : (s.onLaunch d lid f).cores = s.cores := rfl
@[simp] theorem State.onLaunch_l2 (s : State) (d lid : Nat) (f : Launch → Launch) : (s.onLaunch d lid f).l2 = s.l2 := rfl
@[simp] theorem State.onLaunch_blocks (s : State) (d lid : Nat) (f : Launch → Launch) : (s.onLaunch d lid f).blocks = s.blocks := rfl
@[simp] theorem State.onLaunch_homes (s : State) (d lid : Nat) (f : Launch → Launch) : (s.onLaunch d lid f).homes = s.homes := rfl
@[simp] theorem State.onLaunch_parts (s : State) (d lid : Nat) (f : Launch → Launch) : (s.onLaunch d lid f).parts = s.parts := rfl
@[simp] theorem State.onLaunch_writes (s : State) (d lid : Nat) (f : Launch → Launch) : (s.onLaunch d lid f).writes = s.writes := rfl
@[simp] theorem State.onLaunch_reports (s : State) (d lid : Nat) (f : Launch → Launch) : (s.onLaunch d lid f).reports = s.reports := rfl
@[simp] theorem State.onLaunch_issues (s : State) (d lid : Nat) (f : Launch → Launch) : (s.onLaunch d lid f).issues = s.issues := rfl
@[simp] theorem State.onLaunch_keyLists (s : State) (d lid : Nat) (f : Launch → Launch) : (s.onLaunch d lid f).keyLists = s.keyLists := rfl
@[simp] theorem State.onLaunch_squeues (s : State) (d lid : Nat) (f : Launch → Launch) : (s.onLaunch d lid f).squeues = s.squeues := rfl
@[simp] theorem State.onLaunch_spLast (s : State) (d lid : Nat) (f : Launch → Launch) : (s.onLaunch d lid f).spLast = s.spLast := rfl
@[simp] theorem State.onLaunch_links (s : State) (d lid : Nat) (f : Launch → Launch) : (s.onLaunch d lid f).links = s.links := rfl
@[simp] theorem State.onLaunch_images (s : State) (d lid : Nat) (f : Launch → Launch) : (s.onLaunch d lid f).images = s.images := rfl
@[simp] theorem State.onLaunch_dev (s : State) (d lid : Nat) (f : Launch → Launch) : (s.onLaunch d lid f).dev = s.dev := rfl
@[simp] theorem State.onLaunch_out (s : State) (d lid : Nat) (f : Launch → Launch) : (s.onLaunch d lid f).out = s.out := rfl
@[simp] theorem State.onLaunch_outbox (s : State) (d lid : Nat) (f : Launch → Launch) : (s.onLaunch d lid f).outbox = s.outbox := rfl
@[simp] theorem State.onLaunch_nextUid (s : State) (d lid : Nat) (f : Launch → Launch) : (s.onLaunch d lid f).nextUid = s.nextUid := rfl
@[simp] theorem State.onLaunch_nextId (s : State) (d lid : Nat) (f : Launch → Launch) : (s.onLaunch d lid f).nextId = s.nextId := rfl
@[simp] theorem State.onLaunch_fresh (s : State) (d lid : Nat) (f : Launch → Launch) : (s.onLaunch d lid f).fresh = s.fresh := rfl
@[simp] theorem State.onLaunch_plan (s : State) (d lid : Nat) (f : Launch → Launch) : (s.onLaunch d lid f).plan = s.plan := rfl
@[simp] theorem State.onLaunch_scrOps (s : State) (d lid : Nat) (f : Launch → Launch) : (s.onLaunch d lid f).scrOps = s.scrOps := rfl
@[simp] theorem State.onLaunch_agenda (s : State) (d lid : Nat) (f : Launch → Launch) : (s.onLaunch d lid f).agenda = s.agenda := rfl
@[simp] theorem State.onLaunch_focus (s : State) (d lid : Nat) (f : Launch → Launch) : (s.onLaunch d lid f).focus = s.focus := rfl

/-! onPart -/

@[simp] theorem State.onPart_cycle (s : State) (id : Nat) (f : Part → Part) : (s.onPart id f).cycle = s.cycle := rfl
@[simp] theorem State.onPart_time (s : State) (id : Nat) (f : Part → Part) : (s.onPart id f).time = s.time := rfl
@[simp] theorem State.onPart_mem (s : State) (id : Nat) (f : Part → Part) : (s.onPart id f).mem = s.mem := rfl
@[simp] theorem State.onPart_bad (s : State) (id : Nat) (f : Part → Part) : (s.onPart id f).bad = s.bad := rfl
@[simp] theorem State.onPart_cores (s : State) (id : Nat) (f : Part → Part) : (s.onPart id f).cores = s.cores := rfl
@[simp] theorem State.onPart_l2 (s : State) (id : Nat) (f : Part → Part) : (s.onPart id f).l2 = s.l2 := rfl
@[simp] theorem State.onPart_districts (s : State) (id : Nat) (f : Part → Part) : (s.onPart id f).districts = s.districts := rfl
@[simp] theorem State.onPart_blocks (s : State) (id : Nat) (f : Part → Part) : (s.onPart id f).blocks = s.blocks := rfl
@[simp] theorem State.onPart_homes (s : State) (id : Nat) (f : Part → Part) : (s.onPart id f).homes = s.homes := rfl
@[simp] theorem State.onPart_writes (s : State) (id : Nat) (f : Part → Part) : (s.onPart id f).writes = s.writes := rfl
@[simp] theorem State.onPart_reports (s : State) (id : Nat) (f : Part → Part) : (s.onPart id f).reports = s.reports := rfl
@[simp] theorem State.onPart_issues (s : State) (id : Nat) (f : Part → Part) : (s.onPart id f).issues = s.issues := rfl
@[simp] theorem State.onPart_keyLists (s : State) (id : Nat) (f : Part → Part) : (s.onPart id f).keyLists = s.keyLists := rfl
@[simp] theorem State.onPart_squeues (s : State) (id : Nat) (f : Part → Part) : (s.onPart id f).squeues = s.squeues := rfl
@[simp] theorem State.onPart_spLast (s : State) (id : Nat) (f : Part → Part) : (s.onPart id f).spLast = s.spLast := rfl
@[simp] theorem State.onPart_links (s : State) (id : Nat) (f : Part → Part) : (s.onPart id f).links = s.links := rfl
@[simp] theorem State.onPart_images (s : State) (id : Nat) (f : Part → Part) : (s.onPart id f).images = s.images := rfl
@[simp] theorem State.onPart_dev (s : State) (id : Nat) (f : Part → Part) : (s.onPart id f).dev = s.dev := rfl
@[simp] theorem State.onPart_out (s : State) (id : Nat) (f : Part → Part) : (s.onPart id f).out = s.out := rfl
@[simp] theorem State.onPart_outbox (s : State) (id : Nat) (f : Part → Part) : (s.onPart id f).outbox = s.outbox := rfl
@[simp] theorem State.onPart_nextUid (s : State) (id : Nat) (f : Part → Part) : (s.onPart id f).nextUid = s.nextUid := rfl
@[simp] theorem State.onPart_nextId (s : State) (id : Nat) (f : Part → Part) : (s.onPart id f).nextId = s.nextId := rfl
@[simp] theorem State.onPart_fresh (s : State) (id : Nat) (f : Part → Part) : (s.onPart id f).fresh = s.fresh := rfl
@[simp] theorem State.onPart_plan (s : State) (id : Nat) (f : Part → Part) : (s.onPart id f).plan = s.plan := rfl
@[simp] theorem State.onPart_scrOps (s : State) (id : Nat) (f : Part → Part) : (s.onPart id f).scrOps = s.scrOps := rfl
@[simp] theorem State.onPart_agenda (s : State) (id : Nat) (f : Part → Part) : (s.onPart id f).agenda = s.agenda := rfl
@[simp] theorem State.onPart_focus (s : State) (id : Nat) (f : Part → Part) : (s.onPart id f).focus = s.focus := rfl

/-! dropPart -/

@[simp] theorem State.dropPart_cycle (s : State) (id : Nat) : (s.dropPart id).cycle = s.cycle := rfl
@[simp] theorem State.dropPart_time (s : State) (id : Nat) : (s.dropPart id).time = s.time := rfl
@[simp] theorem State.dropPart_mem (s : State) (id : Nat) : (s.dropPart id).mem = s.mem := rfl
@[simp] theorem State.dropPart_bad (s : State) (id : Nat) : (s.dropPart id).bad = s.bad := rfl
@[simp] theorem State.dropPart_cores (s : State) (id : Nat) : (s.dropPart id).cores = s.cores := rfl
@[simp] theorem State.dropPart_l2 (s : State) (id : Nat) : (s.dropPart id).l2 = s.l2 := rfl
@[simp] theorem State.dropPart_districts (s : State) (id : Nat) : (s.dropPart id).districts = s.districts := rfl
@[simp] theorem State.dropPart_blocks (s : State) (id : Nat) : (s.dropPart id).blocks = s.blocks := rfl
@[simp] theorem State.dropPart_homes (s : State) (id : Nat) : (s.dropPart id).homes = s.homes := rfl
@[simp] theorem State.dropPart_writes (s : State) (id : Nat) : (s.dropPart id).writes = s.writes := rfl
@[simp] theorem State.dropPart_reports (s : State) (id : Nat) : (s.dropPart id).reports = s.reports := rfl
@[simp] theorem State.dropPart_issues (s : State) (id : Nat) : (s.dropPart id).issues = s.issues := rfl
@[simp] theorem State.dropPart_keyLists (s : State) (id : Nat) : (s.dropPart id).keyLists = s.keyLists := rfl
@[simp] theorem State.dropPart_squeues (s : State) (id : Nat) : (s.dropPart id).squeues = s.squeues := rfl
@[simp] theorem State.dropPart_spLast (s : State) (id : Nat) : (s.dropPart id).spLast = s.spLast := rfl
@[simp] theorem State.dropPart_links (s : State) (id : Nat) : (s.dropPart id).links = s.links := rfl
@[simp] theorem State.dropPart_images (s : State) (id : Nat) : (s.dropPart id).images = s.images := rfl
@[simp] theorem State.dropPart_dev (s : State) (id : Nat) : (s.dropPart id).dev = s.dev := rfl
@[simp] theorem State.dropPart_out (s : State) (id : Nat) : (s.dropPart id).out = s.out := rfl
@[simp] theorem State.dropPart_outbox (s : State) (id : Nat) : (s.dropPart id).outbox = s.outbox := rfl
@[simp] theorem State.dropPart_nextUid (s : State) (id : Nat) : (s.dropPart id).nextUid = s.nextUid := rfl
@[simp] theorem State.dropPart_nextId (s : State) (id : Nat) : (s.dropPart id).nextId = s.nextId := rfl
@[simp] theorem State.dropPart_fresh (s : State) (id : Nat) : (s.dropPart id).fresh = s.fresh := rfl
@[simp] theorem State.dropPart_plan (s : State) (id : Nat) : (s.dropPart id).plan = s.plan := rfl
@[simp] theorem State.dropPart_scrOps (s : State) (id : Nat) : (s.dropPart id).scrOps = s.scrOps := rfl
@[simp] theorem State.dropPart_agenda (s : State) (id : Nat) : (s.dropPart id).agenda = s.agenda := rfl
@[simp] theorem State.dropPart_focus (s : State) (id : Nat) : (s.dropPart id).focus = s.focus := rfl

/-! later -/

@[simp] theorem State.later_cycle (s : State) (id : Nat) (x : PartSt) : (s.later id x).cycle = s.cycle := rfl
@[simp] theorem State.later_time (s : State) (id : Nat) (x : PartSt) : (s.later id x).time = s.time := rfl
@[simp] theorem State.later_mem (s : State) (id : Nat) (x : PartSt) : (s.later id x).mem = s.mem := rfl
@[simp] theorem State.later_bad (s : State) (id : Nat) (x : PartSt) : (s.later id x).bad = s.bad := rfl
@[simp] theorem State.later_cores (s : State) (id : Nat) (x : PartSt) : (s.later id x).cores = s.cores := rfl
@[simp] theorem State.later_l2 (s : State) (id : Nat) (x : PartSt) : (s.later id x).l2 = s.l2 := rfl
@[simp] theorem State.later_districts (s : State) (id : Nat) (x : PartSt) : (s.later id x).districts = s.districts := rfl
@[simp] theorem State.later_blocks (s : State) (id : Nat) (x : PartSt) : (s.later id x).blocks = s.blocks := rfl
@[simp] theorem State.later_homes (s : State) (id : Nat) (x : PartSt) : (s.later id x).homes = s.homes := rfl
@[simp] theorem State.later_writes (s : State) (id : Nat) (x : PartSt) : (s.later id x).writes = s.writes := rfl
@[simp] theorem State.later_reports (s : State) (id : Nat) (x : PartSt) : (s.later id x).reports = s.reports := rfl
@[simp] theorem State.later_issues (s : State) (id : Nat) (x : PartSt) : (s.later id x).issues = s.issues := rfl
@[simp] theorem State.later_keyLists (s : State) (id : Nat) (x : PartSt) : (s.later id x).keyLists = s.keyLists := rfl
@[simp] theorem State.later_squeues (s : State) (id : Nat) (x : PartSt) : (s.later id x).squeues = s.squeues := rfl
@[simp] theorem State.later_spLast (s : State) (id : Nat) (x : PartSt) : (s.later id x).spLast = s.spLast := rfl
@[simp] theorem State.later_links (s : State) (id : Nat) (x : PartSt) : (s.later id x).links = s.links := rfl
@[simp] theorem State.later_images (s : State) (id : Nat) (x : PartSt) : (s.later id x).images = s.images := rfl
@[simp] theorem State.later_dev (s : State) (id : Nat) (x : PartSt) : (s.later id x).dev = s.dev := rfl
@[simp] theorem State.later_out (s : State) (id : Nat) (x : PartSt) : (s.later id x).out = s.out := rfl
@[simp] theorem State.later_outbox (s : State) (id : Nat) (x : PartSt) : (s.later id x).outbox = s.outbox := rfl
@[simp] theorem State.later_nextUid (s : State) (id : Nat) (x : PartSt) : (s.later id x).nextUid = s.nextUid := rfl
@[simp] theorem State.later_nextId (s : State) (id : Nat) (x : PartSt) : (s.later id x).nextId = s.nextId := rfl
@[simp] theorem State.later_fresh (s : State) (id : Nat) (x : PartSt) : (s.later id x).fresh = s.fresh := rfl
@[simp] theorem State.later_plan (s : State) (id : Nat) (x : PartSt) : (s.later id x).plan = s.plan := rfl
@[simp] theorem State.later_scrOps (s : State) (id : Nat) (x : PartSt) : (s.later id x).scrOps = s.scrOps := rfl
@[simp] theorem State.later_agenda (s : State) (id : Nat) (x : PartSt) : (s.later id x).agenda = s.agenda := rfl
@[simp] theorem State.later_focus (s : State) (id : Nat) (x : PartSt) : (s.later id x).focus = s.focus := rfl

/-! sendWrite -/

@[simp] theorem State.sendWrite_cycle (s : State) (w : SysWrite) : (s.sendWrite w).cycle = s.cycle := rfl
@[simp] theorem State.sendWrite_time (s : State) (w : SysWrite) : (s.sendWrite w).time = s.time := rfl
@[simp] theorem State.sendWrite_mem (s : State) (w : SysWrite) : (s.sendWrite w).mem = s.mem := rfl
@[simp] theorem State.sendWrite_bad (s : State) (w : SysWrite) : (s.sendWrite w).bad = s.bad := rfl
@[simp] theorem State.sendWrite_cores (s : State) (w : SysWrite) : (s.sendWrite w).cores = s.cores := rfl
@[simp] theorem State.sendWrite_l2 (s : State) (w : SysWrite) : (s.sendWrite w).l2 = s.l2 := rfl
@[simp] theorem State.sendWrite_districts (s : State) (w : SysWrite) : (s.sendWrite w).districts = s.districts := rfl
@[simp] theorem State.sendWrite_blocks (s : State) (w : SysWrite) : (s.sendWrite w).blocks = s.blocks := rfl
@[simp] theorem State.sendWrite_homes (s : State) (w : SysWrite) : (s.sendWrite w).homes = s.homes := rfl
@[simp] theorem State.sendWrite_parts (s : State) (w : SysWrite) : (s.sendWrite w).parts = s.parts := rfl
@[simp] theorem State.sendWrite_reports (s : State) (w : SysWrite) : (s.sendWrite w).reports = s.reports := rfl
@[simp] theorem State.sendWrite_issues (s : State) (w : SysWrite) : (s.sendWrite w).issues = s.issues := rfl
@[simp] theorem State.sendWrite_keyLists (s : State) (w : SysWrite) : (s.sendWrite w).keyLists = s.keyLists := rfl
@[simp] theorem State.sendWrite_squeues (s : State) (w : SysWrite) : (s.sendWrite w).squeues = s.squeues := rfl
@[simp] theorem State.sendWrite_spLast (s : State) (w : SysWrite) : (s.sendWrite w).spLast = s.spLast := rfl
@[simp] theorem State.sendWrite_links (s : State) (w : SysWrite) : (s.sendWrite w).links = s.links := rfl
@[simp] theorem State.sendWrite_images (s : State) (w : SysWrite) : (s.sendWrite w).images = s.images := rfl
@[simp] theorem State.sendWrite_dev (s : State) (w : SysWrite) : (s.sendWrite w).dev = s.dev := rfl
@[simp] theorem State.sendWrite_out (s : State) (w : SysWrite) : (s.sendWrite w).out = s.out := rfl
@[simp] theorem State.sendWrite_outbox (s : State) (w : SysWrite) : (s.sendWrite w).outbox = s.outbox := rfl
@[simp] theorem State.sendWrite_nextUid (s : State) (w : SysWrite) : (s.sendWrite w).nextUid = s.nextUid := rfl
@[simp] theorem State.sendWrite_nextId (s : State) (w : SysWrite) : (s.sendWrite w).nextId = s.nextId := rfl
@[simp] theorem State.sendWrite_fresh (s : State) (w : SysWrite) : (s.sendWrite w).fresh = s.fresh := rfl
@[simp] theorem State.sendWrite_plan (s : State) (w : SysWrite) : (s.sendWrite w).plan = s.plan := rfl
@[simp] theorem State.sendWrite_scrOps (s : State) (w : SysWrite) : (s.sendWrite w).scrOps = s.scrOps := rfl
@[simp] theorem State.sendWrite_agenda (s : State) (w : SysWrite) : (s.sendWrite w).agenda = s.agenda := rfl
@[simp] theorem State.sendWrite_focus (s : State) (w : SysWrite) : (s.sendWrite w).focus = s.focus := rfl

/-! post -/

@[simp] theorem State.post_cycle (s : State) (e : Instr) : (s.post e).cycle = s.cycle := rfl
@[simp] theorem State.post_time (s : State) (e : Instr) : (s.post e).time = s.time := rfl
@[simp] theorem State.post_mem (s : State) (e : Instr) : (s.post e).mem = s.mem := rfl
@[simp] theorem State.post_bad (s : State) (e : Instr) : (s.post e).bad = s.bad := rfl
@[simp] theorem State.post_cores (s : State) (e : Instr) : (s.post e).cores = s.cores := rfl
@[simp] theorem State.post_l2 (s : State) (e : Instr) : (s.post e).l2 = s.l2 := rfl
@[simp] theorem State.post_districts (s : State) (e : Instr) : (s.post e).districts = s.districts := rfl
@[simp] theorem State.post_blocks (s : State) (e : Instr) : (s.post e).blocks = s.blocks := rfl
@[simp] theorem State.post_homes (s : State) (e : Instr) : (s.post e).homes = s.homes := rfl
@[simp] theorem State.post_parts (s : State) (e : Instr) : (s.post e).parts = s.parts := rfl
@[simp] theorem State.post_writes (s : State) (e : Instr) : (s.post e).writes = s.writes := rfl
@[simp] theorem State.post_reports (s : State) (e : Instr) : (s.post e).reports = s.reports := rfl
@[simp] theorem State.post_issues (s : State) (e : Instr) : (s.post e).issues = s.issues := rfl
@[simp] theorem State.post_keyLists (s : State) (e : Instr) : (s.post e).keyLists = s.keyLists := rfl
@[simp] theorem State.post_squeues (s : State) (e : Instr) : (s.post e).squeues = s.squeues := rfl
@[simp] theorem State.post_spLast (s : State) (e : Instr) : (s.post e).spLast = s.spLast := rfl
@[simp] theorem State.post_links (s : State) (e : Instr) : (s.post e).links = s.links := rfl
@[simp] theorem State.post_images (s : State) (e : Instr) : (s.post e).images = s.images := rfl
@[simp] theorem State.post_dev (s : State) (e : Instr) : (s.post e).dev = s.dev := rfl
@[simp] theorem State.post_out (s : State) (e : Instr) : (s.post e).out = s.out := rfl
@[simp] theorem State.post_outbox (s : State) (e : Instr) : (s.post e).outbox = s.outbox := rfl
@[simp] theorem State.post_nextUid (s : State) (e : Instr) : (s.post e).nextUid = s.nextUid := rfl
@[simp] theorem State.post_nextId (s : State) (e : Instr) : (s.post e).nextId = s.nextId := rfl
@[simp] theorem State.post_fresh (s : State) (e : Instr) : (s.post e).fresh = s.fresh := rfl
@[simp] theorem State.post_plan (s : State) (e : Instr) : (s.post e).plan = s.plan := rfl
@[simp] theorem State.post_scrOps (s : State) (e : Instr) : (s.post e).scrOps = s.scrOps := rfl
@[simp] theorem State.post_focus (s : State) (e : Instr) : (s.post e).focus = s.focus := rfl

/-! output -/

@[simp] theorem State.output_cycle (s : State) (o : Output) : (s.output o).cycle = s.cycle := rfl
@[simp] theorem State.output_time (s : State) (o : Output) : (s.output o).time = s.time := rfl
@[simp] theorem State.output_mem (s : State) (o : Output) : (s.output o).mem = s.mem := rfl
@[simp] theorem State.output_bad (s : State) (o : Output) : (s.output o).bad = s.bad := rfl
@[simp] theorem State.output_cores (s : State) (o : Output) : (s.output o).cores = s.cores := rfl
@[simp] theorem State.output_l2 (s : State) (o : Output) : (s.output o).l2 = s.l2 := rfl
@[simp] theorem State.output_districts (s : State) (o : Output) : (s.output o).districts = s.districts := rfl
@[simp] theorem State.output_blocks (s : State) (o : Output) : (s.output o).blocks = s.blocks := rfl
@[simp] theorem State.output_homes (s : State) (o : Output) : (s.output o).homes = s.homes := rfl
@[simp] theorem State.output_parts (s : State) (o : Output) : (s.output o).parts = s.parts := rfl
@[simp] theorem State.output_writes (s : State) (o : Output) : (s.output o).writes = s.writes := rfl
@[simp] theorem State.output_reports (s : State) (o : Output) : (s.output o).reports = s.reports := rfl
@[simp] theorem State.output_issues (s : State) (o : Output) : (s.output o).issues = s.issues := rfl
@[simp] theorem State.output_keyLists (s : State) (o : Output) : (s.output o).keyLists = s.keyLists := rfl
@[simp] theorem State.output_squeues (s : State) (o : Output) : (s.output o).squeues = s.squeues := rfl
@[simp] theorem State.output_spLast (s : State) (o : Output) : (s.output o).spLast = s.spLast := rfl
@[simp] theorem State.output_links (s : State) (o : Output) : (s.output o).links = s.links := rfl
@[simp] theorem State.output_images (s : State) (o : Output) : (s.output o).images = s.images := rfl
@[simp] theorem State.output_dev (s : State) (o : Output) : (s.output o).dev = s.dev := rfl
@[simp] theorem State.output_outbox (s : State) (o : Output) : (s.output o).outbox = s.outbox := rfl
@[simp] theorem State.output_nextUid (s : State) (o : Output) : (s.output o).nextUid = s.nextUid := rfl
@[simp] theorem State.output_nextId (s : State) (o : Output) : (s.output o).nextId = s.nextId := rfl
@[simp] theorem State.output_fresh (s : State) (o : Output) : (s.output o).fresh = s.fresh := rfl
@[simp] theorem State.output_plan (s : State) (o : Output) : (s.output o).plan = s.plan := rfl
@[simp] theorem State.output_scrOps (s : State) (o : Output) : (s.output o).scrOps = s.scrOps := rfl
@[simp] theorem State.output_agenda (s : State) (o : Output) : (s.output o).agenda = s.agenda := rfl
@[simp] theorem State.output_focus (s : State) (o : Output) : (s.output o).focus = s.focus := rfl

end Sys2Proof.Machine
end

