-- ==== Sys2Proof/Laws/MemIssue.lean ====
section
/-! SUPPORT. Memory is left as it was by the operations of passes, accesses and homes. -/

namespace Sys2Proof.Machine

theorem ite_mem_to {c : Prop} [Decidable c] {s t u : State} (ht : t.mem = u.mem) (hs : s.mem = u.mem) :
    (if c then t else s).mem = u.mem := by split <;> assumption
@[simp] theorem ite_mem_same (c : Prop) [Decidable c] (s t : State) (h : t.mem = s.mem) : (if c then t else s).mem = s.mem := by
  split <;> simp [h]
theorem foldl_mem {α : Type} {f : State → α → State} (h : ∀ s a, (f s a).mem = s.mem) (l : List α) (s : State) :
    (l.foldl f s).mem = s.mem := by
  induction l generalizing s with
  | nil => rfl
  | cons a r ih => exact (ih (f s a)).trans (h s a)
@[simp] theorem State.scrWrite_mem (s : State) (u : Nat) (off : Nat) (bs : List W8) : (State.scrWrite s u off bs).mem = s.mem := by
  simp [State.scrWrite]
@[simp] theorem State.accWrite_mem (s : State) (u : Nat) (off : Nat) (bs : List W8) : (State.accWrite s u off bs).mem = s.mem := by
  simp [State.accWrite]
@[simp] theorem State.newId_mem (s : State) : (State.newId s).2.mem = s.mem := by
  simp [State.newId]
@[simp] theorem State.free_mem (s : State) (bitsN : Nat) : (State.free s bitsN).2.mem = s.mem := by
  simp [State.free]
@[simp] theorem State.putW_mem (s : State) (n : Nat) (v : W32) : (State.putW s n v).mem = s.mem := by
  simp only [State.putW]
  split <;> simp
@[simp] theorem State.putB_mem (s : State) (n : Nat) (v : Bool) : (State.putB s n v).mem = s.mem := by
  simp only [State.putB]
  repeat' split
  all_goals simp
@[simp] theorem State.putW64_mem (s : State) (n : Nat) (v : Nat) : (State.putW64 s n v).mem = s.mem := by
  simp [State.putW64]
@[simp] theorem State.advance_mem (s : State) : (State.advance s).mem = s.mem := by
  simp only [State.advance]
  split <;> simp
@[simp] theorem State.goto_mem (s : State) (va : Nat) : (State.goto s va).mem = s.mem := by
  simp only [State.goto]
  split <;> simp
@[simp] theorem State.nextClause_mem (s : State) : (State.nextClause s).mem = s.mem := by
  simp [State.nextClause]
@[simp] theorem State.cacheDist_mem (s : State) (c : Nat) (e : DistEntry) : (State.cacheDist s c e).mem = s.mem := by
  simp [State.cacheDist]
@[simp] theorem State.lookUp_mem (s : State) (p : Part) : (State.lookUp s p).1.mem = s.mem := by
  simp only [State.lookUp]
  split <;> simp
@[simp] theorem State.send_mem (s : State) (p : Part) : (State.send s p).mem = s.mem := by
  simp [State.send]
@[simp] theorem State.postNotice_mem (s : State) (n : Notice) : (State.postNotice s n).mem = s.mem := by
  simp [State.postNotice]
@[simp] theorem State.count_mem (s : State) (d : Nat) (vf : Nat) (code : Nat) (n : Nat) : (State.count s d vf code n).mem = s.mem := by
  simp only [State.count]
  split <;> simp
@[simp] theorem State.countErr_mem (s : State) (d : Nat) (k : Nat) (n : Nat) : (State.countErr s d k n).mem = s.mem := by
  simp only [State.countErr]
  split <;> simp
@[simp] theorem State.endLaunch_mem (s : State) (d : Nat) (lid : Nat) (status : Nat) (code : Nat) (trapa : Nat) (workid : Nat) : (State.endLaunch s d lid status code trapa workid).mem = s.mem := by
  simp only [State.endLaunch]
  repeat' split
  all_goals simp
@[simp] theorem State.writeRecord_mem (s : State) (u : Nat) (eq : Nat) (bytes : List W8) (clk : Nat) : (State.writeRecord s u eq bytes clk).mem = s.mem := by
  simp only [State.writeRecord]
  repeat' split
  all_goals simp
@[simp] theorem State.leaveCore_mem (s : State) (u : Nat) (zero : Bool) : (State.leaveCore s u zero).mem = s.mem := by
  simp [State.leaveCore]
@[simp] theorem State.freeSlot_mem (s : State) (core : Nat) (dist : Nat) (dom : Nat) : (State.freeSlot s core dist dom).mem = s.mem := by
  simp only [State.freeSlot]
  split <;> simp
@[simp] theorem State.freeBlock_mem (s : State) (u : Nat) (zero : Bool) : (State.freeBlock s u zero).mem = s.mem := by
  simp [State.freeBlock]
@[simp] theorem State.cancelEntries_mem (s : State) (u : Nat) : (State.cancelEntries s u).mem = s.mem := by
  simp only [State.cancelEntries]
  exact foldl_mem (fun _ _ => by split <;> simp) _ _
@[simp] theorem State.stopBlocks_mem (s : State) (f : Block → Bool) : (State.stopBlocks s f).mem = s.mem := by
  simp [State.stopBlocks]
@[simp] theorem State.killWith_mem (s : State) (d : Nat) (lid : Nat) (status : Nat) (code : Nat) (trapa : Nat) (workid : Nat) : (State.killWith s d lid status code trapa workid).mem = s.mem := by
  simp [State.killWith]
@[simp] theorem State.killLaunch_mem (s : State) (d : Nat) (lid : Nat) (code : Nat) (trapa : Nat) (workid : Nat) : (State.killLaunch s d lid code trapa workid).mem = s.mem := by
  simp [State.killLaunch]
@[simp] theorem State.trapWith_mem (s : State) (u : Nat) (g : Nat) (code : Nat) (arg : Nat) (trapa : Nat) (ks : List Nat) : (State.trapWith s u g code arg trapa ks).mem = s.mem := by
  simp [State.trapWith]
@[simp] theorem State.takeTrap_mem (s : State) (u : Nat) (g : Nat) : (State.takeTrap s u g).mem = s.mem := by
  simp only [State.takeTrap]
  repeat' split
  all_goals simp
@[simp] theorem State.threadFault_mem (s : State) (q : Nat) (code : Nat) : (State.threadFault s q code).mem = s.mem := by
  simp [State.threadFault]
@[simp] theorem State.trapPath_mem (s : State) (code : Nat) : (State.trapPath s code).mem = s.mem := by
  simp only [State.trapPath]
  split <;> simp

@[simp] theorem State.popQ_mem (s : State) (u : Nat) (k : Nat) : (State.popQ s u k).1.mem = s.mem := by
  simp [State.popQ]
@[simp] theorem State.reserveQ_mem (s : State) (u : Nat) (k : Nat) : (State.reserveQ s u k).1.mem = s.mem := by
  simp [State.reserveQ]
@[simp] theorem State.fillQ_mem (s : State) (u : Nat) (k : Nat) (ticket : Nat) (bytes : List W8) (time : Nat) : (State.fillQ s u k ticket bytes time).mem = s.mem := by
  simp [State.fillQ]
@[simp] theorem State.scrTime_mem (s : State) (u : Nat) (g : Nat) (ks : List Nat) (also : Nat) : (State.scrTime s u g ks also).1.mem = s.mem := by
  simp [State.scrTime]
@[simp] theorem State.popSrcs_mem (u g : Nat) (ks : List Nat) (os : List Opd) (s : State) :
    (s.popSrcs u g ks os).1.mem = s.mem := by
  induction os generalizing s with
  | nil => rfl
  | cons o r ih => cases o <;> simp [State.popSrcs, ih]
@[simp] theorem State.putUni_mem (s : State) (d : Opd) (v : W32) : (State.putUni s d v).mem = s.mem := by
  simp only [State.putUni]
  repeat' split
  all_goals simp
@[simp] theorem State.putUni64_mem (s : State) (d : Opd) (v : Nat) : (State.putUni64 s d v).mem = s.mem := by
  simp only [State.putUni64]
  split <;> simp

@[simp] theorem State.clearBad_mem (s : State) (ws : List Nat) : (State.clearBad s ws).mem = s.mem := by
  simp [State.clearBad]
@[simp] theorem State.stampRead_mem (s : State) (h : Nat) (line : Nat) (pts : Nat) (lam : Nat) : (State.stampRead s h line pts lam).1.mem = s.mem := by
  simp [State.stampRead]
@[simp] theorem State.stampWrite_mem (s : State) (h : Nat) (line : Nat) (pts : Nat) (wrote : Bool) : (State.stampWrite s h line pts wrote).1.mem = s.mem := by
  simp [State.stampWrite]
@[simp] theorem State.wakeArmed_mem (s : State) (line : Nat) (ts : Nat) (a : Armed) : (State.wakeArmed s line ts a).mem = s.mem := by
  simp only [State.wakeArmed]
  split <;> simp
@[simp] theorem State.wakeMonitors_mem (s : State) (h : Nat) (line : Nat) (ts : Nat) : (State.wakeMonitors s h line ts).mem = s.mem := by
  simp only [State.wakeMonitors]
  exact foldl_mem (fun _ _ => by simp) _ _
@[simp] theorem State.watchHits_mem (s : State) (h : Nat) (p : Part) (ts : Nat) (stopped : Bool) : (State.watchHits s h p ts stopped).mem = s.mem := by
  simp only [State.watchHits]
  exact foldl_mem (fun _ _ => by simp) _ _
@[simp] theorem State.countParked_mem (s : State) (p : Part) : (State.countParked s p).mem = s.mem := by
  simp [State.countParked]
@[simp] theorem State.park_mem (s : State) (h : Nat) (p : Part) (absent : Option (Nat × Nat)) : (State.park s h p absent).1.mem = s.mem := by
  simp only [State.park]
  repeat' split
  all_goals simp
@[simp] theorem State.countBad_mem (s : State) (h : Nat) (p : Part) (d : Nat) : (State.countBad s h p d).mem = s.mem := by
  simp [State.countBad]
@[simp] theorem State.serveHost_mem (s : State) (p : Part) (e : Nat) (addr : Nat) (off : Nat) : (State.serveHost s p e addr off).1.mem = s.mem := by
  simp only [State.serveHost]
  repeat' split
  all_goals simp
@[simp] theorem State.touch_mem (s : State) (h : Nat) (p : Part) : (State.touch s h p).mem = s.mem := by
  simp only [State.touch]
  split <;> simp
@[simp] theorem State.readCopy_mem (s : State) (h : Nat) (p : Part) (e : Nat) (off : Nat) (key : List W8) : (State.readCopy s h p e off key).1.mem = s.mem := by
  simp [State.readCopy]
@[simp] theorem State.setL2_mem (s : State) (cl : Nat) (ls : List CacheLine) : (State.setL2 s cl ls).mem = s.mem := by
  simp [State.setL2]
@[simp] theorem State.l2Fill_mem (s : State) (cl : Nat) (va : Nat) (data : List W8) (wts : Nat) (rts : Nat) (owner : Nat) (grant : Nat) : (State.l2Fill s cl va data wts rts owner grant).mem = s.mem := by
  simp [State.l2Fill]
@[simp] theorem State.l2Renew_mem (s : State) (cl : Nat) (c : CacheLine) (rts : Nat) (grant : Nat) : (State.l2Renew s cl c rts grant).mem = s.mem := by
  simp [State.l2Renew]
@[simp] theorem State.l2Store_mem (s : State) (cl : Nat) (va : Nat) (bytes : List W8) (ts : Nat) : (State.l2Store s cl va bytes ts).mem = s.mem := by
  simp [State.l2Store]
@[simp] theorem State.l2Posted_mem (s : State) (cl : Nat) (p : Part) (ts : Nat) : (State.l2Posted s cl p ts).mem = s.mem := by
  simp only [State.l2Posted]
  repeat' split
  all_goals simp
@[simp] theorem State.l2Drop_mem (s : State) (cl : Nat) (va : Nat) : (State.l2Drop s cl va).mem = s.mem := by
  simp [State.l2Drop]
@[simp] theorem State.l1Touch_mem (s : State) (c : Nat) (va : Nat) (hint : Nat) : (State.l1Touch s c va hint).mem = s.mem := by
  simp [State.l1Touch]
@[simp] theorem State.l1Fill_mem (s : State) (c : Nat) (va : Nat) (hint : Nat) (data : List W8) (wts : Nat) (rts : Nat) (grant : Nat) : (State.l1Fill s c va hint data wts rts grant).mem = s.mem := by
  simp only [State.l1Fill]
  split <;> simp
@[simp] theorem State.l1Store_mem (s : State) (c : Nat) (va : Nat) (hint : Nat) (bytes : List W8) (ts : Nat) : (State.l1Store s c va hint bytes ts).mem = s.mem := by
  simp [State.l1Store]
@[simp] theorem State.l1Drop_mem (s : State) (c : Nat) (va : Nat) : (State.l1Drop s c va).mem = s.mem := by
  simp [State.l1Drop]
@[simp] theorem State.wakePages_mem (s : State) (h : Nat) (cover : Nat → Bool) : (State.wakePages s h cover).mem = s.mem := by
  simp only [State.wakePages]
  (repeat' first | with_reducible rfl | (simp [*]; done) | (intro _) | (split <;> try (rename_i heq; have hm := congrArg (fun p => p.1.mem) heq; simp at hm; clear heq)) | (refine (foldl_mem ?_ _ _).trans ?_) | (simp [*]))

@[simp] theorem State.sawWork_mem (s : State) (core : Nat) (eq : Nat) (id : Nat) (t : Nat) : (State.sawWork s core eq id t).mem = s.mem := by
  simp [State.sawWork]
@[simp] theorem State.settleFences_mem (s : State) (core : Nat) : (State.settleFences s core).mem = s.mem := by
  simp only [State.settleFences]
  split <;> simp
@[simp] theorem State.launchSettle_mem (s : State) (d : Nat) (lid : Nat) : (State.launchSettle s d lid).mem = s.mem := by
  simp only [State.launchSettle]
  split <;> simp
@[simp] theorem State.blockSettle_mem (s : State) (u : Nat) : (State.blockSettle s u).mem = s.mem := by
  simp only [State.blockSettle]
  split <;> simp
@[simp] theorem State.exitSettle_mem (s : State) (u : Nat) (g : Nat) : (State.exitSettle s u g).mem = s.mem := by
  simp only [State.exitSettle]
  repeat' split
  all_goals simp
@[simp] theorem State.leaveLatch_mem (s : State) (u : Nat) (l : LatchArrival) (trap : Option Nat) (tlFalls : Bool) : (State.leaveLatch s u l trap tlFalls).mem = s.mem := by
  simp [State.leaveLatch]
@[simp] theorem State.latchSettle_mem (s : State) (u : Nat) (g : Nat) : (State.latchSettle s u g).mem = s.mem := by
  simp only [State.latchSettle]
  (repeat' first | with_reducible rfl | (simp [*]; done) | (intro _) | (split <;> try (rename_i heq; have hm := congrArg (fun p => p.1.mem) heq; simp at hm; clear heq)) | (refine (foldl_mem ?_ _ _).trans ?_) | (simp [*]))
@[simp] theorem State.dropOp_mem (s : State) (c : Nat) (id : Nat) : (State.dropOp s c id).mem = s.mem := by
  simp only [State.dropOp]
  (repeat' first | with_reducible rfl | (simp [*]; done) | (intro _) | (split <;> try (rename_i heq; have hm := congrArg (fun p => p.1.mem) heq; simp at hm; clear heq)) | (refine (foldl_mem ?_ _ _).trans ?_) | (simp [*]))
@[simp] theorem State.onSuspended_mem (s : State) (core : Nat) (id : Nat) (f : TileOp → TileOp) : (State.onSuspended s core id f).mem = s.mem := by
  simp [State.onSuspended]
@[simp] theorem State.leaveOps_mem (s : State) (u : Nat) (g : Nat) : (State.leaveOps s u g).mem = s.mem := by
  simp only [State.leaveOps]
  (repeat' first | with_reducible rfl | (simp [*]; done) | (intro _) | (split <;> try (rename_i heq; have hm := congrArg (fun p => p.1.mem) heq; simp at hm; clear heq)) | (refine (foldl_mem ?_ _ _).trans ?_) | (simp [*]))
@[simp] theorem State.settle_mem (s : State) (u : Nat) (g : Nat) : (State.settle s u g).mem = s.mem := by
  simp only [State.settle]
  repeat' split
  all_goals simp
@[simp] theorem State.scrPart_mem (s : State) (o : ScrOp) : (State.scrPart s o).1.mem = s.mem := by
  simp only [State.scrPart]
  split <;> simp
@[simp] theorem State.scrParts_mem (s : State) (y0 : List ScrOp) : (State.scrParts s y0).1.mem = s.mem := by
  induction y0 generalizing s <;> simp only [State.scrParts] <;>
    (repeat' first | with_reducible rfl | (simp [*]; done) | (intro _) | (split <;> try (rename_i heq; have hm := congrArg (fun p => p.1.mem) heq; simp at hm; clear heq)) | (refine (foldl_mem ?_ _ _).trans ?_) | (simp [*]))
@[simp] theorem State.scrResults_mem (s : State) (y0 : List (ScrOp × List W8)) : (State.scrResults s y0).mem = s.mem := by
  induction y0 generalizing s <;> simp only [State.scrResults] <;>
    (repeat' first | with_reducible rfl | (simp [*]; done) | (intro _) | (split <;> try (rename_i heq; have hm := congrArg (fun p => p.1.mem) heq; simp at hm; clear heq)) | (refine (foldl_mem ?_ _ _).trans ?_) | (simp [*]))
@[simp] theorem State.performScr_mem (s : State) : (State.performScr s).mem = s.mem := by
  simp [State.performScr]
@[simp] theorem State.endPass_mem (s : State) : (State.endPass s).mem = s.mem := by
  simp only [State.endPass]
  repeat' split
  all_goals simp
@[simp] theorem State.softRead_mem (s : State) (u : Nat) (g : Nat) (i : Instr) : (State.softRead s u g i).mem = s.mem := by
  simp only [State.softRead]
  repeat' split
  all_goals simp
theorem issueBy_mem (i : Instr) (s : State) {body : List Elem → State → State} (h : ∀ es t, (body es t).mem = t.mem) :
    (issueBy i s body).mem = s.mem := by
  simp only [issueBy]
  repeat' split
  all_goals simp [h]

@[simp] theorem State.awaitWb_mem (s : State) (u : Nat) (g : Nat) (wb : WriteBack) : (State.awaitWb s u g wb).mem = s.mem := by
  simp only [State.awaitWb]
  repeat' split
  all_goals simp
@[simp] theorem State.startMask_mem (s : State) (u : Nat) (g : Nat) (qs : List Nat) (res : List (Nat × Nat)) (ks : List Nat) : (State.startMask s u g qs res ks).mem = s.mem := by
  simp only [State.startMask]
  (repeat' first | with_reducible rfl | (simp [*]; done) | (intro _) | (split <;> try (rename_i heq; have hm := congrArg (fun p => p.1.mem) heq; simp at hm; clear heq)) | (refine (foldl_mem ?_ _ _).trans ?_) | (simp [*]))
@[simp] theorem State.deliver_mem (s : State) (u : Nat) (g : Nat) (f : LaneForm) (res : List (Nat × Nat)) (preds : List (Nat × List (Nat × Bool))) : (State.deliver s u g f res preds).mem = s.mem := by
  simp only [State.deliver]
  (repeat' first | with_reducible rfl | (simp [*]; done) | (intro _) | (split <;> try (rename_i heq; have hm := congrArg (fun p => p.1.mem) heq; simp at hm; clear heq)) | (refine (foldl_mem ?_ _ _).trans ?_) | (simp [*]))
@[simp] theorem State.lanes_mem (s : State) (i : Instr) (es : List Elem) (fs : List Fmt) (op : List Nat → Nat) : (State.lanes s i es fs op).mem = s.mem := by
  simp only [State.lanes]
  split <;> simp
@[simp] theorem State.lanesOld_mem (s : State) (i : Instr) (es : List Elem) (fs : List Fmt) (op : Nat → List Nat → Nat) : (State.lanesOld s i es fs op).mem = s.mem := by
  simp only [State.lanesOld]
  split <;> simp
@[simp] theorem State.compares_mem (s : State) (i : Instr) (es : List Elem) (fs : List Fmt) (x : Fx) (cond : Nat → Nat → Bool) : (State.compares s i es fs x cond).mem = s.mem := by
  simp only [State.compares]
  split <;> simp
@[simp] theorem State.serveQ_mem (s : State) (u : Nat) (q : Nat) : (State.serveQ s u q).mem = s.mem := by
  simp [State.serveQ]
@[simp] theorem State.pushNow_mem (s : State) (u : Nat) (g : Nat) (q : Nat) (ticket : Nat) (bytes : List W8) (ks : List Nat) : (State.pushNow s u g q ticket bytes ks).mem = s.mem := by
  simp [State.pushNow]
@[simp] theorem State.landWb_mem (s : State) (u : Nat) (g : Nat) : (State.landWb s u g).mem = s.mem := by
  simp only [State.landWb]
  repeat' split
  all_goals simp
@[simp] theorem State.acceptMask_mem (s : State) (u : Nat) (g : Nat) (q : Nat) : (State.acceptMask s u g q).mem = s.mem := by
  simp only [State.acceptMask]
  repeat' split
  all_goals simp
@[simp] theorem State.maskTurn_mem (s : State) (u : Nat) (g : Nat) (q : Nat) : (State.maskTurn s u g q).mem = s.mem := by
  simp [State.maskTurn]
@[simp] theorem State.laneTurn_mem (s : State) (u : Nat) (g : Nat) : (State.laneTurn s u g).mem = s.mem := by
  simp only [State.laneTurn]
  (repeat' first | with_reducible rfl | (simp [*]; done) | (intro _) | (split <;> try (rename_i heq; have hm := congrArg (fun p => p.1.mem) heq; simp at hm; clear heq)) | (refine (foldl_mem ?_ _ _).trans ?_) | (simp [*]))

@[simp] theorem State.exchange_mem (s : State) (i : Instr) (ks : List Nat) (op : Group → LaneForm → Nat → Nat) (preds : Group → List (Nat × List (Nat × Bool))) : (State.exchange s i ks op preds).mem = s.mem := by
  simp only [State.exchange]
  repeat' split
  all_goals simp

@[simp] theorem State.branch_mem (s : State) (u : Nat) (g : Nat) (ks : List Nat) (taken : List Nat) (va : Nat) : (State.branch s u g ks taken va).mem = s.mem := by
  simp [State.branch]
@[simp] theorem State.waitIn_mem (s : State) (w : Wait) : (State.waitIn s w).mem = s.mem := by
  simp only [State.waitIn]
  split <;> simp
@[simp] theorem State.triggerStrands_mem (s : State) (u : Nat) (g : Nat) (ks : List Nat) : (State.triggerStrands s u g ks).mem = s.mem := by
  simp [State.triggerStrands]
@[simp] theorem State.exitStrands_mem (s : State) (u : Nat) (g : Nat) (ks : List Nat) : (State.exitStrands s u g ks).mem = s.mem := by
  simp [State.exitStrands]
@[simp] theorem State.haltThread_mem (s : State) (q : Nat) : (State.haltThread s q).mem = s.mem := by
  simp [State.haltThread]
@[simp] theorem State.resumeOps_mem (s : State) (u : Nat) (g : Nat) : (State.resumeOps s u g).mem = s.mem := by
  simp only [State.resumeOps]
  (repeat' first | with_reducible rfl | (simp [*]; done) | (intro _) | (split <;> try (rename_i heq; have hm := congrArg (fun p => p.1.mem) heq; simp at hm; clear heq)) | (refine (foldl_mem ?_ _ _).trans ?_) | (simp [*]))
@[simp] theorem State.startCue_mem (s : State) (u : Nat) (g : Nat) (n : Nat) : (State.startCue s u g n).mem = s.mem := by
  simp [State.startCue]

@[simp] theorem State.sendParts_mem (s : State) (y0 : List Part) : (State.sendParts s y0).1.mem = s.mem := by
  induction y0 generalizing s <;> simp [State.sendParts, *]
@[simp] theorem State.openIssue_mem (s : State) (e : Issue) (ps : List Part) : (State.openIssue s e ps).mem = s.mem := by
  simp only [State.openIssue]
  split <;> simp
@[simp] theorem State.closePart_mem (s : State) (p : Part) (ts : Nat) : (State.closePart s p ts).mem = s.mem := by
  simp only [State.closePart]
  split <;> simp
@[simp] theorem State.askAt_mem (s : State) (p : Part) (r : Option (Nat × Nat)) : (State.askAt s p r).1.mem = s.mem := by
  simp only [State.askAt]
  repeat' split
  all_goals simp
@[simp] theorem State.ask_mem (s : State) (p : Part) : (State.ask s p).1.mem = s.mem := by
  simp [State.ask]
@[simp] theorem State.dropSrc_mem (s : State) (src : PartSrc) : (State.dropSrc s src).mem = s.mem := by
  simp [State.dropSrc]
@[simp] theorem State.faultStrand_mem (s : State) (u : Nat) (g : Nat) (k : Nat) (code : Nat) : (State.faultStrand s u g k code).mem = s.mem := by
  simp [State.faultStrand]
@[simp] theorem State.checkAll_mem (s : State) (u : Nat) (g : Nat) (align : Nat) (need : Nat) (opnds : Nat → Nat × List W8 × List W8) (y0 : List Nat) : (State.checkAll s u g align need opnds y0).1.mem = s.mem := by
  induction y0 generalizing s <;> simp only [State.checkAll] <;>
    (repeat' first | with_reducible rfl | (simp [*]; done) | (intro _) | (split <;> try (rename_i heq; have hm := congrArg (fun p => p.1.mem) heq; simp at hm; clear heq)) | (refine (foldl_mem ?_ _ _).trans ?_) | (simp [*]))
@[simp] theorem State.l1Corrected_mem (s : State) (c : Nat) (va : Nat) (d : Nat) : (State.l1Corrected s c va d).mem = s.mem := by
  simp [State.l1Corrected]
@[simp] theorem State.l1Serve_mem (s : State) (id : Nat) : (State.l1Serve s id).mem = s.mem := by
  simp only [State.l1Serve]
  repeat' split
  all_goals simp
@[simp] theorem State.countCollapsed_mem (s : State) (u : Nat) (on : Bool) (ps : List Part) : (State.countCollapsed s u on ps).mem = s.mem := by
  simp [State.countCollapsed]
@[simp] theorem State.memAccess_mem (s : State) (e : Issue) (kind : PartKind) (align : Nat) (need : Nat) (collapse : Bool) (p : Pr) (hint : Nat) (aop : Nat) (ty : Nat) (opnds : Nat → Nat × List W8 × List W8) : (State.memAccess s e kind align need collapse p hint aop ty opnds).mem = s.mem := by
  simp only [State.memAccess]
  (repeat' first | with_reducible rfl | (simp [*]; done) | (intro _) | (split <;> try (rename_i heq; have hm := congrArg (fun p => p.1.mem) heq; simp at hm; clear heq)) | (refine (foldl_mem ?_ _ _).trans ?_) | (simp [*]))
@[simp] theorem State.setThread_mem (s : State) (q : Nat) (f : Thread → Thread) : (State.setThread s q f).mem = s.mem := by
  simp [State.setThread]
@[simp] theorem State.countThread_mem (s : State) (q : Nat) (code : Nat) : (State.countThread s q code).mem = s.mem := by
  simp [State.countThread]
@[simp] theorem State.threadAccess_mem (s : State) (q : Nat) (p : Part) (k : List W8 → State → State) (hk : ∀ a0 a1, (k a0 a1).mem = a1.mem) : (State.threadAccess s q p k).mem = s.mem := by
  simp only [State.threadAccess]
  (repeat' first | with_reducible rfl | (simp [*]; done) | (intro _) | (split <;> try (rename_i heq; have hm := congrArg (fun p => p.1.mem) heq; simp at hm; clear heq)) | (refine (foldl_mem ?_ _ _).trans ?_) | (simp [*]))
@[simp] theorem State.wRequests_mem (s : State) (u : Nat) (g : Nat) (kind : PartKind) (va : Nat) (n : Nat) (need : Nat) (data : List W8) (y0 : List (Option Replay × List Nat)) : (State.wRequests s u g kind va n need data y0).1.mem = s.mem := by
  induction y0 generalizing s <;> simp only [State.wRequests] <;>
    (repeat' first | with_reducible rfl | (simp [*]; done) | (intro _) | (split <;> try (rename_i heq; have hm := congrArg (fun p => p.1.mem) heq; simp at hm; clear heq)) | (refine (foldl_mem ?_ _ _).trans ?_) | (simp [*]))
@[simp] theorem State.wAccess_mem (s : State) (e : Issue) (kind : PartKind) (va : Nat) (n : Nat) (need : Nat) (data : List W8) (p : Pr) (hint : Nat) : (State.wAccess s e kind va n need data p hint).mem = s.mem := by
  simp only [State.wAccess]
  (repeat' first | with_reducible rfl | (simp [*]; done) | (intro _) | (split <;> try (rename_i heq; have hm := congrArg (fun p => p.1.mem) heq; simp at hm; clear heq)) | (refine (foldl_mem ?_ _ _).trans ?_) | (simp [*]))
@[simp] theorem putWords_mem (s : State) (d : Opd) (bytes : List W8) : (putWords s d bytes).mem = s.mem := by
  simp only [putWords]
  (repeat' first | with_reducible rfl | (simp [*]; done) | (intro _) | (split <;> try (rename_i heq; have hm := congrArg (fun p => p.1.mem) heq; simp at hm; clear heq)) | (refine (foldl_mem ?_ _ _).trans ?_) | (simp [*]))
@[simp] theorem State.scrAccess_mem (s : State) (o : ScrOp) (collapse : Bool) (addr : Nat → Nat) (data : Nat → List W8) (cmp : Nat → List W8) (ks : List Nat) : (State.scrAccess s o collapse addr data cmp ks).mem = s.mem := by
  simp only [State.scrAccess]
  (repeat' first | with_reducible rfl | (simp [*]; done) | (intro _) | (split <;> try (rename_i heq; have hm := congrArg (fun p => p.1.mem) heq; simp at hm; clear heq)) | (refine (foldl_mem ?_ _ _).trans ?_) | (simp [*]))
@[simp] theorem State.disarm_mem (s : State) (a : Armed) : (State.disarm s a).mem = s.mem := by
  simp [State.disarm]
@[simp] theorem State.toFabric_mem (s : State) (p : Part) : (State.toFabric s p).mem = s.mem := by
  simp [State.toFabric]
@[simp] theorem State.answer_mem (s : State) (p : Part) (a : HAns) : (State.answer s p a).mem = s.mem := by
  simp only [State.answer]
  repeat' split
  all_goals simp
@[simp] theorem State.l2Hit_mem (s : State) (p : Part) (c : CacheLine) : (State.l2Hit s p c).mem = s.mem := by
  simp [State.l2Hit]
@[simp] theorem State.l2Miss_mem (s : State) (cl : Nat) (p : Part) (d : List W8) (w : Nat) (rts : Nat) (bad : Nat) : (State.l2Miss s cl p d w rts bad).mem = s.mem := by
  simp [State.l2Miss]
@[simp] theorem State.sliceSees_mem (s : State) (p : Part) (r : Reply) : (State.sliceSees s p r).mem = s.mem := by
  simp only [State.sliceSees]
  repeat' split
  all_goals simp
@[simp] theorem State.arm_mem (s : State) (p : Part) : (State.arm s p).mem = s.mem := by
  simp only [State.arm]
  repeat' split
  all_goals simp
@[simp] theorem State.withdraw_mem (s : State) (u : Nat) (g : Nat) (after : Nat) (ks : List Nat) : (State.withdraw s u g after ks).mem = s.mem := by
  simp only [State.withdraw]
  (repeat' first | with_reducible rfl | (simp [*]; done) | (intro _) | (split <;> try (rename_i heq; have hm := congrArg (fun p => p.1.mem) heq; simp at hm; clear heq)) | (refine (foldl_mem ?_ _ _).trans ?_) | (simp [*]))
@[simp] theorem State.backTo_mem (s : State) (p : Part) (u : Nat) (g : Nat) (ks : List Nat) (st : StrandSt) : (State.backTo s p u g ks st).mem = s.mem := by
  simp only [State.backTo]
  split <;> simp
@[simp] theorem State.pstRelease_mem (s : State) (core : Nat) (y0 : Nat) : (State.pstRelease s core y0).mem = s.mem := by
  induction y0 generalizing s <;> simp only [State.pstRelease] <;>
    (repeat' first | with_reducible rfl | (simp [*]; done) | (intro _) | (split <;> try (rename_i heq; have hm := congrArg (fun p => p.1.mem) heq; simp at hm; clear heq)) | (refine (foldl_mem ?_ _ _).trans ?_) | (simp [*]))
@[simp] theorem State.strandReply_mem (s : State) (p : Part) (u : Nat) (g : Nat) (ks : List Nat) (r : Reply) : (State.strandReply s p u g ks r).mem = s.mem := by
  simp only [State.strandReply]
  (repeat' first | with_reducible rfl | (simp [*]; done) | (intro _) | (split <;> try (rename_i heq; have hm := congrArg (fun p => p.1.mem) heq; simp at hm; clear heq)) | (refine (foldl_mem ?_ _ _).trans ?_) | (simp [*]))
@[simp] theorem State.writeLoad_mem (s : State) (e : Issue) (ks : List Nat) (bytes : List W8) : (State.writeLoad s e ks bytes).mem = s.mem := by
  simp [State.writeLoad]
@[simp] theorem State.wakePart_mem (s : State) (p : Part) : (State.wakePart s p).mem = s.mem := by
  simp only [State.wakePart]
  repeat' split
  all_goals simp

end Sys2Proof.Machine
end

