-- ==== Sys2Proof/Laws/MemEngines.lean ====
section
/-! SUPPORT. Memory is left as it was by the fabric, the queues and the engines. -/

namespace Sys2Proof.Machine

@[simp] theorem State.sendPacket_mem (s : State) (k : Packet) : (State.sendPacket s k).mem = s.mem := by
  simp [State.sendPacket]
@[simp] theorem State.routeOut_mem (s : State) : (State.routeOut s).mem = s.mem := by
  simp only [State.routeOut]
  exact foldl_mem (fun _ _ => by split <;> simp) _ _
@[simp] theorem State.putFlit_mem (s : State) (l : Nat) (f : Flit) : (State.putFlit s l f).mem = s.mem := by
  simp only [State.putFlit]
  repeat' split
  all_goals simp
@[simp] theorem State.sendFlit_mem (s : State) (l : Nat) (t : TxPacket) (own : Bool) : (State.sendFlit s l t own).mem = s.mem := by
  simp [State.sendFlit]
@[simp] theorem State.dropPacket_mem (s : State) (l : Nat) (head : List W8) : (State.dropPacket s l head).mem = s.mem := by
  simp [State.dropPacket]
@[simp] theorem State.assemble_mem (s : State) (l : Nat) (f : Flit) : (State.assemble s l f).mem = s.mem := by
  simp only [State.assemble]
  repeat' split
  all_goals simp
@[simp] theorem State.setHalts_mem (s : State) (l : Nat) : (State.setHalts s l).mem = s.mem := by
  simp [State.setHalts]
@[simp] theorem State.gateMiss_mem (s : State) : (State.gateMiss s).mem = s.mem := by
  simp [State.gateMiss]
@[simp] theorem State.gated_mem (s : State) (master : Nat) (k : State → State) (hk : ∀ a0, (k a0).mem = a0.mem) : (State.gated s master k).mem = s.mem := by
  simp only [State.gated]
  (repeat' first | with_reducible rfl | (simp [*]; done) | (intro _) | (split <;> try (rename_i heq; have hm := congrArg (fun p => p.1.mem) heq; simp at hm; clear heq)) | (refine (foldl_mem ?_ _ _).trans ?_) | (simp [*]))
@[simp] theorem State.resendFrom_mem (s : State) (l : Nat) (state : Nat) : (State.resendFrom s l state).mem = s.mem := by
  simp [State.resendFrom]
@[simp] theorem State.takeLines_mem (s : State) (l : Nat) : (State.takeLines s l).mem = s.mem := by
  simp [State.takeLines]
@[simp] theorem State.stopLink_mem (s : State) (link : Nat) : (State.stopLink s link).mem = s.mem := by
  simp [State.stopLink]
@[simp] theorem State.writeAvt_mem (s : State) (link : Nat) (entries : List (Nat × Nat)) : (State.writeAvt s link entries).mem = s.mem := by
  simp only [State.writeAvt]
  repeat' split
  all_goals simp
@[simp] theorem State.plazaMessage_mem (s : State) (h : Nat) (line : Nat) (op : Nat) (clk : Nat) (data : List W8) : (State.plazaMessage s h line op clk data).mem = s.mem := by
  simp [State.plazaMessage]
@[simp] theorem State.keepReply_mem (s : State) (src : Nat) (tag : Nat) (phase : Nat) (k : Packet) : (State.keepReply s src tag phase k).mem = s.mem := by
  simp [State.keepReply]
@[simp] theorem State.takeRequest_mem (s : State) (k : Packet) : (State.takeRequest s k).mem = s.mem := by
  simp only [State.takeRequest]
  repeat' split
  all_goals simp
@[simp] theorem State.takeRelease_mem (s : State) (k : Packet) : (State.takeRelease s k).mem = s.mem := by
  simp only [State.takeRelease]
  repeat' split
  all_goals simp
@[simp] theorem State.remoteReply_mem (s : State) (p : Part) (src : Nat) (tag : Nat) (r : Reply) : (State.remoteReply s p src tag r).mem = s.mem := by
  simp only [State.remoteReply]
  repeat' split
  all_goals simp
@[simp] theorem State.wakeLine_mem (s : State) (line : Nat) (ts : Nat) : (State.wakeLine s line ts).mem = s.mem := by
  simp only [State.wakeLine]
  (repeat' first | with_reducible rfl | (simp [*]; done) | (intro _) | (split <;> try (rename_i heq; have hm := congrArg (fun p => p.1.mem) heq; simp at hm; clear heq)) | (refine (foldl_mem ?_ _ _).trans ?_) | (simp [*]))
@[simp] theorem State.takeWake_mem (s : State) (k : Packet) : (State.takeWake s k).mem = s.mem := by
  simp only [State.takeWake]
  split <;> simp
@[simp] theorem State.inAvenue_mem (s : State) (k : Packet) : (State.inAvenue s k).mem = s.mem := by
  simp [State.inAvenue]
@[simp] theorem State.answered_mem (s : State) (k : Packet) : (State.answered s k).mem = s.mem := by
  simp only [State.answered]
  repeat' split
  all_goals simp
@[simp] theorem State.takePacket_mem (s : State) (k : Packet) : (State.takePacket s k).mem = s.mem := by
  unfold State.takePacket
  repeat' refine ite_mem_to ?_ ?_
  all_goals first
    | (simp; done)
    | (split <;> simp)
@[simp] theorem State.considerDelegation_mem (s : State) (k : Packet) : (State.considerDelegation s k).mem = s.mem := by
  simp only [State.considerDelegation]
  split <;> simp

@[simp] theorem State.putQueued_mem (s : State) (d : Opd) (f : Nat → W32) : (State.putQueued s d f).mem = s.mem := by
  simp only [State.putQueued]
  repeat' split
  all_goals simp
@[simp] theorem State.releaseSlot_mem (s : State) (u : Nat) (k : Nat) : (State.releaseSlot s u k).mem = s.mem := by
  simp [State.releaseSlot]
@[simp] theorem State.reserveRelease_mem (s : State) (u : Nat) (k : Nat) (entry : Nat) : (State.reserveRelease s u k entry).mem = s.mem := by
  simp [State.reserveRelease]
@[simp] theorem State.performReleases_mem (s : State) (u : Nat) (k : Nat) (y0 : Nat) : (State.performReleases s u k y0).mem = s.mem := by
  induction y0 generalizing s <;> simp only [State.performReleases] <;>
    (repeat' first | with_reducible rfl | (simp [*]; done) | (intro _) | (split <;> try (rename_i heq; have hm := congrArg (fun p => p.1.mem) heq; simp at hm; clear heq)) | (refine (foldl_mem ?_ _ _).trans ?_) | (simp [*]))
@[simp] theorem State.endRelease_mem (s : State) (u : Nat) (k : Nat) (entry : Nat) (t : Nat) : (State.endRelease s u k entry t).mem = s.mem := by
  simp [State.endRelease]
@[simp] theorem State.newPhase_mem (s : State) (u : Nat) (off : Nat) (t : Nat) (x : Barrier) : (State.newPhase s u off t x).mem = s.mem := by
  simp [State.newPhase]
@[simp] theorem State.setBarrier_mem (s : State) (u : Nat) (off : Nat) (t : Nat) (x : Barrier) : (State.setBarrier s u off t x).mem = s.mem := by
  simp [State.setBarrier]
@[simp] theorem State.arrive_mem (s : State) (u : Nat) (g : Nat) (off : Nat) (credit : Nat) : (State.arrive s u g off credit).mem = s.mem := by
  simp [State.arrive]
@[simp] theorem State.debit_mem (s : State) (u : Nat) (off : Nat) (n : Nat) (t : Nat) : (State.debit s u off n t).mem = s.mem := by
  simp [State.debit]
@[simp] theorem State.brmtDone_mem (s : State) (id : Nat) : (State.brmtDone s id).mem = s.mem := by
  simp only [State.brmtDone]
  (repeat' first | with_reducible rfl | (simp [*]; done) | (intro _) | (split <;> try (rename_i heq; have hm := congrArg (fun p => p.1.mem) heq; simp at hm; clear heq)) | (refine (foldl_mem ?_ _ _).trans ?_) | (simp [*]))
@[simp] theorem State.applyArrival_mem (s : State) (u : Nat) (off : Nat) (id : Nat) (tick : Nat) : (State.applyArrival s u off id tick).mem = s.mem := by
  simp [State.applyArrival]

@[simp] theorem State.fetchLines_mem (s : State) (t : Part) (y0 : List (Nat × Nat × Nat)) (y1 : Got) (y2 : Bool) : (State.fetchLines s t y0 y1 y2).1.mem = s.mem := by
  induction y0 generalizing s y1 y2 <;> simp only [State.fetchLines] <;>
    (repeat' first | with_reducible rfl | (simp [*]; done) | (intro _) | (split <;> try (rename_i heq; have hm := congrArg (fun p => p.1.mem) heq; simp at hm; clear heq)) | (refine (foldl_mem ?_ _ _).trans ?_) | (simp [*]))
@[simp] theorem State.fetchSpans_mem (s : State) (t : Part) (l : List (Nat × Nat)) : (State.fetchSpans s t l).1.mem = s.mem := by
  simp [State.fetchSpans]
@[simp] theorem State.sendWrites_mem (s : State) (y0 : List Part) : (State.sendWrites s y0).1.mem = s.mem := by
  induction y0 generalizing s <;> simp only [State.sendWrites] <;>
    (repeat' first | with_reducible rfl | (simp [*]; done) | (intro _) | (split <;> try (rename_i heq; have hm := congrArg (fun p => p.1.mem) heq; simp at hm; clear heq)) | (refine (foldl_mem ?_ _ _).trans ?_) | (simp [*]))
@[simp] theorem State.releaseParts_mem (s : State) (l : List Part) : (State.releaseParts s l).mem = s.mem := by
  simp only [State.releaseParts]
  exact foldl_mem (fun _ _ => by simp) _ _
@[simp] theorem State.scrApply_mem (s : State) (u : Nat) (t : Nat) (l : List WByte) : (State.scrApply s u t l).mem = s.mem := by
  simp only [State.scrApply]
  (repeat' first | with_reducible rfl | (simp [*]; done) | (intro _) | (split <;> try (rename_i heq; have hm := congrArg (fun p => p.1.mem) heq; simp at hm; clear heq)) | (refine (foldl_mem ?_ _ _).trans ?_) | (simp [*]))
@[simp] theorem State.dropWhere_mem (s : State) (src : PartSrc) (f : Part → Bool) : (State.dropWhere s src f).mem = s.mem := by
  simp [State.dropWhere]

@[simp] theorem State.enqueue_mem (s : State) (k : Nat) (e : Entry) (checks : List (Bool × Nat)) : (State.enqueue s k e checks).mem = s.mem := by
  simp only [State.enqueue]
  repeat' split
  all_goals simp
@[simp] theorem State.setRing_mem (s : State) (u : Nat) (k : Nat) (r : Option Ring) : (State.setRing s u k r).mem = s.mem := by
  simp [State.setRing]
@[simp] theorem State.withReads_mem (s : State) (t : Part) (l : List (Nat × Nat)) (k : State → Got → State × Job) (hk : ∀ a0 a1, (k a0 a1).1.mem = a0.mem) : (State.withReads s t l k).1.mem = s.mem := by
  simp only [State.withReads]
  (repeat' first | with_reducible rfl | (simp [*]; done) | (intro _) | (split <;> try (rename_i heq; have hm := congrArg (fun p => p.1.mem) heq; simp at hm; clear heq)) | (refine (foldl_mem ?_ _ _).trans ?_) | (simp [*]))
@[simp] theorem State.cpyJob_mem (s : State) (t : Part) (e : Entry) (c : Nat) : (State.cpyJob s t e c).1.mem = s.mem := by
  simp only [State.cpyJob]
  split <;> simp
@[simp] theorem State.cpytJob_mem (s : State) (t : Part) (e : Entry) (c : Nat) : (State.cpytJob s t e c).1.mem = s.mem := by
  simp [State.cpytJob]
@[simp] theorem State.gathJob_mem (s : State) (t : Part) (e : Entry) (mode : Nat) (c : Nat) (gath : Bool) : (State.gathJob s t e mode c gath).1.mem = s.mem := by
  simp [State.gathJob]
@[simp] theorem State.rcpyJob_mem (s : State) (t : Part) (e : Entry) (mode : Nat) (c : Nat) : (State.rcpyJob s t e mode c).1.mem = s.mem := by
  simp only [State.rcpyJob]
  split <;> simp

@[simp] theorem State.withGuards_mem (s : State) (t : Part) (e : Entry) (ar : Record) (js : List Nat) (k : State → Entry → State × Job) (hk : ∀ a0 a1, (k a0 a1).1.mem = a0.mem) : (State.withGuards s t e ar js k).1.mem = s.mem := by
  simp only [State.withGuards]
  (repeat' first | with_reducible rfl | (simp [*]; done) | (intro _) | (split <;> try (rename_i heq; have hm := congrArg (fun p => p.1.mem) heq; simp at hm; clear heq)) | (refine (foldl_mem ?_ _ _).trans ?_) | (refine (State.withReads_mem _ _ _ _ ?_).trans ?_) | (simp [*]))
@[simp] theorem State.withElems_mem (s : State) (t : Part) (e : Entry) (r : Record) (guard : Bool) (xs : List Src) (k : State → Entry → List (Option Nat) → State × Job) (hk : ∀ a0 a1 a2, (k a0 a1 a2).1.mem = a0.mem) : (State.withElems s t e r guard xs k).1.mem = s.mem := by
  simp only [State.withElems]
  (repeat' first | with_reducible rfl | (simp [*]; done) | (intro _) | (split <;> try (rename_i heq; have hm := congrArg (fun p => p.1.mem) heq; simp at hm; clear heq)) | (refine (foldl_mem ?_ _ _).trans ?_) | (refine (State.withReads_mem _ _ _ _ ?_).trans ?_) | (refine (State.withGuards_mem _ _ _ _ _ _ ?_).trans ?_) | (simp [*]))
@[simp] theorem State.elementJob_mem (s : State) (t : Part) (e : Entry) (c : Nat) : (State.elementJob s t e c).1.mem = s.mem := by
  simp only [State.elementJob]
  (repeat' first | with_reducible rfl | (simp [*]; done) | (intro _) | (split <;> try (rename_i heq; have hm := congrArg (fun p => p.1.mem) heq; simp at hm; clear heq)) | (refine (foldl_mem ?_ _ _).trans ?_) | (refine (State.withElems_mem _ _ _ _ _ _ _ ?_).trans ?_) | (simp [*]))
@[simp] theorem State.crcgJob_mem (s : State) (t : Part) (e : Entry) (c : Nat) : (State.crcgJob s t e c).1.mem = s.mem := by
  simp [State.crcgJob]
@[simp] theorem State.crcvJob_mem (s : State) (t : Part) (e : Entry) (c : Nat) : (State.crcvJob s t e c).1.mem = s.mem := by
  simp only [State.crcvJob]
  (repeat' first | with_reducible rfl | (simp [*]; done) | (intro _) | (split <;> try (rename_i heq; have hm := congrArg (fun p => p.1.mem) heq; simp at hm; clear heq)) | (refine (foldl_mem ?_ _ _).trans ?_) | (refine (State.withReads_mem _ _ _ _ ?_).trans ?_) | (simp [*]))
@[simp] theorem State.bdxdStart_mem (s : State) (t : Part) (e : Entry) : (State.bdxdStart s t e).1.mem = s.mem := by
  simp only [State.bdxdStart]
  (repeat' first | with_reducible rfl | (simp [*]; done) | (intro _) | (split <;> try (rename_i heq; have hm := congrArg (fun p => p.1.mem) heq; simp at hm; clear heq)) | (refine (foldl_mem ?_ _ _).trans ?_) | (refine (State.withReads_mem _ _ _ _ ?_).trans ?_) | (simp [*]))
@[simp] theorem State.bdxLane_mem (s : State) (t : Part) (e : Entry) (n : Nat) : (State.bdxLane s t e n).1.mem = s.mem := by
  simp only [State.bdxLane]
  (repeat' first | with_reducible rfl | (simp [*]; done) | (intro _) | (split <;> try (rename_i heq; have hm := congrArg (fun p => p.1.mem) heq; simp at hm; clear heq)) | (refine (foldl_mem ?_ _ _).trans ?_) | (simp [*]))
@[simp] theorem State.bdxdJob_mem (s : State) (t : Part) (e : Entry) (c : Nat) : (State.bdxdJob s t e c).1.mem = s.mem := by
  simp only [State.bdxdJob]
  repeat' split
  all_goals simp
@[simp] theorem State.bdxeJob_mem (s : State) (t : Part) (e : Entry) (zw : Nat) (c : Nat) : (State.bdxeJob s t e zw c).1.mem = s.mem := by
  simp only [State.bdxeJob]
  split <;> simp
@[simp] theorem State.chunkJob_mem (s : State) (t : Part) (e : Entry) (c : Nat) : (State.chunkJob s t e c).1.mem = s.mem := by
  simp only [State.chunkJob]
  split <;> simp

@[simp] theorem State.onEntry_mem (s : State) (core : Nat) (eq : Nat) (id : Nat) (f : Entry → Entry) : (State.onEntry s core eq id f).mem = s.mem := by
  simp [State.onEntry]
@[simp] theorem State.sawEntry_mem (s : State) (e : Entry) : (State.sawEntry s e).mem = s.mem := by
  simp only [State.sawEntry]
  (repeat' first | with_reducible rfl | (simp [*]; done) | (intro _) | (split <;> try (rename_i heq; have hm := congrArg (fun p => p.1.mem) heq; simp at hm; clear heq)) | (refine (foldl_mem ?_ _ _).trans ?_) | (simp [*]))
@[simp] theorem State.endEntry_mem (s : State) (core : Nat) (eq : Nat) (e : Entry) (status : Nat) (fcode : Nat) (fva : Nat) (done : Nat) : (State.endEntry s core eq e status fcode fva done).mem = s.mem := by
  simp [State.endEntry]
@[simp] theorem State.pendTrap_mem (s : State) (u : Nat) (g : Nat) (code : Nat) (addr : Nat) (op : Option Nat := none) : (State.pendTrap s u g code addr op).mem = s.mem := by
  simp [State.pendTrap]
@[simp] theorem State.closeEntry_mem (s : State) (core : Nat) (eq : Nat) (e : Entry) : (State.closeEntry s core eq e).mem = s.mem := by
  simp only [State.closeEntry]
  (repeat' first | with_reducible rfl | (simp [*]; done) | (intro _) | (split <;> try (rename_i heq; have hm := congrArg (fun p => p.1.mem) heq; simp at hm; clear heq)) | (refine (foldl_mem ?_ _ _).trans ?_) | (simp [*]))
@[simp] theorem State.lostRecord_mem (s : State) (e : Entry) (code : Nat) : (State.lostRecord s e code).mem = s.mem := by
  simp [State.lostRecord]
@[simp] theorem State.postRecord_mem (s : State) (core : Nat) (eq : Nat) (e : Entry) : (State.postRecord s core eq e).1.mem = s.mem := by
  simp only [State.postRecord]
  (repeat' first | with_reducible rfl | (simp [*]; done) | (intro _) | (split <;> try (rename_i heq; have hm := congrArg (fun p => p.1.mem) heq; simp at hm; clear heq)) | (refine (foldl_mem ?_ _ _).trans ?_) | (simp [*]))
@[simp] theorem State.countChunk_mem (s : State) (old : Entry) (new : Entry) : (State.countChunk s old new).mem = s.mem := by
  simp only [State.countChunk]
  refine (foldl_mem (fun _ _ => ?_) _ _).trans ?_ <;> simp
@[simp] theorem State.chunkDone_mem (s : State) (core : Nat) (eq : Nat) (e : Entry) (ps : List Part) : (State.chunkDone s core eq e ps).mem = s.mem := by
  simp only [State.chunkDone]
  (repeat' first | with_reducible rfl | (simp [*]; done) | (intro _) | (split <;> try (rename_i heq; have hm := congrArg (fun p => p.1.mem) heq; simp at hm; clear heq)) | (refine (foldl_mem ?_ _ _).trans ?_) | (simp [*]))
@[simp] theorem State.releaseChunk_mem (s : State) (core : Nat) (eq : Nat) (old : Entry) (w : Work) (ps : List Part) : (State.releaseChunk s core eq old w ps).mem = s.mem := by
  simp only [State.releaseChunk]
  (repeat' first | with_reducible rfl | (simp [*]; done) | (intro _) | (split <;> try (rename_i heq; have hm := congrArg (fun p => p.1.mem) heq; simp at hm; clear heq)) | (refine (foldl_mem ?_ _ _).trans ?_) | (simp [*]))
@[simp] theorem State.runChunk_mem (s : State) (core : Nat) (eq : Nat) (e : Entry) : (State.runChunk s core eq e).mem = s.mem := by
  simp only [State.runChunk]
  (repeat' first | with_reducible rfl | (simp [*]; done) | (intro _) | (split <;> try (rename_i heq; have hm := congrArg (fun p => p.1.mem) heq; simp at hm; clear heq)) | (refine (foldl_mem ?_ _ _).trans ?_) | (simp [*]))
@[simp] theorem State.holdEngine_mem (s : State) (p : Part) : (State.holdEngine s p).mem = s.mem := by
  simp only [State.holdEngine]
  split <;> simp

@[simp] theorem State.onOp_mem (s : State) (core : Nat) (id : Nat) (f : TileOp → TileOp) : (State.onOp s core id f).mem = s.mem := by
  simp [State.onOp]
@[simp] theorem State.setResv_mem (s : State) (u : Nat) (r : Nat) (n : Option Nat) : (State.setResv s u r n).mem = s.mem := by
  simp [State.setResv]
@[simp] theorem State.blockIn_mem (s : State) (u : Nat) (g : Nat) : (State.blockIn s u g).mem = s.mem := by
  simp [State.blockIn]
@[simp] theorem State.unblock_mem (s : State) (u : Nat) (g : Nat) : (State.unblock s u g).mem = s.mem := by
  simp [State.unblock]
@[simp] theorem State.openLatch_mem (s : State) (core : Nat) (y0 : Nat) : (State.openLatch s core y0).mem = s.mem := by
  induction y0 generalizing s <;> simp only [State.openLatch] <;>
    (repeat' first | with_reducible rfl | (simp [*]; done) | (intro _) | (split <;> try (rename_i heq; have hm := congrArg (fun p => p.1.mem) heq; simp at hm; clear heq)) | (refine (foldl_mem ?_ _ _).trans ?_) | (simp [*]))
@[simp] theorem State.reachEngine_mem (s : State) (core : Nat) : (State.reachEngine s core).mem = s.mem := by
  simp only [State.reachEngine]
  repeat' split
  all_goals simp
@[simp] theorem State.pumpLatch_mem (s : State) (core : Nat) : (State.pumpLatch s core).mem = s.mem := by
  simp [State.pumpLatch]
@[simp] theorem State.tileIssue_mem (s : State) (i : Instr) (u : Nat) (g : Nat) (n : Named) : (State.tileIssue s i u g n).mem = s.mem := by
  simp only [State.tileIssue]
  split <;> simp
@[simp] theorem State.onTile_mem (s : State) (u : Nat) (g : Nat) (t : Nat) (writes : Bool) (body : State → State) (hbody : ∀ a0, (body a0).mem = a0.mem) : (State.onTile s u g t writes body).mem = s.mem := by
  simp only [State.onTile]
  (repeat' first | with_reducible rfl | (simp [*]; done) | (intro _) | (split <;> try (rename_i heq; have hm := congrArg (fun p => p.1.mem) heq; simp at hm; clear heq)) | (refine (foldl_mem ?_ _ _).trans ?_) | (simp [*]))
@[simp] theorem State.accFatal_mem (s : State) (u : Nat) (g : Nat) (code : Nat) : (State.accFatal s u g code).mem = s.mem := by
  simp [State.accFatal]
@[simp] theorem State.askAll_mem (s : State) (t : Part) (y0 : List (Nat × Nat × Nat)) : (State.askAll s t y0).1.mem = s.mem := by
  induction y0 generalizing s <;> simp [State.askAll, *]
@[simp] theorem State.loadRows_mem (s : State) (u : Nat) (t : Nat) (r : Record) (o : List Int) (got : Got) (lost : List Nat) (y0 : Nat) (y1 : Nat) : (State.loadRows s u t r o got lost y0 y1).mem = s.mem := by
  induction y0 generalizing s y1 <;> simp [State.loadRows, *]
@[simp] theorem State.withImage_mem (s : State) (u : Nat) (g : Nat) (a : Opd) (need : Nat) (body : Record → State → State) (hbody : ∀ a0 a1, (body a0 a1).mem = a1.mem) : (State.withImage s u g a need body).mem = s.mem := by
  simp only [State.withImage]
  (repeat' first | with_reducible rfl | (simp [*]; done) | (intro _) | (split <;> try (rename_i heq; have hm := congrArg (fun p => p.1.mem) heq; simp at hm; clear heq)) | (refine (foldl_mem ?_ _ _).trans ?_) | (simp [*]))
@[simp] theorem State.softElems_mem (s : State) (u : Nat) (offs : List Nat) : (State.softElems s u offs).1.mem = s.mem := by
  simp only [State.softElems]
  (repeat' first | with_reducible rfl | (simp [*]; done) | (intro _) | (split <;> try (rename_i heq; have hm := congrArg (fun p => p.1.mem) heq; simp at hm; clear heq)) | (refine (foldl_mem ?_ _ _).trans ?_) | (simp [*]))
@[simp] theorem State.endOp_mem (s : State) (core : Nat) (o : TileOp) : (State.endOp s core o).mem = s.mem := by
  simp only [State.endOp]
  (repeat' first | with_reducible rfl | (simp [*]; done) | (intro _) | (split <;> try (rename_i heq; have hm := congrArg (fun p => p.1.mem) heq; simp at hm; clear heq)) | (refine (foldl_mem ?_ _ _).trans ?_) | (simp [*]))
@[simp] theorem State.cancelOp_mem (s : State) (core : Nat) (o : TileOp) : (State.cancelOp s core o).mem = s.mem := by
  simp [State.cancelOp]

@[simp] theorem State.dropTiles_mem (s : State) (core : Nat) (o : TileOp) : (State.dropTiles s core o).mem = s.mem := by
  simp [State.dropTiles]
@[simp] theorem State.startOp_mem (s : State) (core : Nat) (o : TileOp) : (State.startOp s core o).mem = s.mem := by
  simp [State.startOp]
@[simp] theorem State.dropFetches_mem (s : State) (core : Nat) (id : Nat) : (State.dropFetches s core id).mem = s.mem := by
  simp [State.dropFetches]
@[simp] theorem State.faultOp_mem (s : State) (core : Nat) (o : TileOp) (code : Nat) : (State.faultOp s core o code).mem = s.mem := by
  simp only [State.faultOp]
  (repeat' first | with_reducible rfl | (simp [*]; done) | (intro _) | (split <;> try (rename_i heq; have hm := congrArg (fun p => p.1.mem) heq; simp at hm; clear heq)) | (refine (foldl_mem ?_ _ _).trans ?_) | (simp [*]))
@[simp] theorem State.raiseFetch_mem (s : State) (core : Nat) (o : TileOp) : (State.raiseFetch s core o).mem = s.mem := by
  simp [State.raiseFetch]
@[simp] theorem State.sideRow_mem (s : State) (o : TileOp) (row : OpRow) : (State.sideRow s o row).mem = s.mem := by
  simp only [State.sideRow]
  (repeat' first | with_reducible rfl | (simp [*]; done) | (intro _) | (split <;> try (rename_i heq; have hm := congrArg (fun p => p.1.mem) heq; simp at hm; clear heq)) | (refine (foldl_mem ?_ _ _).trans ?_) | (simp [*]))
@[simp] theorem State.takeUnit_mem (s : State) (core : Nat) (o : TileOp) (row : OpRow) (clk : Nat) : (State.takeUnit s core o row clk).mem = s.mem := by
  simp [State.takeUnit]
@[simp] theorem State.runFetch_mem (s : State) (core : Nat) (o : TileOp) (e : Entry) (unit : Nat) : (State.runFetch s core o e unit).mem = s.mem := by
  simp only [State.runFetch]
  (repeat' first | with_reducible rfl | (simp [*]; done) | (intro _) | (split <;> try (rename_i heq; have hm := congrArg (fun p => p.1.mem) heq; simp at hm; clear heq)) | (refine (foldl_mem ?_ _ _).trans ?_) | (simp [*]))
@[simp] theorem State.settlePause_mem (s : State) (core : Nat) (o : TileOp) : (State.settlePause s core o).mem = s.mem := by
  simp only [State.settlePause]
  split <;> simp
@[simp] theorem State.retire_mem (s : State) (core : Nat) (o : TileOp) (t : Tile) (row : OpRow) : (State.retire s core o t row).mem = s.mem := by
  simp only [State.retire]
  (repeat' first | with_reducible rfl | (simp [*]; done) | (intro _) | (split <;> try (rename_i heq; have hm := congrArg (fun p => p.1.mem) heq; simp at hm; clear heq)) | (refine (foldl_mem ?_ _ _).trans ?_) | (simp [*]))
@[simp] theorem State.softMacros_mem (s : State) (core : Nat) (u : Nat) (macs : List Nat) : (State.softMacros s core u macs).1.mem = s.mem := by
  simp only [State.softMacros]
  (repeat' first | with_reducible rfl | (simp [*]; done) | (intro _) | (split <;> try (rename_i heq; have hm := congrArg (fun p => p.1.mem) heq; simp at hm; clear heq)) | (refine (foldl_mem ?_ _ _).trans ?_) | (simp [*]))
@[simp] theorem State.rowDone_mem (s : State) (core : Nat) (o : TileOp) (clk : Nat) : (s.rowDone core o clk).mem = s.mem := by
  have e (t : State) (z : List W8) :
      (o.members.foldl (fun s m => s.accWrite o.blk (accOff m.tile o.cursor 0) z) t).mem = t.mem :=
    foldl_mem (fun _ _ => by simp) _ _
  simp only [State.rowDone]
  split <;> split <;> simp only [State.endOp_mem, State.onOp_mem, State.dropWhere_mem, e]
@[simp] theorem State.runDrain_mem (s : State) (core : Nat) (o : TileOp) : (State.runDrain s core o).mem = s.mem := by
  simp only [State.runDrain]
  (repeat' first | with_reducible rfl | (simp [*]; done) | (intro _) | (split <;> try (rename_i heq; have hm := congrArg (fun p => p.1.mem) heq; simp at hm; clear heq)) | (refine (foldl_mem ?_ _ _).trans ?_) | (simp [*]))

end Sys2Proof.Machine
end

