-- ==== Sys2Proof/Laws/MemSystem.lean ====
section
/-! SUPPORT. Memory is left as it was by system instructions, dispatch, service, control plane and clocks. -/

namespace Sys2Proof.Machine

@[simp] theorem State.sysWait_mem (s : State) : (State.sysWait s).mem = s.mem := by
  simp only [State.sysWait]
  split <;> simp
@[simp] theorem State.sysEnd_mem (s : State) : (State.sysEnd s).mem = s.mem := by
  simp only [State.sysEnd]
  split <;> simp
@[simp] theorem State.sysDone_mem (s : State) : (State.sysDone s).mem = s.mem := by
  simp [State.sysDone]
@[simp] theorem State.sysTrap_mem (s : State) (code : Nat) : (State.sysTrap s code).mem = s.mem := by
  simp [State.sysTrap]
@[simp] theorem State.sysStatus_mem (s : State) (d : Opd) (v : Nat) : (State.sysStatus s d v).mem = s.mem := by
  simp [State.sysStatus]
@[simp] theorem State.sysSaw_mem (s : State) (t : Nat) : (State.sysSaw s t).mem = s.mem := by
  simp only [State.sysSaw]
  split <;> simp
@[simp] theorem State.sysAskOr_mem (s : State) (p : Part) (bad : Nat → State → State) (k : State → List W8 → State) (hbad : ∀ a0 a1, (bad a0 a1).mem = a1.mem) (hk : ∀ a0 a1, (k a0 a1).mem = a0.mem) : (State.sysAskOr s p bad k).mem = s.mem := by
  unfold State.sysAskOr
  (repeat' first | with_reducible rfl | (simp [*]; done) | (intro _) | (split <;> try (rename_i heq; have hm := congrArg (fun p => p.1.mem) heq; simp at hm; clear heq)) | (refine (foldl_mem ?_ _ _).trans ?_) | (simp [*]))
@[simp] theorem State.sysAsk_mem (s : State) (p : Part) (k : State → List W8 → State) (hk : ∀ a0 a1, (k a0 a1).mem = a0.mem) : (State.sysAsk s p k).mem = s.mem := by
  simp only [State.sysAsk]
  (repeat' first | with_reducible rfl | (simp [*]; done) | (intro _) | (split <;> try (rename_i heq; have hm := congrArg (fun p => p.1.mem) heq; simp at hm; clear heq)) | (refine (foldl_mem ?_ _ _).trans ?_) | (refine (State.sysAskOr_mem _ _ _ _ ?_ ?_).trans ?_) | (simp [*]))
@[simp] theorem State.sysRead_mem (s : State) (va : Nat) (n : Nat) (bad : Nat → State → State) (k : State → List W8 → State)
    (hbad : ∀ a0 a1, (bad a0 a1).mem = a1.mem) (hk : ∀ a0 a1, (k a0 a1).mem = a0.mem) : (s.sysRead va n bad k).mem = s.mem := by
  have e (t : State) (q m : Nat) : ((List.range m).foldl (fun s _ => State.countThread s q 0x07) t).mem = t.mem :=
    foldl_mem (fun _ _ => by simp) _ _
  simp only [State.sysRead]
  split <;> rename_i h <;> split at h <;> simp only [Prod.mk.injEq] at h <;> obtain ⟨rfl, -⟩ := h <;>
    simp only [State.sysWait_mem, State.sysSaw_mem, hbad, hk, e, State.fetchSpans_mem]
@[simp] theorem State.startThread_mem (s : State) (q : Nat) : (State.startThread s q).mem = s.mem := by
  simp [State.startThread]
@[simp] theorem State.setNotify_mem (s : State) (q : Nat) (v : Nat) : (State.setNotify s q v).mem = s.mem := by
  simp only [State.setNotify]
  split <;> simp
@[simp] theorem State.posted_mem (s : State) (q : Nat) (ts : Nat) (out : List (Nat × Nat × Nat × Nat)) : (State.posted s q ts out).mem = s.mem := by
  simp [State.posted]
@[simp] theorem State.setPosting_mem (s : State) (q : Nat) (o : Option (Nat × Nat)) : (State.setPosting s q o).mem = s.mem := by
  simp [State.setPosting]
@[simp] theorem State.waitsToPost_mem (s : State) (q : Nat) (me : Nat × Nat) : (State.waitsToPost s q me).mem = s.mem := by
  simp [State.waitsToPost]
@[simp] theorem State.svcPost_mem (s : State) (d : Opd) (q : Nat) (r : List W8) : (State.svcPost s d q r).mem = s.mem := by
  simp only [State.svcPost]
  (repeat' first | with_reducible rfl | (simp [*]; done) | (intro _) | (split <;> try (rename_i heq; have hm := congrArg (fun p => p.1.mem) heq; simp at hm; clear heq)) | (refine (foldl_mem ?_ _ _).trans ?_) | (refine (State.sysAskOr_mem _ _ _ _ ?_ ?_).trans ?_) | (simp [*]))
@[simp] theorem State.interrupt_mem (s : State) (f : Nat) (v : Nat) : (State.interrupt s f v).mem = s.mem := by
  simp only [State.interrupt]
  split <;> simp
@[simp] theorem State.addList_mem (s : State) (d : Nat) (l : List (Nat × Nat × Nat)) (rest : List (Nat × Nat × Nat)) : (State.addList s d l rest).mem = s.mem := by
  simp only [State.addList]
  (repeat' first | with_reducible rfl | (simp [*]; done) | (intro _) | (split <;> try (rename_i heq; have hm := congrArg (fun p => p.1.mem) heq; simp at hm; clear heq)) | (refine (foldl_mem ?_ _ _).trans ?_) | (simp [*]))
@[simp] theorem State.addEvents_mem (s : State) (d : Nat) : (State.addEvents s d).mem = s.mem := by
  simp only [State.addEvents]
  (repeat' first | with_reducible rfl | (simp [*]; done) | (intro _) | (split <;> try (rename_i heq; have hm := congrArg (fun p => p.1.mem) heq; simp at hm; clear heq)) | (refine (foldl_mem ?_ _ _).trans ?_) | (simp [*]))
@[simp] theorem State.addOwn_mem (s : State) (d : Nat) : (State.addOwn s d).mem = s.mem := by
  simp [State.addOwn]
@[simp] theorem State.setVfCounter_mem (s : State) (vf : Nat) (k : Nat) (c : Counter) : (State.setVfCounter s vf k c).mem = s.mem := by
  simp only [State.setVfCounter]
  split <;> simp
@[simp] theorem State.putKey_mem (s : State) (dom : Nat) (vf : Nat) (idx : Nat) (w : W32) : (State.putKey s dom vf idx w).mem = s.mem := by
  simp [State.putKey]
@[simp] theorem State.putDist_mem (s : State) (d : Nat) (idx : Nat) (e : DistEntry) : (State.putDist s d idx e).mem = s.mem := by
  simp [State.putDist]
@[simp] theorem State.asThread_mem (s : State) (body : Nat → State → State) (hbody : ∀ a0 a1, (body a0 a1).mem = a1.mem) : (State.asThread s body).mem = s.mem := by
  simp only [State.asThread]
  (repeat' first | with_reducible rfl | (simp [*]; done) | (intro _) | (split <;> try (rename_i heq; have hm := congrArg (fun p => p.1.mem) heq; simp at hm; clear heq)) | (refine (foldl_mem ?_ _ _).trans ?_) | (simp [*]))
@[simp] theorem State.submitEnd_mem (s : State) (q : Nat) (d : Opd) (va : Nat) (reply : Nat) (h : List W8) (cues : List W32) (code : Nat) : (State.submitEnd s q d va reply h cues code).mem = s.mem := by
  simp only [State.submitEnd]
  repeat' split
  all_goals simp
@[simp] theorem State.closeRecord_mem (s : State) (q : Nat) (n : Nat) : (State.closeRecord s q n).mem = s.mem := by
  simp [State.closeRecord]
@[simp] theorem State.reopenRecord_mem (s : State) (q : Nat) : (State.reopenRecord s q).mem = s.mem := by
  simp [State.reopenRecord]
@[simp] theorem State.recordClosed_mem (s : State) (q : Nat) : (State.recordClosed s q).mem = s.mem := by
  simp [State.recordClosed]
@[simp] theorem State.replyWrite_mem (s : State) (q : Nat) (d : Opd) (n : Nat) (va : Nat) (img : List W8) : (State.replyWrite s q d n va img).mem = s.mem := by
  simp only [State.replyWrite]
  split <;> simp

@[simp] theorem State.launchRead_mem (s : State) (d : Nat) (l : Launch) (va : Nat) (n : Nat) (bad : Nat → State → State) (k : State → List W8 → State) (hbad : ∀ a0 a1, (bad a0 a1).mem = a1.mem) (hk : ∀ a0 a1, (k a0 a1).mem = a0.mem) : (State.launchRead s d l va n bad k).mem = s.mem := by
  simp only [State.launchRead]
  (repeat' first | with_reducible rfl | (simp [*]; done) | (intro _) | (split <;> try (rename_i heq; have hm := congrArg (fun p => p.1.mem) heq; simp at hm; clear heq)) | (refine (foldl_mem ?_ _ _).trans ?_) | (simp [*]))
@[simp] theorem State.launchBegun_mem (s : State) (d : Nat) (lid : Nat) (counts : List Nat) (params : List W8) (records : List W8) : (State.launchBegun s d lid counts params records).mem = s.mem := by
  simp [State.launchBegun]
@[simp] theorem State.launchUnread_mem (s : State) (d : Nat) (lid : Nat) (code : Nat) : (State.launchUnread s d lid code).mem = s.mem := by
  simp [State.launchUnread]
@[simp] theorem State.seat_mem (s : State) (u : Nat) (core : Nat) (nReg : Nat) (nScr : Nat) (nAcc : Nat) (clear : Bool) : (State.seat s u core nReg nScr nAcc clear).mem = s.mem := by
  simp [State.seat]
@[simp] theorem State.startBlock_mem (s : State) (d : Nat) (l : Launch) (n : Nat) (core : Nat) : (State.startBlock s d l n core).mem = s.mem := by
  simp only [State.startBlock]
  exact foldl_mem (fun _ _ => by simp) _ _
@[simp] theorem State.placeSets_mem (s : State) (d : Nat) (l : Launch) (cores : List Nat) : (State.placeSets s d l cores).mem = s.mem := by
  simp only [State.placeSets]
  (repeat' first | with_reducible rfl | (simp [*]; done) | (intro _) | (split <;> try (rename_i heq; have hm := congrArg (fun p => p.1.mem) heq; simp at hm; clear heq)) | (refine (foldl_mem ?_ _ _).trans ?_) | (simp [*]))

@[simp] theorem State.freeBytes_mem (s : State) (n : Nat) : (State.freeBytes s n).1.mem = s.mem := by
  simp [State.freeBytes]
@[simp] theorem State.blockImage_mem (s : State) (u : Nat) : (State.blockImage s u).1.mem = s.mem := by
  simp [State.blockImage]
@[simp] theorem State.writeLines_mem (s : State) (d : Nat) (t : Part) (bytes : List W8) (first : Nat) (y0 : List (Nat × Nat)) (y1 : Bool) : (State.writeLines s d t bytes first y0 y1).1.mem = s.mem := by
  induction y0 generalizing s y1 <;> simp only [State.writeLines] <;>
    (repeat' first | with_reducible rfl | (simp [*]; done) | (intro _) | (split <;> try (rename_i heq; have hm := congrArg (fun p => p.1.mem) heq; simp at hm; clear heq)) | (refine (foldl_mem ?_ _ _).trans ?_) | (simp [*]))
@[simp] theorem State.writeSpan_mem (s : State) (d : Nat) (t : Part) (va : Nat) (bytes : List W8) : (State.writeSpan s d t va bytes).1.mem = s.mem := by
  simp only [State.writeSpan]
  (repeat' first | with_reducible rfl | (simp [*]; done) | (intro _) | (split <;> try (rename_i heq; have hm := congrArg (fun p => p.1.mem) heq; simp at hm; clear heq)) | (refine (foldl_mem ?_ _ _).trans ?_) | (simp [*]))
@[simp] theorem State.saveStep_mem (s : State) (u : Nat) (j : SaveJob) : (State.saveStep s u j).mem = s.mem := by
  simp only [State.saveStep]
  (repeat' first | with_reducible rfl | (simp [*]; done) | (intro _) | (split <;> try (rename_i heq; have hm := congrArg (fun p => p.1.mem) heq; simp at hm; clear heq)) | (refine (foldl_mem ?_ _ _).trans ?_) | (simp [*]))
@[simp] theorem State.dropSave_mem (s : State) (u : Nat) : (State.dropSave s u).mem = s.mem := by
  simp [State.dropSave]

@[simp] theorem State.pullEntries_mem (s : State) (u : Nat) : (State.pullEntries s u).mem = s.mem := by
  simp only [State.pullEntries]
  split <;> simp
@[simp] theorem State.beginSave_mem (s : State) (u : Nat) (direct : Bool) : (State.beginSave s u direct).mem = s.mem := by
  simp only [State.beginSave]
  repeat' split
  all_goals simp
@[simp] theorem State.takeOut_mem (s : State) (u : Nat) (direct : Bool) : (State.takeOut s u direct).mem = s.mem := by
  simp only [State.takeOut]
  refine (foldl_mem (fun _ _ => ?_) _ _).trans ?_ <;> simp
@[simp] theorem State.comeBack_mem (s : State) (u : Nat) : (State.comeBack s u).mem = s.mem := by
  simp only [State.comeBack]
  exact foldl_mem (fun _ _ => by simp) _ _
@[simp] theorem State.startBack_mem (s : State) (u : Nat) (core : Nat) : (State.startBack s u core).mem = s.mem := by
  simp only [State.startBack]
  split <;> simp
@[simp] theorem State.pumpSave_mem (s : State) (u : Nat) : (State.pumpSave s u).mem = s.mem := by
  simp only [State.pumpSave]
  repeat' split
  all_goals simp
@[simp] theorem State.pumpSaves_mem (s : State) : (State.pumpSaves s).mem = s.mem := by
  simp only [State.pumpSaves]
  exact foldl_mem (fun _ _ => by simp) _ _
@[simp] theorem State.restore_mem (s : State) (b : Block) : (State.restore s b).mem = s.mem := by
  simp only [State.restore]
  (repeat' first | with_reducible rfl | (simp [*]; done) | (intro _) | (split <;> try (rename_i heq; have hm := congrArg (fun p => p.1.mem) heq; simp at hm; clear heq)) | (refine (foldl_mem ?_ _ _).trans ?_) | (simp [*]))
@[simp] theorem State.forget_mem (s : State) (u : Nat) : (State.forget s u).mem = s.mem := by
  simp [State.forget]
@[simp] theorem State.cancelImages_mem (s : State) (d : Nat) (lid : Nat) (vf : Nat) : (State.cancelImages s d lid vf).mem = s.mem := by
  simp only [State.cancelImages]
  (repeat' first | with_reducible rfl | (simp [*]; done) | (intro _) | (split <;> try (rename_i heq; have hm := congrArg (fun p => p.1.mem) heq; simp at hm; clear heq)) | (refine (foldl_mem ?_ _ _).trans ?_) | (simp [*]))
@[simp] theorem State.ctxLost_mem (s : State) (d : Nat) (o : CtxOp) : (State.ctxLost s d o).mem = s.mem := by
  simp [State.ctxLost]
@[simp] theorem State.finishKill_mem (s : State) (d : Nat) (l : Launch) (how' : Nat × Nat × Nat × Nat) : (State.finishKill s d l how').mem = s.mem := by
  simp only [State.finishKill]
  (repeat' first | with_reducible rfl | (simp [*]; done) | (intro _) | (split <;> try (rename_i heq; have hm := congrArg (fun p => p.1.mem) heq; simp at hm; clear heq)) | (refine (foldl_mem ?_ _ _).trans ?_) | (simp [*]))
@[simp] theorem State.pumpStops_mem (s : State) : (State.pumpStops s).mem = s.mem := by
  simp only [State.pumpStops]
  exact foldl_mem (fun _ _ => by simp) _ _
@[simp] theorem State.pumpKills_mem (s : State) (d : Nat) : (State.pumpKills s d).mem = s.mem := by
  simp only [State.pumpKills]
  exact foldl_mem (fun _ _ => by split <;> simp) _ _
@[simp] theorem State.beginSwitch_mem (s : State) (d : Nat) (v : Nat) : (State.beginSwitch s d v).mem = s.mem := by
  simp only [State.beginSwitch]
  exact foldl_mem (fun _ _ => by simp) _ _
@[simp] theorem State.switchBack_mem (s : State) (d : Nat) (v : Nat) (had : Bool) : (State.switchBack s d v had).mem = s.mem := by
  simp only [State.switchBack]
  (repeat' first | with_reducible rfl | (simp [*]; done) | (intro _) | (split <;> try (rename_i heq; have hm := congrArg (fun p => p.1.mem) heq; simp at hm; clear heq)) | (refine (foldl_mem ?_ _ _).trans ?_) | (simp [*]))
@[simp] theorem State.endSwitch_mem (s : State) (d : Nat) (v : Nat) (had : Bool) : (State.endSwitch s d v had).mem = s.mem := by
  simp only [State.endSwitch]
  split <;> simp
@[simp] theorem State.countQuantum_mem (s : State) (d : Nat) : (State.countQuantum s d).mem = s.mem := by
  simp only [State.countQuantum]
  repeat' split
  all_goals simp

@[simp] theorem State.askCtx_mem (s : State) (d : Opd) (area : Nat) (lid : Nat) (need : Nat) (restore : Bool) : (State.askCtx s d area lid need restore).mem = s.mem := by
  simp only [State.askCtx]
  repeat' split
  all_goals simp
@[simp] theorem State.onCtx_mem (s : State) (d : Nat) (o : CtxOp) (f : CtxOp → CtxOp) : (State.onCtx s d o f).mem = s.mem := by
  simp [State.onCtx]
@[simp] theorem State.ctxWrite_mem (s : State) (d : Nat) (o : CtxOp) (va : Nat) (bytes : List W8) : (State.ctxWrite s d o va bytes).1.mem = s.mem := by
  simp only [State.ctxWrite]
  (repeat' first | with_reducible rfl | (simp [*]; done) | (intro _) | (split <;> try (rename_i heq; have hm := congrArg (fun p => p.1.mem) heq; simp at hm; clear heq)) | (refine (foldl_mem ?_ _ _).trans ?_) | (simp [*]))
@[simp] theorem State.ctxEnd_mem (s : State) (d : Nat) (o : CtxOp) (r : Nat) : (State.ctxEnd s d o r).mem = s.mem := by
  simp [State.ctxEnd]
@[simp] theorem State.ctxSplit_mem (s : State) (d : Nat) (o : CtxOp) : (State.ctxSplit s d o).mem = s.mem := by
  simp [State.ctxSplit]
@[simp] theorem State.ctxSaved_mem (s : State) (d : Nat) (o : CtxOp) (l : Launch) (bytes : List W8) : (State.ctxSaved s d o l bytes).mem = s.mem := by
  simp only [State.ctxSaved]
  exact foldl_mem (fun _ _ => by simp) _ _
@[simp] theorem State.ctxsStep_mem (s : State) (d : Nat) (o : CtxOp) : (State.ctxsStep s d o).mem = s.mem := by
  simp only [State.ctxsStep]
  (repeat' first | with_reducible rfl | (simp [*]; done) | (intro _) | (split <;> try (rename_i heq; have hm := congrArg (fun p => p.1.mem) heq; simp at hm; clear heq)) | (refine (foldl_mem ?_ _ _).trans ?_) | (simp [*]))
@[simp] theorem State.ctxTake_mem (s : State) (d : Nat) (o : CtxOp) (l : Launch) : (State.ctxTake s d o l).mem = s.mem := by
  simp [State.ctxTake]
@[simp] theorem State.ctxrEnd_mem (s : State) (d : Nat) (o : CtxOp) (r : Nat) : (State.ctxrEnd s d o r).mem = s.mem := by
  simp only [State.ctxrEnd]
  split <;> simp
@[simp] theorem State.ctxMend_mem (s : State) (d : Nat) (o : CtxOp) (l : Launch) : (State.ctxMend s d o l).mem = s.mem := by
  simp [State.ctxMend]
@[simp] theorem State.ctxBack_mem (s : State) (d : Nat) (o : CtxOp) (m : SavedImage) : (State.ctxBack s d o m).mem = s.mem := by
  simp [State.ctxBack]
@[simp] theorem State.ctxrJudge_mem (s : State) (d : Nat) (o : CtxOp) (m : SavedImage) : (State.ctxrJudge s d o m).mem = s.mem := by
  simp only [State.ctxrJudge]
  repeat' split
  all_goals simp
@[simp] theorem State.ctxRead_mem (s : State) (d : Nat) (o : CtxOp) (va : Nat) (n : Nat) : (State.ctxRead s d o va n).mem = s.mem := by
  simp only [State.ctxRead]
  (repeat' first | with_reducible rfl | (simp [*]; done) | (intro _) | (split <;> try (rename_i heq; have hm := congrArg (fun p => p.1.mem) heq; simp at hm; clear heq)) | (refine (foldl_mem ?_ _ _).trans ?_) | (simp [*]))
@[simp] theorem State.ctxrSplit_mem (s : State) (d : Nat) (o : CtxOp) (l : Launch) : (State.ctxrSplit s d o l).mem = s.mem := by
  simp only [State.ctxrSplit]
  repeat' split
  all_goals simp
@[simp] theorem State.ctxrStep_mem (s : State) (d : Nat) (o : CtxOp) : (State.ctxrStep s d o).mem = s.mem := by
  simp only [State.ctxrStep]
  (repeat' first | with_reducible rfl | (simp [*]; done) | (intro _) | (split <;> try (rename_i heq; have hm := congrArg (fun p => p.1.mem) heq; simp at hm; clear heq)) | (refine (foldl_mem ?_ _ _).trans ?_) | (simp [*]))
@[simp] theorem State.pumpCtx_mem (s : State) (d : Nat) : (State.pumpCtx s d).mem = s.mem := by
  simp only [State.pumpCtx]
  (repeat' first | with_reducible rfl | (simp [*]; done) | (intro _) | (split <;> try (rename_i heq; have hm := congrArg (fun p => p.1.mem) heq; simp at hm; clear heq)) | (refine (foldl_mem ?_ _ _).trans ?_) | (simp [*]))

@[simp] theorem State.raisePort_mem (s : State) (src : PartSrc) (t : Nat) (flr : Bool) : (State.raisePort s src t flr).mem = s.mem := by
  simp only [State.raisePort]
  split <;> simp
@[simp] theorem State.hostDrop_mem (s : State) : (State.hostDrop s).mem = s.mem := by
  simp [State.hostDrop]
@[simp] theorem State.pushClass_mem (s : State) (p : Part) (tc : Nat) (ts : Nat) : (State.pushClass s p tc ts).mem = s.mem := by
  simp [State.pushClass]
@[simp] theorem State.raiseAbove_mem (s : State) (tc : Nat) (ts : Nat) : (State.raiseAbove s tc ts).mem = s.mem := by
  simp [State.raiseAbove]
@[simp] theorem State.waitFill_mem (s : State) (p : Part) : (State.waitFill s p).mem = s.mem := by
  simp only [State.waitFill]
  split <;> simp
@[simp] theorem State.pcieReply_mem (s : State) (p : Part) (tc : Nat) (tag : Nat) (r : Reply) : (State.pcieReply s p tc tag r).mem = s.mem := by
  simp only [State.pcieReply]
  repeat' split
  all_goals simp
@[simp] theorem State.pushStream_mem (s : State) (p : Part) (st : Nat) (t : Nat) : (State.pushStream s p st t).mem = s.mem := by
  simp [State.pushStream]
@[simp] theorem State.hanosReply_mem (s : State) (p : Part) (st : Nat) (tag : Nat) (r : Reply) : (State.hanosReply s p st tag r).mem = s.mem := by
  simp only [State.hanosReply]
  repeat' split
  all_goals simp
@[simp] theorem State.portDown_mem (s : State) (port : Nat) : (State.portDown s port).mem = s.mem := by
  simp only [State.portDown]
  exact foldl_mem (fun _ _ => by simp) _ _
@[simp] theorem State.keepOrWait_mem (s : State) (p : Part) (r : Reply) : (State.keepOrWait s p r).mem = s.mem := by
  simp only [State.keepOrWait]
  split <;> simp
@[simp] theorem State.giveReply_mem (s : State) (p : Part) (r : Reply) : (State.giveReply s p r).mem = s.mem := by
  simp only [State.giveReply]
  repeat' split
  all_goals simp

@[simp] theorem State.writeDone_mem (s : State) (w : SysWrite) : (State.writeDone s w).mem = s.mem := by
  simp [State.writeDone]
@[simp] theorem State.writeLost_mem (s : State) (w : SysWrite) : (State.writeLost s w).mem = s.mem := by
  simp [State.writeLost]
@[simp] theorem State.writeVia_mem (s : State) (w : SysWrite) (bytes : List W8) : (State.writeVia s w bytes).mem = s.mem := by
  simp [State.writeVia]
@[simp] theorem State.pumpWrite_mem (s : State) (w : SysWrite) : (State.pumpWrite s w).mem = s.mem := by
  simp only [State.pumpWrite]
  (repeat' first | with_reducible rfl | (simp [*]; done) | (intro _) | (split <;> try (rename_i heq; have hm := congrArg (fun p => p.1.mem) heq; simp at hm; clear heq)) | (refine (foldl_mem ?_ _ _).trans ?_) | (simp [*]))
@[simp] theorem State.pumpWrites_mem (s : State) : (State.pumpWrites s).mem = s.mem := by
  simp only [State.pumpWrites]
  exact foldl_mem (fun _ _ => by split <;> simp) _ _
@[simp] theorem State.onWatch_mem (s : State) (h : Nat) (domain : Nat) (index : Nat) (f : WatchPt → WatchPt) : (State.onWatch s h domain index f).mem = s.mem := by
  simp [State.onWatch]
@[simp] theorem State.reportOver_mem (s : State) (r : Nat × Nat × Nat × List W8) (lost : Bool) : (State.reportOver s r lost).mem = s.mem := by
  simp [State.reportOver]
@[simp] theorem State.pumpReport_mem (s : State) (r : Nat × Nat × Nat × List W8) : (State.pumpReport s r).mem = s.mem := by
  simp only [State.pumpReport]
  (repeat' first | with_reducible rfl | (simp [*]; done) | (intro _) | (split <;> try (rename_i heq; have hm := congrArg (fun p => p.1.mem) heq; simp at hm; clear heq)) | (refine (foldl_mem ?_ _ _).trans ?_) | (simp [*]))
@[simp] theorem State.pumpReports_mem (s : State) : (State.pumpReports s).mem = s.mem := by
  simp only [State.pumpReports]
  exact foldl_mem (fun _ _ => by split <;> simp) _ _
@[simp] theorem State.ringFatal_mem (s : State) (q : Nat) : (State.ringFatal s q).mem = s.mem := by
  simp [State.ringFatal]
@[simp] theorem State.postFault_mem (s : State) (q : Nat) (h : Nat) (record : List W8) (vf : Nat) : (State.postFault s q h record vf).mem = s.mem := by
  simp only [State.postFault]
  (repeat' first | with_reducible rfl | (simp [*]; done) | (intro _) | (split <;> try (rename_i heq; have hm := congrArg (fun p => p.1.mem) heq; simp at hm; clear heq)) | (refine (foldl_mem ?_ _ _).trans ?_) | (simp [*]))
@[simp] theorem State.pumpFaults_mem (s : State) (d : Nat) : (State.pumpFaults s d).mem = s.mem := by
  simp only [State.pumpFaults]
  repeat' split
  all_goals simp
@[simp] theorem State.enableQueue_mem (s : State) (q : Nat) : (State.enableQueue s q).mem = s.mem := by
  simp only [State.enableQueue]
  repeat' split
  all_goals simp
@[simp] theorem State.closeWith_mem (s : State) (q : Nat) (status : Nat) (o : Nat × Nat × Nat × Nat) : (State.closeWith s q status o).mem = s.mem := by
  simp only [State.closeWith]
  repeat' split
  all_goals simp
@[simp] theorem State.closeRecords_mem (s : State) (q : Nat) (status : Nat) (f : Nat × Nat × Nat × Nat → Bool) : (State.closeRecords s q status f).mem = s.mem := by
  simp only [State.closeRecords]
  exact foldl_mem (fun _ _ => by simp) _ _
@[simp] theorem State.stopThread_mem (s : State) (q : Nat) (tstate : Nat) : (State.stopThread s q tstate).mem = s.mem := by
  simp [State.stopThread]
@[simp] theorem State.queueOff_mem (s : State) (q : Nat) : (State.queueOff s q).mem = s.mem := by
  simp [State.queueOff]
@[simp] theorem State.disableQueue_mem (s : State) (q : Nat) : (State.disableQueue s q).mem = s.mem := by
  simp only [State.disableQueue]
  repeat' split
  all_goals simp
@[simp] theorem State.pumpThreads_mem (s : State) : (State.pumpThreads s).mem = s.mem := by
  simp only [State.pumpThreads]
  exact foldl_mem (fun _ _ => by simp) _ _
@[simp] theorem State.takeNotify_mem (s : State) (q : Nat) (v : Nat) : (State.takeNotify s q v).mem = s.mem := by
  simp [State.takeNotify]
@[simp] theorem State.putPort_mem (s : State) (page : Nat) (tc : Nat) (isNotify : Bool) (off : Nat) (size : Nat) (value : Nat) : (State.putPort s page tc isNotify off size value).mem = s.mem := by
  simp [State.putPort]
@[simp] theorem State.writeMsix_mem (s : State) (f : Nat) (half : Nat) (value : Nat) : (State.writeMsix s f half value).mem = s.mem := by
  simp only [State.writeMsix]
  repeat' split
  all_goals simp
@[simp] theorem State.startReset_mem (s : State) (d : Nat) (v : Nat) (scrub : Bool) : (State.startReset s d v scrub).mem = s.mem := by
  simp only [State.startReset]
  (repeat' first | with_reducible rfl | (simp [*]; done) | (intro _) | (split <;> try (rename_i heq; have hm := congrArg (fun p => p.1.mem) heq; simp at hm; clear heq)) | (refine (foldl_mem ?_ _ _).trans ?_) | (simp [*]))
@[simp] theorem State.haltVf_mem (s : State) (vf : Nat) : (State.haltVf s vf).1.mem = s.mem := by
  simp [State.haltVf]
@[simp] theorem State.closeVf_mem (s : State) (d : Nat) (v : Nat) : (State.closeVf s d v).mem = s.mem := by
  simp only [State.closeVf]
  (repeat' first | with_reducible rfl | (simp [*]; done) | (intro _) | (split <;> try (rename_i heq; have hm := congrArg (fun p => p.1.mem) heq; simp at hm; clear heq)) | (refine (foldl_mem ?_ _ _).trans ?_) | (simp [*]))
@[simp] theorem State.onVf_mem (s : State) (d : Nat) (v : Nat) (f : Vf → Vf) : (State.onVf s d v f).mem = s.mem := by
  simp [State.onVf]
@[simp] theorem State.finishReset_mem (s : State) (d : Nat) (v : Nat) : (State.finishReset s d v).mem = s.mem := by
  simp [State.finishReset]

@[simp] theorem State.extendMrWith_mem (s : State) (i : Nat) (d : List W8) : (State.extendMrWith s i d).mem = s.mem := by
  simp [State.extendMrWith]
@[simp] theorem State.formed_mem (s : State) (d : Nat) : (State.formed s d).mem = s.mem := by
  simp only [State.formed]
  (repeat' first | with_reducible rfl | (simp [*]; done) | (intro _) | (split <;> try (rename_i heq; have hm := congrArg (fun p => p.1.mem) heq; simp at hm; clear heq)) | (refine (foldl_mem ?_ _ _).trans ?_) | (simp [*]))
@[simp] theorem State.formDistrict_mem (s : State) (d : Nat) : (State.formDistrict s d).mem = s.mem := by
  simp only [State.formDistrict]
  repeat' split
  all_goals simp
@[simp] theorem State.fence_mem (s : State) (d : Nat) : (State.fence s d).mem = s.mem := by
  simp [State.fence]
@[simp] theorem State.drainDistrict_mem (s : State) (d : Nat) : (State.drainDistrict s d).mem = s.mem := by
  simp only [State.drainDistrict]
  repeat' split
  all_goals simp
@[simp] theorem State.noteWrite_mem (s : State) (master : Nat) : (State.noteWrite s master).mem = s.mem := by
  simp [State.noteWrite]
@[simp] theorem State.setOwner_mem (s : State) (m : Nat) : (State.setOwner s m).mem = s.mem := by
  simp [State.setOwner]
@[simp] theorem State.semaphore_mem (s : State) (m : Nat) (x : Nat) : (State.semaphore s m x).mem = s.mem := by
  simp only [State.semaphore]
  repeat' split
  all_goals simp
@[simp] theorem State.semWrite_mem (s : State) (m : Nat) (x : Nat) : (State.semWrite s m x).mem = s.mem := by
  simp only [State.semWrite]
  split <;> simp
@[simp] theorem State.keyDone_mem (s : State) (slot : Nat) (x : KeySlot) : (State.keyDone s slot x).mem = s.mem := by
  simp [State.keyDone]
@[simp] theorem State.pumpKeys_mem (s : State) : (State.pumpKeys s).mem = s.mem := by
  simp only [State.pumpKeys]
  split <;> simp
@[simp] theorem State.keyCommand_mem (s : State) (cmd : Nat) (slot : Nat) : (State.keyCommand s cmd slot).mem = s.mem := by
  simp only [State.keyCommand]
  split <;> simp
@[simp] theorem State.commit_mem (s : State) : (State.commit s).mem = s.mem := by
  simp [State.commit]
@[simp] theorem State.extendBy_mem (s : State) (mri : Nat) : (State.extendBy s mri).mem = s.mem := by
  simp [State.extendBy]
@[simp] theorem State.writeDcfg_mem (s : State) (d : Nat) (i : Nat) (value : Nat) : (State.writeDcfg s d i value).mem = s.mem := by
  simp [State.writeDcfg]
@[simp] theorem State.writeDistrict_mem (s : State) (d : Nat) (w : Nat) (x : WordWrite) : (State.writeDistrict s d w x).mem = s.mem := by
  dsimp only [State.writeDistrict]
  repeat' first
    | (simp; done)
    | (with_reducible refine ite_mem_to ?_ ?_)
@[simp] theorem State.writeHome_mem (s : State) (h : Nat) (w : Nat) (x : WordWrite) : (State.writeHome s h w x).mem = s.mem := by
  simp only [State.writeHome]
  repeat' split
  all_goals simp
@[simp] theorem State.writeLink_mem (s : State) (l : Nat) (w : Nat) (x : WordWrite) : (State.writeLink s l w x).mem = s.mem := by
  simp only [State.writeLink]
  (repeat' first | with_reducible rfl | (simp [*]; done) | (intro _) | (split <;> try (rename_i heq; have hm := congrArg (fun p => p.1.mem) heq; simp at hm; clear heq)) | (refine (foldl_mem ?_ _ _).trans ?_) | (simp [*]))
@[simp] theorem State.writeSqueue_mem (s : State) (q : Nat) (w : Nat) (x : WordWrite) : (State.writeSqueue s q w x).mem = s.mem := by
  simp only [State.writeSqueue]
  repeat' split
  all_goals simp
@[simp] theorem State.writeKeys_mem (s : State) (w : Nat) (x : WordWrite) : (State.writeKeys s w x).mem = s.mem := by
  simp [State.writeKeys]
@[simp] theorem State.writeDevice_mem (s : State) (w : Nat) (x : WordWrite) : (State.writeDevice s w x).mem = s.mem := by
  simp only [State.writeDevice]
  repeat' split
  all_goals simp
@[simp] theorem State.writeAperture_mem (s : State) (f : Nat) (e : Nat) (high : Bool) (x : WordWrite) : (State.writeAperture s f e high x).mem = s.mem := by
  simp [State.writeAperture]
@[simp] theorem State.writeMonitor_mem (s : State) (d : Nat) (w : Nat) (x : WordWrite) : (State.writeMonitor s d w x).mem = s.mem := by
  simp only [State.writeMonitor]
  repeat' split
  all_goals simp
@[simp] theorem State.writeRecovery_mem (s : State) (off : Nat) (x : WordWrite) : (State.writeRecovery s off x).mem = s.mem := by
  simp [State.writeRecovery]
@[simp] theorem State.writeOwner_mem (s : State) (m : Nat) (x : WordWrite) : (State.writeOwner s m x).mem = s.mem := by
  simp only [State.writeOwner]
  repeat' split
  all_goals simp

@[simp] theorem State.startImage_mem (s : State) (img : Cells) : (State.startImage s img).mem = s.mem := by
  simp [State.startImage]
@[simp] theorem State.bootWindow_mem (s : State) : (State.bootWindow s).mem = s.mem := by
  simp only [State.bootWindow]
  repeat' split
  all_goals simp
@[simp] theorem State.tryBank_mem (s : State) (i : Nat) (next : Nat) : (State.tryBank s i next).mem = s.mem := by
  simp only [State.tryBank]
  split <;> simp
@[simp] theorem State.beginWarm_mem (s : State) : (State.beginWarm s).mem = s.mem := by
  simp only [State.beginWarm]
  (repeat' first | with_reducible rfl | (simp [*]; done) | (intro _) | (split <;> try (rename_i heq; have hm := congrArg (fun p => p.1.mem) heq; simp at hm; clear heq)) | (refine (foldl_mem ?_ _ _).trans ?_) | (simp [*]))
@[simp] theorem State.endWarm_mem (s : State) : (State.endWarm s).mem = s.mem := by
  simp [State.endWarm]
theorem ite_some_all {α : Type} {P : α → Prop} {c : Prop} [Decidable c] {a : α} {b : Option α} (ha : P a)
    (hb : ∀ f, b = some f → P f) : ∀ f, (if c then some a else b) = some f → P f := by
  intro f h
  split at h
  · exact Option.some.inj h ▸ ha
  · exact hb f h
theorem State.gatedBlock_mem {off : Nat} {x : WordWrite} : ∀ f, State.gatedBlock off x = some f → ∀ s, (f s).mem = s.mem := by
  unfold State.gatedBlock
  repeat' refine ite_some_all (P := fun f : State → State => ∀ s, (f s).mem = s.mem) ?_ ?_
  all_goals first | (intro s; simp; done) | (intro s; dsimp only; (repeat' split) <;> simp; done) | (intro f h; cases h)
@[simp] theorem State.applyControl_mem (s : State) (master off size value : Nat) : (s.applyControl master off size value).mem = s.mem := by
  unfold State.applyControl
  dsimp only
  split
  · simp
  · split
    · simp
    · split
      · split <;> simp
      · split
        · rename_i f hf
          split
          · exact State.gated_mem _ _ _ (State.gatedBlock_mem _ hf)
          · simp
        · simp
@[simp] theorem State.pumpPort_mem (s : State) : (State.pumpPort s).mem = s.mem := by
  simp only [State.pumpPort]
  (repeat' first | with_reducible rfl | (simp [*]; done) | (intro _) | (split <;> try (rename_i heq; have hm := congrArg (fun p => p.1.mem) heq; simp at hm; clear heq)) | (refine (foldl_mem ?_ _ _).trans ?_) | (simp [*]))
@[simp] theorem State.corrected_mem (s : State) (d : Option Nat) : (State.corrected s d).mem = s.mem := by
  simp only [State.corrected]
  split <;> simp

@[simp] theorem State.groupCode_mem (s : State) (u : Nat) (g : Nat) (va : Nat) : (State.groupCode s u g va).1.mem = s.mem := by
  simp only [State.groupCode]
  repeat' split
  all_goals simp
@[simp] theorem State.threadCode_mem (s : State) (q : Nat) (va : Nat) : (State.threadCode s q va).1.mem = s.mem := by
  simp only [State.threadCode]
  (repeat' first | with_reducible rfl | (simp [*]; done) | (intro _) | (split <;> try (rename_i heq; have hm := congrArg (fun p => p.1.mem) heq; simp at hm; clear heq)) | (refine (foldl_mem ?_ _ _).trans ?_) | (simp [*]))
@[simp] theorem State.codeAt_mem (s : State) (kind : FocusKind) (va : Nat) : (State.codeAt s kind va).1.mem = s.mem := by
  simp only [State.codeAt]
  split <;> simp
@[simp] theorem State.wordsFrom_mem (s : State) (kind : FocusKind) (va n : Nat) : (State.wordsFrom s kind va n).1.mem = s.mem := by
  induction n generalizing s va with
  | zero => rfl
  | succ n ih =>
    have h := State.codeAt_mem s kind va
    simp only [State.wordsFrom]
    split <;> rename_i heq <;> rw [heq] at h
    · exact (ih _ _).trans h
    · exact h
@[simp] theorem State.lookWord_mem (s : State) (kind : FocusKind) (h : Header) (hdr : Nat) (pc : Nat) (idx : Nat) (start : Bool) : (State.lookWord s kind h hdr pc idx start).1.mem = s.mem := by
  simp only [State.lookWord]
  repeat' split
  all_goals simp
@[simp] theorem State.look_mem (s : State) (kind : FocusKind) (pc : Nat) (hdr : Nat) (idx : Nat) : (State.look s kind pc hdr idx).1.mem = s.mem := by
  simp only [State.look]
  (repeat' first | with_reducible rfl | (simp [*]; done) | (intro _) | (split <;> try (rename_i heq; have hm := congrArg (fun p => p.1.mem) heq; simp at hm; clear heq)) | (refine (foldl_mem ?_ _ _).trans ?_) | (simp [*]))
@[simp] theorem State.firstReady_mem (s : State) (u g : Nat) (l : List Path) : (State.firstReady s u g l).1.mem = s.mem := by
  induction l generalizing s with
  | nil => rfl
  | cons p r ih =>
    simp only [State.firstReady]
    split <;> rename_i heq <;> have h := congrArg (fun p => p.1.mem) heq
    · refine (ih _).trans ?_
      split at h <;> simpa using h.symm
    · split at h <;> simpa using h.symm
@[simp] theorem State.choose_mem (s : State) (u : Nat) (g : Nat) : (State.choose s u g).1.mem = s.mem := by
  simp only [State.choose]
  (repeat' first | with_reducible rfl | (simp [*]; done) | (intro _) | (split <;> try (rename_i heq; have hm := congrArg (fun p => p.1.mem) heq; simp at hm; clear heq)) | (refine (foldl_mem ?_ _ _).trans ?_) | (simp [*]))
@[simp] theorem State.second_mem (s : State) (u : Nat) (g : Nat) (p : Path) (l : Look) : (State.second s u g p l).1.mem = s.mem := by
  simp only [State.second]
  (repeat' first | with_reducible rfl | (simp [*]; done) | (intro _) | (split <;> try (rename_i heq; have hm := congrArg (fun p => p.1.mem) heq; simp at hm; clear heq)) | (refine (foldl_mem ?_ _ _).trans ?_) | (simp [*]))
@[simp] theorem State.fetchPark_mem (s : State) (u : Nat) (g : Nat) (ks : List Nat) (code : Nat) (addr : Nat) (pc : Nat) (hdr : Nat) (idx : Nat) : (State.fetchPark s u g ks code addr pc hdr idx).mem = s.mem := by
  simp [State.fetchPark]
@[simp] theorem State.fetchTrap_mem (s : State) (kind : FocusKind) (code : Nat) (addr : Nat) : (State.fetchTrap s kind code addr).mem = s.mem := by
  simp only [State.fetchTrap]
  repeat' split
  all_goals simp
@[simp] theorem State.countPass_mem (s : State) (u : Nat) (cycles : Nat) : (State.countPass s u cycles).mem = s.mem := by
  simp [State.countPass]
@[simp] theorem State.countInstr_mem (s : State) (u : Nat) (g : Nat) (i : Instr) : (State.countInstr s u g i).mem = s.mem := by
  simp [State.countInstr]
@[simp] theorem State.enterClause_mem (s : State) (u : Nat) (g : Nat) (ks : List Nat) (i : Instr) (f : Focus) (cue : Nat) : (State.enterClause s u g ks i f cue).mem = s.mem := by
  simp only [State.enterClause]
  repeat' split
  all_goals simp
@[simp] theorem State.takeTurns_mem (s : State) (u : Nat) (i : Instr) : (State.takeTurns s u i).mem = s.mem := by
  simp only [State.takeTurns]
  (repeat' first | with_reducible rfl | (simp [*]; done) | (intro _) | (split <;> try (rename_i heq; have hm := congrArg (fun p => p.1.mem) heq; simp at hm; clear heq)) | (refine (foldl_mem ?_ _ _).trans ?_) | (simp [*]))
@[simp] theorem State.enter_mem (s : State) (u : Nat) (g : Nat) (ks : List Nat) (i : Instr) (f : Focus) (cue : Nat) (counted : Bool) : (State.enter s u g ks i f cue counted).mem = s.mem := by
  simp [State.enter]
@[simp] theorem State.landBelow_mem (s : State) (core : Nat) (lane : Nat) : (State.landBelow s core lane).mem = s.mem := by
  simp only [State.landBelow]
  (repeat' first | with_reducible rfl | (simp [*]; done) | (intro _) | (split <;> try (rename_i heq; have hm := congrArg (fun p => p.1.mem) heq; simp at hm; clear heq)) | (refine (foldl_mem ?_ _ _).trans ?_) | (simp [*]))
@[simp] theorem State.dropCode_mem (s : State) (q : Nat) (f : Focus) : (State.dropCode s q f).mem = s.mem := by
  simp [State.dropCode]
@[simp] theorem State.pack_mem (s : State) (held : Bool) (left : Nat) (l : List (Nat × Nat)) : (State.pack s held left l).1.mem = s.mem := by
  induction l generalizing s left with
  | nil => rfl
  | cons a r ih =>
    obtain ⟨u, g⟩ := a
    simp only [State.pack]
    split
    · exact ih _ _
    · split <;> rename_i heq <;> have h := congrArg (fun p => p.1.mem) heq <;> simp only [State.choose_mem] at h
      · split
        · refine (ih _ _).trans ?_
          simpa using h.symm
        · exact (ih _ _).trans h.symm
      · exact (ih _ _).trans h.symm
@[simp] theorem State.issueSlotBy_mem (s : State) (core : Nat) (lane : Nat) : (State.issueSlotBy s core lane).mem = s.mem := by
  simp only [State.issueSlotBy]
  (repeat' first | with_reducible rfl | (simp [*]; done) | (intro _) | (split <;> try (rename_i heq; have hm := congrArg (fun p => p.1.mem) heq; simp at hm; clear heq)) | (refine (foldl_mem ?_ _ _).trans ?_) | (simp [*]))

@[simp] theorem State.countCues_mem (s : State) : (State.countCues s).mem = s.mem := by
  simp [State.countCues]
@[simp] theorem State.countCurrent_mem (s : State) (d : Nat) : (State.countCurrent s d).mem = s.mem := by
  simp only [State.countCurrent]
  split <;> simp

end Sys2Proof.Machine
end

