-- ==== Sys2Proof/Laws/Invariant.lean ====
section
/-! SUPPORT. What keeps the one form of memory: the writes of homes, resets and everything built on them. -/

namespace Sys2Proof.Machine

theorem inv_of_mem {s t : State} (e : t.mem = s.mem) (h : s.Inv) : t.Inv := by
  unfold State.Inv at *
  rw [e]
  exact h

theorem foldl_inv {α : Type} {f : State → α → State} (h : ∀ s a, s.Inv → (f s a).Inv) (l : List α) {s : State} (hs : s.Inv) :
    (l.foldl f s).Inv := by
  induction l generalizing s with
  | nil => exact hs
  | cons a r ih => exact ih (h s a hs)

theorem cells_inv {s : State} (a : Nat) (bs : List W8) (h : s.Inv) : ({ s with mem := cellsWrite a bs s.mem } : State).Inv :=
  cellsWrite_wf a bs h

@[simp] theorem State.inv_onHome (s : State) (h : Nat) (f : Home → Home) : (s.onHome h f).Inv ↔ s.Inv := by simp [State.Inv]
@[simp] theorem State.inv_countErr (s : State) (d k n : Nat) : (s.countErr d k n).Inv ↔ s.Inv := by simp [State.Inv]
@[simp] theorem State.inv_countBad (s : State) (h : Nat) (p : Part) (d : Nat) : (s.countBad h p d).Inv ↔ s.Inv := by simp [State.Inv]
@[simp] theorem State.inv_clearBad (s : State) (l : List Nat) : (s.clearBad l).Inv ↔ s.Inv := by simp [State.Inv]
@[simp] theorem State.inv_post (s : State) (i : Instr) : (s.post i).Inv ↔ s.Inv := by simp [State.Inv]

theorem State.putPlain_inv {s : State} (key : List W8) (va addr off : Nat) (bytes : List W8) (h : s.Inv) :
    (s.putPlain key va addr off bytes).Inv := by
  simp only [State.putPlain, State.inv_clearBad]
  exact cells_inv _ _ h

theorem State.setDirty_inv {s : State} (e addr : Nat) (h : s.Inv) : (s.setDirty e addr).Inv := by
  simp only [State.setDirty]
  split
  · exact cells_inv _ _ h
  · exact h

theorem State.windowPart_inv {s : State} (p : Part) (h : s.Inv) : (s.windowPart p).1.Inv := by
  simp only [State.windowPart]
  repeat' split
  all_goals simp only [h, State.inv_clearBad]
  all_goals exact cells_inv _ _ h

theorem State.performWrite_inv {s : State} (h : Nat) (p : Part) (e addr off : Nat) (key bytes : List W8) (hs : s.Inv) :
    (s.performWrite h p e addr off key bytes).1.Inv := by
  have w := State.setDirty_inv e addr (State.putPlain_inv key p.va (lineAddr e off) (p.va % 64) bytes hs)
  simp only [State.Inv, State.performWrite, State.watchHits_mem, State.wakeMonitors_mem, State.stampWrite_mem] at w ⊢
  exact w

theorem ite_inv {β : Type} {c : Prop} [Decidable c] {a b : State × β} (ha : a.1.Inv) (hb : b.1.Inv) : (if c then a else b).1.Inv := by
  split <;> assumption

theorem State.servePage_inv {s : State} (h : Nat) (p : Part) (e addr off : Nat) (key : List W8) (hs : s.Inv) :
    (s.servePage h p e addr off key).1.Inv := by
  have c (x : Prop) [Decidable x] (d : Nat) : (if x then s.countBad h p d else s).Inv := by
    split
    · exact (State.inv_countBad _ _ _ _).2 hs
    · exact hs
  have e1 (d : Nat) : (s.countBad h p d).Inv := (State.inv_countBad _ _ _ _).2 hs
  simp only [State.servePage]
  split
  · refine ite_inv (e1 _) ?_
    simpa only [State.Inv, State.stampRead_mem] using c _ _
  · refine ite_inv (e1 _) ?_
    simpa only [State.Inv, State.stampRead_mem] using c _ _
  · refine ite_inv (e1 _) ?_
    simpa only [State.Inv, State.stampRead_mem] using c _ _
  · exact hs
  · refine ite_inv (by simpa [State.Inv] using hs) (ite_inv (e1 _) ?_)
    simpa [State.Inv] using hs
  · refine ite_inv (by simpa [State.Inv] using hs) (ite_inv (e1 _) ?_)
    exact State.performWrite_inv _ _ _ _ _ _ _ (c _ _)
  all_goals
    refine ite_inv (by simpa [State.Inv] using hs) (ite_inv (e1 _) (ite_inv ?_ ?_))
    · exact State.performWrite_inv _ _ _ _ _ _ _ (c _ _)
    · simpa only [State.Inv, State.stampWrite_mem] using c _ _

theorem State.serve_inv {s : State} (h : Nat) (p : Part) (hs : s.Inv) : (s.serve h p).1.Inv := by
  have e : (s.countErr 0 0 1).Inv := by simpa using hs
  have pk (a : Part) (b : Option (Nat × Nat)) : (s.park h a b).1.Inv := by simpa [State.Inv] using hs
  have sh (a : Part) (e addr off : Nat) : (s.serveHost a e addr off).1.Inv := by simpa [State.Inv] using hs
  have rc (e off : Nat) (key : List W8) : (s.readCopy h p e off key).1.Inv := by simpa [State.Inv] using hs
  have tc : (s.touch h p).Inv := by simpa [State.Inv] using hs
  simp only [State.serve]
  refine ite_inv (State.windowPart_inv _ hs) (ite_inv hs ?_)
  split
  · exact hs
  refine ite_inv hs (ite_inv (ite_inv (by simpa using tc) tc) ?_)
  split
  · exact pk _ _
  · exact hs
  · simpa using hs
  refine ite_inv (pk _ _) (ite_inv (pk _ _) (ite_inv hs (ite_inv (sh _ _ _ _) ?_)))
  split
  · exact hs
  exact ite_inv hs (ite_inv (ite_inv (by simpa using hs) (ite_inv (rc _ _ _) tc)) (State.servePage_inv _ _ _ _ _ _ tc))

theorem State.performPst_inv {s : State} (p : Part) (hs : s.Inv) : (s.performPst p).1.Inv := by
  simp only [State.performPst]
  split
  · refine ite_inv ?_ hs
    exact State.windowPart_inv _ hs
  split
  · exact hs
  refine State.performWrite_inv _ _ _ _ _ _ _ ?_
  have tc (t : State) (ht : t.Inv) : (t.touch p.home p).Inv := by simpa [State.Inv] using ht
  refine tc _ ?_
  repeat' split
  all_goals first
    | exact hs
    | simpa only [State.inv_countBad] using hs

theorem State.readPart_inv {s : State} (p : Part) (hs : s.Inv) : (s.readPart p).Inv := by
  simp only [State.readPart]
  repeat' split
  all_goals (first | simpa [State.Inv] using hs | simpa [State.Inv] using State.serve_inv _ _ hs)

theorem State.releasePst_inv {s : State} (p : Part) (hs : s.Inv) : (s.releasePst p).Inv := by
  simp only [State.releasePst]
  repeat' split
  all_goals simpa [State.Inv] using State.performPst_inv p hs

theorem State.scrubLine_inv {s : State} (h vf : Nat) (g : MappedPage) (i : Nat) (hs : s.Inv) : (s.scrubLine h vf g i).Inv := by
  simp only [State.scrubLine]
  split
  · repeat' split
    all_goals first | exact hs | simpa [State.Inv] using hs
  split
  · exact State.performWrite_inv _ _ _ _ _ _ _ hs
  · have z (a : Nat) (l : List Nat) : (State.clearBad { s with mem := cellsZero a 64 s.mem } l).Inv :=
      (State.inv_clearBad _ _).2 (cellsZero_wf a 64 hs)
    have w (t : State) (ht : t.Inv) := State.setDirty_inv g.entry g.addr ht
    simp only [State.Inv, State.watchHits_mem, State.wakeMonitors_mem, State.stampWrite_mem] at w z ⊢
    exact w _ (z _ _)

theorem State.scrubHome_inv {s : State} (vf h : Nat) (hs : s.Inv) : (s.scrubHome vf h).Inv :=
  foldl_inv (fun _ _ ht => foldl_inv (fun _ _ ht => State.scrubLine_inv _ _ _ _ ht) _ ht) _ hs

theorem State.scrub_inv {s : State} (d v : Nat) (hs : s.Inv) : (s.scrub d v).Inv := by
  simp only [State.scrub]
  split
  · exact foldl_inv (fun _ _ ht => (State.inv_post _ _).2 ht) _ hs
  · refine inv_of_mem (State.onVf_mem _ _ _ _) ?_
    exact foldl_inv (fun _ _ ht => State.scrubHome_inv _ _ ht) _ hs

theorem iteS_inv {c : Prop} [Decidable c] {a b : State} (ha : a.Inv) (hb : b.Inv) : (if c then a else b).Inv := by
  split <;> assumption

theorem State.pumpBoot_inv {s : State} (hs : s.Inv) : s.pumpBoot.Inv := by
  have tb (t : State) (b n : Nat) (ht : t.Inv) : (t.tryBank b n).Inv := inv_of_mem (State.tryBank_mem _ _ _) ht
  have dv (t : State) (d : Device) (ht : t.Inv) : ({ t with dev := d } : State).Inv := inv_of_mem (s := t) rfl ht
  simp only [State.pumpBoot]
  refine iteS_inv hs (iteS_inv (dv _ _ hs) (iteS_inv (tb _ _ _ hs) (iteS_inv ?_ (iteS_inv ?_ (iteS_inv (dv _ _ hs) (dv _ _ hs))))))
  · exact iteS_inv (dv _ _ (tb _ _ _ hs)) (tb _ _ _ hs)
  · unfold State.Inv
    rfl

theorem State.pumpResets_inv {s : State} (d : Nat) (hs : s.Inv) : (s.pumpResets d).Inv := by
  simp only [State.pumpResets]
  refine foldl_inv (fun t e ht => ?_) _ hs
  repeat' split
  all_goals first
    | exact ht
    | exact inv_of_mem (State.closeVf_mem _ _ _) ht
    | exact inv_of_mem (State.finishReset_mem _ _ _) ht
    | exact State.scrub_inv _ _ ht

end Sys2Proof.Machine
end

