-- ==== Sys2Proof/Laws/Issue.lean ====
section
/-! SUPPORT. What the pass around an instruction does: the one place where issueBy is taken apart. -/

namespace Sys2Proof.Machine

/-- An instruction that has its own effect: the effect starts from its operands, and the pass ends. -/
theorem issueBy_runs (i : Instr) (s : State) (body : List Elem → State → State) (h : s.runs i = true) :
    issueBy i s body = (body (s.operands i).2 (s.operands i).1).endPass := by
  simp only [State.runs, Bool.and_eq_true, bne_iff_ne, ne_eq, Bool.not_eq_true', Option.isNone_iff_eq_none] at h
  obtain ⟨⟨⟨⟨⟨⟨hk, hf⟩, hd⟩, hg⟩, he⟩, hr⟩, hs⟩ := h
  unfold issueBy State.operands
  split
  · exact absurd ‹_› hk
  · simp only [hf, hd, hg, he, hr]
    cases hw : s.who with
    | none => simp
    | some w =>
      obtain ⟨u, g, b⟩ := w
      simp only [hw, Bool.or_eq_true, bne_iff_ne, ne_eq] at hs
      have hn : ¬ ((s.softRead u g i).focus.kind = .path u g [] ∧ (s.softRead u g i).focus.kept = false) := by
        rintro ⟨a, c⟩; rcases hs with hs | hs
        · exact hs a
        · simp [c] at hs
      simp only [Bool.not_true, Bool.false_eq_true, if_false, Bool.and_eq_true, beq_iff_eq, Bool.not_eq_true']
      rw [if_neg hn]

theorem issue_runs (i : Instr) (s : State) (body : List Elem → State → State) (h : s.runs i = true) :
    issue i s body = .next (body (s.operands i).2 (s.operands i).1).passes := by
  simp [issue, issueBy_runs _ _ _ h, State.passes]

theorem issueMove_runs (i : Instr) (s : State) (body : State → State) (h : s.runs i = true) :
    issueMove i s body = .next (body (s.operands i).1).endPass := by
  simp [issueMove, issueBy_runs _ _ _ h]

/-- Every way through the pass around an instruction: nothing, a trap, a skip, the end of a pass whose strands are all lost, or the
effect. -/
theorem issueBy_cases (i : Instr) (s : State) (body : List Elem → State → State) :
    issueBy i s body = s ∨ (∃ c t, issueBy i s body = State.trapPath t c ∧ (t = s ∨ t = (s.free 8).2)) ∨
    (∃ c, issueBy i s body = (s.trapPath c).endPass) ∨ issueBy i s body = s.nextClause.endPass ∨ issueBy i s body = s.advance.endPass ∨
    (∃ u g, issueBy i s body = (s.softRead u g i).endPass) ∨
    issueBy i s body = (body (s.operands i).2 (s.operands i).1).endPass := by
  unfold issueBy State.operands
  split
  · exact .inl rfl
  · split
    · exact .inr (.inl ⟨_, _, rfl, .inr rfl⟩)
    · split
      · exact .inr (.inr (.inl ⟨_, rfl⟩))
      · split
        · split
          · exact .inr (.inr (.inr (.inl rfl)))
          · exact .inr (.inr (.inr (.inr (.inl rfl))))
        · split
          · exact .inr (.inr (.inl ⟨_, rfl⟩))
          · split
            · exact .inl rfl
            · cases hw : s.who with
              | none => simp
              | some w =>
                obtain ⟨u, g, b⟩ := w
                simp only
                split
                · exact .inr (.inr (.inr (.inr (.inr (.inl ⟨_, _, rfl⟩)))))
                · exact .inr (.inr (.inr (.inr (.inr (.inr rfl)))))

end Sys2Proof.Machine
end

