-- ==== Sys2Proof/Tests/Slice0.lean ====
section
/-! SUPPORT. The model's own tests: ill-formed terms that WellFormed refuses, words of the spec's tables, results worked by hand, and for
every statement a state that meets its hypotheses. -/

namespace Sys2Proof.Tests

-- One theorem after the other: their evaluations side by side take more memory than the check allows.
set_option Elab.async false

open Sys2Proof.Machine Sys2Proof.Claims

/-! ## WellFormed: one ill-formed term for each check -/

/-- Modifiers of no effect. -/
def plain : Fx := {}

theorem test_wf_reserved_code : wellFormed (.iadd (.bad 122) (.v 1) (.v 2) 0) = false := by decide
theorem test_wf_constant_destination : wellFormed (.iadd .one (.v 1) (.v 2) 0) = false := by decide
theorem test_wf_strand_in_uniform : wellFormed (.wadd (.w 0) .strandIdx (.w 2) 0) = false := by decide
theorem test_wf_odd_pair : wellFormed (.iadd64 (.v 1) (.v 2) (.v 4) 0) = false := by decide
theorem test_wf_modifier_without_meaning : wellFormed (.imac (.v 0) (.v 1) (.v 2) (.v 3) 0 { plain with na := true }) = false := by decide
theorem test_wf_reserved_rounding : wellFormed (.ffma (.v 0) (.v 1) (.v 2) (.v 3) 0 { plain with rm := 7 }) = false := by decide
theorem test_wf_same_formats : wellFormed (.cvt (.v 0) (.v 1) 0 { plain with imm := 0x14a }) = false := by decide
theorem test_wf_reserved_condition : wellFormed (.icmpI (.v 0) (.v 1) (.v 2) 0 { plain with opx := 7 }) = false := by decide
theorem test_wf_mov_width : wellFormed (.mov (.v 0) (.v 4) 3 0) = false := by decide
theorem test_wf_rots_strandwise : wellFormed (.rots (.v 0) (.v 1) (.v 2) 0) = false := by decide
theorem test_wf_load_of_uniform_data : wellFormed (.ld 2 (.w 0) (.w 4) .zero 0 false 0 0) = false := by decide
theorem test_wf_atomic_type : wellFormed (.atom (.v 0) (.w 4) .zero (.v 1) 0 7 0 0 0) = false := by decide
theorem test_wf_queue_operand : wellFormed (.qcnt (.w 0) (.w 1) 0) = false := by decide
theorem test_wf_engine_queue : wellFormed (.cpy (.w 2) (.w 4) (.w 6) .zero .zero 4 0 0) = false := by decide
theorem test_wf_transform_queue : wellFormed (.xfmCvt (.w 2) (.w 4) (.w 6) .zero .zero 3 0 0 0) = false := by decide
theorem test_wf_ring_without_release : wellFormed (.cpy (.w 2) (.w 4) (.w 6) .zero .zero 0 0x10 0) = false := by decide
theorem test_wf_qfence_of_nothing : wellFormed (.qfence 0 0) = false := by decide
theorem test_wf_special_register : wellFormed (.wrs (.w 0) 0x3f 0) = false := by decide
theorem test_wf_read_only_register : wellFormed (.wws 0x10 (.w 0) 0) = false := by decide
theorem test_wf_tile_format : wellFormed (.mbld (.w 0) (.w 2) 0x507 0 0) = false := by decide
theorem test_wf_image_quad : wellFormed (.dtw (.w 1) (.w 6) (.w 2) 0) = false := by decide
theorem test_wf_accepts : wellFormed (.iadd (.v 1) (.v 2) (.v 3) 3) = true := by decide

/-! ## Decoding: words written out in the spec, beside the instruction that each stands for -/

/-- 07_lane.md, R227, R228, R230, R231, R232, R241, R244. -/
theorem test_decode_iaddc : decode 0 [0x03040008#32] = .ok (.iaddc (.v 2) (.v 0) (.v 1) 0, 1) := rfl
theorem test_decode_rol : decode 0 [0x18060430#32] = .ok (.rol (.v 3) (.v 1) (.v 6) 0, 1) := rfl
theorem test_decode_bfx : decode 0 [0x1b0bd780#32, 0x00001023#32] = .ok (.bfxN (.v 5) .strandIdx .zero 0 { plain with opx := 1, imm := 0x23 }, 2) := rfl
theorem test_decode_bfi :
    decode 0 [0x1c0c1780#32, 0xf0001024#32, 8#32] = .ok (.bfi (.v 6) (.v 5) .zero (.lit 8) 0 { plain with opx := 1, imm := 0x24 }, 3) := rfl
theorem test_decode_icmp :
    decode 0 [0x22e01618#32, 0x0000a011#32] = .ok (.icmpI .zero (.v 5) (.w 3) 0 { plain with opx := 10, imm := 0x11 }, 2) := rfl
theorem test_decode_cvt : decode 0 [0x50040400#32, 0x0020014c#32] = .ok (.cvt (.v 2) (.v 1) 0 { plain with sat := true, imm := 0x14c }, 2) := rfl
theorem test_decode_dot4 : decode 0 [0x58020818#32, 0x08000000#32] = .ok (.dot4 (.v 1) (.v 2) (.v 3) (.v 4) 0 plain, 2) := rfl
/-- 05_uniform.md, the table of R167, R181, R182. -/
theorem test_decode_loop : decode 1 [0x0d07fffd#32] = .ok (.loop 0 1 0x3fffd, 1) := rfl
theorem test_decode_wait : decode 1 [0x091ff000#32] = .ok (.wait 0 7 7 7 0, 1) := rfl
theorem test_decode_wcmp : decode 1 [0x2d481180#32] = .ok (.wcmp 2 2 (.w 1) (.w 6) 0, 1) := rfl
theorem test_decode_wli : decode 1 [0x21100000#32, 5#32, 6#32] = .ok (.wli (.w 4) 5 6 0, 3) := rfl
/-- 06_access.md, the table after R211. -/
theorem test_decode_ldw : decode 2 [0x20951380#32, 0x00300002#32] = .ok (.ldw (.w 10) (.w 4) .zero 0 3 0 2, 2) := rfl
theorem test_decode_red : decode 2 [0x2a0b1b80#32, 0x00400000#32] = .ok (.red (.v 5) (.w 6) .zero 0 4 0 0 0, 2) := rfl
theorem test_decode_pst : decode 2 [0x30121380#32, 0x00200000#32] = .ok (.pst (.v 9) (.v 4) .zero 0 2 0, 2) := rfl
theorem test_decode_load_negative_offset : decode 2 [0x00060380#32, 0x00008fff#32] = .ok (.ld 0 (.v 3) (.v 0) .zero 0 true 0 0xfff, 2) := rfl
/-- 07_lane.md, R248. -/
theorem test_decode_pick : decode 3 [0x02020f88#32, 0xe4001003#32] = .ok (.pick (.v 1) (.v 3) .one .mone 0 { plain with opx := 1, imm := 3 }, 2) := rfl
/-- 08_queue.md, the table after R273. -/
theorem test_decode_btest : decode 4 [0x0d052248#32] = .ok (.btest 2 (.w 8) (.w 9) 0, 1) := rfl
theorem test_decode_sacq : decode 4 [0x10879400#32] = .ok (.sacq (.w 3) (.q 5) 0, 1) := rfl
/-- 09_matrix.md, Table 7. -/
theorem test_decode_mbld : decode 5 [0x03008280#32, 0x00050000#32] = .ok (.mbld (.w 8) (.w 10) 0x500 0 0, 2) := rfl
theorem test_decode_mdrn : decode 5 [0x06010480#32, 0x51600e04#32] = .ok (.mdrn (.w 16) (.w 18) (.w 20) (.w 22) 0x00e 4 0, 2) := rfl
/-- 10_block.md and 11_transform.md, their tables of encodings. -/
theorem test_decode_cpym :
    decode 6 [0x02090cc0#32, 0x1b300000#32, 64#32, 0x1800#32] = .ok (.cpym (.w 2) (.w 16) (.lit 64) (.w 6) (.lit 0x1800) 0 0 0, 4) := rfl
theorem test_decode_rcpy : decode 6 [0x05106240#32, 0xc3061000#32] = .ok (.rcpy (.w 4) (.w 6) (.w 9) .zero .zero 3 0x1000 0, 2) := rfl
theorem test_decode_bdxd : decode 6 [0x08412600#32, 0x5b080101#32] = .ok (.xfmBdxd (.w 16) (.w 18) (.w 24) (.w 22) .zero 4 1 0 0, 2) := rfl
/-- 14_service.md, Table 9. -/
theorem test_decode_pkw : decode 7 [0x040420c0#32] = .ok (.pkw (.w 1) (.w 2) (.w 3) 0, 1) := rfl
theorem test_decode_dtw : decode 7 [0x05044200#32] = .ok (.dtw (.w 1) (.w 4) (.w 8) 0, 1) := rfl
/-- A reserved opcode is refused by name, and so are two words where three are needed. -/
theorem test_decode_reserved : decode 7 [0xff000000#32] = .error .badOpcode := rfl
theorem test_decode_header : (decodeHeader 0x0027ff82).map (fun h => (h.n, h.cls, h.dual, h.wl)) = some (2, 0, true, 7) := by decide
theorem test_decode_no_header : decodeHeader 0x0007ff80 = none := by decide

/-! ## Decoding: for every encoded constructor a word written out from the layouts and opcodes of R57 to R79 -/

/-- Each instruction is what its words decode to, in a class. -/
def decodes (c : Nat) (l : List (List W32 × Instr)) : Bool :=
  l.all fun e => match decode c e.1 with
    | .ok (i, n) => i == e.2 && n == e.1.length
    | .error _ => false
theorem test_words_class0_a : decodes 0 [
    ([0x0118510d], .iadd (.v 12) (.v 20) (.v 33) 5),
    ([0x0218510d], .isub (.v 12) (.v 20) (.v 33) 5),
    ([0x0318510d], .iaddc (.v 12) (.v 20) (.v 33) 5),
    ([0x0418510d], .imul (.v 12) (.v 20) (.v 33) 5),
    ([0x0518510d], .imulhI (.v 12) (.v 20) (.v 33) 5),
    ([0x0618510d], .imulhN (.v 12) (.v 20) (.v 33) 5),
    ([0x0918510d], .iminI (.v 12) (.v 20) (.v 33) 5),
    ([0x0a18510d], .iminN (.v 12) (.v 20) (.v 33) 5),
    ([0x0b18510d], .imaxI (.v 12) (.v 20) (.v 33) 5),
    ([0x0c18510d], .imaxN (.v 12) (.v 20) (.v 33) 5),
    ([0x1018510d], .andB (.v 12) (.v 20) (.v 33) 5),
    ([0x1118510d], .orB (.v 12) (.v 20) (.v 33) 5),
    ([0x1218510d], .xorB (.v 12) (.v 20) (.v 33) 5),
    ([0x1318510d], .andn (.v 12) (.v 20) (.v 33) 5)] = true := by decide
theorem test_words_class0_b : decodes 0 [
    ([0x1518510d], .shl (.v 12) (.v 20) (.v 33) 5),
    ([0x1618510d], .shr (.v 12) (.v 20) (.v 33) 5),
    ([0x1718510d], .asr (.v 12) (.v 20) (.v 33) 5),
    ([0x1818510d], .rol (.v 12) (.v 20) (.v 33) 5),
    ([0x2118510d], .sel (.v 12) (.v 20) (.v 33) 5),
    ([0x3018510d], .fadd (.v 12) (.v 20) (.v 33) 5),
    ([0x3118510d], .fsub (.v 12) (.v 20) (.v 33) 5),
    ([0x3218510d], .fmul (.v 12) (.v 20) (.v 33) 5),
    ([0x3418510d], .fmin (.v 12) (.v 20) (.v 33) 5),
    ([0x3518510d], .fmax (.v 12) (.v 20) (.v 33) 5),
    ([0x3c18510d], .fdiv (.v 12) (.v 20) (.v 33) 5),
    ([0x4118510d], .fscale (.v 12) (.v 20) (.v 33) 5),
    ([0x28185115], .iadd64 (.v 12) (.v 20) (.v 34) 5),
    ([0x29185115], .isub64 (.v 12) (.v 20) (.v 34) 5)] = true := by decide
theorem test_words_class0_c : decodes 0 [
    ([0x2a185115], .shl64 (.v 12) (.v 20) (.v 34) 5),
    ([0x2b185115], .shr64 (.v 12) (.v 20) (.v 34) 5),
    ([0x48185115], .dadd (.v 12) (.v 20) (.v 34) 5),
    ([0x49185115], .dmul (.v 12) (.v 20) (.v 34) 5),
    ([0x0d185005], .iabs (.v 12) (.v 20) 5),
    ([0x0e185005], .ineg (.v 12) (.v 20) 5),
    ([0x14185005], .notB (.v 12) (.v 20) 5),
    ([0x1d185005], .popc (.v 12) (.v 20) 5),
    ([0x1e185005], .clz (.v 12) (.v 20) 5),
    ([0x1f185005], .brev (.v 12) (.v 20) 5),
    ([0x27185005], .pmov (.v 12) (.v 20) 5),
    ([0x37185005], .fneg (.v 12) (.v 20) 5),
    ([0x38185005], .fabs (.v 12) (.v 20) 5),
    ([0x39185005], .frcp (.v 12) (.v 20) 5)] = true := by decide
theorem test_words_class0_d : decodes 0 [
    ([0x3a185005], .frsq (.v 12) (.v 20) 5),
    ([0x3b185005], .fsqrt (.v 12) (.v 20) 5),
    ([0x3d185005], .fex2 (.v 12) (.v 20) 5),
    ([0x3e185005], .flg2 (.v 12) (.v 20) 5),
    ([0x3f185005], .fsin (.v 12) (.v 20) 5),
    ([0x40185005], .fcos (.v 12) (.v 20) 5),
    ([0x2018500d], .mov (.v 12) (.v 20) 1 5),
    ([0x0718510d, 0x5c000000], .imac (.v 12) (.v 20) (.v 33) (.v 46) 5 plain),
    ([0x1918510d, 0x5c000000], .fshf (.v 12) (.v 20) (.v 33) (.v 46) 5 plain),
    ([0x2518510d, 0x5c000000], .bsel (.v 12) (.v 20) (.v 33) (.v 46) 5 plain),
    ([0x3318510d, 0x5c000000], .ffma (.v 12) (.v 20) (.v 33) (.v 46) 5 plain),
    ([0x4618510d, 0x5c000000], .duofma (.v 12) (.v 20) (.v 33) (.v 46) 5 plain),
    ([0x5818510d, 0x5c000000], .dot4 (.v 12) (.v 20) (.v 33) (.v 46) 5 plain),
    ([0x5918510d, 0x5c000000], .dot8 (.v 12) (.v 20) (.v 33) (.v 46) 5 plain)] = true := by decide
theorem test_words_class0_e : decodes 0 [
    ([0x0818510d, 0x5c000000], .imacw (.v 12) (.v 20) (.v 33) (.v 46) 5 plain),
    ([0x4a185115, 0x5c940000], .dfma (.v 12) (.v 20) (.v 34) (.v 46) 5 { plain with rm := 2, na := true, nc := true }),
    ([0x1c18510d, 0x5c003025], .bfi (.v 12) (.v 20) (.v 33) (.v 46) 5 { plain with opx := 3, imm := 0x25 }),
    ([0x1a18510d, 0x00003025], .bfxI (.v 12) (.v 20) (.v 33) 5 { plain with opx := 3, imm := 0x25 }),
    ([0x1b18510d, 0x00003025], .bfxN (.v 12) (.v 20) (.v 33) 5 { plain with opx := 3, imm := 0x25 }),
    ([0x24185115, 0x00003000], .lea (.v 12) (.v 20) (.v 34) 5 { plain with opx := 3 }),
    ([0x2218510d, 0x0000a011], .icmpI (.v 12) (.v 20) (.v 33) 5 { plain with opx := 10, imm := 0x11 }),
    ([0x2318510d, 0x0000a011], .icmpN (.v 12) (.v 20) (.v 33) 5 { plain with opx := 10, imm := 0x11 }),
    ([0x3618510d, 0x0000a011], .fcmp (.v 12) (.v 20) (.v 33) 5 { plain with opx := 10, imm := 0x11 }),
    ([0x4be05115, 0x00004001], .dcmp .zero (.v 20) (.v 34) 5 { plain with opx := 4, imm := 1 }),
    ([0x2602081d, 0x080000ca], .plog 1 2 3 4 5 { plain with imm := 0xca }),
    ([0x4418510d, 0x00000000], .duoadd (.v 12) (.v 20) (.v 33) 5 plain),
    ([0x4518510d, 0x00000000], .duomul (.v 12) (.v 20) (.v 33) 5 plain),
    ([0x50185005, 0x0060014c], .cvt (.v 12) (.v 20) 5 { plain with rm := 1, sat := true, imm := 0x14c })] = true := by decide
theorem test_words_class0_f : decodes 0 [
    ([0x5118510d, 0x00009000], .pack (.v 12) (.v 20) (.v 33) 5 { plain with opx := 9 }),
    ([0x52185005, 0x00009000], .unpk (.v 12) (.v 20) 5 { plain with opx := 9 })] = true := by decide
theorem test_words_class1_a : decodes 1 [
    ([0x00000030], .nop 6),
    ([0x01cffffb], .bra 6 3 0x3fffb),
    ([0x02cffffb], .brc 6 3 0x3fffb),
    ([0x03cffffb], .brd 6 3 0x3fffb),
    ([0x0dcffffb], .loop 6 3 0x3fffb),
    ([0x04008030], .brx (.w 8) 6),
    ([0x05c3fffb], .call 6 0x3fffb),
    ([0x06000030], .ret 6),
    ([0x07000030], .rjoin 6),
    ([0x08000030], .exit 6),
    ([0x0a000030], .yield 6),
    ([0x0929c030], .wait 1 2 3 4 6),
    ([0x0b05a030], .trap 0x5a 6),
    ([0x0c000000], .rett)] = true := by decide
theorem test_words_class1_b : decodes 1 [
    ([0x0e05a030], .cue 0x5a 6),
    ([0x20251030], .wmov (.w 9) (.w 17) 6),
    ([0x32251030], .wpopc (.w 9) (.w 17) 6),
    ([0x21200030, 0xdeadbeef, 0x12345678], .wli (.w 8) 0xdeadbeef 0x12345678 6),
    ([0x222516b0], .wadd (.w 9) (.w 17) (.w 26) 6),
    ([0x232516b0], .wsub (.w 9) (.w 17) (.w 26) 6),
    ([0x242516b0], .wmul (.w 9) (.w 17) (.w 26) 6),
    ([0x252516b0], .wand (.w 9) (.w 17) (.w 26) 6),
    ([0x262516b0], .wor (.w 9) (.w 17) (.w 26) 6),
    ([0x272516b0], .wxor (.w 9) (.w 17) (.w 26) 6),
    ([0x282516b0], .wshl (.w 9) (.w 17) (.w 26) 6),
    ([0x292516b0], .wshr (.w 9) (.w 17) (.w 26) 6),
    ([0x2a2516b0], .wasr (.w 9) (.w 17) (.w 26) 6),
    ([0x2b2516b0], .wmin (.w 9) (.w 17) (.w 26) 6)] = true := by decide
theorem test_words_class1_c : decodes 1 [
    ([0x2c2516b0], .wmax (.w 9) (.w 17) (.w 26) 6),
    ([0x2dad16b0], .wcmp 5 3 (.w 17) (.w 26) 6),
    ([0x2e2516b0], .wsel (.w 9) (.w 17) (.w 26) 6),
    ([0x2f2106b0], .wadd64 (.w 8) (.w 16) (.w 26) 6),
    ([0x30210030], .wrs (.w 8) 0x10 6),
    ([0x31508030], .wws 0x14 (.w 8) 6)] = true := by decide
theorem test_words_class2_a : decodes 2 [
    ([0x0018510d, 0x0000affd], .ld 0 (.v 12) (.v 20) (.v 33) 5 true 2 0xffd),
    ([0x0818510d, 0x00002ffd], .st 0 (.v 12) (.v 20) (.v 33) 5 2 0xffd),
    ([0x1018550d, 0x00008ffd], .lds 0 (.v 12) (.v 21) (.v 33) 5 true 0xffd),
    ([0x1818550d, 0x00000ffd], .sts 0 (.v 12) (.v 21) (.v 33) 5 0xffd),
    ([0x0118510d, 0x0000affd], .ld 1 (.v 12) (.v 20) (.v 33) 5 true 2 0xffd),
    ([0x0918510d, 0x00002ffd], .st 1 (.v 12) (.v 20) (.v 33) 5 2 0xffd),
    ([0x1118550d, 0x00008ffd], .lds 1 (.v 12) (.v 21) (.v 33) 5 true 0xffd),
    ([0x1918550d, 0x00000ffd], .sts 1 (.v 12) (.v 21) (.v 33) 5 0xffd),
    ([0x0218510d, 0x00002ffd], .ld 2 (.v 12) (.v 20) (.v 33) 5 false 2 0xffd),
    ([0x0a18510d, 0x00002ffd], .st 2 (.v 12) (.v 20) (.v 33) 5 2 0xffd),
    ([0x1218550d, 0x00000ffd], .lds 2 (.v 12) (.v 21) (.v 33) 5 false 0xffd),
    ([0x1a18550d, 0x00000ffd], .sts 2 (.v 12) (.v 21) (.v 33) 5 0xffd),
    ([0x0318510d, 0x00002ffd], .ld 3 (.v 12) (.v 20) (.v 33) 5 false 2 0xffd),
    ([0x0b18510d, 0x00002ffd], .st 3 (.v 12) (.v 20) (.v 33) 5 2 0xffd)] = true := by decide
theorem test_words_class2_b : decodes 2 [
    ([0x1318550d, 0x00000ffd], .lds 3 (.v 12) (.v 21) (.v 33) 5 false 0xffd),
    ([0x1b18550d, 0x00000ffd], .sts 3 (.v 12) (.v 21) (.v 33) 5 0xffd),
    ([0x0418510d, 0x00002ffd], .ld 4 (.v 12) (.v 20) (.v 33) 5 false 2 0xffd),
    ([0x0c18510d, 0x00002ffd], .st 4 (.v 12) (.v 20) (.v 33) 5 2 0xffd),
    ([0x1418550d, 0x00000ffd], .lds 4 (.v 12) (.v 21) (.v 33) 5 false 0xffd),
    ([0x1c18550d, 0x00000ffd], .sts 4 (.v 12) (.v 21) (.v 33) 5 0xffd),
    ([0x20995238, 0x00401005], .ldw (.w 12) (.w 20) (.w 7) 0 4 1 5),
    ([0x21995238, 0x00401005], .stw (.w 12) (.w 20) (.w 7) 0 4 1 5),
    ([0x2818510d, 0x5c321005], .atom (.v 12) (.v 20) (.v 33) (.v 46) 5 3 2 1 5),
    ([0x2918550d, 0x5c320005], .atoms (.v 12) (.v 21) (.v 33) (.v 46) 5 3 2 5),
    ([0x2a18510d, 0x00321005], .red (.v 12) (.v 20) (.v 33) 5 3 2 1 5),
    ([0x3018510d, 0x00300005], .pst (.v 12) (.v 20) (.v 33) 5 3 5),
    ([0x3100510d, 0x00002005], .pref (.v 20) (.v 33) 5 2 5),
    ([0x38000005, 0x00000000], .fenceP 5)] = true := by decide
theorem test_words_class2_c : decodes 2 [
    ([0x38000005, 0x00800000], .fenceH 5),
    ([0x38000005, 0x01000000], .fenceA 5),
    ([0x3900510d, 0x00000005], .mon (.v 20) (.v 33) 5 5),
    ([0x3a000005, 0x00000000], .sleep 5)] = true := by decide
theorem test_words_class3_a : decodes 3 [
    ([0x00180805, 0x00003001], .poll (.v 12) 2 5 { plain with opx := 3, imm := 1 }),
    ([0x0118510d], .ballot (.v 12) (.v 20) (.v 33) 5),
    ([0x0218510d, 0x5c002004], .pick (.v 12) (.v 20) (.v 33) (.v 46) 5 { plain with opx := 2, imm := 4 }),
    ([0x03925238], .xget (.w 9) (.v 20) (.w 7)),
    ([0x04192638], .xput (.v 12) (.w 9) (.w 7)),
    ([0x0518523d], .bcast (.v 12) (.v 20) (.w 7) 5),
    ([0x06185005, 0x00005000], .redX (.v 12) (.v 20) 5 { plain with opx := 5 }),
    ([0x07185005, 0x00005000], .scan (.v 12) (.v 20) 5 { plain with opx := 5 }),
    ([0x08185005], .matchX (.v 12) (.v 20) 5),
    ([0x0918523d], .rots (.v 12) (.v 20) (.w 7) 5)] = true := by decide
theorem test_words_class4_a : decodes 4 [
    ([0x01199405], .qpeek (.v 12) (.q 5) 5),
    ([0x02939405], .qcnt (.w 9) (.q 5) 5),
    ([0x0301963d], .qdrop (.q 5) (.w 7) 5),
    ([0x0801263d], .binit (.w 9) (.w 7) 5),
    ([0x0a01263d], .barx (.w 9) (.w 7) 5),
    ([0x0c01263d], .bwait (.w 9) (.w 7) 5),
    ([0x09012405], .barr (.w 9) 5),
    ([0x0b012005], .brmt (.w 8) 5),
    ([0x0d07263d], .btest 3 (.w 9) (.w 7) 5),
    ([0x0e000005], .gsync 5),
    ([0x10939405], .sacq (.w 9) (.q 5) 5),
    ([0x11019405], .srel (.q 5) 5)] = true := by decide
theorem test_words_class5_a : decodes 5 [
    ([0x00009030, 0x00000000], .gang (.w 9) 6),
    ([0x01009030, 0x00000005], .obres (.w 9) 5 6),
    ([0x02000030, 0x00000005], .obrel 5 6),
    ([0x03009330, 0x0005000e], .mbld (.w 9) (.w 12) 0x500 0x0e 6),
    ([0x04009330, 0x3c001021], .mma (.w 9) (.w 12) (.w 15) 0x010 0x21 6),
    ([0x05000030, 0x00000021], .mzero 0x21 6),
    ([0x06009330, 0x51600e21], .mdrn (.w 9) (.w 12) (.w 20) (.w 22) 0x00e 0x21 6),
    ([0x07240030, 0x00000000], .mstat (.w 9) 6),
    ([0x08009330, 0x00000021], .mldacc (.w 9) (.w 12) 0x21 6),
    ([0x09009330, 0x00000021], .msvacc (.w 9) (.w 12) 0x21 6),
    ([0x0a000030, 0x00000100], .mcancel 1 6)] = true := by decide
theorem test_words_class6_a : decodes 6 [
    ([0x000841f0, 0x28d60012], .cpy (.w 2) (.w 4) (.w 7) (.w 10) (.w 13) 3 0x12 6),
    ([0x010841f0, 0x28d40012], .cpyt (.w 2) (.w 4) (.w 7) (.w 10) (.w 13) 2 0x12 6),
    ([0x020841f0, 0x28d20012], .cpym (.w 2) (.w 4) (.w 7) (.w 10) (.w 13) 1 0x12 6),
    ([0x030841f0, 0x28d60080], .gath (.w 2) (.w 4) (.w 7) (.w 10) (.w 13) 3 0x80 6),
    ([0x040841f0, 0x28d60080], .scat (.w 2) (.w 4) (.w 7) (.w 10) (.w 13) 3 0x80 6),
    ([0x050841f0, 0x28d61000], .rcpy (.w 2) (.w 4) (.w 7) (.w 10) (.w 13) 3 0x1000 6),
    ([0x06004030, 0x000a0003], .crng (.w 4) 5 3 6),
    ([0x08084230, 0x28da0001], .xfmMove (.w 2) (.w 4) (.w 8) (.w 10) (.w 13) 5 1 0 6),
    ([0x08084230, 0x28da2841], .xfmCvt (.w 2) (.w 4) (.w 8) (.w 10) (.w 13) 5 1 5 6),
    ([0x08084230, 0x28da1081], .xfmMxq (.w 2) (.w 4) (.w 8) (.w 10) (.w 13) 5 1 2 6),
    ([0x08084230, 0x28da30c1], .xfmMxdq (.w 2) (.w 4) (.w 8) (.w 10) (.w 13) 5 1 6 6),
    ([0x08084230, 0x28da0101], .xfmBdxd (.w 2) (.w 4) (.w 8) (.w 10) (.w 13) 5 1 0 6),
    ([0x08084230, 0x28da8141], .xfmBdxe (.w 2) (.w 4) (.w 8) (.w 10) (.w 13) 5 1 16 6),
    ([0x08084230, 0x28da0181], .xfmCrcg (.w 2) (.w 4) (.w 8) (.w 10) (.w 13) 5 1 0 6)] = true := by decide
theorem test_words_class6_b : decodes 6 [
    ([0x08084230, 0x28da01c1], .xfmCrcv (.w 2) (.w 4) (.w 8) (.w 10) (.w 13) 5 1 0 6),
    ([0x0c000030, 0x0000005a], .qfence 0x5a 6),
    ([0x0d000030, 0x00000000], .drainScr 6),
    ([0x0d000030, 0x00000001], .drainL1 6),
    ([0x0d000030, 0x00000002], .drainMem 6)] = true := by decide
theorem test_words_class7_a : decodes 7 [
    ([0x00000030], .trig 6),
    ([0x012441f0], .svc (.w 9) (.w 4) (.w 7) 6),
    ([0x02207030], .cntr (.w 8) (.w 7) 6),
    ([0x03247330], .cntc (.w 9) (.w 7) (.w 12) 6),
    ([0x04247330], .pkw (.w 9) (.w 7) (.w 12) 6),
    ([0x05248370], .dtw (.w 9) (.w 8) (.w 13) 6),
    ([0x06248370], .hinv (.w 9) (.w 8) (.w 13) 6),
    ([0x07248030], .watch (.w 9) (.w 8) 6),
    ([0x0820c030], .spwtWait (.w 8) (.w 12) 6),
    ([0x0820c070], .spwtSubmit (.w 8) (.w 12) 6),
    ([0x0820c0b0], .spwtReply (.w 8) (.w 12) 6),
    ([0x0820c0f0], .spwtKill (.w 8) (.w 12) 6),
    ([0x0b248370], .ctxs (.w 9) (.w 8) (.w 13) 6),
    ([0x0c248030], .ctxr (.w 9) (.w 8) 6)] = true := by decide
theorem test_words_class7_b : decodes 7 [
    ([0x0d000030], .halt 6)] = true := by decide

/-! ## Results worked in the spec or by hand from its rules -/

/-- A block of one group of 8 strands, placed, with nothing planned; its block is number 1. -/
def base : State := { State.reset.place 0 [] with plan := [] }
/-- A path of strands 0 and 1 at the first word of a clause of three. -/
def here : State := { base with focus := { kind := .path 1 0 [0, 1], pc := 4, hdr := 0, idx := 1, n := 3 } }
/-- The path at the last word of a clause of one, where a control transfer stands. -/
def last : State := { here with focus := { kind := .path 1 0 [0, 1], pc := 4, hdr := 0, idx := 1, n := 1 } }
/-- A state with words in the v registers of both strands, or in the w registers. -/
def withV (s : State) (rs : List (Nat × Nat)) : State :=
  rs.foldl (fun s r => s.onGrp 1 0 fun x => (x.setV r.1 0 (BitVec.ofNat 32 r.2)).setV r.1 1 (BitVec.ofNat 32 r.2)) s
def withW (s : State) (rs : List (Nat × Nat)) : State := rs.foldl (fun s r => s.onGrp 1 0 fun x => x.setW r.1 (BitVec.ofNat 32 r.2)) s

/-- What the path's first strand is to receive, register by register. -/
def received (o : Host.Outcome State Fault Refusal) : List (Nat × W32) :=
  match o with
  | .next t => ((t.grp 1 0).pendWb.flatMap WriteBack.vWrites).filterMap fun e => (e.2.head?).map fun x => (e.1, x.2)
  | _ => []
/-- A uniform register afterwards. -/
def wAfter (o : Host.Outcome State Fault Refusal) (n : Nat) : Option W32 :=
  match o with
  | .next t => some ((t.grp 1 0).getW n)
  | _ => none
/-- The program counter of the path's first strand afterwards, and that of the group's handler. -/
def pcAfter (o : Host.Outcome State Fault Refusal) : Option Nat :=
  match o with
  | .next t => some ((t.grp 1 0).strand 0).pc
  | _ => none

theorem test_iadd_wraps : received (exec (.iadd (.v 1) (.v 2) .two 0) (withV here [(2, 0xffffffff)])) = [(1, 1)] := by decide
theorem test_iaddc_carries : received (exec (.iaddc (.v 1) (.v 2) .one 0) (withV here [(2, 0xffffffff)])) = [(1, 1)] := by decide
theorem test_iabs_of_least : received (exec (.iabs (.v 1) (.v 2) 0) (withV here [(2, 0x80000000)])) = [(1, 0x80000000)] := by decide
theorem test_imulhI : received (exec (.imulhI (.v 1) (.v 2) (.v 2) 0) (withV here [(2, 0xffffffff)])) = [(1, 0)] := by decide
theorem test_asr_by_width : received (exec (.asr (.v 1) (.v 2) (.lit 32) 0) (withV here [(2, 0x80000000)])) = [(1, 0xffffffff)] := by decide
theorem test_shl_by_width : received (exec (.shl (.v 1) (.v 2) (.lit 32) 0) (withV here [(2, 1)])) = [(1, 0)] := by decide
theorem test_fshf_rotates :
    received (exec (.fshf (.v 1) (.v 2) (.v 2) (.lit 8) 0 plain) (withV here [(2, 0x12345678)])) = [(1, 0x34567812)] := by decide
/-- R92: the result of a NaN is the canonical one. -/
theorem test_fadd_nan : received (exec (.fadd (.v 1) (.v 2) (.v 3) 0) (withV here [(2, 0x7fa00000), (3, 0x3f800000)])) = [(1, 0x7fc00000)] := by decide
theorem test_ffma_rounds_once :
    received (exec (.ffma (.v 1) (.v 2) (.v 2) .mone 0 plain) (withV here [(2, 0x3f800001)])) = [(1, 0x34800000)] := by decide
/-- Table 8 of R103. -/
theorem test_cvt_tie :
    received (exec (.cvt (.v 1) (.v 2) 0 { plain with imm := 0x14c }) (withV here [(2, 0x43e80000)])) = [(1, 0x7e)] := by decide
theorem test_cvt_overflow :
    received (exec (.cvt (.v 1) (.v 2) 0 { plain with imm := 0x14c }) (withV here [(2, 0x43fa0000)])) = [(1, 0x7f)] := by decide
/-- The worked DOT4 of R244. -/
theorem test_dot4 : received (exec (.dot4 (.v 1) (.v 2) (.v 3) .one 0 plain) (withV here [(2, 0x7e28c03c), (3, 0x38484440)])) = [(1, 0x43df8000)] := by
  decide
/-- R247: the ballot's mask holds the covered strands only. -/
theorem test_ballot : received (exec (.ballot (.v 1) (.v 2) .zero 0) (withV here [(2, 1)])) = [(1, 3)] := by decide
/-- R176: a counter of 0 wraps and branches. -/
theorem test_loop_wraps : wAfter (exec (.loop 0 1 0x3ffff) last) 9 = some 0xffffffff := by decide
theorem test_loop_branches : pcAfter (exec (.loop 0 1 8) last) = some 32 := by decide
theorem test_loop_falls_through : pcAfter (exec (.loop 0 1 8) (withW last [(9, 1)])) = some 8 := by decide
theorem test_wasr : wAfter (exec (.wasr (.w 1) (.w 2) (.lit 4) 0) (withW here [(2, 0x80000000)])) 1 = some 0xf8000000 := by decide
theorem test_wmin_is_signed : wAfter (exec (.wmin (.w 1) (.w 2) .one 0) (withW here [(2, 0xffffffff)])) 1 = some 0xffffffff := by decide
/-- R62: the key stays, and the offset wraps in 48 bits. -/
theorem test_address_wraps : address (0x0042 * 2 ^ 48 + 2 ^ 48 - 4) 4 1 4 = 0x0042 * 2 ^ 48 + 4 := by decide
/-- The check value of R347. -/
theorem test_crc64 : crc64 ([0x31, 0x32, 0x33, 0x34, 0x35, 0x36, 0x37, 0x38, 0x39] : List W8) = 0x995dc9bbdf1939fa := by decide +kernel
theorem test_crc64_of_nothing : crc64 [] = 0 := by decide
/-- R361: what is written is read, and memory keeps its form when a zero is written over it. -/
theorem test_cells : cellsRead (cellsWrite 8 [1, 0, 3] []) 8 3 = [1, 0, 3] ∧ cellsWrite 8 [0, 0, 0] (cellsWrite 8 [1, 0, 3] []) = [] := by decide

/-! ## Witnesses: for every statement with hypotheses, a state and operands that meet them -/

/-! Lanes and exchange -/

theorem meets_lane_integers :
    ∀ i ∈ [Instr.iadd (.v 1) (.v 2) (.v 3) 0, .isub (.v 1) (.v 2) (.v 3) 0, .iaddc (.v 1) (.v 2) (.v 3) 0, .imul (.v 1) (.v 2) (.v 3) 0,
      .imulhI (.v 1) (.v 2) (.v 3) 0, .imulhN (.v 1) (.v 2) (.v 3) 0, .imac (.v 1) (.v 2) (.v 3) (.v 4) 0 plain,
      .imacw (.v 2) (.v 1) (.v 3) (.v 4) 0 plain, .iminI (.v 1) (.v 2) (.v 3) 0, .iminN (.v 1) (.v 2) (.v 3) 0, .imaxI (.v 1) (.v 2) (.v 3) 0,
      .imaxN (.v 1) (.v 2) (.v 3) 0, .iabs (.v 1) (.v 2) 0, .ineg (.v 1) (.v 2) 0, .andB (.v 1) (.v 2) (.v 3) 0, .orB (.v 1) (.v 2) (.v 3) 0,
      .xorB (.v 1) (.v 2) (.v 3) 0, .andn (.v 1) (.v 2) (.v 3) 0, .notB (.v 1) (.v 2) 0, .shl (.v 1) (.v 2) (.v 3) 0, .shr (.v 1) (.v 2) (.v 3) 0,
      .asr (.v 1) (.v 2) (.v 3) 0, .rol (.v 1) (.v 2) (.v 3) 0, .fshf (.v 1) (.v 2) (.v 3) (.v 4) 0 plain, .bfxI (.v 1) (.v 2) (.v 3) 0 plain,
      .bfxN (.v 1) (.v 2) (.v 3) 0 plain, .bfi (.v 1) (.v 2) (.v 3) (.v 4) 0 plain, .popc (.v 1) (.v 2) 0, .clz (.v 1) (.v 2) 0, .brev (.v 1) (.v 2) 0,
      .lea (.v 2) (.v 1) (.v 4) 0 plain, .bsel (.v 1) (.v 2) (.v 3) (.v 4) 0 plain, .mov (.v 1) (.v 2) 0 0, .mov (.v 2) (.v 4) 1 0,
      .iadd64 (.v 2) (.v 4) (.v 6) 0, .isub64 (.v 2) (.v 4) (.v 6) 0, .shl64 (.v 2) (.v 4) (.v 6) 0, .shr64 (.v 2) (.v 4) (.v 6) 0],
      here.runs i = true ∧ (laneForm i).isSome = true ∧ (intRule i).isSome = true := by decide

theorem meets_lane_floats :
    ∀ i ∈ [Instr.fadd (.v 1) (.v 2) (.v 3) 0, .fsub (.v 1) (.v 2) (.v 3) 0, .fmul (.v 1) (.v 2) (.v 3) 0, .ffma (.v 1) (.v 2) (.v 3) (.v 4) 0 plain,
      .fmin (.v 1) (.v 2) (.v 3) 0, .fmax (.v 1) (.v 2) (.v 3) 0, .fneg (.v 1) (.v 2) 0, .fabs (.v 1) (.v 2) 0, .frcp (.v 1) (.v 2) 0,
      .frsq (.v 1) (.v 2) 0, .fsqrt (.v 1) (.v 2) 0, .fdiv (.v 1) (.v 2) (.v 3) 0, .fex2 (.v 1) (.v 2) 0, .flg2 (.v 1) (.v 2) 0, .fsin (.v 1) (.v 2) 0,
      .fcos (.v 1) (.v 2) 0, .fscale (.v 1) (.v 2) (.v 3) 0, .duoadd (.v 1) (.v 2) (.v 3) 0 plain, .duomul (.v 1) (.v 2) (.v 3) 0 plain,
      .duofma (.v 1) (.v 2) (.v 3) (.v 4) 0 plain, .dadd (.v 2) (.v 4) (.v 6) 0, .dmul (.v 2) (.v 4) (.v 6) 0, .dfma (.v 2) (.v 4) (.v 6) (.v 8) 0 plain],
      here.runs i = true ∧ (laneForm i).isSome = true ∧ (fltRule (here.operands i).1.flushes i).isSome = true := by decide

theorem meets_lane_packed :
    ∀ i ∈ [Instr.cvt (.v 1) (.v 2) 0 { plain with imm := 0x14c }, .pack (.v 1) (.v 2) (.v 3) 0 { plain with opx := 9 },
      .unpk (.v 2) (.v 4) 0 { plain with opx := 9 }, .dot4 (.v 1) (.v 2) (.v 3) (.v 4) 0 plain, .dot8 (.v 1) (.v 2) (.v 3) (.v 4) 0 plain],
      here.runs i = true ∧ (laneForm i).isSome = true ∧ (packedRule (here.operands i).1.flushes i).isSome = true := by decide

theorem meets_lane_predicates :
    (∀ i ∈ [Instr.icmpI (.v 1) (.v 2) (.v 3) 0 plain, .icmpN (.v 1) (.v 2) (.v 3) 0 plain, .fcmp (.v 1) (.v 2) (.v 3) 0 plain,
      .dcmp (.v 1) (.v 2) (.v 4) 0 plain, .plog 1 2 3 4 0 plain, .pmov (.v 1) (.v 2) 0, .pmov (.v 1) .zero 0, .sel (.v 1) (.v 2) (.v 3) 1],
      here.runs i = true ∧ (laneForm i).isSome = true ∧ (predRule (here.operands i).1.flushes i).isSome = true) ∧
    here.runs (.mov (.v 4) (.v 8) 2 0) = true ∧ (laneForm (.mov (.v 4) (.v 8) 2 0)).isSome = true ∧ 2 ≤ (2 : BitVec 7).toNat := by decide

theorem meets_exchange :
    (∀ i ∈ [Instr.ballot (.v 1) (.v 2) (.v 3) 0, .matchX (.v 1) (.v 2) 0, .pick (.v 1) (.v 2) (.v 3) (.v 4) 0 plain, .bcast (.v 1) (.v 2) .one 0,
      .rots (.v 1) (.v 2) .one 0, .redX (.v 1) (.v 2) 0 plain, .redX (.v 1) (.v 2) 0 { plain with opx := 11 }, .scan (.v 1) (.v 2) 0 plain],
      here.runs i = true ∧ (((here.operands i).1.grp 1 0).form i).isSome = true ∧ (xRule (here.operands i).1.flushes i).isSome = true) ∧
    here.runs (.poll (.v 1) 2 0 plain) = true ∧ (laneForm (.poll (.v 1) 2 0 plain)).isSome = true := by decide

/-- All eight strands of the group. -/
def whole : State := { here with focus := { here.focus with kind := .path 1 0 [0, 1, 2, 3, 4, 5, 6, 7] } }
theorem meets_lane_frame :
    let x := whole.grp 1 0
    Tbl.find 1 whole.blocks = some (whole.block 1) ∧ (whole.block 1).groups[0]? = some x ∧ whole.focus.yieldAfter = false ∧ whole.focus.kept = false ∧
      x.soft = [] ∧ x.softOk = [] ∧ whole.scrOps = [] ∧ x.handler = none ∧ x.life = .live ∧ x.pendTraps = [] ∧ x.living = [0, 1, 2, 3, 4, 5, 6, 7] ∧
      (∀ k ∈ x.living, (x.strand k).st = .active ∧ (x.strand k).wait = .none) ∧
      ∀ i ∈ [Instr.iadd (.v 1) (.v 2) (.v 3) 0, .fadd (.w 2) (.w 3) .one 0, .ballot (.v 1) (.v 2) .zero 0, .wadd (.w 1) (.w 2) .one 0],
        whole.runs i = true ∧ ((laneForm i).isSome = true ∨ (uniRule i).isSome = true) ∧ (∀ q, .q q ∉ srcs i) ∧ (∀ q, dst i ≠ .q q) := by
  decide
theorem meets_lane_frame_masks :
    ∀ i ∈ [Instr.iadd (.v 1) (.v 2) (.v 3) 0, .fadd (.w 2) (.w 3) .one 0, .ballot (.v 1) (.v 2) .zero 0, .wadd (.w 1) (.w 2) .one 0],
      ∀ m, dst i ≠ .mask m := by
  intro i h m
  simp only [List.mem_cons, List.not_mem_nil, or_false] at h
  rcases h with rfl | rfl | rfl | rfl <;> (intro e; cases e)

/-! Registers and delivery -/

theorem meets_register_write : ∀ k ∈ [0, 7], k < ((here.grp 1 0).vregs.getD 63 {}).deltas.length := by decide
theorem meets_compression : ∀ living ∈ [[], [0], [3, 7]], ∀ k ∈ living, k < 8 := by decide

def awaiting : State := base.onGrp 1 0 fun x => { x with pendWb := [{ vWrites := [(5, [(0, 7), (1, 9)])] }] }
theorem meets_writeback_time : (0 : Nat) ≤ awaiting.cycle ∧ ∀ o ∈ ([] : List WriteBack), 0 ≤ o.due := by decide
theorem meets_writeback :
    let x := awaiting.grp 1 0
    let ws : List (Nat × W32) := [(0, 7), (1, 9)]
    Tbl.find 1 awaiting.blocks = some (awaiting.block 1) ∧ (awaiting.block 1).groups[0]? = some x ∧ x.pendWb = [{ vWrites := [(5, ws)] }] ∧
      (ws.map Prod.fst).Nodup ∧ (∀ e ∈ ws, e.1 ∈ x.living) ∧ 5 < x.vregs.length ∧ (x.vregs.getD 5 {}).deltas.length = x.width := by decide
theorem meets_delivery :
    (laneForm (.iadd (.v 1) (.v 2) (.v 3) 0)).map (fun f => (f.d, f.bits)) = some (.v 1, 32) ∧
    (laneForm (.iadd (.w 1) (.v 2) (.v 3) 0)).map (fun f => (f.d, f.bits)) = some (.w 1, 32) := by decide
/-- Register w6 is to take the word 7. -/
def awaitingUni : State := base.onGrp 1 0 fun x => { x with pendWb := [{ wWrites := [(6, 7)], due := 0, pass := 0 }] }
theorem meets_uniform_writeback :
    let x := awaitingUni.grp 1 0
    Tbl.find 1 awaitingUni.blocks = some (awaitingUni.block 1) ∧ (awaitingUni.block 1).groups[0]? = some x ∧ 6 < x.w.length ∧
      x.pendWb = [{ wWrites := [(6, 7)], due := 0, pass := 0 }] ∧ (0 : Nat) ≤ awaitingUni.cycle := by decide
/-- R222: the write-back brings the word. -/
theorem test_uniform_writeback : wAfter (exec (.laneWriteback 1 0) awaitingUni) 6 = some 7 := by decide
def masked : State := (base.onGrp 1 0 fun x => { x with maskProg := some { queues := [3], vecBytes := [], word := 1, due := 0, strands := [0] } }).onBlock 1
  fun b => { b with queues := listSet b.queues 3 { kind := 2, depth := 4 } }
theorem meets_mask_accept :
    (masked.grp 1 0).maskProg.map MaskProg.queues = some [3] ∧
      ((masked.block 1).queue 3).count + ((masked.block 1).queue 3).resv < ((masked.block 1).queue 3).depth := by decide

/-! Control, traps and uniform instructions -/

/-- The handler of the group, at the last word of a clause and before it; strands 0 and 1 are the understudies. -/
def handlerLast : State :=
  ({ last with focus := { last.focus with kind := .handler 1 0 } }).onGrp 1 0 fun x => { x with handler := some ⟨4, 0, 1⟩, trapm := 3 }
def handlerHere : State :=
  ({ here with focus := { here.focus with kind := .handler 1 0 } }).onGrp 1 0 fun x => { x with handler := some ⟨4, 0, 1⟩, trapm := 3 }

theorem meets_branches :
    ∀ i ∈ [Instr.bra 0 1 4, .brc 0 1 4, .brd 0 1 4],
      last.runs i = true ∧ (branchTakes [0, 1] ([0, 1].filter fun k => ((last.grp 1 0).strand k).getP (branchPred i)) i).isSome = true := by decide
theorem meets_handler_branches : ∀ i ∈ [Instr.bra 0 1 4, .brc 0 1 4, .brd 0 1 4], handlerLast.runs i = true := by decide
theorem meets_indirect_branch :
    (withW last [(4, 8)]).runs (.brx (.w 4) 0) = true ∧ (withW last [(4, 8)]).uniWord64 (.w 4) false % 4 = 0 ∧
    (withW last [(4, 6)]).runs (.brx (.w 4) 0) = true ∧ (withW last [(4, 6)]).uniWord64 (.w 4) false % 4 ≠ 0 := by decide
/-- A call entry of strands 0 and 1. -/
def entry0 : CallEntry := { ret := 64, mask := [0, 1] }
def deep : State := last.onGrp 1 0 fun x => { x with calls := [entry0, entry0, entry0, entry0] }
theorem meets_calls :
    last.runs (.call 0 8) = true ∧ (last.grp 1 0).calls.length < 4 ∧ deep.runs (.call 0 8) = true ∧ 4 ≤ (deep.grp 1 0).calls.length ∧
      handlerLast.runs (.call 0 8) = true ∧ (handlerLast.grp 1 0).calls.length < 4 := by decide
/-- The handler with an entry of its own below one of the strands, and with four. -/
def ownEntry : CallEntry := { ret := 96, mask := [], handler := true }
def handlerDeep (l : List CallEntry) : State := handlerLast.onGrp 1 0 fun x => { x with calls := l }
theorem meets_handler_calls :
    (handlerDeep [entry0, ownEntry, ownEntry, entry0]).runs (.call 0 8) = true ∧ (handlerDeep [entry0, ownEntry]).runs (.ret 0) = true ∧
      (∀ d ∈ [entry0], d.handler = false) ∧ ownEntry.handler = true ∧ (handlerDeep [entry0]).runs (.ret 0) = true := by decide
def alone : State := { deep with focus := { deep.focus with kind := .path 1 0 [0] } }
theorem meets_returns :
    alone.runs (.ret 0) = true ∧ (alone.grp 1 0).calls = [] ++ entry0 :: [entry0, entry0, entry0] ∧ topCall [] 0 = none ∧ 0 ∈ entry0.mask ∧
      last.runs (.ret 0) = true ∧ topCall (last.grp 1 0).calls 0 = none := by decide
theorem meets_returns_of_several :
    deep.runs (.ret 0) = true ∧ [0, 1].Nodup ∧ ∀ k ∈ [0, 1], (topCall (deep.grp 1 0).calls k).isSome = true ∧ k < (deep.grp 1 0).strands.length ∧
      ((deep.grp 1 0).strand k).st = .active := by decide
theorem meets_flow :
    here.runs (.nop 0) = true ∧ last.runs (.rjoin 0) = true ∧ here.runs (.wait 7 7 7 7 0) = true ∧ here.runs (.yield 0) = true ∧
      last.runs (.trap 255 0) = true ∧ last.runs (.loop 0 7 1) = true ∧ here.runs (.cue 0 0) = true ∧ here.runs (.cue 1 0) = true ∧
      last.runs (.exit 0) = true ∧ (here.launchOf (here.block 1)).isSome = true ∧ handlerLast.runs .rett = true := by decide
theorem meets_handler_flow :
    handlerHere.runs (.nop 0) = true ∧ handlerLast.runs (.rjoin 0) = true ∧ handlerHere.runs (.wait 7 7 7 7 0) = true ∧
      handlerHere.runs (.yield 0) = true ∧ handlerLast.runs (.trap 255 0) = true ∧ handlerLast.runs (.loop 0 7 1) = true ∧
      handlerHere.runs (.cue 1 0) = true ∧ handlerLast.runs (.exit 0) = true ∧ (handlerHere.launchOf (handlerHere.block 1)).isSome = true := by decide
theorem meets_exits : (here.block 1).groups[0]? = some (here.grp 1 0) ∧ ∀ k ∈ [0, 7], k < (here.grp 1 0).width := by decide
def joined : Group := placedGroup.onStrands [0, 1, 2, 3, 4, 5, 6, 7] fun t => { t with wait := .rjoin t.idx }
def joinedApart : Group := joined.onStrands [7] fun t => { t with pc := 64 }
theorem meets_joins :
    (∀ x ∈ [joined, joinedApart], x.living ≠ [] ∧ x.anyParked = false ∧ ∀ k ∈ x.living, (x.strand k).wait = .rjoin (x.strand k).idx) ∧
      (∀ k ∈ joined.living, (joined.strand k).pc = 4) ∧ (∃ j ∈ joinedApart.living, (joinedApart.strand j).pc ≠ 4) ∧
      (∃ k ∈ joinedApart.living, (joinedApart.strand k).pc = 4) ∧ ∀ k ∈ joinedApart.living, 4 ≤ (joinedApart.strand k).pc := by decide

/-- Strand 7 has failed with code 0x08, without and with a handler in the launch's header. -/
def failed : State := base.onGrp 1 0 fun x => x.onStrands [7] fun t => { t with st := .fatal 8 0 4 }
def withTrapE : State := failed.onDistrict 0 fun d =>
  { d with launches := d.launches.map fun l => { l with header := l.header.take 0x90 ++ leBytes 8 0x1000 ++ l.header.drop 0x98 } }
theorem meets_trap_entry :
    ∀ s ∈ [failed, withTrapE],
      s.focus.more = false ∧
      let x := s.grp 1 0
      Tbl.find 1 s.blocks = some (s.block 1) ∧ (s.block 1).groups[0]? = some x ∧ s.dying 1 = false ∧ x.handler = none ∧
        x.trapSet = some (8, 0, 4, [7]) := by decide
theorem meets_trap_handler : hTrapE (withTrapE.launchHdr (withTrapE.block 1)) ≠ 0 ∧ hTrapE (failed.launchHdr (failed.block 1)) = 0 := by decide
/-- R161: the registers that trap entry writes, and the handler's counter. -/
theorem test_trap_entry :
    let x := (withTrapE.takeTrap 1 0).grp 1 0
    x.trapc = 8 ∧ x.trapm = 0x80 ∧ x.trapa = 4 ∧ x.handler = some ⟨0x1000, 0x1000, 0⟩ := by decide

theorem meets_decode_traps :
    decodeTrap (.iadd (.bad 122) (.v 1) (.v 2) 0) here = some 2 ∧ encoded (.iadd (.bad 122) (.v 1) (.v 2) 0) = true ∧
      decodeTrap (.wadd (.w 1) (.bad 60) (.w 2) 0) handlerHere = some 2 ∧ handlerFault (.wadd (.w 1) (.bad 60) (.w 2) 0) handlerHere = false := by decide
theorem meets_guards :
    (∀ i ∈ [Instr.wadd (.w 1) (.w 2) (.w 3) 1, .barr (.w 1) 7], decodeTrap i here = none ∧ guardOff i here = true ∧ encoded i = true) ∧
      decodeTrap (.bra 1 0 4) last = none ∧ guardOff (.bra 1 0 4) last = true ∧ isTransfer (.bra 1 0 4) = true := by decide
def moved : Group := { (handlerHere.grp 1 0) with trapa := 0x40 }
def waiting : Group := moved.onStrands [1] fun t => { t with st := .replay false }
theorem meets_handler_end :
    (∀ x ∈ [handlerHere.grp 1 0, moved], 0 < x.width ∧ x.trapm.getLsbD 0 = true ∧ (x.strand 0).st = .active) ∧
      (handlerHere.grp 1 0).trapa = (handlerHere.grp 1 0).trapaEntry ∧ moved.trapa ≠ moved.trapaEntry ∧
      moved.trapm.getLsbD 7 = false ∧ (moved.strand 7).st ≠ .replay true := by decide

theorem meets_uniform :
    ∀ i ∈ [Instr.wmov (.w 1) (.w 2) 0, .wadd (.w 1) (.w 2) (.w 3) 0, .wsub (.w 1) (.w 2) (.w 3) 0, .wmul (.w 1) (.w 2) (.w 3) 0,
      .wand (.w 1) (.w 2) (.w 3) 0, .wor (.w 1) (.w 2) (.w 3) 0, .wxor (.w 1) (.w 2) (.w 3) 0, .wshl (.w 1) (.w 2) (.w 3) 0,
      .wshr (.w 1) (.w 2) (.w 3) 0, .wasr (.w 1) (.w 2) (.w 3) 0, .wmin (.w 1) (.w 2) (.w 3) 0, .wmax (.w 1) (.w 2) (.w 3) 0, .wpopc (.w 1) (.w 2) 0],
      here.runs i = true ∧ handlerHere.runs i = true ∧ (uniRule i).isSome = true := by decide
theorem meets_uniform_others :
    (∀ i ∈ [Instr.wcmp 0 1 (.w 1) (.w 2) 0, .wcmp 7 1 (.w 1) (.w 2) 0, .wsel (.w 1) (.w 2) (.w 3) 1, .wli (.w 4) 1 2 0, .wli .zero 1 2 0,
      .wadd64 (.w 2) (.w 4) (.w 6) 0, .wrs (.w 1) 0x12 0, .wrs (.w 2) 0x10 0], here.runs i = true) ∧
    (∀ i ∈ [Instr.wws 0x13 (.w 1) 0, .wws 0x14 (.w 2) 0, .wws 0x15 (.w 2) 0], handlerHere.runs i = true) ∧ handlerHere.who.isSome = true := by decide

theorem meets_handler_registers :
    handlerHere.runs (.xget (.w 1) (.v 2) .one) = true ∧ (withW handlerHere [(3, 8)]).runs (.xget (.w 1) (.v 2) (.w 3)) = true ∧
      (withW handlerHere [(3, 8)]).runs (.xput (.v 2) (.w 1) (.w 3)) = true ∧ handlerHere.runs (.xput (.v 2) (.w 1) .one) = true ∧
      (handlerHere.grp 1 0).width = 8 ∧ laneVal (handlerHere.grp 1 0) .n32 .one none 0 = 1 ∧
      laneVal ((withW handlerHere [(3, 8)]).grp 1 0) .n32 (.w 3) none 0 = 8 := by decide
def goneOne : State := handlerHere.onGrp 1 0 fun x => x.onStrands [1] fun t => { t with st := .exited }
theorem meets_handler_registers_exited : goneOne.runs (.xput (.v 2) (.w 1) .one) = true ∧ ((goneOne.grp 1 0).strand 1).st = .exited := by decide

/-! Accesses, scratchpad, fences -/

/-- A state whose district maps the first 2 MiB of key 0 to home 0, and whose block has 4 KiB of scratchpad. -/
def mapped (s : State) : State :=
  (s.onDistrict 0 fun d => { d with dtab := [(0, BitVec.ofNat 128 0x1001)] }).onBlock 1 fun b => { b with scr := [0, 1] }
def mem : State := mapped here

/-- Every covered strand of an access passes the checks. -/
def passesChecks (s : State) (i : Instr) : Bool :=
  match accessOf 1 0 (s.grp 1 0) i with
  | some a =>
    let ks := s.covered (predOf i)
    ks != [] && (ks.all fun k => (s.checkMem 1 (a.va k) a.size a.need).isNone && ((s.grp 1 0).strand k).replay.isNone) &&
      (!a.once || ks.all fun j => ks.all fun k => a.va j == a.va k && a.data j == a.data k)
  | none => false

theorem meets_access :
    ∀ i ∈ [Instr.ld 2 (.v 8) (.v 4) .zero 0 false 0 4, .ld 4 (.v 8) (.w 4) .zero 0 false 0 0, .st 0 (.v 8) (.v 4) (.v 6) 0 0 4,
      .st 4 (.v 8) (.w 4) .zero 0 0 0, .atom (.v 8) (.w 4) .zero (.v 3) 0 0 7 0 0, .red (.v 8) (.w 4) (.v 3) 0 4 0 0 0, .pst (.v 8) (.v 4) .zero 0 3 0],
      mem.runs i = true ∧ passesChecks mem i = true := by decide
theorem meets_issue_opens :
    (mem.block 1).groups[0]? = some (mem.grp 1 0) ∧ ([mem.strandPart 1 0 [0] .load 0 4] : List Part) ≠ [] ∧ ∀ k ∈ [0, 3], k < 4 := by decide
/-- Address 2 is misaligned for a word, address 0 is not, and key 0x43 is none of the domain's. -/
theorem meets_access_faults :
    (∀ k ∈ [0, 1], k < (mem.grp 1 0).width ∧ ((mem.grp 1 0).strand k).st = .active ∧ ((mem.grp 1 0).strand k).replay = none) ∧
      mem.checkMem 1 2 4 rightRD = some 0x08 ∧ mem.checkMem 1 0 4 rightRD = none ∧ mem.checkMem 1 (0x43 * 2 ^ 48) 4 rightRD = some 0x06 ∧
      mem.checkMem 1 (2 ^ 40) 4 rightRD = some 0x07 := by decide
theorem meets_uniform_access :
    (∀ i ∈ [Instr.ldw (.w 10) (.w 4) .zero 0 3 0 2, .stw (.w 8) (.w 4) (.w 6) 0 4 0 0], mem.runs i = true ∧ (mapped handlerHere).runs i = true) ∧
      mem.checkMem 1 (address (mem.readW64 4) (mem.readW 6) 2 8) 8 rightRD = none ∧ mem.checkMem 1 0 16 rightW = none ∧
      ∀ s ∈ [mem, mapped handlerHere], ∀ k ∈ s.covered 0, ((s.grp 1 0).strand k).replay = none := by decide

theorem meets_scratchpad :
    mem.runs (.lds 2 (.v 8) (.v 4) .zero 0 false 1) = true ∧ mem.runs (.sts 4 (.v 8) (.w 4) (.v 5) 0 0) = true ∧
      mem.runs (.atoms (.v 8) (.w 4) .zero (.v 2) 0 2 7 0) = true ∧
      ∀ n ∈ [1, 4, 8, 16], ∀ j ∈ mem.covered 0,
        (scrAddress (baseVal (mem.grp 1 0) false (.v 4) j) (indexVal (mem.grp 1 0) .zero j) 1 n) % n = 0 ∧
          (scrAddress (baseVal (mem.grp 1 0) false (.v 4) j) (indexVal (mem.grp 1 0) .zero j) 1 n) + n ≤ (mem.block 1).scrBytes := by decide
theorem meets_scratchpad_memory :
    Tbl.find 1 mem.blocks = some (mem.block 1) ∧ 4092 + ([1, 2, 3, 4] : List W8).length ≤ (mem.block 1).scrBytes ∧
      Memory.wf (mem.core (mem.block 1).core).sram = true ∧ (mem.block 1).scr.Nodup := by decide

/-- A path that waits at a fence, and one with a posted write under way. -/
def fenced : State := mem.onGrp 1 0 fun x => x.onStrands [0, 1] fun t => { t with wait := .fence 0 5 false }
def posting : State := { mem with issues := [{ id := 0, blk := 1, grp := 0, ctr := 1, pst := true }], nextId := 7 }
theorem meets_fences :
    ∀ i ∈ [Instr.fenceP 0, .fenceH 0, .fenceA 0],
      fenced.runs i = true ∧ fenced.pathWait = .fence 0 5 false ∧ mem.runs i = true ∧ mem.pathWait = .none ∧
        posting.runs i = true ∧ posting.pathWait = .none := by decide
theorem meets_fence_holds :
    ∀ p ∈ [true, false], mem.fenceHolds 1 0 mem.nextId p = false ∧ posting.fenceHolds 1 0 posting.nextId p = true := by decide
def watching : State := mem.onGrp 1 0 fun x => { x with monLines := [5] }
theorem meets_monitors :
    mem.runs (.pref (.w 4) .zero 0 2 4) = true ∧ mem.runs (.mon (.w 4) .zero 0 4) = true ∧ mem.checkMem 1 4 1 rightRD = none ∧
      mem.runs (.sleep 0) = true ∧ (mem.grp 1 0).monLines = [] ∧ watching.runs (.sleep 0) = true ∧ (watching.grp 1 0).monLines ≠ [] ∧
      (watching.grp 1 0).overF = false ∧ (watching.grp 1 0).woke = false := by decide

/-- Thread 0, whose domain 0 has all rights on key 0, with the answers to a load and a store of address 8. -/
def atThread (s : State) : State :=
  { (s.onSqueue 0 fun x => { x with tstate := 1, kind := 1, size := 4, ring := 0x1000, owner := 0xfff }) with
    keyLists := [{ domain := 0, vf := 0, dist := 0, entries := [BitVec.ofNat 32 0x1f] }]
    focus := { kind := .thread 0, pc := 4, hdr := 0, idx := 1, n := 3 } }
def threadHere : State := atThread (mapped base)
def threadAnswered : State :=
  { threadHere with parts := [
      { threadHere.threadPart 0 .load 8 8 [] with id := 1, st := .replied (.accept (List.replicate 64 0) 3 3 0) },
      { threadHere.threadPart 0 .store 8 8 (threadHere.wBytes (.w 10) 8) with id := 2, st := .replied (.accept [] 3 3 0) }] }
theorem meets_thread_access :
    threadAnswered.runs (.ldw (.w 10) (.w 4) .zero 0 3 0 1) = true ∧ threadAnswered.runs (.stw (.w 10) (.w 4) .zero 0 3 0 1) = true ∧
      (let k := threadAnswered.squeue 0
       threadAnswered.mayAccess (threadAnswered.keyEntries k.district k.domain) k.priv k.district 8 rightRD = none ∧
        threadAnswered.mayAccess (threadAnswered.keyEntries k.district k.domain) k.priv k.district 8 rightW = none ∧ 8 / 64 ≠ k.ring / 64) ∧
      (threadAnswered.asked (threadAnswered.threadPart 0 .load 8 8 [])).map Part.st = some (.replied (.accept (List.replicate 64 0) 3 3 0)) ∧
      (threadAnswered.asked (threadAnswered.threadPart 0 .store 8 8 (threadAnswered.wBytes (.w 10) 8))).map Part.st =
        some (.replied (.accept [] 3 3 0)) := by decide

/-- Thread 0 at the last word of a clause of class 1, with a return address, and in a clause with an instruction behind the present one. -/
def threadLast (calls : List Nat) : State :=
  { threadHere.onSqueue 0 fun x => { x with thread := { x.thread with calls := calls } } with
    focus := { kind := .thread 0, pc := 4, hdr := 0, idx := 1, n := 1, len := 1 } }
theorem meets_thread_transfers :
    (∀ i ∈ [Instr.bra 0 0 4, .bra 0 1 4, .brc 0 0 4, .brd 0 0 4, .brx (.w 4) 0, .call 0 8, .loop 0 1 8],
      (threadLast []).runs i = true ∧ (threadLast [8, 8, 8, 8]).runs i = true) ∧ (threadLast []).uniWord64 (.w 4) false % 4 = 0 ∧
      (∀ l ∈ [[], [64]], (threadLast l).runs (.ret 0) = true ∧ ((threadLast l).squeue 0).thread.calls = l) := by decide
theorem meets_thread_flow :
    threadHere.runs (.nop 0) = true ∧ threadHere.runs (.yield 0) = true ∧ threadHere.runs (.wait 1 7 7 7 0) = true ∧ (threadLast []).runs (.exit 0) = true ∧
      (∀ i ∈ [Instr.rjoin 0, .rett, .trap 5 0, .cue 1 0], encoded i = true) ∧ (threadLast []).focus.n < 1 + (threadLast []).focus.len := by decide
/-- R442: a BRD on p0, which is always true, is taken. -/
theorem test_thread_branch :
    (match exec (.brd 0 0 4) (threadLast []) with
      | .next t => some (t.squeue 0).thread.pc
      | _ => none) = some 16 := by decide
theorem meets_special_registers :
    (∃ r, here.focus.kind = .path 1 0 (0 :: r)) ∧ handlerHere.focus.kind = .handler 1 0 ∧ threadHere.focus.kind = .thread 0 := ⟨⟨[1], rfl⟩, rfl, rfl⟩

/-! Queues and barriers -/

/-- Queue 0 of vector words, queue 1 of uniform words, each with one element, and ring 2 with its first slot released. -/
def queues3 : List Queue :=
  [{ kind := 1, depth := 4, count := 1, tail := 1, times := [3] }, { kind := 2, depth := 2, base := 1, count := 1, tail := 1, times := [3] },
    { kind := 3, depth := 2, base := 1, tail := 1 }] ++ List.replicate 13 ({ kind := 0 } : Queue)
def queued : State := (mem.onBlock 1 fun b => { b with queues := queues3 }).scrWrite 1 2048 (leBytes 4 0 ++ leBytes 4 1)
theorem meets_queue_operations :
    ((queued.block 1).queue 0).kind = 1 ∧ ((queued.block 1).queue 1).kind = 2 ∧ ((queued.block 1).queue 2).kind = 3 ∧
      ∀ i ∈ [Instr.qpeek (.v 4) (.q 0) 0, .qpeek (.w 4) (.q 1) 0, .qpeek (.w 4) (.q 2) 0, .qcnt (.w 4) (.q 0) 0, .qcnt .zero (.q 2) 0,
        .qdrop (.q 1) .two 0, .qdrop (.q 2) .one 0, .sacq (.w 3) (.q 2) 0, .srel (.q 2) 0], queued.runs i = true := by decide
theorem meets_queue_traps :
    ((queued.block 1).queue 15).kind = 0 ∧ ((queued.block 1).queue 0).kind = 1 ∧
      (∀ i ∈ [Instr.qpeek (.v 4) (.q 15) 0, .qdrop (.q 15) .one 0, .srel (.q 15) 0, .qcnt (.w 4) (.q 15) 0, .sacq (.w 3) (.q 15) 0,
        .qpeek (.w 4) (.q 0) 0, .srel (.q 0) 0, .sacq (.w 3) (.q 0) 0], queued.runs i = true) := by decide
def emptyQueue : State := mem.onBlock 1 fun b => { b with queues := [{ kind := 1, depth := 2 }] }
theorem meets_queue_order :
    let b := emptyQueue.block 1
    let q : Queue := { kind := 1, depth := 2 }
    Tbl.find 1 emptyQueue.blocks = some b ∧ b.queues[0]? = some q ∧ 0 < q.depth ∧ q.count = 0 ∧ q.resv = 0 ∧ q.waiting = [] ∧ q.times = [] ∧
      q.head < q.depth ∧ q.tail = q.head ∧ (List.replicate 32 (7 : W8)).length = q.elemBytes b.gwidth ∧ b.scr.Nodup ∧
      Memory.wf (emptyQueue.core b.core).sram = true ∧ q.slotOff b.gwidth q.head + 32 ≤ b.scrBytes := by decide

/-- A barrier object at offset 0 that is owed one arrival, and one that is owed none. -/
def barred : State := (withW mem [(9, 1), (10, 0), (11, 0xffff0000)]).scrWrite 1 0 (leBytes 2 1 ++ leBytes 2 1 ++ leBytes 12 0)
theorem meets_barriers :
    (barred.block 1).barFault 0 = none ∧ (barred.barrier 1 0).pending ≠ 0 ∧ (mem.barrier 1 0).pending = 0 ∧
      (∀ i ∈ [Instr.binit (.w 8) .one 0, .barr (.w 8) 0, .barx (.w 8) (.w 9) 0, .bwait (.w 8) (.w 9) 0, .btest 1 (.w 8) (.w 9) 0,
        .btest 1 (.w 8) (.w 10) 0], barred.runs i = true) ∧ mem.runs (.barr (.w 8) 0) = true ∧
      ((barred.grp 1 0).uniOpd (.w 8)).toNat = 0 ∧ ((barred.grp 1 0).uniOpd .one).toNat = 1 := by decide
theorem meets_sync_and_remote :
    barred.runs (.gsync 0) = true ∧ barred.runs (.brmt (.w 10) 0) = true ∧ barred.uniWord64 (.w 10) false = 0xffff0000 * 2 ^ 32 ∧
      (barred.member 1 0).isSome = true ∧ barred.blockOf 0 1 ((barred.member 1 0).getD 1) = some 1 ∧ (barred.block 1).lid = 1 ∧
      0 + 16 ≤ (barred.block 1).scrBytes := by decide
def syncing : Block :=
  { (mem.block 1) with groups := [placedGroup.onStrands [0, 1, 2, 3, 4, 5, 6, 7] fun t => { t with wait := .gsync t.idx, tick := 4 }] }
theorem meets_sync_release :
    syncing.liveGroups ≠ [] ∧
      (∀ g ∈ syncing.liveGroups, (syncing.group g).anyParked = false ∧ (syncing.group g).handler = none ∧
        ∀ k ∈ (syncing.group g).living, ((syncing.group g).strand k).wait = .gsync 1) ∧
      (mem.block 1).liveGroups ≠ [] ∧ ∃ g ∈ (mem.block 1).liveGroups, ∃ k ∈ ((mem.block 1).group g).living,
        (((mem.block 1).group g).strand k).wait = .none := by decide
def away : State := barred.onBlock 1 fun b => { b with resident := false }
theorem meets_remote_arrival :
    (Tbl.find 1 barred.blocks).map Block.resident = some true ∧ (barred.barrier 1 0).pending ≠ 0 ∧
      (Tbl.find 1 mem.blocks).map Block.resident = some true ∧ (mem.barrier 1 0).pending = 0 ∧
      (Tbl.find 1 away.blocks).map Block.resident = some false ∧ Tbl.find 2 mem.blocks = none := by decide
def sender : State := barred.onGrp 1 0 fun x => { x with strands := x.strands.map fun t => { t with wait := .brmt 5 1 } }
theorem meets_remote_sender :
    Tbl.find 2 sender.blocks = none ∧ sender.blocks.length = 1 ∧
      (∀ e ∈ sender.blocks, ∃ x ∈ e.2.groups, ∃ y ∈ x.strands, y.wait = .brmt 5 1) ∧
      Tbl.find 2 barred.blocks = none ∧ ∀ e ∈ barred.blocks, ∀ x ∈ e.2.groups, ∀ y ∈ x.strands, y.wait ≠ .brmt 5 1 := by decide

/-! Tiles and engines -/

/-- A layout record: BASE, format code, and two dimensions of 64 elements of a stride. -/
def recordBytes (vaBase fmt stride : Nat) : List W8 :=
  leBytes 8 vaBase ++ leBytes 8 0 ++ leBytes 1 fmt ++ leBytes 1 2 ++ leBytes 14 0 ++ leBytes 4 64 ++ leBytes 4 0 ++ leBytes 8 stride ++ leBytes 4 64 ++
    leBytes 4 0 ++ leBytes 8 (64 * stride) ++ List.replicate 64 0
/-- A block with the records e4m3, e8m0, f32 and n32, two accumulator tiles and a reservation. -/
def tiled : State :=
  let s := mem.onDistrict 0 fun d =>
    { d with launches := d.launches.map fun l => { l with header := l.header.take 0x98 ++ leBytes 8 3 ++ l.header.drop 0xa0 } }
  let s := s.onBlock 1 fun b => { b with acc := List.range' 8 24, obres := listSet b.obres 0 (some 4) }
  s.scrWrite 1 0 (recordBytes 0 0x0c 1 ++ recordBytes 0 0x11 1 ++ recordBytes 0 0x0a 4 ++ recordBytes (0xfffe * 2 ^ 48) 4 4)
/-- Words for its operands: handles 0, 2, 3 and 99, one row, five bytes, a scratchpad address and a mask of one member. -/
def armed : State := withW tiled [(9, 1), (10, 2), (11, 3), (12, 99), (13, 5), (15, 0xfffe0000), (16, 1)]
def loaded : State := armed.onCore 0 fun c => { c with tiles := [{ first := 0, kc := 1, nc := 1, fmt := 0, mx := false, elems := [], blk := 1 }] }

theorem meets_tile_registers :
    (∀ i ∈ [Instr.gang (.w 8) 0, .obres (.w 13) 2 0, .obrel 0 0, .mzero 1 0, .mstat (.w 3) 0, .mcancel 0 0], armed.runs i = true) ∧
      gangTrap (armed.block 1) 0 (armed.uniWord (.w 8) none) = none ∧ (armed.uniWord (.w 13) none).toNat = 5 ∧
      (armed.block 1).obres.getD 2 none = none ∧ armed.pathWait ≠ .system ∧ (armed.block 1).obres.getD 0 none = some 4 ∧
      (armed.core 0).resvBusy 1 0 = false ∧ (armed.core 0).tileBusy 1 1 armed.nextId true = false ∧ armed.tileOk 1 1 = true ∧
      (armed.core 0).tileOps = [] ∧ (armed.core 0).cancelling 1 0 armed.nextId = false ∧ (armed.block 1).core = 0 := by decide +kernel
theorem meets_tile_issue :
    gangMembers (loaded.grp 1 0).gang = [] ∧ loaded.runs (.mbld (.w 8) (.w 20) 0 0 0) = true ∧ (loaded.block 1).resvOk 0 4 = true ∧
      (loaded.recordOf 1 0).map rFmtCode = some 0x0c ∧ (loaded.recordOf 1 0).map rRank = some 2 ∧ loaded.engineKey 1 0 rightRD = true ∧
      loaded.runs (.mma (.w 8) (.w 20) (.w 9) 0 1 0) = true ∧ (loaded.uniWord (.w 9) none).toNat = 1 ∧ ((loaded.core 0).tileAt 1 0).isSome = true ∧
      1 < (loaded.block 1).accTiles ∧ (extentFrom 1 1 128).1 + (extentFrom 1 1 128).2 ≤ (loaded.block 1).accTiles ∧
      loaded.runs (.mdrn (.w 10) (.w 20) .zero .zero 0 1 0) = true ∧ (loaded.recordOf 1 2).map rFmtCode = some (drnCode 0) ∧
      loaded.engineKey 1 0 rightW = true ∧ loaded.runs (.mbld (.w 12) (.w 20) 0 0 0) = true ∧ loaded.recordOf 1 99 = none := by decide +kernel

/-- With room for a side plane, and the group in a gang with a second one. -/
def scaled : State := loaded.onBlock 1 fun b => { b with acc := List.range' 8 64 }
def ganged : State := loaded.onBlock 1 fun b =>
  { b with groups := [{ b.group 0 with gang := 0x600 }, { placedGroup with role := 1, gang := 0x600 }] }
theorem meets_tile_issue_scales :
    (8 : BitVec 12).getLsbD 3 = true ∧ scaled.runs (.mbld (.w 8) (.w 20) 8 0 0) = true ∧ scaled.runs (.mma (.w 8) (.w 20) (.w 9) 8 1 0) = true ∧
      scaled.runs (.mdrn (.w 8) (.w 20) (.w 9) (.w 20) 10 1 0) = true ∧ drnCode 2 = 0x0c ∧ 131072 ≤ (scaled.block 1).accBytes ∧
      (scaled.recordOf 1 1).map rFmtCode = some 17 ∧ (scaled.recordOf 1 1).map rBase = some 0 ∧ (scaled.recordOf 1 1).map rSide = some 0 ∧
      coord (originOf (scaled.wordsAt (.w 20) 3)) 0 % 32 = 0 ∧ (∀ need ∈ [rightRD, rightW], scaled.engineKey 1 0 need = true) := by decide +kernel
theorem meets_tile_issue_gang :
    gangMembers (ganged.grp 1 0).gang = [0, 1] ∧ (∀ k ∈ [0, 1], ((ganged.block 1).group k).life = .live) ∧
      ganged.runs (.mbld (.w 8) (.w 20) 0 0 0) = true ∧ ganged.runs (.mma (.w 8) (.w 20) (.w 9) 0 1 0) = true ∧
      ganged.runs (.mdrn (.w 10) (.w 20) .zero .zero 0 1 0) = true ∧ sliceColumns [0, 1] 0 128 = 64 ∧
      (extentFrom 1 1 64).1 + (extentFrom 1 1 64).2 ≤ (ganged.block 1).accTiles := by decide +kernel

def op0 : TileOp := { id := 5, instr := .mbld (.w 8) (.w 20) 0 0 0, blk := 1, members := [{ grp := 0 }] }
def op1 : TileOp :=
  { id := 5, instr := .mma (.w 8) (.w 20) (.w 9) 0 1 0, blk := 1, members := [{ grp := 0 }], rows := 4, started := true, quarters := [0, 0, 0, 0]
    buf := [⟨0, [], [], []⟩] }
def op2 : TileOp := { op1 with quarters := [0, 1, 1, 1] }
def tileState (o : TileOp) : State := loaded.onCore 0 fun c => { c with tileOps := [o] }
theorem meets_tile_start :
    let s := tileState op0
    s.opAt 0 5 = some op0 ∧ op0.started = false ∧ (s.core 0).fences = [] ∧ (s.core 0).latch = [] ∧ (s.core 0).eq6 = [] ∧ s.mayStart 0 op0 = true ∧
      s.startOk 0 op0 = true := by decide
theorem meets_sections :
    (∀ o ∈ [op1, op2], (tileState o).opAt 0 5 = some o ∧ o.quarters[0]? = some 0 ∧ (firstWith (fun r => r.num == 0) o.buf).isSome = true ∧
      o.runs = true ∧ ((tileState o).block 1).stop = false ∧ 0 < o.quarters.foldl min 0 + o.ahead 64 ∧ o.cancel = false ∧
      (tileState o).awaitsMate 0 o 0 = false ∧ ((tileState o).core 0).soft = [] ∧ ((tileState o).block 1).softAcc = []) ∧ ((tileState op1).core 0).tileAt 1 op1.first ≠ none ∧
      (∃ k ∈ listSet op1.quarters 0 1, k ≤ op1.cursor) ∧ (∀ k ∈ listSet op2.quarters 0 1, op2.cursor < k) ∧ op2.cursor + 1 ≠ op2.rows := by decide
def op3 : TileOp := { op0 with started := true }
theorem meets_fetch_and_fault :
    (tileState op3).opAt 0 5 = some op3 ∧ ((tileState op3).core 0).eqs.getD 3 [] = [] ∧ op3.isMma = false ∧ op3.fault = none ∧
      op3.next < min op3.units (op3.cursor + 8) ∧ op3.isMbld = true ∧ ((tileState op3).block 1).resident = true ∧
      ((tileState op3).core 0).eqCount 3 < 16 ∧ (op3.members.any fun m => (tileState op3).pathAccesses 1 m.grp m.ks 5) = false ∧
      op1.members = [{ grp := 0 }] ∧ op1.isMbld = false ∧ op1.fault = none ∧ ((tileState op1).grp 1 0).life = .live := by decide

/-- What ByteStreams asks of an instruction. -/
def streams (s : State) (i : Instr) : Bool :=
  match byteStream i with
  | some (_, lo, d, a, b, _, e, fits, right, cover) =>
    let es := (s.operands i).2
    let len := (s.uniWord b (es.getD 0 none)).toNat
    s.runs i && fits (s.pairOf d) (s.pairOf a) len && s.engineKey 1 (s.pairOf a) rightRD && s.engineKey 1 (s.pairOf d) right &&
      (s.block 1).rangeOk (s.pairOf a) len && (s.block 1).rangeOk (s.pairOf d) (cover len) && e == .zero && (ringOf lo).isNone
  | none => false
theorem meets_byte_streams :
    ∀ i ∈ [Instr.cpy (.w 2) (.w 4) (.w 13) .zero .zero 0 0 0, .cpy (.w 14) (.w 14) (.lit 4096) .zero .zero 3 0 0,
      .rcpy (.w 2) (.w 4) (.w 6) .zero .zero 3 0x1000 0, .xfmBdxe (.w 2) (.w 4) (.w 6) .zero .zero 4 0 0 0,
      .xfmCrcg (.w 2) (.w 4) (.w 13) .zero .zero 5 0 0 0, .xfmCrcv (.w 2) (.w 4) (.w 13) .zero .zero 4 0 0 0], streams armed i = true := by decide
theorem meets_multicast :
    armed.runs (.cpym (.w 14) (.w 4) (.w 13) (.w 16) .zero 0 0 0) = true ∧ armed.engineKey 1 0 rightRD = true ∧ keyOf (armed.pairOf (.w 14)) = 0xfffe ∧
      (armed.block 1).rangeOk 0 5 = true ∧ (armed.block 1).rangeOk (armed.pairOf (.w 14)) 5 = true ∧
      (armed.membersAt 1 ((setBits (armed.tagOf (.w 16)) 64).map fun j => 0 + j)).isSome = true ∧ (ringOf 0).isNone = true := by decide
theorem meets_indexed :
    armed.runs (.gath (.w 2) (.w 4) (.w 20) .zero .zero 0 0x80 0) = true ∧ armed.runs (.scat (.w 2) (.w 4) (.w 20) .zero .zero 0 0 0) = true ∧
      (∀ need ∈ [rightRD, rightW], armed.engineKey 1 0 need = true) ∧ (armed.block 1).rangeOk 0 0 = true ∧ armed.wordsAt (.w 20) 3 = [0, 0, 0] := by
  decide
theorem meets_tensors :
    (∀ i ∈ [Instr.xfmMove (.w 8) (.w 8) (.w 20) .zero .zero 4 0 0 0, .xfmCvt (.w 8) (.w 10) (.w 20) .zero .zero 4 0 0 0,
      .xfmMxq (.w 8) (.w 10) (.w 20) .zero .zero 4 0 0 0, .xfmMxdq (.w 10) (.w 8) (.w 20) .zero .zero 4 0 0 0,
      .cpyt (.w 8) (.w 8) (.w 20) .zero .zero 0 0 0], armed.runs i = true) ∧
      (∀ h ∈ [0, 1, 2], (armed.recordOf 1 h).map rRank = some 2 ∧ (armed.recordOf 1 h).map rBase = some 0 ∧ (armed.recordOf 1 h).map rSide = some 0) ∧
      (armed.recordOf 1 0).map rFmtCode = some 0x0c ∧ (armed.recordOf 1 1).map rFmtCode = some 17 ∧ (armed.recordOf 1 2).map rFmtCode = some 10 ∧
      narrowCode 0x0c = true ∧ (extentOf ((armed.wordsAt (.w 20) 9).drop 6)).getD 0 0 % 32 = 0 ∧ coord (originOf (armed.wordsAt (.w 20) 9)) 0 % 32 = 0 ∧
      coord (originOf ((armed.wordsAt (.w 20) 9).drop 3)) 0 % 32 = 0 := by decide +kernel
theorem meets_decode_stream :
    armed.runs (.xfmBdxd (.w 2) (.w 4) (.w 20) .zero .zero 4 0 0 0) = true ∧ armed.pairOf (.w 2) = 0 ∧ armed.pairOf (.w 4) = 0 := by decide
theorem meets_rings_and_fences :
    (∀ i ∈ [Instr.crng .zero 0 0 0, .crng (.w 14) 5 0 0, .qfence 0xff 0, .drainScr 0, .drainL1 0, .drainMem 0],
      armed.runs i = true ∧ armed.drainHolds [] i = false) ∧ (armed.core 0).eqs.flatten = [] ∧ (armed.block 1).core = 0 ∧ armed.pathWait = .none ∧ armed.pairOf (.w 14) % 64 = 0 ∧
      (armed.block 1).rangeOk (armed.pairOf (.w 14)) (64 + 32 * 2 ^ (0 % 16 + 2)) = true := by decide

/-- A copy of 32 bytes inside the scratchpad, queued, running and ended, and a decode of a stream in the scratchpad. -/
def entry1 : Entry :=
  { id := 9, instr := .cpy (.w 2) (.w 4) (.w 6) .zero .zero 0 0 0, blk := 1, grp := 0, src := 0xfffe * 2 ^ 48, dst := 0xfffe * 2 ^ 48 + 0x800, len := 32 }
def entry2 : Entry := { entry1 with st := .running }
def entry3 : Entry := { entry1 with st := .ended }
def entry4 : Entry := { entry2 with instr := .xfmBdxd (.w 2) (.w 4) (.w 20) .zero .zero 4 0 0 0, bdx := [2, 0, 8192, 64] }
def engineState (e : Entry) : State := armed.onCore 0 fun c => { c with eqs := [[e], [], [], [], [], []] }
def readPart : Part := { id := 3, src := .engine 0 0 9, kind := .load, va := 0, len := 4 }
def answered : State := { engineState entry2 with parts := [readPart] }

theorem meets_engine_start :
    (engineState entry1).head 0 0 = some entry1 ∧ ((engineState entry1).core 0).fences = [] ∧ (engineState entry1).startable 0 0 entry1 = true := by
  decide
theorem meets_finish :
    (engineState entry3).head 0 0 = some entry3 ∧ entry3.st = .ended ∧ entry3.posted = false ∧ ((engineState entry3).block 1).rings.getD 0 none = none ∧
      entry3.status ≠ 2 ∧ (engineState entry3).targetsHere entry3 = true ∧ entry3.bar = none ∧ entry3.rel = none := by decide
theorem meets_engine_wake : answered.head 0 0 = some entry2 ∧ answered.part 3 = some readPart ∧ readPart.src = .engine 0 0 entry2.id ∧ entry2.st ≠ .ended := by
  decide
theorem meets_decode_lane :
    let s := engineState entry4
    s.head 0 0 = some entry4 ∧ entry4.decodes = true ∧ entry4.cancel = false ∧ (s.block 1).stop = false ∧ s.laneChunk 0 0 entry4 = some 0 ∧
      (s.bdxLane { s.entryPart 0 0 entry4 with tag := 2 } entry4 0).2.isSome = true := by decide +kernel
theorem meets_chunk_copies :
    let s := engineState entry2
    let b := s.block 1
    s.head 0 0 = some entry2 ∧ Tbl.find 1 s.blocks = some b ∧ b.core = 0 ∧ entry2.st = .running ∧ entry2.fetch = none ∧ entry2.cancel = false ∧
      entry2.bar = none ∧ entry2.cursor = 0 ∧ entry2.badVa = none ∧ b.stop = false ∧ b.resident = true ∧ 0 < entry2.len ∧ entry2.len ≤ 4096 ∧
      keyOf entry2.src = 0xfffe ∧ keyOf entry2.dst = 0xfffe ∧ bits entry2.src 47 32 = 0 ∧ bits entry2.dst 47 32 = 0 ∧
      entry2.src % 2 ^ 32 + entry2.len ≤ b.scrBytes ∧ entry2.dst % 2 ^ 32 + entry2.len ≤ b.scrBytes ∧ b.scr.Nodup ∧
      Memory.wf (s.core 0).sram = true ∧ s.parts = [] ∧ 0 < (s.core 0).eqs.length := by decide +kernel
/-- R318, R325: the chunk's bytes stand at the destination. -/
theorem test_chunk :
    (match exec (.chunk 0 0) (engineState entry2) with
      | .next t => t.scrRead 1 0x800 32 == (recordBytes 0 0x0c 1).take 32
      | _ => false) = true := by decide +kernel

/-- The images of MLDACC and MSVACC: a record of 64 rows in the scratchpad and an origin beyond them, so that nothing is read or written. -/
def op4 : TileOp := { op1 with id := 5, quarters := [1, 0, 0, 0] }
def imageRecord : Record := recordBytes (0xfffe * 2 ^ 48) 4 4
def image : State := withW armed [(20, 0x7fff0000)]
theorem meets_accumulator_images :
    image.recordOf 1 3 = some imageRecord ∧ rRank imageRecord = 2 ∧ rFmtCode imageRecord = 4 ∧ rBase imageRecord = 0xfffe * 2 ^ 48 ∧
      image.runs (.mldacc (.w 11) (.w 20) 0 0) = true ∧ image.runs (.msvacc (.w 11) (.w 20) 0 0) = true ∧ image.pathWait ≠ .system ∧
      (∀ need ∈ [rightRD, rightW], image.engineKey 1 (0xfffe * 2 ^ 48) need = true) ∧ image.writeParts (.sys 1 0) = [] ∧
      (∀ w ∈ [true, false], (image.core 0).tileBusy 1 0 image.nextId w = false) ∧ image.tileOk 1 0 = true ∧ (image.block 1).softAcc = [] ∧
      originOf (image.wordsAt (.w 20) 3) = [0, 32767, 0, 0, 0] := by decide +kernel
theorem image_outside (i j w scr : Nat) : locate imageRecord scr (wordAt [0, 32767, 0, 0, 0] i j w) = none := by
  have h1 : rRank imageRecord = 2 := by decide
  have h2 : rConv imageRecord = false := by decide
  have h3 : rWrap imageRecord 1 = false := by decide
  have h4 : rSize imageRecord 1 = 64 := by decide
  rw [locate, if_neg]
  simp [inBounds, wrapCoords, convMap, h1, h2, h3, h4, wordAt, addVec, coord, List.range_succ]
  omega
theorem meets_image_reads :
    ((tileIdx.flatMap fun e => (List.range 3).flatMap fun w =>
      srcSpan imageRecord (readOf imageRecord 4096 (wordAt [0, 32767, 0, 0, 0] e.1 e.2 w))).filter fun e => keyOf e.1 != 0xfffe) = [] := by
  have h : rOob imageRecord = 0 := by decide
  simp [readOf, image_outside, h, srcSpan]
theorem meets_image_writes : image.imageWrites 1 0 imageRecord [0, 32767, 0, 0, 0] = [] ∧ lineParts (image.accPart 1 0) 0 [] = [] := by
  refine ⟨?_, by decide⟩
  simp [State.imageWrites, image_outside]

/-- The same record in key 0, and an origin from which one element stands inside it. -/
def memRecord : Record := recordBytes 0 4 4
def imageMem : State :=
  ((withW armed [(20, 0x003f003c)]).scrWrite 1 384 memRecord).onGrp 1 0 fun x => { x with imageRec := memRecord }
/-- The lines that MLDACC asks for. -/
def imageLines (s : State) : List (Nat × Nat × Nat) :=
  coalesce ((tileIdx.flatMap fun e => (List.range 3).flatMap fun w =>
    srcSpan memRecord (readOf memRecord (s.block 1).scrBytes (wordAt (originOf (s.wordsAt (.w 20) 3)) e.1 e.2 w))).filter fun e => keyOf e.1 != 0xfffe)
theorem meets_image_record :
    imageMem.recordOf 1 3 = some memRecord ∧ rRank memRecord = 2 ∧ rFmtCode memRecord = 4 ∧ rBase memRecord = 0 ∧ imageMem.sideKey 1 memRecord = true ∧
      imageMem.runs (.mldacc (.w 11) (.w 20) 0 0) = true ∧ imageMem.runs (.msvacc (.w 11) (.w 20) 0 0) = true ∧ imageMem.pathWait ≠ .system ∧
      (∀ need ∈ [rightRD, rightW], imageMem.engineKey 1 0 need = true) := by decide +kernel
theorem image_lines : imageLines imageMem = [(1023, 0, 36)] := by decide +kernel
/-- MLDACC asks and waits. -/
theorem meets_image_asks : (imageMem.askAll (imageMem.accPart 1 0) [(1023, 0, 36)]).2 = [(1023, .wait)] := by decide +kernel
/-- Its path waits, and its part is answered with the line, or refused. -/
def imageAnswered (st : PartSt) : State :=
  let s := imageMem.onGrp 1 0 fun x => x.onStrands [0, 1] fun t => { t with wait := .system }
  { s with parts := [{ s.accPart 1 0 with id := 3, kind := .load, va := 64 * 1023, len := 36, st := st }] }
theorem meets_image_answers :
    (∀ st ∈ [PartSt.replied (.accept (List.replicate 64 1) 3 3 0), .replied (.fatal 7)], (imageAnswered st).pathWait = .system ∧
      (imageAnswered st).runs (.mldacc (.w 11) (.w 20) 0 0) = true ∧ ((imageAnswered st).grp 1 0).imageRec = memRecord) ∧
    (((imageAnswered (.replied (.accept (List.replicate 64 1) 3 3 0))).askAll
      ((imageAnswered (.replied (.accept (List.replicate 64 1) 3 3 0))).accPart 1 0) [(1023, 0, 36)]).2.all fun x => x.2 != .wait) = true ∧
    ((imageAnswered (.replied (.fatal 7))).askAll ((imageAnswered (.replied (.fatal 7))).accPart 1 0) [(1023, 0, 36)]).2 = [(1023, .fatal 7)] := by
  decide +kernel
/-- MSVACC sends a line, and its path waits with the part accepted, and released. -/
theorem meets_image_sends :
    let ps := lineParts (imageMem.accPart 1 0) 0 (imageMem.imageWrites 1 0 memRecord (originOf (imageMem.wordsAt (.w 20) 3)))
    ps != [] ∧ (imageMem.sendWrites ps).2 = none := by decide +kernel
def imageSent (rel : Bool) : State :=
  let s := imageMem.onGrp 1 0 fun x => x.onStrands [0, 1] fun t => { t with wait := .system }
  { s with parts := [{ s.accPart 1 0 with id := 3, kind := .pst, va := 64 * 1023, len := 52, rel := rel, st := .replied (.accept [] 3 3 0) }] }
theorem meets_image_sent :
    ∀ rel ∈ [true, false], (imageSent rel).runs (.msvacc (.w 11) (.w 20) 0 0) = true ∧ (imageSent rel).pathWait = .system ∧
      ((imageSent rel).writeParts (.sys 1 0)).map Part.rel = [rel] ∧
      ((imageSent rel).writeParts (.sys 1 0)).map Part.st = [.replied (.accept [] 3 3 0)] := by decide

/-- MCANCEL: an operation that is queued goes at once, one that runs stops later; and the latch's arrivals of a gang. -/
def arrived : LatchArrival :=
  { blk := 1, grp := 0, seq := 0, gang := 0x600, instr := .mma (.w 8) (.w 20) (.w 9) 0 1 0, vals := [], rows := 1, place := {}, self := { grp := 0 } }
theorem meets_cancels :
    (∀ mode ∈ [0, 1, 2, 3], (tileState op0).runs (.mcancel mode 0) = true ∧ (ganged.runs (.mcancel mode 0)) = true) ∧
      (tileState op0).pathWait ≠ .system ∧ op0.has 0 = true ∧ op0.joint = false ∧
      ((((tileState op0).cancelOp 0 op0).pumpLatch 0).core 0).cancelling 1 0 (((tileState op0).cancelOp 0 op0).pumpLatch 0).nextId = false ∧
      (let r := (State.cancelOp { tileState op4 with nextId := 6 } 0 op4).pumpLatch 0
       (r.core 0).cancelling 1 0 r.nextId = true) ∧
      gangMembers arrived.gang = gangMembers (ganged.grp 1 0).gang := by decide +kernel
def waitingSystem : State := loaded.onGrp 1 0 fun x => x.onStrands [0, 1] fun t => { t with wait := .system }
theorem meets_cancels_ended :
    waitingSystem.runs (.mcancel 0 0) = true ∧ waitingSystem.pathWait = .system ∧
      (waitingSystem.core 0).cancelling 1 0 (waitingSystem.grp 1 0).upto = false := by decide

/-! Class 7 and the service ports -/

theorem meets_triggers : mem.runs (.trig 0) = true ∧ mem.focus.kind = .path 1 0 [0, 1] := by decide
/-- Words for the system instructions: a counter, its clearing and its setting, a counter's configuration, a key entry, a table entry's index. -/
def sys7 : State := withW mem [(1, 4), (2, 8), (3, 0x8001), (7, 0x1f), (16, 0x1001), (22, 5)]
theorem meets_counters :
    (∀ i ∈ [Instr.cntr (.w 10) .zero 0, .cntc (.w 9) .zero (.w 3) 0, .cntc (.w 9) (.w 1) (.w 3) 0, .cntc (.w 9) (.w 2) (.w 4) 0], sys7.runs i = true) ∧
      sys7.noCounters = false ∧ (sys7.uniWord (.w 3) none).toNat = 0x8001 ∧ (sys7.uniWord (.w 1) none).toNat / 4 % 4 = 1 ∧
      (sys7.uniWord (.w 2) none).toNat / 4 % 4 = 2 ∧ (sys7.addOwn 0).readW64 4 < 2 ^ 48 := by decide +kernel
theorem meets_table_writes :
    sys7.runs (.pkw (.w 9) (.w 8) (.w 7) 0) = true ∧ (sys7.uniWord (.w 8) none).toNat = 0 ∧ (sys7.uniWord (.w 7) none).toNat = 0x1f ∧ (sys7.district 0).state = 2 ∧ (sys7.district 0).vfcount = 1 ∧
      sys7.domainVf 0 = none ∧ (sys7.keyLists.filter sys7.registered).length < 4096 ∧
      sys7.runs (.dtw (.w 9) (.w 16) (.w 22) 0) = true ∧ wordsNat (sys7.wordsAt (.w 16) 4) = 0x1001 ∧ (sys7.uniWord (.w 22) none).toNat = 5 := by decide
/-- The entry that DTW writes with the district's table empty. -/
def sys7bare : State := sys7.onDistrict 0 fun d => { d with dtab := [], hbmch := 1 }
theorem meets_table_writes_valid :
    sys7bare.runs (.dtw (.w 9) (.w 16) (.w 22) 0) = true ∧ deV (BitVec.ofNat 128 0x1001) = true ∧
      sys7bare.dtwBad 0 (BitVec.ofNat 128 0x1001) = false ∧ (sys7bare.district 0).dtab = [] := by decide
def keyed : State := { mem with keyLists := [{ domain := 0, vf := 0, dist := 0, entries := BitVec.ofNat 32 0x1f :: List.replicate 15 0 }] }
theorem meets_key_entry :
    (3 : Nat) < 16 ∧ (0x1f : W32).getLsbD 0 = true ∧ mem.keyLists = [] ∧ mem.domainVf 0 = none ∧ keyed.domainVf 0 = some 0 ∧
      ∀ k ∈ keyed.keyLists, k.entries.length = 16 ∧ k.dist = k.vf / 64 := by decide
def homed : State := { withW mem [(6, 0x20), (7, 0)] with homes := [(0, { enable := true })] }
theorem meets_home_invalidates :
    homed.runs (.hinv (.w 9) (.w 4) (.w 6) 0) = true ∧ (homed.uniWord (.w 6) none).toNat = 0x20 ∧ (homed.home 0).enable = true ∧
      (homed.home 0).deleg = [] ∧ homed.parts = [] := by decide

/-- A descriptor of a watchpoint on one line from 0x1000, without a ring: armed, or disarmed. -/
def wdLine (disarm : Nat) : List W8 := leBytes 8 0x1000 ++ leBytes 8 0 ++ leBytes 8 (0x10 + disarm * 2 ^ 13) ++ List.replicate 40 0
def watchState (disarm : Nat) (ws : List WatchPt) : State :=
  { homed with
    homes := [(0, { enable := true, watches := ws })]
    parts := [{ homed.sysReq .load 0 32 [] with id := 1, st := .replied (.accept (wdLine disarm) 3 3 0) }] }
theorem meets_watches :
    ∀ s ∈ [watchState 0 [], watchState 1 [(watchState 1 []).watchOf (wdLine 1)]],
      s.runs (.watch (.w 9) (.w 4) 0) = true ∧ s.focus.kind = .path 1 0 [0, 1] ∧ s.pairOf (.w 4) = 0 ∧ s.sysRight 0 rightRD = true ∧
        (s.asked (s.sysReq .load 0 32 [])).isSome = true ∧ s.route 0 0x1000 = some (0, 0) ∧
        ∀ r ∈ [wdLine 0, wdLine 1], watchTrap (r.take 32) (s.sysSaw 3).sysRight (fun x => ((s.sysSaw 3).route 0 x).isSome) = none := by decide
theorem meets_watches_sides :
    (fieldLe (wdLine 1) 16 8).testBit 13 = true ∧ (fieldLe (wdLine 0) 16 8).testBit 13 = false ∧ fieldLe (wdLine 0) 8 8 = 0 ∧
      ((watchState 0 []).home 0).watches = [] ∧ (watchState 0 []).dev.farWatches = [] ∧ ((watchState 0 []).home 0).deleg = [] := by decide

/-- The request block of an SVC in key 0 at address 0, whose queue 1 is a ring of another VF's thread, or of this one's. -/
def svcImage : List W8 := leBytes 8 0x70000 ++ leBytes 8 0 ++ leBytes 8 0x1234 ++ List.replicate 40 0
def svcState (owner produced : Nat) : State :=
  let s := withW mem [(7, 1)]
  let s := { s with squeues := [(1, { ring := 0x10000, kind := 2, tstate := 3, owner := owner, produced := produced })]
                    keyLists := [{ domain := 0, vf := 0, dist := 0, entries := [BitVec.ofNat 32 0x1f] }] }
  let n := produced
  { s with parts := [
      { s.sysReq .load 0 64 [] with id := 1, st := .replied (.accept svcImage 3 3 0) },
      { s.sysReq .load 0x10008 4 [] with id := 2, st := .replied (.accept (List.replicate 64 0) 4 4 0) },
      { s.sysReq .store ((s.squeue 1).slot n) 64 (recordHead n (fieldLe svcImage 4 2) 1 s.issuerVf ++ (svcImage.drop 8).take 56) with
        id := 3, writer := 8, st := .replied (.accept [] 5 5 0) },
      { s.sysReq .store 0x10000 4 (leBytes 4 (n + 1)) with id := 4, writer := 8, st := .replied (.accept [] 6 6 0) }] }
theorem meets_service_posts :
    ∀ s ∈ [svcState 5 0, svcState 0 4, svcState 0 3],
      s.runs (.svc (.w 9) (.w 4) (.w 7) 0) = true ∧ s.pairOf (.w 4) = 0 ∧ (s.uniWord (.w 7) none).toNat = 1 ∧ s.sysCheck 0 rightRD = none ∧
        (s.asked (s.sysReq .load 0 64 [])).map Part.st = some (.replied (.accept svcImage 3 3 0)) ∧ fieldLe svcImage 8 8 = 0 ∧
        (s.squeue 1).posting = none ∧ (s.squeue 1).waitPost = [] := by decide
theorem meets_service_posts_sides :
    ((svcState 5 0).sysSaw 3).postable 1 0 = false ∧
      (∀ s ∈ [svcState 0 4, svcState 0 3], (s.sysSaw 3).postable 1 (s.sysSaw 3).accessor.2.2 = true ∧ (s.squeue 1).posting = none ∧
        (s.sysSaw 3).ringRight 1 rightRD = true ∧
        (s.asked (s.sysReq .load ((s.squeue 1).ring + 8) 4 [])).map Part.st = some (.replied (.accept (List.replicate 64 0) 4 4 0))) ∧
      ((svcState 0 4).squeue 1).records ≤ 4 ∧ 3 < ((svcState 0 3).squeue 1).records := by decide
theorem meets_service_posts_writes :
    let s := svcState 0 3
    let bytes := recordHead 3 (fieldLe svcImage 4 2) 1 s.issuerVf ++ (svcImage.drop 8).take 56
    (s.asked { s.sysReq .store ((s.squeue 1).slot 3) bytes.length bytes with writer := 8 }).map Part.st = some (.replied (.accept [] 5 5 0)) ∧
      (s.asked { s.sysReq .store (s.squeue 1).ring 4 (leBytes 4 (3 + 1)) with writer := 8 }).map Part.st = some (.replied (.accept [] 6 6 0)) := by
  decide
theorem meets_post_lands :
    (∀ s ∈ [svcState 0 3, threadHere], (Tbl.find (if s.focus.kind = .thread 0 then 0 else 1) s.squeues).isSome = true) ∧
      ((svcState 0 3).squeue 1).tstate = 3 ∧ ((svcState 0 3).squeue 1).notify ≠ 4 ∧ (threadHere.squeue 0).tstate ≠ 3 := by decide

/-- Thread 0 with words in its registers. -/
def withT (s : State) (rs : List (Nat × Nat)) : State :=
  s.onSqueue 0 fun x => { x with thread := { x.thread with
    w := (List.range 32).map fun k => BitVec.ofNat 32 (((rs.find? fun r => r.1 == k).map Prod.snd).getD 0) } }
def port : State := withT (atThread (mapped base)) [(1, 5), (2, 1), (6, 3)]
theorem meets_service_ports :
    (∀ i ∈ [Instr.spwtWait (.w 10) .zero 0, .spwtWait (.w 10) (.w 1) 0, .spwtKill (.w 10) (.w 2) 0, .halt 0], port.runs i = true) ∧
      port.focus.kind = .thread 0 ∧ (port.squeue 0).notify = 0 ∧ (port.uniWord (.w 1) none).toNat = 5 ∧ (port.uniWord (.w 2) none).toNat = 1 ∧ 0xffe ≤ (port.squeue 0).owner ∧
      (firstWith (fun l => l.lid == 1) (port.district 0).launches).isSome = true := by decide
/-- The answers to REPLY's reads: a status of 1 for record 3, whose ring says no reply address. -/
def replying : State :=
  let s := (port.onSqueue 0 fun x => { x with outstanding := [(3, 0, 0xfff, 0)] })
  { s with parts := [
      { s.sysReq .load 0x20000 64 [] with id := 1, st := .replied (.accept (leBytes 64 1) 3 3 0) },
      { s.sysReq .load ((s.squeue 0).slot 3 + 8) 8 [] with id := 2, st := .replied (.accept (List.replicate 64 0) 4 4 0) }] }
def replyState : State := withT replying [(8, 0x20000), (10, 3)]
def submitHeader : List W8 := leBytes 8 0 ++ leBytes 8 (3 + 2 * 2 ^ 36) ++ leBytes 8 0 ++ leBytes 4 (8 * 4) ++ leBytes 4 1 ++ leBytes 224 0
def submitState : State :=
  let s := withT port [(8, 0x20000)]
  { s with parts := (List.range 4).map fun k => { s.sysReq .load (0x20000 + 64 * k) 64 [] with
      id := k + 1, st := .replied (.accept ((submitHeader.drop (64 * k)).take 64) 3 3 0) } }
def isGot (r : State × Fetch) (s : State) : Bool := match r with
  | (t, .ok _) => t == s
  | _ => false
theorem meets_reply :
    replyState.runs (.spwtReply (.w 12) (.w 8) 0) = true ∧ (replyState.squeue 0).closing = none ∧ (replyState.squeue 0).kind = 1 ∧
      (replyState.squeue 0).outstanding = [(3, 0, 0xfff, 0)] ∧ (replyState.readW 10).toNat = 3 ∧ replyState.readW 11 = 0 ∧
      replyState.sysCheck 0x20000 rightRD = none := by decide
theorem meets_reply_reads :
    replyState.fetchSpans (replyState.sysReq .load 0x20000 64 []) [(0x20000, 64)] =
      (replyState, .ok { lines := [(0x800, leBytes 64 1)], bad := [], clk := 3 }) := by decide +kernel
theorem meets_reply_ring :
    (replyState.sysSaw 3).fetchSpans ((replyState.sysSaw 3).sysReq .load ((replyState.squeue 0).slot 3 + 8) 8 [])
      [((replyState.squeue 0).slot 3 + 8, 8)] =
      ((replyState.sysSaw 3), .ok { lines := [(lineOf ((replyState.squeue 0).slot 3 + 8), List.replicate 64 0)], bad := [], clk := 4 }) := by decide +kernel
theorem meets_submits :
    submitState.runs (.spwtSubmit (.w 12) (.w 8) 0) = true ∧ submitState.readW64 8 = 0x20000 ∧ submitState.readW64 10 = 0 ∧
      hCueP submitHeader = 0 ∧ hParamP submitHeader = 0 ∧ hRecCount submitHeader = 0 ∧ (submitState.sysSaw 3).domainReads 0 0 0x20000 = true ∧
      (submitState.sysSaw 3).acceptCode 0 0xfff submitHeader 0 true = 0 := by
  decide +kernel
def submitGot : Got := { lines := (List.range 4).map fun k => (0x800 + k, (submitHeader.drop (64 * k)).take 64), bad := [], clk := 3 }
theorem meets_submits_reads :
    submitState.fetchSpans (submitState.sysReq .load 0x20000 256 []) [(0x20000, 256)] = (submitState, .ok submitGot) := by decide +kernel
theorem meets_submits_header : submitState.gotBytes 0 submitGot 0x20000 256 = submitHeader := by decide +kernel

/-- A context operation of the path that has ended. -/
def ctxDone : State := mem.onDistrict 0 fun d =>
  { d with ctxOps := [{ restore := false, blk := 1, grp := 0, handler := false, own := 1, vf := 0, area := 0, lid := 1, clk := 0, result := some 0 }] }
theorem meets_contexts :
    ∀ s ∈ [mem, ctxDone], s.runs (.ctxs (.w 9) (.w 4) (.w 5) 0) = true ∧ s.runs (.ctxr (.w 9) (.w 4) 0) = true ∧ s.pairOf (.w 4) = 0 ∧
      s.sysCheck 0 rightRD = none ∧ s.sysCheck 0 rightW = none ∧ (s.block 1).dist = 0 := by decide
theorem meets_contexts_sides :
    (mem.district 0).ctxOps = [] ∧ ((ctxDone.district 0).ctxOps.map fun o => (o.blk, o.grp, o.handler, o.result)) = [(1, 0, false, some 0)] := by decide

/-! Parts at their homes -/

/-- The page tables of home 0: page 0 of key 0 lies at frame 256 of stack 0, page 1 is absent, page 2 is being moved. -/
def tables : Cells :=
  [(0, 2 ^ 62 + 128), (128 * 4096, 2 ^ 62 + 129), (129 * 4096, 2 ^ 62 + 130), (130 * 4096, 2 ^ 62 + 131), (131 * 4096, 2 ^ 63 + 256),
    (131 * 4096 + 16, 2 ^ 63 + 2 ^ 61 + 258)].foldl (fun m (e : Nat × Nat) => cellsWrite e.1 (leBytes 8 e.2) m) []
def paged : State :=
  let s := mem.onDistrict 0 fun d => { d with hbmch := 1 }
  { s with mem := tables, homes := [(0, { enable := true })]
           dev := { s.dev with slots := [(0, { loaded := true, key := List.replicate 64 0 })] } }
/-- A part of strand 0 with an address. -/
def onPage (kind : PartKind) (va : Nat) (data : List W8) : State :=
  { paged with parts := [{ paged.strandPart 1 0 [0] kind va 4 with id := 3, data := data }] }
/-- Whether a state meets the conditions of AtPage for its part 3, with page 0 as the tables say. -/
def atPage (s : State) : Bool :=
  match s.part 3 with
  | some p =>
    p.id == 3 && p.dev == s.dev.devnum && keyOf p.va != 0xfffd && !s.portHolds p && s.homeDistrict p.home == some 0 &&
      s.walk (s.home p.home) (s.district 0) p.va == .page (2 ^ 63 + 256) (131 * 4096) (256 * 4096) && (s.home p.home).enable &&
      !pteM (2 ^ 63 + 256) && !pteFill (2 ^ 63 + 256) && !s.flagHolds p (2 ^ 63 + 256) && !pteHost (2 ^ 63 + 256) &&
      (s.slotKey (pteSlot (2 ^ 63 + 256))).isSome && s.slotMatches (2 ^ 63 + 256) && Tbl.find (lineOf p.va) (s.home p.home).deleg == none &&
      s.badMask (lineAddr (2 ^ 63 + 256) (256 * 4096)) 8 == 0 && !s.stopped p.home p && p.len == 4
  | none => false
theorem meets_home_parts :
    ∀ s ∈ [onPage .load 0 [], onPage .store 0 [1, 2, 3, 4], onPage .atom 0 [1, 2, 3, 4]], atPage s = true ∧ Memory.wf s.mem = true := by decide +kernel
theorem meets_home_reads : ∀ cl, (onPage .load 0 []).clusterOf { paged.strandPart 1 0 [0] .load 0 4 with id := 3 } = some cl →
    (onPage .load 0 []).l2Find cl 0 = none := by
  intro cl _
  rfl
theorem meets_home_atomics :
    (onPage .atom 0 [1, 2, 3, 4]).behind { paged.strandPart 1 0 [0] .atom 0 4 with id := 3, data := [1, 2, 3, 4] } = false ∧ atomSize 0 = 4 ∧
      ([1, 2, 3, 4] : List W8).length = 4 := by decide
/-- R378, R385: the line that the store wrote reads back under its key, and the times of the line are 1. -/
theorem test_home_write :
    (match exec (.homeWrite 3) (onPage .store 0 [1, 2, 3, 4]) with
      | .next t => some ((xtsDecrypt (List.replicate 64 0) 0 (cellsRead t.mem (256 * 4096) 64)).take 4, ((t.home 0).times 0).wts)
      | _ => none) = some ([1, 2, 3, 4], 1) := by decide +kernel
theorem meets_slice_hits :
    let s := onPage .load 0 []
    match s.part 3 with
    | some p => ∃ cl, s.clusterOf p = some cl ∧
        (let c : CacheLine := { line := 0, data := [], wts := 0, rts := 9, grant := 0 }
         (s.setL2 cl [c]).l2Find cl 0 = some c ∧ c.stored = false ∧ max p.clk c.wts ≤ c.rts ∧ s.cycle < c.grant + 16 * p.lam)
    | none => False := by
  refine ⟨0, ?_⟩
  decide +kernel
theorem meets_home_parks :
    ∀ s ∈ [onPage .store 0x1000 [1, 2, 3, 4], onPage .store 0x2000 [1, 2, 3, 4]],
      ∃ p, s.part 3 = some p ∧ p.id = 3 ∧ p.dev = s.dev.devnum ∧ p.kind = .store ∧ p.st ≠ .released ∧ s.portHolds p = false ∧
        s.homeDistrict p.home = some 0 ∧ (s.home p.home).enable = true ∧ (s.home p.home).parked.length < 16384 ∧ p.origin = s.dev.devnum ∧
        s.walk (s.home p.home) (s.district 0) p.va =
          (if p.va = 0x1000 then .absent 4 0 else .page (2 ^ 63 + 2 ^ 61 + 258) (131 * 4096 + 16) (258 * 4096)) ∧
        pteM (2 ^ 63 + 2 ^ 61 + 258) = true := by
  intro s h
  simp only [List.mem_cons, List.not_mem_nil, or_false] at h
  rcases h with rfl | rfl
  · exact ⟨_, rfl, by decide +kernel⟩
  · exact ⟨_, rfl, by decide +kernel⟩

/-- Replies to strand 0: a load's line, a store's time; the data of a load; a line for the instruction cache; and a wake. -/
def replied (kind : PartKind) (st : PartSt) : State :=
  { paged with
    parts := [{ paged.strandPart 1 0 [0] kind 0 4 with id := 3, st := st, issue := 8 }]
    issues := [{ id := 8, blk := 1, grp := 0, ctr := 0, dest := .v 5, left := [3] }] }
theorem meets_replies :
    ∀ kind ∈ [PartKind.load, .store],
      let s := replied kind (.replied (.accept (List.replicate 64 0) 3 9 0))
      (s.part 3).map Part.src = some (.strands 1 0 [0]) ∧ (s.part 3).map Part.st = some (.replied (.accept (List.replicate 64 0) 3 9 0)) ∧
        (s.part 3).map Part.id = some 3 ∧ (s.part 3).map (fun p => (s.earlier p 1 0 [0], keyOf p.va, p.l1)) = some (false, 0, false) ∧
        (Tbl.find 1 s.blocks).isSome = true ∧ max ((s.grp 1 0).pathTime [0]) 3 ≤ 9 ∧
        (s.part 3).map (State.uncached (s.onGrp 1 0 fun x => x.raise [0] 3)) = some false := by decide
theorem meets_replies_data :
    let s := replied .load (.data [1, 2, 3, 4])
    (s.part 3).map Part.st = some (.data [1, 2, 3, 4]) ∧ (s.part 3).map Part.issue = some 8 ∧
      (firstWith (fun (e : Issue) => e.id == 8) s.issues).map (fun e => (e.blk, e.grp, e.dest, e.bits)) = some (1, 0, .v 5, 32) := by decide
def parked : State :=
  (replied .load .parked).onGrp 1 0 fun x => x.onStrands [0] fun t => { t with st := .replay false }
theorem meets_wakes :
    (parked.part 3).map Part.src = some (.strands 1 0 [0]) ∧ (parked.part 3).map Part.id = some 3 ∧ (Tbl.find 1 parked.blocks).isSome = true := by decide

/-! The semaphore, links and delegation -/

def heldBy (m : Nat) : State := { paged with dev := { paged.dev with owner := m } }
theorem meets_gate :
    (heldBy 1).dev.owner ≠ 2 ∧ Holds (heldBy 1) 1 ∧
      (∀ i ∈ [Instr.linkTraining 2 0 0 0 0, .linkStop 2 0, .avtWrite 2 0 0 0x80, .districtForm 2 0, .districtDrain 2 0, .vfReset 2 0 0 false,
        .queueEnable 2 0, .queueDisable 2 0, .keyGen 2 1, .keyLoad 2 1, .keyClear 2 1, .bootFromRecovery 2, .commitSvn 2, .extendMr 2 0,
        .dcfgWrite 2 0 4 0], gatedBy i = some 2) := by
  refine ⟨by decide, ⟨rfl, by decide⟩, ?_⟩
  intro i hi
  simp only [List.mem_cons, List.not_mem_nil, or_false] at hi
  rcases hi with rfl | rfl | rfl | rfl | rfl | rfl | rfl | rfl | rfl | rfl | rfl | rfl | rfl | rfl | rfl <;> rfl
theorem meets_semaphore :
    (heldBy 0).dev.owner = 0 ∧ (heldBy 0).ownerEvent (3 - 1) = none ∧ (heldBy 2).dev.owner = 3 - 1 ∧
      Tbl.getD (3 - 1) ({ heldBy 2 with time := 10 ^ 6 * usUnits }).dev.lastWrite 0 + 1000 * (heldBy 2).dev.breakms * usUnits ≤
        ({ heldBy 2 with time := 10 ^ 6 * usUnits }).time := by decide

/-- Both masters write to the semaphore in one cycle: the agent takes it, or gives it back. -/
def rivals (owner last : Nat) (e : Instr) : State := { heldBy owner with dev := { (heldBy owner).dev with lastHolder := last }, agenda := [e] }
theorem meets_rivals :
    (rivals 0 1 (.semaphoreAcquire 2)).ownerEvent (3 - 1) = some (.semaphoreAcquire 2, 3 - 1) ∧ (rivals 0 1 (.semaphoreAcquire 2)).dev.lastHolder = 1 ∧
      (rivals 0 2 (.semaphoreAcquire 2)).dev.lastHolder ≠ 1 ∧ (rivals 2 2 (.semaphoreRelease 2)).ownerEvent (3 - 1) = some (.semaphoreRelease 2, 0) ∧
      (rivals 2 2 (.semaphoreRelease 2)).dev.owner = 3 - 1 ∧ (rivals 2 2 (.semaphoreRelease 2)).dev.lastHolder = 3 - 1 := by decide
/-- Link 0 up, with a packet to send, a flit that goes again, or an avenue table that is pending. -/
def linked (k : Link) : State := (heldBy 1).onLink 0 fun _ => { k with state := 2 }
def readPacket : Packet := { va := 0, op := 1, fpri := 2, src := 5, tag := 9, len := 16, data := List.replicate 16 0 }
def toSend : TxPacket := { pkt := readPacket }
theorem meets_flit_slots :
    (∀ k ∈ [({} : Link), { again := [({ seq := 4 }, readPacket)] }, { sendQ := [toSend] }],
      let s := linked k
      (s.link 0).state = 2 ∧ (s.link 0).nakDue = false ∧ (s.link 0).naks < 16) ∧
    (linked {}).pickFlit ((linked {}).link 0) = none ∧
      (linked { sendQ := [toSend] }).pickFlit ((linked { sendQ := [toSend] }).link 0) = some (toSend, false) ∧ toSend.sent + 1 = toSend.pkt.flits := by
  decide +kernel
def goodFlit : Flit :=
  let f : Flit := { seq := 0, ack := 2 ^ 32 - 1, first := true, fpri := 2, body := packetBody readPacket 0 }
  { f with crc := flitCrc f }
/-- The check value of CRC-32C, of the digits 1 to 9. -/
theorem test_crc32c : crc32c ((List.range 9).map fun k => BitVec.ofNat 8 (0x31 + k)) = 0xe3069283 := by decide +kernel
theorem meets_flit_receives :
    ((linked {}).link 0).state = 2 ∧ (goodFlit.crc + 1) % 2 ^ 32 ≠ flitCrc { goodFlit with crc := goodFlit.crc + 1 } ∧ goodFlit.crc % 2 ^ 32 = flitCrc goodFlit ∧ goodFlit.idle = false ∧
      goodFlit.seq = ((linked {}).link 0).expectSeq ∧ packetFlits (packetOf goodFlit.body).len = 1 ∧ ((linked {}).link 0).recv = [] := by decide +kernel
theorem meets_headers_of_packets :
    let k := readPacket
    k.va < 2 ^ 64 ∧ k.op < 2 ^ 7 ∧ k.len < 2 ^ 9 ∧ k.fpri < 8 ∧ k.avd < 2 ^ 6 ∧ k.home < 2 ^ 5 ∧ k.reserved = 0 ∧ k.src < 2 ^ 12 ∧ k.dst < 2 ^ 12 ∧
      k.reqvf < 2 ^ 12 ∧ k.tag < 2 ^ 32 ∧ k.clk < 2 ^ 64 ∧ k.rts = 0 := by decide
def replyPkt : Packet := { va := 0, op := 0x11, fpri := 5, tag := 3, clk := 3 }
def awaitingReply : State := { linked {} with parts := [{ paged.strandPart 1 0 [0] .store 0 4 with id := 3, st := .atHost, tag := 7 }] }
theorem meets_packets :
    packetWellFormed { readPacket with op := 0x40 } = false ∧ packetWellFormed readPacket = true ∧ (∀ p ∈ (linked {}).parts, p.src ≠ .remote 5 9) ∧
      (linked {}).keptReply 5 9 0 = none ∧ packetWellFormed replyPkt = true ∧ (awaitingReply.waitingFor 3).isSome = true := by decide
def avtPending : Link := { pendAvt := some [(0, 0x80)] }
theorem meets_links :
    ((linked {}).link 0).state = 2 ∧ Holds (linked {}) 1 ∧ ((linked {}).link 0).heard + usUnits ≤ ({ linked {} with time := usUnits }).time ∧
      ((linked avtPending).link 0).pendAvt = some [(0, 0x80)] ∧ 0x80 % 256 &&& 0xbf ≠ 0 :=
  ⟨by decide, ⟨by decide, by decide⟩, by decide, by decide, by decide⟩
theorem meets_link_training :
    Holds (heldBy 1) 1 ∧ ((heldBy 1).link 0).state ≠ 2 ∧ ((heldBy 1).link 0).bufs.foldl (· + ·) 0 ≤ 8192 ∧
      (∀ p, p < 8 → ((heldBy 1).link 0).shrs.getD p 0 ≤ ((heldBy 1).link 0).bufs.getD p 0) ∧
      (masterWrote (heldBy 1) 1).marksOk ((heldBy 1).link 0) ((heldBy 1).link 0).avt 300 = true :=
  ⟨⟨by decide, by decide⟩, by decide, by decide, by decide, by decide +kernel⟩
theorem meets_delegation : (linked {}).mayDelegate 0 0 = true := by decide +kernel
def given (r : Bool) : State := (linked {}).onHome 0 fun m => { m with deleg := [(0, { ceiling := 70000, recalled := r })], lines := [(5, ⟨3, 9⟩)] }
theorem meets_delegated :
    Tbl.find 0 ((given false).home 0).deleg = some { ceiling := 70000, recalled := false } ∧ Tbl.find 5 ((given false).home 0).lines = some ⟨3, 9⟩ ∧
      Tbl.find 5 ((given false).home 0).deleg = none ∧ (3 : Nat) ≤ 9 := by decide
theorem meets_write_through :
    let s := given true
    s.homeDistrict 0 = some 0 ∧ s.walk (s.home 0) (s.district 0) (64 * 0 + 8) = .page (2 ^ 63 + 256) (131 * 4096) (256 * 4096 + 8) ∧
      s.slotKey (pteSlot (2 ^ 63 + 256)) = some (List.replicate 64 0) ∧ s.badMask (lineAddr (2 ^ 63 + 256) (256 * 4096 + 8)) 8 = 0 ∧
      8 + ([1, 2] : List W8).length ≤ 64 := by decide +kernel
theorem meets_timeouts :
    (({ awaitingReply with time := 10 ^ 5 * usUnits }).part 3).map (fun (p : Part) => (p.st, p.port)) = some (.atHost, 0) ∧
      (({ awaitingReply with time := 10 ^ 5 * usUnits }).part 3).map (fun (p : Part) => decide (p.sentTime + 100000 * usUnits ≤ 10 ^ 5 * usUnits)) =
        some true := by
  decide

/-! Clocks, issue, dispatch -/

theorem meets_ticks :
    Tbl.find 1 base.blocks = some (base.block 1) ∧ (base.block 1).resident = true ∧ 0 < (base.block 1).groups.length ∧ 7 < ((base.block 1).group 0).width ∧
      (Tbl.find 0 threadHere.squeues).isSome = true ∧ (threadHere.squeue 0).tstate = 1 ∧ (base.district 0).state ≠ 0 ∧ (7 : Nat) < 8 ∧ (63 : Nat) < 64 := by
  decide
def notHere : State := base.onBlock 1 fun b => { b with resident := false }
theorem meets_ticks_away : Tbl.find 1 notHere.blocks = some (notHere.block 1) ∧ (notHere.block 1).resident = false := by decide
theorem meets_counter_updates : (base.district 0).curVf = some 0 := by decide
theorem test_counter_wraps :
    (match exec (.counterUpdate 0) (base.onDistrict 0 fun d =>
        { d with events := [(0, 5, 3), (1, 5, 9)], live := [{ value := 2 ^ 48 - 1, cfg := 0x8005 }, {}, {}, {}] }) with
      | .next t => some (((t.district 0).live.getD 0 {}).value, ((t.district 0).live.getD 0 {}).ovf)
      | _ => none) = some (2, true) := by decide +kernel
theorem meets_issue_slots :
    base.laneGroups 0 0 = [(1, 0)] ∧ base.keptGroups 0 0 = [] ∧ base.mustSkip (base.grp 1 0) = false ∧
      (match base.choose 1 0 with
        | (t, some (p, l)) => t.plan == base.plan && decide (t.costIf 1 0 p l ≤ 64)
        | _ => false) = true := by decide +kernel
def ready1 : State := { threadHere with focus := {} , cores := [], squeues := [(0, { tstate := 1, kind := 1 })] }
theorem meets_port_cycles :
    (63 : Nat) < 64 ∧ ready1.threadReady ((ready1.spLast + 1 + 63) % 64) = true ∧
      ∀ m, m < 63 → ready1.threadReady ((ready1.spLast + 1 + m) % 64) = false := by decide +kernel
def overrun : State := base.onGrp 1 0 fun x => { x with cueTimer := some 0 }
theorem meets_cue_overruns :
    let x := overrun.grp 1 0
    Tbl.find 1 overrun.blocks = some (overrun.block 1) ∧ (overrun.block 1).resident = true ∧ overrun.dying 1 = false ∧ x.cueTimer = some 0 ∧
      x.handler = none ∧ x.living ≠ [] ∧ overrun.eligible 1 0 = [0, 1, 2, 3, 4, 5, 6, 7] ∧ ∀ j ∈ x.living, (x.strand 0).pc ≤ (x.strand j).pc := by
  decide

/-- A district that is on, of one cluster, with launch 2 of VF 0 at priority 1: queued, or with one block to place. -/
def launch2 (sram : Nat) (st : LaunchSt) (counts : List Nat) : Launch :=
  { lid := 2, vf := 0, prio := 1, header := submitHeader.take 0x1c ++ leBytes 4 sram ++ submitHeader.drop 0x20, st := st, counts := counts }
def district1 (ls : List Launch) : State :=
  { base.onDistrict 0 fun d => { d with state := 1, launches := ls, savelen := 2 ^ 20, vfs := [(0, { quantum := 100 }), (1, { quantum := 100 })] } with blocks := [] }
theorem meets_launch_begins :
    let s := district1 [launch2 1 .queued []]
    firstWith (fun l => l.lid == 2) (s.district 0).launches = some (launch2 1 .queued []) ∧ s.mayBegin 0 (launch2 1 .queued []) = true ∧
      hCountP (launch2 1 .queued []).header = 0 ∧ hParamP (launch2 1 .queued []).header = 0 ∧ hRecP (launch2 1 .queued []).header = 0 := by decide +kernel
theorem meets_core_sets :
    let l := launch2 1 .dispatching [1, 1, 1, 1]
    let s := district1 [l]
    firstWith (fun l => l.lid == 2) (s.district 0).launches = some l ∧ s.mayPlace 0 l = true ∧
      s.higherFirst 0 l = false ∧ s.placeFor 0 [] l.clustered (l.nextNeeds 0) = some [0] ∧ l.perCore = 1 ∧ Tbl.find s.nextUid s.blocks = none := by decide +kernel
/-- Every core of the cluster holds a block of launch 1 at priority 0, with two units; launch 2 needs 1023. -/
def crowded : State :=
  let b (c : Nat) : Nat × Block := (c + 1, { lid := 1, core := c, scr := [0, 1], groups := [placedGroup] })
  { district1 [{ launch2 1 .dispatching [1, 1, 1, 1] with lid := 1, prio := 0, cursor := 1 }, launch2 1023 .dispatching [1, 1, 1, 1]] with
    blocks := [b 0, b 1, b 2, b 3] }
theorem meets_preempts :
    let l := launch2 1023 .dispatching [1, 1, 1, 1]
    firstWith (fun l => l.lid == 2) (crowded.district 0).launches = some l ∧ crowded.mayPlace 0 l = true ∧
      crowded.placeFor 0 [] l.clustered (l.nextNeeds 0) = none ∧ (crowded.blocks.filter fun e => e.2.stop) = [] ∧
      (match crowded.enough 0 l.clustered (l.nextNeeds 0) (crowded.victims 0 0 1) [] with
        | some gone => gone != [] && crowded.saveRoom 0 0 gone
        | none => false) = true := by decide +kernel
theorem meets_victims : ∃ x ∈ crowded.victims 0 0 1, ∃ u, u ∈ x.blocks := by
  refine ⟨(crowded.victims 0 0 1).headD ⟨0, 0, []⟩, ?_, ((crowded.victims 0 0 1).headD ⟨0, 0, []⟩).blocks.headD 0, ?_⟩ <;> decide +kernel
/-- Block 1 is away. -/
def awayState : State :=
  { district1 [{ launch2 1 .dispatching [1, 1, 1, 1] with lid := 1, prio := 0, cursor := 1 }] with
    blocks := [(1, { lid := 1, resident := false, groups := [placedGroup] })] }
def awaySaved : State := awayState.onBlock 1 fun b => { b with saveOff := some 0, saveLen := 64, saveEqs := [(0, entry1)] }
theorem meets_restores :
    (∀ s ∈ [awayState, awaySaved], (s.block 1).seated = false ∧ (s.block 1).image = false ∧ (s.block 1).held = [] ∧
      (match s.launchOf (s.block 1) with
        | some l => s.mayRestore 0 l && !s.higherFirst 0 l && s.backPlan 0 l (s.block 1) == ([[(1, s.block 1)]], some [0])
        | none => false) = true) ∧ (awayState.block 1).saveOff = none ∧ (awaySaved.block 1).saveOff = some 0 ∧
      (awaySaved.block 1).saveEqs = [(0, entry1)] ∧ 0 < (awaySaved.core 0).eqs.length := by decide +kernel
/-- A district of two VFs: a switch to VF 1 that is under way, and one that is due. -/
def switching : State := awayState.onDistrict 0 fun d => { d with vfcount := 2, switchTo := some (1, false) }
def due : State :=
  { district1 [launch2 1 .dispatching [1, 1, 1, 1], { launch2 1 .queued [] with lid := 3, vf := 1 }] with blocks := crowded.blocks }.onDistrict 0 fun d =>
    { d with vfcount := 2 }
theorem meets_switches :
    (switching.district 0).switchTo = some (1, false) ∧ (switching.district 0).restoring = false ∧
      (∀ e ∈ switching.blocks, e.2.seated = false ∧ e.2.switched = false) ∧ (switching.district 0).curVf = some 0 ∧ (due.blocks.map Prod.fst).Nodup ∧
      (due.district 0).state = 1 ∧ (due.district 0).switchTo = none ∧ (due.district 0).curVf = some 0 ∧ due.nextVf 0 = some 1 ∧
      awayState.nextVf 0 = some 0 := by decide +kernel

/-! Districts, service queues, keys, the control plane, the host ports, resets -/

def mine (s : State) : State := { s with dev := { s.dev with owner := 2 } }
/-- District 3 off: with nothing in it, with the cluster of district 0, and with one of its own and room to save. -/
def bareDistrict (clusters saveva : Nat) : State :=
  mine (base.onDistrict 3 fun x => { x with clusters := BitVec.ofNat 64 clusters, saveva := saveva })
theorem meets_districts :
    (Holds (bareDistrict 0 0) 2 ∧ Holds (bareDistrict 1 0) 2 ∧ Holds (bareDistrict 2 0) 2 ∧ Holds (bareDistrict 2 64) 2 ∧ Holds (mine base) 2) ∧
      (3 : Nat) < 64 ∧ ((bareDistrict 0 0).district 3).state = 0 ∧ ((bareDistrict 0 0).district 3).clusters = 0 ∧
      ((bareDistrict 1 0).district 3).clusters ≠ 0 ∧ (bareDistrict 1 0).overlaps 3 = true ∧ (bareDistrict 2 0).overlaps 3 = false ∧
      ((bareDistrict 2 0).district 3).saveOk = true ∧ (bareDistrict 2 64).overlaps 3 = false ∧ ((bareDistrict 2 64).district 3).saveOk = false := by
  refine ⟨⟨⟨?_, ?_⟩, ⟨?_, ?_⟩, ⟨?_, ?_⟩, ⟨?_, ?_⟩, ⟨?_, ?_⟩⟩, ?_⟩ <;> decide
theorem meets_district_drains :
    ((mine base).district 0).state ≠ 0 ∧ (∃ e ∈ (mine base).blocks, e.2.dist = 0 ∧ e.2.seated = true) ∧ ((mine notHere).district 0).state ≠ 0 ∧
      ∀ e ∈ (mine notHere).blocks, e.2.dist = 0 → e.2.seated = false := by decide
theorem meets_vf_resets :
    Holds (mine base) 2 ∧ (Tbl.getD 0 ((mine base).district 0).vfs {}).busy = false ∧ (Instr.vfReset 2 0 0 true = .vfReset 2 0 0 true) ∧
      (Instr.vfFlr 1 = .vfFlr (64 * 0 + 0 + 1)) ∧ ((mine base).dev.flrscrub == 1) = true ∧ (mine base).dev.bstate = 2 :=
  ⟨⟨rfl, by decide⟩, by decide, rfl, rfl, by decide, by decide⟩
/-- Queue 0 of district 0: off and in order, off and misaligned, and running. -/
def queueState (ring tstate : Nat) : State := mine (base.onSqueue 0 fun x => { x with kind := 1, ring := ring, owner := 0xfff, tstate := tstate })
theorem meets_queue_states :
    ((queueState 64 0).squeue 0).tstate = 0 ∧ (queueState 64 0).queueOk ((queueState 64 0).squeue 0) = true ∧
      (queueState 8 0).queueOk ((queueState 8 0).squeue 0) = false ∧ ((queueState 64 1).squeue 0).tstate ≠ 0 ∧ Holds (queueState 64 0) 2 :=
  ⟨by decide, by decide, by decide, by decide, ⟨by decide, by decide⟩⟩
/-- Queue 0's thread runs inside an instruction. -/
def inside : State := (queueState 64 1).onSqueue 0 fun x => { x with thread := { x.thread with busy := true } }
theorem meets_queue_stops :
    Holds inside 2 ∧ (inside.squeue 0).tstate = 1 ∧ (inside.squeue 0).thread.busy = true ∧ ((queueState 64 1).squeue 0).thread.busy = false :=
  ⟨⟨rfl, by decide⟩, by decide, by decide, by decide⟩
theorem meets_thread_starts : ((queueState 64 0).squeue 0).ring < 2 ^ 64 ∧ ((queueState 64 0).squeue 0).scratch < 2 ^ 64 ∧ (15 : Nat) < 16 ∧ 21 < 22 := by
  decide
theorem meets_notifies :
    let s := queueState 64 3
    s.functionOn 0 = true ∧ s.dev.idereq = 0 ∧ (s.squeue 0).owner = 0xfff ∧ s.portWaits (0 + 1) 0 true = false ∧ (s.squeue 0).kind = 1 ∧
      (2 % 2 ^ 32 + 2 ^ 32 - (s.squeue 0).produced) % 2 ^ 32 ≤ (s.squeue 0).records ∧ (s.squeue 0).tstate = 3 ∧ (s.squeue 0).notify ≠ 2 % 2 ^ 32 := by
  decide
theorem meets_keys :
    let data := (mine base).dev.kdata ++ List.replicate (64 - (mine base).dev.kdata.length) 0
    Holds (mine base) 2 ∧ (mine base).dev.kstat ≠ 1 ∧ (mine base).slotInUse 5 = false ∧ data.take 32 = (data.drop 32).take 32 :=
  ⟨⟨rfl, by decide⟩, by decide, by decide, by decide⟩
theorem meets_key_load : (([1] : List W8) ++ List.replicate (64 - 1) 0).take 32 ≠ ((([1] : List W8) ++ List.replicate (64 - 1) 0).drop 32).take 32 := by
  decide
/-- A device whose firmware is newer than its fuses say. -/
def newer : State := { mine base with dev := { (mine base).dev with svn := Config.fuseSvn + 1 } }
theorem meets_commit : newer.svnMin < newer.dev.svn ∧ (mine base).dev.svn ≤ (mine base).svnMin := by
  constructor <;> simp [State.svnMin, newer, mine, base, State.place, State.onDistrict, State.onCore, State.reset]
def inRecovery : State := { mine base with dev := { (mine base).dev with bstate := 3 } }
theorem meets_boot : Holds inRecovery 2 ∧ inRecovery.dev.bstate = 3 ∧ inRecovery.dev.boot = 0 ∧ inRecovery.imageError inRecovery.dev.recovery ≠ 0 :=
  ⟨⟨rfl, by decide⟩, by decide, by decide, by decide +kernel⟩
theorem meets_reports : base.dev.bstate = 2 ∧ (List.replicate 64 (0 : W8)).length = 64 ∧ base.dev.devnum < 4096 ∧ ∀ k, k < 8 → (base.mr k).length = 64 := by decide
theorem meets_power :
    base.dev.pwrcap < 2601 ∧ 2000 ≤ base.dev.pwrcap ∧ 100 * 2000 < 95 * base.dev.pwrcap ∧ 2500 ≤ base.dev.pwrcap ∧ 95 * base.dev.pwrcap ≤ 100 * 2500 := by
  decide
theorem meets_control_plane :
    Holds (mine base) 2 ∧ Served (mine base) 2 5 none ∧ Holds (heldBy 1) 1 ∧ Served (heldBy 1) 1 7 none ∧ 1000 < 2 ^ 64 ∧ 1 ≤ 1000 % 2 ^ 11 ∧ 1000 % 2 ^ 11 ≤ 1024 ∧ 800 ≤ 1000 % 2 ^ 12 ∧
      10 ≤ 1000 % 2 ^ 32 ∧ ((mine base).district 3).state = 0 ∧ ((mine base).district 3).saveva < 2 ^ 64 ∧ ((mine base).district 3).savelen < 2 ^ 64 ∧
      ((mine base).district 0).state ≠ 0 ∧ ((mine base).home 5).enable = false :=
  ⟨⟨rfl, by decide⟩, .inr ⟨rfl, by decide⟩, ⟨rfl, by decide⟩, .inl ⟨rfl, by decide⟩, by decide⟩
/-- A warm reset under way; and an earlier request of the agent's stream 5. -/
def resetting : State := { base with dev := { base.dev with bstate := 1 } }
def held5 : State := { base with parts := [{ src := .hanos 5 0, kind := .store, va := 0, len := 4 }], nextId := 4 }
theorem meets_control_waits :
    resetting.dev.bstate ≠ 2 ∧ resetting.dev.bstate ≠ 3 ∧ held5.dev.hanosUp = true ∧ held5.dev.bstate = 2 ∧ held5.streamHolds (5 % 64) held5.nextId = true ∧
      (0x18 : Nat) < 2 ^ 25 ∧ 0x18 % 8 = 0 ∧ ∀ w ∈ (mine base).dev.portQ, w.page ≠ 0 := by decide

/-- Function 0 with an aperture on the first GiB of key 0, district 0. -/
def hosted : State :=
  { paged with
    dev := { paged.dev with apertures := [(0, [(0, BitVec.ofNat 128 0xf)])], hdomain := 0 }
    keyLists := [{ domain := 0, vf := 0, dist := 0, entries := [BitVec.ofNat 32 0x1f] }] }
theorem meets_pcie : (∀ len ∈ [1, 4, 64], ∀ right ∈ [1, 2, 3], throughBar hosted 0 0 len right 0 0 0) ∧ hosted.functionOn 2 = false ∧ (7 : Nat) < 8 ∧ 2 ^ 14 - 1 < 2 ^ 14 := by
  refine ⟨?_, by decide⟩
  intro len hl right hr
  simp only [List.mem_cons, List.not_mem_nil, or_false] at hl hr
  rcases hl with rfl | rfl | rfl <;> rcases hr with rfl | rfl | rfl <;>
    exact ⟨by decide, by decide, by decide, by decide, by decide, by decide⟩
theorem meets_hanos :
    hosted.dev.bstate = 2 ∧ hosted.route hosted.dev.hdistrict 8 = some (hosted.dev.devnum, 0) ∧ 8 % 64 + 4 ≤ 64 ∧ 8 % atomSize 0 = 0 ∧
      (∀ need ∈ [rightRD, rightW, rightRD + rightA], hasRights (rightsIn (hosted.keyEntries hosted.dev.hdistrict hosted.dev.hdomain) (keyOf 8)) need = true) ∧
      hasRights (rightsIn (paged.keyEntries paged.dev.hdistrict paged.dev.hdomain) (keyOf 8)) rightRD = false := by decide
def framed : State :=
  { paged with parts := [{ paged.strandPart 1 0 [0] .load 0 4 with id := 3, st := .atHost, port := 15, frame := some (2 ^ 63 + 2 ^ 33, 0, 0) },
      { paged.strandPart 1 0 [1] .load 0 4 with id := 4, st := .atHost, port := 14, frame := some (2 ^ 63 + 2 ^ 33, 0, 0) }] }
theorem meets_host_frames :
    (framed.part 3).map Part.st = some .atHost ∧ (framed.part 3).map Part.port = some 15 ∧ (framed.part 3).map Part.kind = some .load ∧
      (framed.part 3).map Part.frame = some (some (2 ^ 63 + 2 ^ 33, 0, 0)) ∧ (framed.part 3).map Part.len = some 4 ∧
      (framed.part 3).map Part.va = some 0 ∧ (framed.part 4).map Part.st = some .atHost ∧ (framed.part 4).map Part.port = some 14 := by decide
theorem meets_resets :
    (∀ k ∈ [1, 2, 3, 4, 5, 6, 0], ({ dev := { flash := [[], []], boot := k } } : State).dev.boot = k) ∧
    (let t : State := { dev := { flash := [[], []], bstate := 0 } }
     t.imageError [] ≠ 0) ∧ base.dev.bstate = 2 ∧ (base.district 0).state ≠ 0 ∧ (Tbl.find 0 base.districts).isSome = true := by decide +kernel
def quietState : State := { base with districts := [], blocks := [], homes := [(0, { lines := [(5, ⟨3, 9⟩)] })], dev := { base.dev with bstate := 1 } }
theorem meets_warm_end : quietState.dev.bstate = 1 ∧ quietState.quiet = true ∧ Tbl.find 0 quietState.homes = some { lines := [(5, ⟨3, 9⟩)] } := by decide
theorem meets_soft_errors :
    paged.memDistrict 64 = some 0 ∧ 64 / 8 ∉ paged.bad ∧ Tbl.find 1 paged.blocks = some (paged.block 1) ∧ paged.coreDistrict 0 = some 0 := by decide +kernel

/-! Encodings, the step, invariants -/

theorem meets_semaphore_others :
    (heldBy 1).dev.owner ≠ 2 ∧ (heldBy 0).dev.owner ≠ 3 - 2 ∧
      (heldBy 1).time < Tbl.getD (3 - 2) (heldBy 1).dev.lastWrite 0 + 1000 * (heldBy 1).dev.breakms * usUnits ∧ (heldBy 1).dev.owner < 3 ∧
      (heldBy 0).dev.owner = 0 ∧ (∀ s ∈ [heldBy 0, heldBy 1], s.ownerEvent 1 = none ∧ s.ownerEvent 2 = none) := by
  decide
theorem meets_semaphore_writes : Served (heldBy 0) 1 7 none ∧ Served (heldBy 0) 2 5 none := ⟨.inl ⟨rfl, by decide⟩, .inr ⟨rfl, by decide⟩⟩
theorem meets_halts :
    port.focus.kind = .thread 0 ∧ port.runs (.halt 0) = true ∧ ((queueState 64 3).squeue 0).tstate = 3 ∧ ((queueState 64 3).squeue 0).notify ≠ 1 ∧
      ((queueState 64 3).squeue 0).notify = 0 := by decide
theorem meets_round_trip :
    ∀ i ∈ [Instr.iadd (.v 1) (.v 2) (.v 3) 3, .iadd (.v 63) .one (.lit 7) 7, .exit 1, .cpy (.w 2) (.w 4) (.w 6) .zero .zero 2 0x12 0],
      encoded i = true ∧ wellFormed i = true := by decide
theorem meets_transfers : isTransfer (.exit 1) = true ∧ isTransfer (.iadd (.v 1) (.v 2) (.v 3) 3) = false := by decide
theorem meets_words_are_unique : decode 0 [0x0102081b#32] = .ok (.iadd (.v 1) (.v 2) (.v 3) 3, 1) := by rfl
def someHeader : Header :=
  { cue := 255, dual := true, yieldAfter := true, join := true, wt := 7, wc := 0, ws := 7, wl := 0, cls := 3, n := 15 }
theorem meets_headers :
    someHeader.cue < 256 ∧ someHeader.wt < 8 ∧ someHeader.wc < 8 ∧ someHeader.ws < 8 ∧ someHeader.wl < 8 ∧ someHeader.cls < 8 ∧ 0 < someHeader.n ∧
      someHeader.n < 16 ∧ (someHeader.dual = true → someHeader.cls = 0 ∨ someHeader.cls = 2 ∨ someHeader.cls = 3) ∧
      (decodeHeader 0x00ed7001).isSome = true := by decide
/-- The word of iadd v1, v2, v3 under p3, placed after reset. -/
def placed : State := State.reset.place 0 [0x0102081b]
theorem meets_step_decoded :
    placed.plan = [.group 1 0 0 64] ∧ 0 ≤ placed.cycle ∧ (∀ e ∈ placed.blocks, ∀ y ∈ e.2.groups, y.pendWb = [] ∧ y.maskProg = none) ∧
      (∀ q ∈ queuesAt (.iadd (.v 1) (.v 2) (.v 3) 3), placed.hasServed 1 q = false) ∧ Tbl.find 1 placed.blocks = some (placed.block 1) ∧ (placed.block 1).groups[0]? = some (placed.grp 1 0) ∧
      (placed.block 1).resident = true ∧ (placed.block 1).stop = false ∧ (placed.grp 1 0).life = .live ∧ (placed.grp 1 0).busy = .none ∧
      (placed.grp 1 0).maskProg = none ∧ (placed.grp 1 0).handler = none ∧
      placed.eligible 1 0 = [0, 1, 2, 3, 4, 5, 6, 7] ∧
      (∀ k ∈ [0, 1, 2, 3, 4, 5, 6, 7], ((placed.grp 1 0).strand k).pc = 4 ∧ ((placed.grp 1 0).strand k).hdr = 0 ∧ ((placed.grp 1 0).strand k).idx = 1 ∧
        ((placed.grp 1 0).strand k).wait = .none) := by decide
theorem meets_step_code :
    (match (placed.core 0).codeWord 0 with
      | some hw => (decodeHeader hw).map fun h => (h.dual, h.n, h.cls)
      | none => none) = some (false, 1, 0) ∧ (placed.core 0).codeWord (4 + 4 * 0) = some 0x0102081b ∧
      ready (.iadd (.v 1) (.v 2) (.v 3) 3)
        { placed with plan := [], focus := { kind := .path 1 0 [0, 1, 2, 3, 4, 5, 6, 7], pc := 4, hdr := 0, idx := 1, n := 1, len := 1 } } = true ∧
      ((placed.grp 1 0).layout (placed.block 1).uniQ 64 (.iadd (.v 1) (.v 2) (.v 3) 3) [0, 1, 2, 3, 4, 5, 6, 7] none).low ≠ [] := by
  decide +kernel
theorem meets_step_events : State.reset.plan = [] ∧ State.reset.agenda = [] := by exact ⟨rfl, rfl⟩
theorem meets_memory_invariant : paged.Inv ∧ State.reset.Inv := by
  refine ⟨?_, ?_⟩ <;> (unfold State.Inv; decide +kernel)
theorem meets_encoded : encoded (.st 0 (.v 8) (.v 4) (.v 6) 0 0 4) = true := by decide
/-- A step runs the instruction that is placed, and the decoder reads it. -/
theorem test_placed :
    decodeTableWord 32 0x0102081b = some (.iadd (.v 1) (.v 2) (.v 3) 3) ∧
      (match step (State.reset.withFetchWord 32 0x0102081b) with
        | .next t => some (((t.grp 1 0).strand 0).pc)
        | _ => none) = some 8 := by
  refine ⟨by rfl, by decide +kernel⟩

/-! Witnesses of further clauses -/

theorem meets_handler_access :
    ∀ i ∈ [Instr.xget (.w 1) (.v 2) .one, .xput (.v 2) (.w 1) .one],
      decodeTrap i handlerHere = none ∧ (handlerHere.grp 1 0).holdsBack i = false ∧
        laneVal (handlerHere.grp 1 0) .n32 .one none 0 < (handlerHere.grp 1 0).width := by decide
/-- R251: XGET brings the named strand's word of the register, XPUT writes it, and the handler stands behind the instruction. -/
theorem test_xget :
    (match exec (.xget (.w 1) (.v 2) .one) (handlerHere.onGrp 1 0 fun x => x.setV 2 1 77) with
      | .next t => some ((t.grp 1 0).pendWb.map WriteBack.wWrites, (t.grp 1 0).handler)
      | _ => none) = some ([[(1, 77)]], some ⟨8, 0, 2⟩) := by decide +kernel
theorem test_xput :
    (match exec (.xput (.v 2) (.w 1) .one) (withW handlerHere [(1, 99)]) with
      | .next t => some ((t.grp 1 0).pendWb.map WriteBack.vWrites)
      | _ => none) = some [[(2, [(1, 99)])]] := by decide +kernel
/-- RETT to an address that is no multiple of 4, with strand 0 to return. -/
def oddReturn : State := handlerLast.onGrp 1 0 fun x => { x with trapa := 0x42 }
theorem meets_handler_returns :
    handlerLast.runs .rett = true ∧ (handlerLast.grp 1 0).trapa = (handlerLast.grp 1 0).trapaEntry ∧ oddReturn.runs .rett = true ∧
      (oddReturn.grp 1 0).trapa ≠ (oddReturn.grp 1 0).trapaEntry ∧ (oddReturn.grp 1 0).trapa.toNat % 4 ≠ 0 ∧
      0 ∈ strandsOf (oddReturn.grp 1 0).trapm.toNat (oddReturn.grp 1 0).width ∧ ((oddReturn.grp 1 0).strand 0).st = .active := by decide

def scrOp : ScrOp := { blk := 1, grp := 0, ks := [0], cyc := 0, off := 0, size := 4, act := 0, dest := .v 3, bits := 32 }
theorem meets_scratchpad_turns :
    Tbl.find 1 mem.blocks = some (mem.block 1) ∧ (mem.block 1).groups[0]? = some (mem.grp 1 0) ∧ (∀ e ∈ [(scrOp, [1, 2, 3, 4])], e.1.blk = 1 ∧ e.1.grp = 0) ∧
      (([scrOp].map ScrOp.cyc).Pairwise (· ≤ ·)) := by decide

def wokenState : State := mem.onGrp 1 0 fun x => x.onStrands [0, 1] fun t => { t with wait := .woken 5 }
theorem meets_woken : wokenState.runs (.sleep 0) = true ∧ wokenState.pathWait = .woken 5 := by decide
def waitingAt (w : Wait) : State := barred.onGrp 1 0 fun x => x.onStrands [0, 1] fun t => { t with wait := w }
theorem meets_bwait :
    (∀ w ∈ [Wait.bdone 5, .bwait 0 true, .none], (waitingAt w).runs (.bwait (.w 8) (.w 9) 0) = true ∧ (waitingAt w).pathWait = w ∧
      (waitingAt w).runs (.bwait (.w 8) (.w 10) 0) = (w != .bwait 0 true || true)) ∧
      (barred.barrier 1 0).phase = false ∧ ((barred.grp 1 0).uniOpd (.w 9)).getLsbD 0 = true ∧ ((barred.grp 1 0).uniOpd (.w 10)).getLsbD 0 = false := by decide

/-- An entry of the group that still runs, so that DRAIN has something to wait for, and a path that waits at one. -/
def draining : State := { engineState { entry2 with dst := 0 } with nextId := 20 }
def drained : State := armed.onGrp 1 0 fun x => x.onStrands [0, 1] fun t => { t with wait := .drain [9] 2 }
theorem meets_drains :
    draining.runs (.drainMem 0) = true ∧ draining.pathWait = .none ∧ ((draining.core 0).eqs.flatten.map Entry.id) = [9] ∧
      (draining.onGrp 1 0 fun x => x.raise [0, 1] 0).drainHolds [9] (.drainMem 0) = true ∧
      drained.runs (.drainMem 0) = true ∧ drained.pathWait = .drain [9] 2 := by decide
theorem meets_finish_saw :
    (((engineState entry3).sawEntry { entry3 with posted := true }).sawWork 0 0 9 entry3.clk).targetsHere entry3 = true := by decide
def imageHeld : State := image.onGrp 1 0 fun x => { x with imageRec := imageRecord }
theorem meets_images_held :
    imageHeld.writeParts (.sys 1 0) = [] ∧ (∀ w ∈ [true, false], (imageHeld.core 0).tileBusy 1 0 imageHeld.nextId w = false) ∧
      imageHeld.tileOk 1 0 = true ∧ (imageHeld.block 1).softAcc = [] := by decide

theorem meets_keepers :
    keeperOf (onPage .load 0 []) { paged.strandPart 1 0 [0] .load 0 4 with id := 3 } = some 0 ∧ (onPage .load 0 []).l2Find 0 0 = none := by decide
theorem meets_comes_back : Tbl.find 1 awaySaved.blocks = some (awaySaved.block 1) ∧ (awaySaved.block 1).held = [] := by decide
theorem meets_control_reads :
    ((mine base).district 5).lease < 2 ^ 64 ∧ (mine base).dev.owner < 4 ∧ (mine base).dev.breaks < 16 ∧ (mine base).dev.devnum < 2 ^ 12 ∧
      (0x50004f : Nat) < 0x500050 ∧ (0x58007f : Nat) < 0x580080 := by decide
/-- R449: BREAKMS of the reset state, read as a word and by its second byte. -/
theorem test_control_read : State.reset.readControl 0x18 4 = 1000 ∧ State.reset.readControl 0x19 1 = 3 := by decide +kernel

end Sys2Proof.Tests
end

section
/-! SUPPORT. Laws of tables (what an entry reads after a write and after a change of every entry), of a district after its update, and of
folds that keep a part of the state. -/

namespace Sys2Proof

@[simp] theorem Tbl.find_put_same {α : Type} (k : Nat) (a : α) (t : Tbl α) : Tbl.find k (Tbl.put k a t) = some a := by
  induction t with
  | nil => simp [Tbl.put, Tbl.find]
  | cons e r ih =>
    unfold Tbl.put
    split_ifs <;> simp [Tbl.find, *]

theorem Tbl.find_put_of_ne {α : Type} {j k : Nat} (h : j ≠ k) (a : α) (t : Tbl α) :
    Tbl.find j (Tbl.put k a t) = Tbl.find j t := by
  induction t with
  | nil => simp [Tbl.put, Tbl.find, h.symm]
  | cons e r ih =>
    unfold Tbl.put
    split_ifs with _ heq
    · simp [Tbl.find, h.symm]
    · simp [Tbl.find, heq, h.symm]
    · simp [Tbl.find, ih]

@[simp] theorem Tbl.getD_put_same {α : Type} (k : Nat) (a : α) (t : Tbl α) (x : α) : Tbl.getD k (Tbl.put k a t) x = a := by
  simp [Tbl.getD]

theorem Tbl.getD_put_of_ne {α : Type} {j k : Nat} (h : j ≠ k) (a : α) (t : Tbl α) (x : α) :
    Tbl.getD j (Tbl.put k a t) x = Tbl.getD j t x := by
  simp [Tbl.getD, Tbl.find_put_of_ne h]

theorem Tbl.getD_of_find {α : Type} {k : Nat} {t : Tbl α} {a : α} (h : Tbl.find k t = some a) (x : α) : Tbl.getD k t x = a := by
  simp [Tbl.getD, h]

/-- A map that keeps the keys acts on each entry that is found. -/
theorem Tbl.find_map {α : Type} {f : Nat × α → Nat × α} (hf : ∀ e, (f e).1 = e.1) {k : Nat} {t : Tbl α} {a : α}
    (h : Tbl.find k t = some a) : Tbl.find k (t.map f) = some (f (k, a)).2 := by
  induction t with
  | nil => simp [Tbl.find] at h
  | cons e r ih =>
    obtain ⟨j, b⟩ := e
    simp only [List.map_cons, Tbl.find, hf] at h ⊢
    split_ifs at h ⊢ with hj
    · cases h; rw [hj]
    · exact ih h

namespace Machine

@[simp] theorem State.district_onDistrict (s : State) (d : Nat) (f : District → District) :
    (s.onDistrict d f).district d = f (s.district d) := by
  simp [State.district, State.onDistrict]

/-- What no step of a fold changes, the fold does not change. -/
theorem foldl_keeps {α β σ : Type} {f : σ → α → σ} (view : σ → β) (h : ∀ s a, view (f s a) = view s) (l : List α) (s : σ) :
    view (l.foldl f s) = view s := by
  induction l generalizing s with
  | nil => rfl
  | cons a r ih => exact (ih _).trans (h s a)

end Machine
end Sys2Proof
end

section
/-! PROOFS of the clocks and counters (R128, R379, R459, R476, R479, R480). -/

namespace Sys2Proof.Machine

/-! STRAND_CLOCK_TICK, DISPATCH_CLOCK_TICK, PORT_CLOCK_TICK -/

/-- One tick of a strand that is not exited (R379). -/
def tickStrand (t : Strand) : Strand := if t.isExited then t else { t with tick := tick64 (t.tick + 1) }

/-- The tick of every strand of a resident block, by its entry in the table. -/
def tickBlock (e : Nat × Block) : Nat × Block :=
  if e.2.resident then (e.1, { e.2 with groups := e.2.groups.map fun x => { x with strands := x.strands.map tickStrand } }) else e

/-- The tick of a thread that runs or waits. -/
def tickQueue (e : Nat × SQueue) : Nat × SQueue :=
  if e.2.tstate = 1 ∨ e.2.tstate = 2 then (e.1, { e.2 with thread := { e.2.thread with tick := tick64 (e.2.thread.tick + 1) } }) else e

theorem exec_strandClockTick (s : State) :
    exec .strandClockTick s = .next { s with blocks := s.blocks.map tickBlock, squeues := s.squeues.map tickQueue } := rfl

@[simp] theorem tickBlock_fst (e : Nat × Block) : (tickBlock e).1 = e.1 := by
  unfold tickBlock; split <;> rfl

@[simp] theorem tickQueue_fst (e : Nat × SQueue) : (tickQueue e).1 = e.1 := by
  unfold tickQueue; split <;> rfl

theorem tickQueue_snd (q : Nat) (x : SQueue) : (tickQueue (q, x)).2 =
    if x.tstate = 1 ∨ x.tstate = 2 then { x with thread := { x.thread with tick := tick64 (x.thread.tick + 1) } } else x := by
  unfold tickQueue; split <;> rfl

theorem tickBlock_of_away {u : Nat} {b : Block} (h : b.resident = false) : tickBlock (u, b) = (u, b) := by
  simp [tickBlock, h]

theorem tickBlock_group {u g : Nat} {b : Block} (h : b.resident = true) (hg : g < b.groups.length) :
    (tickBlock (u, b)).2.group g = { b.group g with strands := (b.group g).strands.map tickStrand } := by
  simp [tickBlock, h, Block.group, hg]

theorem strandTicks : Claims.StrandTicks := by
  intro s
  have found {u : Nat} {b : Block} (hb : Tbl.find u s.blocks = some b) := Tbl.find_map tickBlock_fst hb
  refine ⟨_, exec_strandClockTick s, rfl, ?away, ?strands, ?threads⟩
  case away =>
    intro u b hb hres
    rw [found hb, tickBlock_of_away hres]
  case strands =>
    intro u b g k hb hres hg hk
    simp only [State.grp, State.block, Tbl.getD_of_find (found hb), tickBlock_group hres hg]
    have hk' : k < (b.group g).strands.length := hk
    simp [Group.strand, hk', tickStrand, Claims.wide64, tick64]
  case threads =>
    intro q x hx
    rw [Tbl.find_map tickQueue_fst hx, tickQueue_snd]
    rfl

theorem getD_tickAll (n k : Nat) (t : Tbl Nat) :
    Tbl.getD k (tickAll n t) 0 = if k < n then tick64 (Tbl.getD k t 0 + 1) else Tbl.getD k t 0 := by
  induction n with
  | zero => rfl
  | succ n ih =>
    have hstep : tickAll (n + 1) t = Tbl.put n (tick64 (Tbl.getD n (tickAll n t) 0 + 1)) (tickAll n t) := by
      simp [tickAll, List.range_succ]
    by_cases hk : k = n
    · subst hk; simp [hstep, ih]
    · simp only [hstep, Tbl.getD_put_of_ne hk, ih]
      simp [show k < n + 1 ↔ k < n by omega]

theorem exec_portClockTick (s : State) : exec .portClockTick s = .next { s with
    dev := { s.dev with tcClocks := tickAll 8 s.dev.tcClocks, streamClocks := tickAll 64 s.dev.streamClocks } } := rfl

theorem exec_dispatchClockTick {s : State} {d : Nat} (hon : (s.district d).state ≠ 0) :
    exec (.dispatchClockTick d) s = .next (s.onDistrict d fun x => { x with clock := tick64 (x.clock + 1) }) :=
  congrArg Host.Outcome.next (if_neg hon)

theorem otherTicks : Claims.OtherTicks := by
  refine ⟨fun s d hon => exec_dispatchClockTick hon,
    fun s => ⟨_, exec_portClockTick s, ?frame, fun k hk => ?tc, fun k hk => ?stream⟩⟩
  case frame => dsimp only
  case tc => simp [getD_tickAll, hk, Claims.wide64, tick64]
  case stream => simp [getD_tickAll, hk, Claims.wide64, tick64]

/-! COUNTER_UPDATE -/

/-- What COUNTER_UPDATE says of a state: the events that wait in a district, its live counters, and the blocks and cores. -/
def State.counterView (d : Nat) (s : State) : List (Nat × Nat × Nat) × List Counter × Tbl Block × Tbl CoreSt :=
  ((s.district d).events, (s.district d).live, s.blocks, s.cores)

@[simp] theorem State.interrupt_counterView (s : State) (d f v : Nat) : (s.interrupt f v).counterView d = s.counterView d := by
  simp only [State.interrupt]
  split <;> rfl

@[simp] theorem State.postNotice_counterView (s : State) (d : Nat) (n : Notice) : (s.postNotice n).counterView d = s.counterView d := by
  simp only [State.postNotice]
  split <;> rfl

/-- A change of a district's monitor block is none of its live counters. -/
theorem State.onDistrict_mon_counterView (s : State) (d : Nat) (f : Tbl Counter → Tbl Counter) :
    (s.onDistrict d fun x => { x with mon := f x.mon }).counterView d = s.counterView d := by
  simp [State.counterView]

/-- The live counters of the current VF take the events of a list; the interrupts and the monitor counters leave them. -/
theorem State.addList_counterView {s : State} {d v : Nat} (h : (s.district d).curVf = some v) (l rest : List (Nat × Nat × Nat)) :
    (s.addList d l rest).counterView d =
      (rest, (s.district d).live.map fun c => (c.add (vfSum l (vfNum d v) c.cfg)).1, s.blocks, s.cores) := by
  unfold State.addList
  simp only [h]
  refine (foldl_keeps (State.counterView d) (fun t i => ?monitor) _ _).trans
    ((foldl_keeps (State.counterView d) (fun t r => ?interrupts) _ _).trans ?live)
  case monitor =>
    split
    · rfl
    · split <;> simp [State.onDistrict_mon_counterView]
  case interrupts => split <;> simp
  case live => simp [State.counterView]

/-- No VF counter counts the fabric codes and the reserved ones: 0 and all from 0x12. -/
theorem uncounted_iff (n : Nat) : (classF n || eventReserved n) = true ↔ n = 0 ∨ 0x12 ≤ n := by
  simp only [classF, eventReserved, Bool.or_eq_true, Bool.and_eq_true, decide_eq_true_eq]
  omega

theorem vfSum_eq_gain (l : List (Nat × Nat × Nat)) (vf : Nat) (c : W32) : vfSum l vf c = Claims.gain l vf c := by
  have fold (n a : Nat) : l.foldl (fun a e => if e.1 = vf ∧ e.2.1 = n then a + e.2.2 else a) a =
      a + ((l.filter fun e => e.1 == vf && e.2.1 == n).map fun e => e.2.2).sum := by
    induction l generalizing a with
    | nil => rfl
    | cons e r ih => by_cases he : e.1 = vf ∧ e.2.1 = n <;> simp [ih, he, Nat.add_assoc]
  have code : cfgEvent c = c.toNat % 256 := rfl
  have on : cfgOn c = c.getLsbD 15 := rfl
  simp only [vfSum, Claims.gain, fold, code, on, Nat.zero_add, Bool.or_assoc, Bool.or_eq_true (!_), uncounted_iff,
    Bool.not_eq_true']

theorem counterUpdates : Claims.CounterUpdates := by
  intro s d v h
  have view := State.addList_counterView h (s.district d).events []
  simp only [State.counterView, Prod.mk.injEq] at view
  obtain ⟨events, live, blocks, cores⟩ := view
  refine ⟨s.addEvents d, rfl, events, live.trans ?_, State.addEvents_mem s d, blocks, cores⟩
  simp [Counter.add, vfSum_eq_gain]

/-- Settles O42: an entry that is found is found again, ticked; a port clock is put once by a tick; and the live counters are left as
they are by the interrupts and the district's monitor, which come after them. -/
theorem clocks : Obligations.Clocks := ⟨strandTicks, otherTicks, counterUpdates⟩

end Sys2Proof.Machine
end

section
/-! PROOFS of the control plane (R447 to R449, R461, R472, R473, R485): a served write of a whole word goes to the rule of its block, and a
read finds the word of its block. -/

namespace Sys2Proof

theorem bits_from_zero (x hi : Nat) : bits x hi 0 = x % 2 ^ (hi + 1) := by simp [bits]

/-- A field below bit 64 sees nothing of what stands above it. -/
theorem bits_add_mul_two_pow {hi lo : Nat} (hlo : lo ≤ hi) (hhi : hi < 64) (x q : Nat) : bits (x + q * 2 ^ 64) hi lo = bits x hi lo := by
  have powers : 2 ^ 64 = 2 ^ lo * (2 ^ (hi + 1 - lo) * 2 ^ (63 - hi)) := by
    simp only [← Nat.pow_add]
    congr 1
    omega
  have regroup : q * 2 ^ 64 = 2 ^ lo * (2 ^ (hi + 1 - lo) * (2 ^ (63 - hi) * q)) := by rw [powers]; ring
  simp only [bits, Nat.shiftRight_eq_div_pow]
  rw [regroup, Nat.add_mul_div_left _ _ (Nat.two_pow_pos lo), Nat.add_mul_mod_self_left]

namespace Machine

/-! Words of the control plane that are written whole -/

/-- A write of all eight bytes of a word leaves none of its old 64 bits. -/
theorem WordWrite.onto_whole {v : Nat} (hv : v < 2 ^ 64) (old : Nat) :
    WordWrite.onto ⟨0, 8, v⟩ old = v + old / 2 ^ 64 * 2 ^ 64 := by
  simp only [WordWrite.onto]
  omega

theorem WordWrite.onto_whole_of_lt {v old : Nat} (hv : v < 2 ^ 64) (ho : old < 2 ^ 64) : WordWrite.onto ⟨0, 8, v⟩ old = v := by
  rw [WordWrite.onto_whole hv, Nat.div_eq_of_lt ho, Nat.zero_mul, Nat.add_zero]

/-- A field of a word that is written whole is that field of what is written. -/
theorem WordWrite.bits_onto_whole {v hi lo : Nat} (hv : v < 2 ^ 64) (hlo : lo ≤ hi) (hhi : hi < 64) (old : Nat) :
    bits (WordWrite.onto ⟨0, 8, v⟩ old) hi lo = bits v hi lo := by
  rw [WordWrite.onto_whole hv, bits_add_mul_two_pow hlo hhi]

theorem WordWrite.low_bits_onto_whole {v hi n : Nat} (hv : v < 2 ^ 64) (hn : hi + 1 = n) (h64 : n ≤ 64) (old : Nat) :
    bits (WordWrite.onto ⟨0, 8, v⟩ old) hi 0 = v % 2 ^ n := by
  rw [WordWrite.bits_onto_whole hv (Nat.zero_le hi) (by omega), bits_from_zero, hn]

/-- A bit vector of at most 64 bits, taken from a word that is written whole, is that of what is written. -/
theorem WordWrite.ofNat_onto_whole {v n : Nat} (hv : v < 2 ^ 64) (hn : n ≤ 64) (old : Nat) :
    BitVec.ofNat n (WordWrite.onto ⟨0, 8, v⟩ old) = BitVec.ofNat n v := by
  have above : (2 ^ 64 : Nat) = 2 ^ n * 2 ^ (64 - n) := by rw [← Nat.pow_add]; congr 1; omega
  apply BitVec.eq_of_toNat_eq
  simp only [BitVec.toNat_ofNat]
  have regroup (q : Nat) : q * 2 ^ 64 = 2 ^ n * (2 ^ (64 - n) * q) := by rw [above]; ring
  rw [WordWrite.onto_whole hv, regroup, Nat.add_mul_mod_self_left]

/-! A served write of a whole word, by a holder of the semaphore -/

theorem State.gated_of_holds {s : State} {m : Nat} (h : Claims.Holds s m) (f : State → State) :
    s.gated m f = f (Claims.masterWrote s m) := by
  obtain ⟨howner, hstate⟩ := h
  exact if_pos (by simp [State.holds, howner, hstate])

theorem serves_of_served {s : State} {m tc : Nat} {ide : Option Nat} (h : Claims.Served s m tc ide) : s.serves m ide = true := by
  rcases h with ⟨rfl, hb, hide, -⟩ | ⟨rfl, hup, hb, -⟩
  · simpa [State.serves, hide] using hb
  · simpa [State.serves, hup] using hb

theorem controlWaits_of_served {s : State} {m tc : Nat} {ide : Option Nat} (h : Claims.Served s m tc ide) :
    s.controlWaits m tc false = false := by
  rcases h with ⟨rfl, -, -, hport⟩ | ⟨rfl, -, -, hstream, hqueue⟩
  · simpa [State.controlWaits] using hport
  · have free : ∀ w ∈ s.dev.portQ, w.page ≠ streamPage tc := fun w hw => by
      have := hqueue w hw
      simp only [streamPage]
      omega
    simpa [State.controlWaits, hstream] using free

/-- An aligned write of a whole word of the map is dropped, waits, or takes effect. -/
theorem exec_controlPlaneWrite_whole (s : State) (m v tc : Nat) (ide : Option Nat) {off : Nat} (hoff : off % 8 = 0) (hmap : off < 2 ^ 25) :
    exec (.controlPlaneWrite m off 8 v tc ide) s = .next (
      let isNotify := decide (0x400000 ≤ off ∧ off < 0x401000 ∧ off / 8 * 8 % 64 = 0x20)
      if !s.serves m ide then (if m = 1 ∨ (m = 2 ∧ s.dev.hanosUp) then s.hostDrop else s)
      else if s.controlWaits m tc isNotify then
        if m = 1 then s.putPort 0 tc isNotify off 8 v
        else { s with dev := { s.dev with portQ := s.dev.portQ ++
          [{ page := streamPage tc, tc := tc % 64, bound := s.nextId, off := off, size := 8, value := v }] } }
      else s.applyControl m off 8 v) :=
  congrArg Host.Outcome.next (if_neg (by simpa [hoff] using hmap))

theorem exec_controlPlaneWrite_of_served {s : State} {m tc off v : Nat} {ide : Option Nat} (h : Claims.Served s m tc ide)
    (hoff : off % 8 = 0) (hmap : off < 2 ^ 25) (hq : off < 0x400000 ∨ 0x401000 ≤ off) :
    exec (.controlPlaneWrite m off 8 v tc ide) s = .next (s.applyControl m off 8 v) := by
  have notNotify : ¬ (0x400000 ≤ off ∧ off < 0x401000 ∧ off / 8 * 8 % 64 = 0x20) := by omega
  simp [exec_controlPlaneWrite_whole s m v tc ide hoff hmap, serves_of_served h, controlWaits_of_served h, notNotify]

/-- A gated field below the service queues is written by the rule of its block. -/
theorem State.applyControl_of_holds {s : State} {m off v : Nat} {f : State → State} (h : Claims.Holds s m) (hoff : off % 8 = 0)
    (hown : off ≠ 0x10) (hq : off < 0x400000) (hblock : State.gatedBlock off ⟨0, 8, v⟩ = some f)
    (hfield : gatedField off ⟨0, 8, v⟩ = true) : s.applyControl m off 8 v = f (Claims.masterWrote s m) := by
  have hw : off / 8 * 8 = off := by omega
  have notWindow : ¬ 0x1000000 ≤ off := by omega
  have notQueue : ¬ 0x400000 ≤ off := by omega
  simp [State.applyControl, hw, hoff, hown, notWindow, notQueue, hblock, hfield, State.gated_of_holds h]

theorem gatedBlock_device {w : Nat} (x : WordWrite) (hw : w < 0x1000) (h8 : w % 8 = 0) :
    State.gatedBlock w x = some fun s => s.writeDevice w x := by
  have ha : w / 8 * 8 = w := by omega
  simp [State.gatedBlock, ha, hw]

theorem gatedBlock_district {d w : Nat} (x : WordWrite) (hd : d < 64) (hw : w < 1024) (h8 : w % 8 = 0) :
    State.gatedBlock (0x100000 + 1024 * d + w) x = some fun s => s.writeDistrict d w x := by
  have ha : (0x100000 + 1024 * d + w) / 8 * 8 = 0x100000 + 1024 * d + w := by omega
  have hn : (0x100000 + 1024 * d + w - 0x100000) / 1024 = d := by omega
  have ho : (0x100000 + 1024 * d + w) % 1024 = w := by omega
  simp only [State.gatedBlock, ha, hn, ho]
  rw [if_neg (by omega), if_pos (by omega)]

theorem gatedBlock_home {h w : Nat} (x : WordWrite) (hh : h < 28) (hw : w < 256) (h8 : w % 8 = 0) :
    State.gatedBlock (0x200000 + 256 * h + w) x = some fun s => s.writeHome h w x := by
  have ha : (0x200000 + 256 * h + w) / 8 * 8 = 0x200000 + 256 * h + w := by omega
  have hn : (0x200000 + 256 * h + w - 0x200000) / 256 = h := by omega
  have ho : (0x200000 + 256 * h + w) % 256 = w := by omega
  simp only [State.gatedBlock, ha, hn, ho]
  rw [if_neg (by omega), if_neg (by omega), if_pos (by omega)]

section Write
variable {s : State} {m tc v : Nat} {ide : Option Nat} (hh : Claims.Holds s m) (hs : Claims.Served s m tc ide)
include hh hs

theorem exec_controlPlaneWrite_gated {off : Nat} {f : State → State} (hoff : off % 8 = 0)
    (hown : off ≠ 0x10) (hq : off < 0x400000) (hblock : State.gatedBlock off ⟨0, 8, v⟩ = some f)
    (hfield : gatedField off ⟨0, 8, v⟩ = true) :
    exec (.controlPlaneWrite m off 8 v tc ide) s = .next (f (Claims.masterWrote s m)) := by
  rw [exec_controlPlaneWrite_of_served hs hoff (by omega) (.inl hq), State.applyControl_of_holds hh hoff hown hq hblock hfield]

theorem exec_controlPlaneWrite_district {d w : Nat} (hd : d < 64) (hw : w < 1024) (h8 : w % 8 = 0) :
    exec (.controlPlaneWrite m (0x100000 + 1024 * d + w) 8 v tc ide) s = .next ((Claims.masterWrote s m).writeDistrict d w ⟨0, 8, v⟩) :=
  exec_controlPlaneWrite_gated hh hs (by omega) (by omega) (by omega) (gatedBlock_district _ hd hw h8) (if_neg (by omega))

theorem exec_controlPlaneWrite_home {h w : Nat} (hlt : h < 28) (hw : w < 256) (h8 : w % 8 = 0) :
    exec (.controlPlaneWrite m (0x200000 + 256 * h + w) 8 v tc ide) s = .next ((Claims.masterWrote s m).writeHome h w ⟨0, 8, v⟩) :=
  exec_controlPlaneWrite_gated hh hs (by omega) (by omega) (by omega) (gatedBlock_home _ hlt hw h8) (if_neg (by omega))

/-- BREAKMS (0x18) and PWRCAP (0x30) among others. -/
theorem exec_controlPlaneWrite_device {w : Nat} (hw : w < 0x1000) (h8 : w % 8 = 0) (hg : 0 < gatedBytes w) :
    exec (.controlPlaneWrite m w 8 v tc ide) s = .next ((Claims.masterWrote s m).writeDevice w ⟨0, 8, v⟩) :=
  exec_controlPlaneWrite_gated hh hs h8 (fun e => by simp [e, gatedBytes] at hg) (by omega) (gatedBlock_device _ hw h8)
    (by simpa [gatedField, hw] using hg)

end Write

/-! What the rule of each block does with a whole word -/

section Blocks
variable {v : Nat} (hv : v < 2 ^ 64)
include hv

theorem State.writeDistrict_policy (s : State) (d : Nat) :
    s.writeDistrict d 0x18 ⟨0, 8, v⟩ = s.onDistrict d fun x => { x with policy := BitVec.ofNat 3 v } := by
  simp [State.writeDistrict, WordWrite.ofNat_onto_whole hv]

theorem State.writeDistrict_lease (s : State) (d : Nat) (h1 : 1 ≤ v % 2 ^ 11) (h2 : v % 2 ^ 11 ≤ 1024) :
    s.writeDistrict d 0x20 ⟨0, 8, v⟩ = s.onDistrict d fun x => { x with lease := v % 2 ^ 11 } := by
  simp only [State.writeDistrict, WordWrite.low_bits_onto_whole hv (n := 11) rfl (by decide)]
  generalize v % 2 ^ 11 = n at *
  simp [h1, h2]

theorem State.writeDistrict_clusters {s : State} {d : Nat} (hoff : (s.district d).state = 0) :
    s.writeDistrict d 0 ⟨0, 8, v⟩ = s.onDistrict d fun x => { x with clusters := BitVec.ofNat 64 v } := by
  simp [State.writeDistrict, hoff, WordWrite.ofNat_onto_whole hv]

theorem State.writeDistrict_saveva {s : State} {d : Nat} (hoff : (s.district d).state = 0) (h64 : (s.district d).saveva < 2 ^ 64) :
    s.writeDistrict d 0x28 ⟨0, 8, v⟩ = s.onDistrict d fun x => { x with saveva := v } := by
  simp [State.writeDistrict, hoff, District.word, WordWrite.onto_whole_of_lt hv h64]

theorem State.writeDistrict_savelen {s : State} {d : Nat} (hoff : (s.district d).state = 0) (h64 : (s.district d).savelen < 2 ^ 64) :
    s.writeDistrict d 0x30 ⟨0, 8, v⟩ = s.onDistrict d fun x => { x with savelen := v } := by
  simp [State.writeDistrict, hoff, District.word, WordWrite.onto_whole_of_lt hv h64]

theorem State.writeHome_enable (s : State) (h : Nat) :
    s.writeHome h 0x18 ⟨0, 8, v⟩ = s.onHome h fun x => { x with enable := v % 2 == 1 } := by
  have low : bitOf (WordWrite.field ⟨0, 8, v⟩ 63 0) 0 = (v % 2 == 1) := by
    rw [WordWrite.field, WordWrite.low_bits_onto_whole hv (n := 64) rfl (by decide), Nat.mod_eq_of_lt hv, bitOf, Nat.testBit_zero]
    rfl
  simp [State.writeHome, WordWrite.touches, low]

theorem State.writeHome_kdir {s : State} {h : Nat} (hoff : (s.home h).enable = false) :
    s.writeHome h 0 ⟨0, 8, v⟩ = s.onHome h fun x => { x with kdir := v % 2 ^ 26 + v / 2 ^ 29 % 2 ^ 5 * 2 ^ 29 } := by
  have low (old : Nat) := WordWrite.bits_onto_whole hv (Nat.zero_le 25) (by decide) old
  have high (old : Nat) := WordWrite.bits_onto_whole hv (show 29 ≤ 33 by decide) (by decide) old
  simp only [State.writeHome, hoff, low, high]
  simp [bits, Nat.shiftRight_eq_div_pow]

theorem State.writeDevice_breakms (s : State) (h1 : 10 ≤ v % 2 ^ 32) (h2 : v % 2 ^ 32 ≤ 60000) :
    s.writeDevice 0x18 ⟨0, 8, v⟩ = { s with dev := { s.dev with breakms := v % 2 ^ 32 } } := by
  simp only [State.writeDevice, WordWrite.low_bits_onto_whole hv (n := 32) rfl (by decide)]
  generalize v % 2 ^ 32 = n at *
  simp [h1, h2]

theorem State.writeDevice_pwrcap (s : State) (h1 : 800 ≤ v % 2 ^ 12) (h2 : v % 2 ^ 12 ≤ 2600) :
    s.writeDevice 0x30 ⟨0, 8, v⟩ = { s with dev := { s.dev with pwrcap := v % 2 ^ 12 } } := by
  simp only [State.writeDevice, WordWrite.low_bits_onto_whole hv (n := 12) rfl (by decide)]
  generalize v % 2 ^ 12 = n at *
  simp [h1, h2]

end Blocks

/-- The clusters of a district that is on stand. -/
theorem State.writeDistrict_clusters_frozen {s : State} {d : Nat} (hon : (s.district d).state ≠ 0) (x : WordWrite) :
    s.writeDistrict d 0 x = s := by
  simp [State.writeDistrict, hon]

theorem exec_dcfgWrite_of_holds {s : State} {m k : Nat} (h : Claims.Holds s m) (hk : k < 8) (d v : Nat) :
    exec (.dcfgWrite m d k v) s = .next (((Claims.masterWrote s m).addEvents d).onDistrict d fun x =>
      { x with mon := Tbl.put k { cfg := BitVec.ofNat 32 (v % 2 ^ 23) } x.mon }) := by
  change Host.Outcome.next (s.gated m fun s => s.writeDcfg d k v) = _
  rw [State.gated_of_holds h, State.writeDcfg, if_neg (by omega)]

theorem controlPlaneWrites : Claims.ControlPlane := by
  intro s m v tc d h k ide hold serve hv hd hh hk
  have district (w : Nat) := exec_controlPlaneWrite_district (v := v) (w := w) hold serve hd
  have home (w : Nat) := exec_controlPlaneWrite_home (v := v) (w := w) hold serve hh
  have device (w : Nat) := exec_controlPlaneWrite_device (v := v) (w := w) hold serve
  refine ⟨?policy, fun h1 h2 => ?lease, fun hoff hva hlen => ⟨?saveva, ?savelen, ?clusters⟩, fun hon => ?frozen, ?enable,
    fun hoff => ?kdir, fun h1 h2 => ?breakms, fun h1 h2 => ?pwrcap, exec_dcfgWrite_of_holds hold hk d v⟩
  case policy => exact (district 0x18 (by decide) (by decide)).trans (congrArg _ (State.writeDistrict_policy hv _ _))
  case lease => exact (district 0x20 (by decide) (by decide)).trans (congrArg _ (State.writeDistrict_lease hv _ _ h1 h2))
  case saveva => exact (district 0x28 (by decide) (by decide)).trans (congrArg _ (State.writeDistrict_saveva hv hoff hva))
  case savelen => exact (district 0x30 (by decide) (by decide)).trans (congrArg _ (State.writeDistrict_savelen hv hoff hlen))
  case clusters => exact (district 0 (by decide) (by decide)).trans (congrArg _ (State.writeDistrict_clusters hv hoff))
  case frozen =>
    exact (district 0 (by decide) (by decide)).trans (congrArg _ (State.writeDistrict_clusters_frozen (s := Claims.masterWrote s m) hon _))
  case enable => exact (home 0x18 (by decide) (by decide)).trans (congrArg _ (State.writeHome_enable hv _ _))
  case kdir => exact (home 0 (by decide) (by decide)).trans (congrArg _ (State.writeHome_kdir hv hoff))
  case breakms => exact (device 0x18 (by decide) (by decide) (by decide)).trans (congrArg _ (State.writeDevice_breakms hv _ h1 h2))
  case pwrcap => exact (device 0x30 (by decide) (by decide) (by decide)).trans (congrArg _ (State.writeDevice_pwrcap hv _ h1 h2))

/-! Reads of the control plane -/

/-- A read of a whole word is the word; one of some bytes from its first is the low bytes of it. -/
theorem State.readControl_aligned {s : State} {off size x : Nat} (hoff : off % 8 = 0) (hw : s.controlWord off = x) :
    s.readControl off size = x % 2 ^ (8 * size) := by
  have ha : off / 8 * 8 = off := by omega
  simp [State.readControl, ha, hoff, hw]

theorem State.readControl_zero {s : State} {off : Nat} (hw : s.controlWord (off / 8 * 8) = 0) (size : Nat) : s.readControl off size = 0 := by
  simp [State.readControl, hw]

theorem State.controlWord_district {d w : Nat} (s : State) (hd : d < 64) (hw : w < 1024) :
    s.controlWord (0x100000 + 1024 * d + w) = (s.district d).word w := by
  have hn : (0x100000 + 1024 * d + w - 0x100000) / 1024 = d := by omega
  have ho : (0x100000 + 1024 * d + w) % 1024 = w := by omega
  simp only [State.controlWord, hn, ho]
  rw [if_neg (by omega), if_pos (by omega)]

theorem State.controlWord_home {h w : Nat} (s : State) (hh : h < 28) (hw : w < 256) :
    s.controlWord (0x200000 + 256 * h + w) = (s.home h).word w := by
  have hn : (0x200000 + 256 * h + w - 0x200000) / 256 = h := by omega
  have ho : (0x200000 + 256 * h + w) % 256 = w := by omega
  simp only [State.controlWord, hn, ho]
  rw [if_neg (by omega), if_neg (by omega), if_pos (by omega)]

/-- KDATA reads as 0. -/
theorem State.controlWord_kdata {w : Nat} (s : State) (h1 : 0x500010 ≤ w) (h2 : w < 0x500050) : s.controlWord w = 0 := by
  have word : s.dev.keyWord (w % 4096) = 0 := by
    rw [Device.keyWord, if_neg (by omega), if_neg (by omega)]
  simp only [State.controlWord, word]
  rw [if_neg (by omega), if_neg (by omega), if_neg (by omega), if_neg (by omega), if_neg (by omega), if_pos (by omega)]

/-- MDATA reads as 0. -/
theorem State.controlWord_mdata {w : Nat} (s : State) (h1 : 0x580040 ≤ w) (h2 : w < 0x580080) : s.controlWord w = 0 := by
  have word : s.bootWord (w % 4096) = 0 := by
    rw [State.bootWord, if_neg (by omega), if_neg (by omega), if_neg (by omega)]
  simp only [State.controlWord, word]
  rw [if_neg (by omega), if_neg (by omega), if_neg (by omega), if_neg (by omega), if_neg (by omega), if_neg (by omega),
    if_pos (by omega)]

/-- Behind the recovery window the map lists nothing. -/
theorem State.controlWord_beyond {w : Nat} (s : State) (h : 0x1402000 ≤ w) : s.controlWord w = 0 := by
  have out (a b : Nat) (hb : b ≤ 0x1402000) : ¬ (a ≤ w ∧ w < b) := by omega
  simp [State.controlWord, out, show ¬ w < 0x1000 by omega]

theorem controlReads : Claims.ControlReads := by
  intro s d h off hd hh
  refine ⟨?policy, fun h64 => ?lease, ?enable, fun howner hbreaks => ?owner, fun hnum => ?devnum, fun h1 h2 => ?kdata,
    fun h1 h2 => ?mdata, fun h1 => ?beyond⟩
  case policy =>
    rw [State.readControl_aligned (by omega) (State.controlWord_district s hd (by decide))]
    exact Nat.mod_eq_of_lt ((s.district d).policy.isLt.trans (by decide))
  case lease =>
    rw [State.readControl_aligned (by omega) (State.controlWord_district s hd (by decide))]
    exact Nat.mod_eq_of_lt h64
  case enable =>
    rw [State.readControl_aligned (by omega) (State.controlWord_home s hh (by decide))]
    exact Nat.mod_eq_of_lt ((s.home h).enable.toNat_lt.trans (by decide))
  case owner =>
    rw [State.readControl_aligned (x := s.dev.breaks * 16 + s.dev.owner) (by decide) rfl]
    omega
  case devnum =>
    rw [State.readControl_aligned (x := s.dev.devnum) (by decide) rfl]
    omega
  case kdata => exact State.readControl_zero (s.controlWord_kdata (by omega) (by omega)) 1
  case mdata => exact State.readControl_zero (s.controlWord_mdata (by omega) (by omega)) 1
  case beyond => exact State.readControl_zero (s.controlWord_beyond (by omega)) 8

/-! Writes that are not served, or that wait -/

theorem exec_controlPlaneWrite_unserved {s : State} {off : Nat} (hoff : off % 8 = 0) (hmap : off < 2 ^ 25) (h2 : s.dev.bstate ≠ 2)
    (h3 : s.dev.bstate ≠ 3) (v tc : Nat) (ide : Option Nat) : exec (.controlPlaneWrite 1 off 8 v tc ide) s = .next s.hostDrop := by
  have unserved : s.serves 1 ide = false := by simp [State.serves, h2, h3]
  simp [exec_controlPlaneWrite_whole s 1 v tc ide hoff hmap, unserved]

/-- A write of the agent that comes behind what its stream has under way. -/
def waitingWrite (s : State) (off v tc : Nat) : PortWrite :=
  { page := streamPage tc, tc := tc % 64, bound := s.nextId, off := off, size := 8, value := v }

theorem exec_controlPlaneWrite_behind_stream {s : State} {off tc : Nat} {ide : Option Nat} (hoff : off % 8 = 0) (hmap : off < 2 ^ 25)
    (hserves : s.serves 2 ide = true) (hheld : s.streamHolds (tc % 64) s.nextId = true) (v : Nat) :
    exec (.controlPlaneWrite 2 off 8 v tc ide) s =
      .next { s with dev := { s.dev with portQ := s.dev.portQ ++ [waitingWrite s off v tc] } } := by
  have waits (n : Bool) : s.controlWaits 2 tc n = true := by simp [State.controlWaits, hheld]
  simp [exec_controlPlaneWrite_whole s 2 v tc ide hoff hmap, hserves, waits, waitingWrite]

/-- No read of the agent passes a management access that waits. -/
theorem State.masterRead_behind_write {s : State} {ide : Option Nat} {w : PortWrite} (hserves : s.serves 2 ide = true)
    (hw : w ∈ s.dev.portQ) (hpage : 8192 ≤ w.page) (off size n : Nat) : s.masterRead 2 off size n ide = .wait := by
  have waits : (s.dev.portQ.any fun w => decide (8192 ≤ w.page)) = true := List.any_eq_true.2 ⟨w, hw, decide_eq_true hpage⟩
  simp [State.masterRead, hserves, waits]

theorem State.masterRead_of_served {s : State} {m tc : Nat} {ide : Option Nat} (h : Claims.Served s m tc ide)
    (hpci : ∀ w ∈ s.dev.portQ, w.page ≠ 0) (off size : Nat) : s.masterRead m off size tc ide = .value (s.readControl off size) := by
  have hserves := serves_of_served h
  rcases h with ⟨rfl, -⟩ | ⟨rfl, -, -, hstream, hqueue⟩
  · have free : (s.dev.portQ.any fun w => w.page == 0) = false := by simpa using hpci
    simp [State.masterRead, hserves, free]
  · have free : (s.dev.portQ.any fun w => decide (8192 ≤ w.page)) = false := by simpa using hqueue
    simp [State.masterRead, hserves, free, hstream]

theorem controlWaits : Claims.ControlWaits := by
  intro s off v tc n ide hmap hoff
  refine ⟨fun h2 h3 => exec_controlPlaneWrite_unserved hoff hmap h2 h3 v tc ide, fun hup hb hheld => ?waits,
    fun m serve hpci => State.masterRead_of_served serve hpci off 8⟩
  have hserves : s.serves 2 ide = true := by simp [State.serves, hup, hb]
  refine ⟨_, exec_controlPlaneWrite_behind_stream hoff hmap hserves hheld v, rfl, ⟨_, rfl, rfl, rfl, rfl⟩, ?_⟩
  refine State.masterRead_behind_write (w := waitingWrite s off v tc) ?_ ?_ (Nat.le_add_right 8192 _) off 8 n
  · exact hserves
  · exact List.mem_append_right _ (List.mem_singleton.2 rfl)

/-- Settles O49: each write and each read goes to the word of its block, and the word's rule says the rest. -/
theorem controlPlane : Obligations.ControlPlane := ⟨controlPlaneWrites, controlReads, controlWaits⟩

end Machine
end Sys2Proof
end

section
/-! PROOFS of the integer and logic results of the lanes (R226 to R231, R233, R234). -/

namespace Sys2Proof.Machine

/-! Numbers -/

/-- The two readings of a pattern of n bits as a signed number. -/
theorem sext_eq_toInt (x n : Nat) : sext x n = (BitVec.ofNat n x).toInt := by
  obtain rfl | hn := Nat.eq_zero_or_pos n
  · simp [sext, BitVec.of_length_zero]
  · have hpow : 2 ^ n = 2 * 2 ^ (n - 1) := by rw [← Nat.pow_succ', Nat.succ_eq_add_one, Nat.sub_one_add_one hn.ne']
    have hlt : 2 * (x % 2 ^ n) < 2 ^ n ↔ x % 2 ^ n < 2 ^ (n - 1) := by omega
    simp [sext, BitVec.toInt_eq_toNat_cond, hlt, hn.ne']

theorem bits_eq_div_mod (x hi lo : Nat) : bits x hi lo = x / 2 ^ lo % 2 ^ (hi + 1 - lo) := by
  rw [bits, Nat.shiftRight_eq_div_pow]

/-! The pass around a strand instruction keeps who issues it -/

@[simp] theorem State.popSrcs_focus (u g : Nat) (ks : List Nat) (os : List Opd) (s : State) : (s.popSrcs u g ks os).1.focus = s.focus := by
  induction os generalizing s with
  | nil => rfl
  | cons o os ih => cases o <;> simp [State.popSrcs, ih, State.popQ, State.scrTime]

@[simp] theorem State.countErr_focus (s : State) (d k n : Nat) : (s.countErr d k n).focus = s.focus := by
  simp [State.countErr, apply_ite State.focus]

theorem focus_ite {c : Prop} [Decidable c] {s t : State} {f : List Nat → Focus} (hs : ∃ js, s.focus = f js) (ht : ∃ js, t.focus = f js) :
    ∃ js, (if c then s else t).focus = f js := by
  split <;> assumption

theorem State.softRead_path {s : State} {u g : Nat} {ks : List Nat} (h : s.focus.kind = .path u g ks) (i : Instr) :
    ∃ js, (s.softRead u g i).focus = { s.focus with kind := .path u g js } := by
  have same : s.focus = { s.focus with kind := .path u g ks } := by rw [← h]
  simp only [State.softRead]
  split
  · exact ⟨ks, same⟩
  · simp only [State.countErr_focus, State.onGrp_focus, h]
    exact focus_ite ⟨ks, by simpa using same⟩ ⟨_, rfl⟩

theorem State.who_of_path {s : State} {u g : Nat} {ks : List Nat} (h : s.focus.kind = .path u g ks) : s.who = some (u, g, false) := by
  simp [State.who, h]

theorem State.operands_path {s : State} {u g : Nat} {ks : List Nat} (h : s.focus.kind = .path u g ks) (i : Instr) :
    ∃ js, (s.operands i).1.focus = { s.focus with kind := .path u g js } := by
  simpa [State.operands, State.who_of_path h] using State.softRead_path h i

theorem State.who_operands {s : State} {u g : Nat} {ks : List Nat} (h : s.focus.kind = .path u g ks) (i : Instr) :
    (s.operands i).1.who = some (u, g, false) := by
  obtain ⟨js, hjs⟩ := State.operands_path h i
  exact State.who_of_path (ks := js) (by rw [hjs])

/-! What the lanes deliver -/

/-- An instruction that delivers, strand by strand, what a rule gives. -/
def LaneMeaning (i : Instr) (r : Claims.Rule) : Prop :=
  ∃ fs op, (∀ s, exec i s = issue i s fun es s => s.lanes i es fs op) ∧ r = (fs, fun _ => op)

theorem State.lanes_eq {s : State} {u g : Nat} {b : Bool} {i : Instr} {f : LaneForm} (hw : s.who = some (u, g, b)) (hf : laneForm i = some f)
    (es : List Elem) (fs : List Fmt) (op : List Nat → Nat) :
    s.lanes i es fs op = s.deliver u g f (Claims.results s u g i es f (fs, fun _ => op)) [] := by
  simp only [State.lanes, hw, hf, Claims.results]
  rfl

theorem LaneMeaning.exec_eq {i : Instr} {r : Claims.Rule} (hm : LaneMeaning i r) {s : State} {u g : Nat} {ks : List Nat} {f : LaneForm}
    (hk : s.focus.kind = .path u g ks) (hr : s.runs i = true) (hf : laneForm i = some f) :
    exec i s = .next (((s.operands i).1.deliver u g f (Claims.results (s.operands i).1 u g i (s.operands i).2 f r) []).passes) := by
  obtain ⟨fs, op, hexec, rfl⟩ := hm
  rw [hexec, issue_runs i s _ hr, State.lanes_eq (State.who_operands hk i) hf]

theorem laneMeaning_int1 {i : Instr} {f : Nat → Int} {op : List Nat → Int} (hx : ∀ s, exec i s = int1 i s f) (h : ∀ l, f (arg0 l) = op l) :
    LaneMeaning i (List.replicate 1 .n32, fun _ l => (op l % 2 ^ 32).toNat) :=
  ⟨_, _, hx, by simp [h, wrapN]⟩

theorem laneMeaning_int2 {i : Instr} {f : Nat → Nat → Int} {op : List Nat → Int} (hx : ∀ s, exec i s = int2 i s f)
    (h : ∀ l, f (arg0 l) (arg1 l) = op l) : LaneMeaning i (List.replicate 2 .n32, fun _ l => (op l % 2 ^ 32).toNat) :=
  ⟨_, _, hx, by simp [h, wrapN]⟩

theorem laneMeaning_int3 {i : Instr} {f : Nat → Nat → Nat → Int} {op : List Nat → Int} (hx : ∀ s, exec i s = int3 i s f)
    (h : ∀ l, f (arg0 l) (arg1 l) (arg2 l) = op l) : LaneMeaning i (List.replicate 3 .n32, fun _ l => (op l % 2 ^ 32).toNat) :=
  ⟨_, _, hx, by simp [h, wrapN]⟩

/-! The rules of each instruction -/

theorem Fx.sel_eq (x : Fx) (hi lo : Nat) : x.sel hi lo = x.opxN / 2 ^ lo % 2 ^ (hi + 1 - lo) := bits_eq_div_mod ..
theorem Fx.i_eq (x : Fx) (hi lo : Nat) : x.i hi lo = x.immN / 2 ^ lo % 2 ^ (hi + 1 - lo) := bits_eq_div_mod ..

theorem Fx.sel_zero (x : Fx) : x.sel 0 0 = x.opxN % 2 := by simp [Fx.sel_eq]
theorem Fx.sel_one (x : Fx) : x.sel 1 1 = x.opxN / 2 % 2 := by simp [Fx.sel_eq]

theorem fieldAt_eq (x : Fx) (b : Nat) : Claims.fieldAt x b = (fieldPos x b, fieldLen x b) := by
  simp only [Claims.fieldAt, fieldPos, fieldLen, Fx.sel_zero, Fx.i_eq]
  split <;> simp

theorem int32_eq (x : Nat) : Claims.int32 x = sext x 32 := (sext_eq_toInt x 32).symm

theorem readInt_eq (sgn : Bool) (x n : Nat) : readInt sgn x n = if sgn then (BitVec.ofNat n x).toInt else ((x % 2 ^ n : Nat) : Int) := by
  simp [readInt, sext_eq_toInt]

/-- Saturation clamps to the range of the sum's signedness (R227). -/
theorem macResult_eq (sat sr : Bool) (t : Int) (n : Nat) :
    macResult sat sr t n = ((if sat then
      max (if sr then -2 ^ (n - 1) else 0) (min t (if sr then 2 ^ (n - 1) - 1 else 2 ^ n - 1)) else t) % 2 ^ n).toNat := by
  have clamp {lo top : Int} (h : lo < top) : (if t < lo then lo else if top ≤ t then top - 1 else t) = max lo (min t (top - 1)) := by
    split_ifs <;> omega
  have h1 : (0 : Int) < 2 ^ (n - 1) := by positivity
  have h2 : (0 : Int) < 2 ^ n := by positivity
  cases sat with
  | false => simp [macResult, wrapN]
  | true => cases sr <;> simp [macResult, satN, wrapN] <;> rw [clamp (by omega)]

theorem laneMeaning_imac (d a b c : Opd) (p : Pr) (x : Fx) {r : Claims.Rule} (h : Claims.macRule x .n32 32 = some r) :
    LaneMeaning (.imac d a b c p x) r := by
  refine ⟨_, _, fun _ => rfl, ?_⟩
  rw [← Option.some_inj, ← h]
  simp [Claims.macRule, macResult_eq, readInt_eq, Fx.sel_zero, Fx.sel_one, arg0, arg1, arg2]

theorem laneMeaning_imacw (d a b c : Opd) (p : Pr) (x : Fx) {r : Claims.Rule}
    (h : Claims.macRule x (if x.opxN % 4 = 0 then .n64 else .i64) 64 = some r) : LaneMeaning (.imacw d a b c p x) r := by
  have unsigned : x.opxN % 4 = 0 ↔ ¬(x.opxN % 2 = 1 ∨ x.opxN / 2 % 2 = 1) := by omega
  refine ⟨_, _, fun _ => rfl, ?_⟩
  rw [← Option.some_inj, ← h]
  simp [Claims.macRule, macResult_eq, readInt_eq, Fx.sel_zero, Fx.sel_one, arg0, arg1, arg2, unsigned, -not_or]

theorem bitField_signed (v pos len : Nat) :
    bitField true v pos len = (BitVec.ofNat (fieldBits pos len) (v / 2 ^ pos)).toInt := by
  simp only [bitField, Bool.true_and, bne_iff_ne, ne_eq, ite_not, ← sext_eq_toInt]
  split
  case isTrue h => simp [h, sext, Nat.mod_one]
  case isFalse => simp [sext]

theorem laneMeaning_bfxI (d a b : Opd) (p : Pr) (x : Fx) {r : Claims.Rule} (h : Claims.intRule (.bfxI d a b p x) = some r) :
    LaneMeaning (.bfxI d a b p x) r := by
  simp only [Claims.intRule, fieldAt_eq, Claims.words, Option.some.injEq] at h
  exact h ▸ laneMeaning_int2 (fun s => show execBfxI d a b p x s = _ from rfl) fun l => by
    rw [fieldAt_eq]; exact bitField_signed ..

theorem laneMeaning_bfxN (d a b : Opd) (p : Pr) (x : Fx) {r : Claims.Rule} (h : Claims.intRule (.bfxN d a b p x) = some r) :
    LaneMeaning (.bfxN d a b p x) r := by
  simp only [Claims.intRule, fieldAt_eq, Claims.words, Option.some.injEq] at h
  exact h ▸ laneMeaning_int2 (fun s => show execBfxN d a b p x s = _ from rfl) fun l => by simp [bitField, fieldBits, arg0, arg1]

theorem laneMeaning_bfi (d a b c : Opd) (p : Pr) (x : Fx) {r : Claims.Rule} (h : Claims.intRule (.bfi d a b c p x) = some r) :
    LaneMeaning (.bfi d a b c p x) r := by
  simp only [Claims.intRule, fieldAt_eq] at h
  split at h <;> obtain rfl := Option.some.inj h <;> rename_i hx
  · exact laneMeaning_int2 (fun s => show execBfi .. = _ by rw [execBfi, Fx.sel_zero, if_pos hx]) fun _ => rfl
  · exact laneMeaning_int3 (fun s => show execBfi .. = _ by rw [execBfi, Fx.sel_zero, if_neg hx]) fun _ => rfl

theorem laneMeaning_lea (d a b : Opd) (p : Pr) (x : Fx) {r : Claims.Rule} (h : Claims.intRule (.lea d a b p x) = some r) :
    LaneMeaning (.lea d a b p x) r := by
  simp only [Claims.intRule, Option.some.injEq, int32_eq] at h
  have scale : x.i 2 0 = x.immN % 8 := by simp [Fx.i_eq]
  refine ⟨_, _, fun s => show execLea d a b p x s = _ from rfl, h.symm.trans ?_⟩
  simp only [readInt, Fx.sel_zero, scale, arg0, arg1, keyOf, offOf, wrapN, decide_eq_true_eq, Nat.cast_pow, Nat.cast_ofNat]

theorem foldl_bytes (g : Nat → Nat) :
    (List.range 4).foldl (fun r k => r + g k * 2 ^ (8 * k)) 0 = g 0 + g 1 * 2 ^ 8 + g 2 * 2 ^ 16 + g 3 * 2 ^ 24 := by
  rw [show List.range 4 = [0, 1, 2, 3] from rfl, List.foldl, List.foldl, List.foldl, List.foldl, List.foldl, Nat.zero_add, Nat.mul_zero,
    pow_zero, mul_one]

/-- The four bytes of a BSEL result (R234), each from the number that selects it. -/
theorem byteSelect_eq (x : Fx) (lo hi c : Nat) (f : Nat → Nat)
    (hf : ∀ k, f k = if x.opxN % 2 = 1 then byteOf lo hi (x.immN / 8 ^ k % 8)
      else if c / 16 ^ k / 8 % 2 = 1 then (if x.opxN / 2 % 2 = 1 then 0xff else 0) else byteOf lo hi (c / 16 ^ k % 8)) :
    byteSelect x lo hi c = f 0 + f 1 * 2 ^ 8 + f 2 * 2 ^ 16 + f 3 * 2 ^ 24 := by
  have h8 (k : Nat) : 2 ^ (3 * k) = 8 ^ k := by rw [Nat.pow_mul]
  have h16 (k : Nat) : 2 ^ (4 * k) = 16 ^ k := by rw [Nat.pow_mul]
  have three (m : Nat) : m + 2 + 1 - m = 3 := by omega
  have byte (k : Nat) : (if x.sel 0 0 = 1 then byteOf lo hi (x.i (3 * k + 2) (3 * k))
      else if bitOf c (4 * k + 3) then (if x.sel 1 1 = 1 then 0xff else 0) else byteOf lo hi (bits c (4 * k + 2) (4 * k))) = f k := by
    rw [hf k]
    simp [Fx.sel_zero, Fx.sel_one, Fx.i_eq, bits_eq_div_mod, bitOf, Nat.testBit_eq_decide_div_mod_eq, three, h8, h16, Nat.pow_add,
      Nat.div_div_eq_div_mul]
  rw [← foldl_bytes]
  simp only [byteSelect, byte]

theorem laneMeaning_bsel (d a b c : Opd) (p : Pr) (x : Fx) {r : Claims.Rule} (h : Claims.intRule (.bsel d a b c p x) = some r) :
    LaneMeaning (.bsel d a b c p x) r := by
  simp only [Claims.intRule, Claims.words] at h
  split at h <;> simp only [Option.some.injEq] at h <;> rename_i hx
  · refine h ▸ laneMeaning_int2 (fun s => show execBsel .. = _ by rw [execBsel, Fx.sel_zero, if_pos hx]) fun l => ?_
    rw [byteSelect_eq x (arg0 l) (arg1 l) 0 (fun k => byteOf (arg0 l) (arg1 l) (x.immN / 8 ^ k % 8)) fun k => (if_pos hx).symm]
    simp only [byteOf, arg0, arg1]
  · refine h ▸ laneMeaning_int3 (fun s => show execBsel .. = _ by rw [execBsel, Fx.sel_zero, if_neg hx]) fun l => ?_
    rw [byteSelect_eq x (arg0 l) (arg1 l) (arg2 l) (fun k => if arg2 l / 16 ^ k / 8 % 2 = 1 then (if x.opxN / 2 % 2 = 1 then 0xff else 0)
      else byteOf (arg0 l) (arg1 l) (arg2 l / 16 ^ k % 8)) fun k => (if_neg hx).symm]
    simp only [byteOf, arg0, arg1, arg2]
    rfl

theorem laneMeaning_mov (d a : Opd) (w : BitVec 7) (p : Pr) {r : Claims.Rule} (h : Claims.intRule (.mov d a w p) = some r) :
    LaneMeaning (.mov d a w p) r := by
  have width : w.toNat = 0 ∧ r = ([.n32], fun _ => arg0) ∨ w.toNat = 1 ∧ r = ([.i64], fun _ => arg0) := by
    simp only [Claims.intRule] at h
    split_ifs at h with h0 h1
    · exact .inl ⟨h0, (Option.some.inj h).symm⟩
    · exact .inr ⟨h1, (Option.some.inj h).symm⟩
  obtain ⟨hw, hr⟩ | ⟨hw, hr⟩ := width <;> refine ⟨_, arg0, fun s => ?_, hr⟩ <;> show execMov d a w p s = _ <;> simp only [execMov, hw]

theorem iabs_eq (x : Nat) : (if sext x 32 < 0 then -sext x 32 else sext x 32) = |Claims.int32 x| := by
  rw [int32_eq]
  split
  · rw [abs_of_neg ‹_›]
  · rw [abs_of_nonneg (by omega)]

theorem wrapN_carry (c : Prop) [Decidable c] : wrapN (if c then 1 else 0) 32 = if c then 1 else 0 := by split <;> rfl

/-- Every integer and logic instruction delivers what its rule of R226 to R234 gives. -/
theorem intRule_meaning {i : Instr} {r : Claims.Rule} (h : Claims.intRule i = some r) : LaneMeaning i r := by
  cases i
  case imac d a b c p x => exact laneMeaning_imac d a b c p x h
  case imacw d a b c p x => exact laneMeaning_imacw d a b c p x h
  case bfxI d a b p x => exact laneMeaning_bfxI d a b p x h
  case bfxN d a b p x => exact laneMeaning_bfxN d a b p x h
  case bfi d a b c p x => exact laneMeaning_bfi d a b c p x h
  case lea d a b p x => exact laneMeaning_lea d a b p x h
  case bsel d a b c p x => exact laneMeaning_bsel d a b c p x h
  case mov d a w p => exact laneMeaning_mov d a w p h
  case iadd d a b p => exact Option.some.inj h ▸ laneMeaning_int2 (fun s => show execIadd d a b p s = _ from rfl) fun _ => rfl
  case isub d a b p => exact Option.some.inj h ▸ laneMeaning_int2 (fun s => show execIsub d a b p s = _ from rfl) fun _ => rfl
  case imul d a b p => exact Option.some.inj h ▸ laneMeaning_int2 (fun s => show execImul d a b p s = _ from rfl) fun _ => rfl
  case imulhI d a b p => exact Option.some.inj h ▸ laneMeaning_int2 (fun s => show execImulhI d a b p s = _ from rfl) fun _ => by simp only [int32_eq]; rfl
  case imulhN d a b p => exact Option.some.inj h ▸ laneMeaning_int2 (fun s => show execImulhN d a b p s = _ from rfl) fun _ => rfl
  case iminI d a b p => exact Option.some.inj h ▸ laneMeaning_int2 (fun s => show execIminI d a b p s = _ from rfl) fun _ => by simp only [int32_eq]; rfl
  case iminN d a b p => exact Option.some.inj h ▸ laneMeaning_int2 (fun s => show execIminN d a b p s = _ from rfl) fun _ => rfl
  case imaxI d a b p => exact Option.some.inj h ▸ laneMeaning_int2 (fun s => show execImaxI d a b p s = _ from rfl) fun _ => by simp only [int32_eq]; rfl
  case imaxN d a b p => exact Option.some.inj h ▸ laneMeaning_int2 (fun s => show execImaxN d a b p s = _ from rfl) fun _ => rfl
  case andB d a b p => exact Option.some.inj h ▸ laneMeaning_int2 (fun s => show execAndB d a b p s = _ from rfl) fun _ => rfl
  case orB d a b p => exact Option.some.inj h ▸ laneMeaning_int2 (fun s => show execOrB d a b p s = _ from rfl) fun _ => rfl
  case xorB d a b p => exact Option.some.inj h ▸ laneMeaning_int2 (fun s => show execXorB d a b p s = _ from rfl) fun _ => rfl
  case andn d a b p => exact Option.some.inj h ▸ laneMeaning_int2 (fun s => show execAndn d a b p s = _ from rfl) fun _ => rfl
  case shl d a b p => exact Option.some.inj h ▸ laneMeaning_int2 (fun s => show execShl d a b p s = _ from rfl) fun _ => by simp only [Nat.shiftLeft_eq]; rfl
  case shr d a b p => exact Option.some.inj h ▸ laneMeaning_int2 (fun s => show execShr d a b p s = _ from rfl) fun _ => by simp only [Nat.shiftRight_eq_div_pow]; rfl
  case asr d a b p => exact Option.some.inj h ▸ laneMeaning_int2 (fun s => show execAsr d a b p s = _ from rfl) fun _ => by simp only [int32_eq]; rfl
  case rol d a b p => exact Option.some.inj h ▸ laneMeaning_int2 (fun s => show execRol d a b p s = _ from rfl) fun _ => rfl
  case iabs d a p => exact Option.some.inj h ▸ laneMeaning_int1 (fun s => show execIabs d a p s = _ from rfl) fun _ => iabs_eq _
  case ineg d a p => exact Option.some.inj h ▸ laneMeaning_int1 (fun s => show execIneg d a p s = _ from rfl) fun _ => rfl
  case notB d a p => exact Option.some.inj h ▸ laneMeaning_int1 (fun s => show execNotB d a p s = _ from rfl) fun _ => rfl
  case popc d a p => exact Option.some.inj h ▸ laneMeaning_int1 (fun s => show execPopc d a p s = _ from rfl) fun _ => rfl
  case clz d a p => exact Option.some.inj h ▸ laneMeaning_int1 (fun s => show execClz d a p s = _ from rfl) fun _ => rfl
  case brev d a p => exact Option.some.inj h ▸ laneMeaning_int1 (fun s => show execBrev d a p s = _ from rfl) fun _ => rfl
  case fshf d a b c p x =>
    exact Option.some.inj h ▸ laneMeaning_int3 (fun s => show execFshf d a b c p x s = _ from rfl) fun _ => by
      simp only [Fx.sel_zero, apply_ite (Nat.cast : Nat → Int)]; rfl
  case iaddc d a b p => exact ⟨_, _, fun s => show execIaddc d a b p s = _ from rfl, (Option.some.inj h).symm.trans (by simp only [wrapN_carry]; rfl)⟩
  case iadd64 d a b p => exact ⟨_, _, fun s => show execIadd64 d a b p s = _ from rfl, (Option.some.inj h).symm⟩
  case isub64 d a b p => exact ⟨_, _, fun s => show execIsub64 d a b p s = _ from rfl, (Option.some.inj h).symm⟩
  case shl64 d a b p => exact ⟨_, _, fun s => show execShl64 d a b p s = _ from rfl, (Option.some.inj h).symm.trans (by simp only [Nat.shiftLeft_eq]; rfl)⟩
  case shr64 d a b p => exact ⟨_, _, fun s => show execShr64 d a b p s = _ from rfl, (Option.some.inj h).symm.trans (by simp only [Nat.shiftRight_eq_div_pow]; rfl)⟩
  all_goals exact absurd h nofun

/-- Settles O1: each instruction runs through `lanes`, with the operation that its rule names. -/
theorem laneIntegerResults : Obligations.LaneIntegerResults := by
  intro i s u g ks f r hk hr hf hrule
  exact (intRule_meaning hrule).exec_eq hk hr hf

end Sys2Proof.Machine
end

section
/-! PROOFS of the delivery of results (R30, R258): what a consumer mask leaves in a queue that has taken its element. -/

namespace Sys2Proof.Machine

/-- Queue 3 of block 1 after a step: the core cycle behind that of its last operation. -/
def servedAfter (o : Host.Outcome State Fault Refusal) : Option Nat :=
  match o with
  | .next t => some ((t.block 1).queue 3).served
  | _ => none

/-- The mask of the witness state: one queue is left, and its element is due. -/
def oneQueueMask : MaskProg := { queues := [3], vecBytes := [], word := 1, due := 0, strands := [0] }

/-- R258: the queue that takes an element of a mask has served in this core cycle. -/
theorem servedAfter_consumerMaskAccept : servedAfter (exec (.consumerMaskAccept 1 0 3) Tests.masked) = some 1 := by decide

theorem not_maskAccept : ¬ Claims.MaskAccept := by
  intro h
  have next := h Tests.masked 1 0 3 oneQueueMask (by decide) (by decide) (by decide)
  have served := servedAfter_consumerMaskAccept.symm.trans (congrArg servedAfter next)
  exact absurd served (by decide)

/-- Refutes O8: a queue of a consumer mask that takes its element has served in that core cycle (R258), and the next state of the
statement's last clause leaves the queue's record of it (`served`) as it was. -/
theorem not_resultDelivery : ¬ Obligations.ResultDelivery := fun ⟨_, _, _, h⟩ => not_maskAccept h

end Sys2Proof.Machine
end

section
/-! PROOFS of the running of entries (R314, R318, R325): a chunk whose source passes 2^32 in a share that goes on behind it. -/

namespace Sys2Proof.Machine

/-- A copy of two bytes: from the last scratchpad offset of 32 bits on, to offset 64. -/
def wrapEntry : Entry :=
  { id := 1, instr := .cpy (.w 0) (.w 2) (.w 4) .zero .zero 0 0 0, blk := 1, grp := 0, dst := 0xfffe * 2 ^ 48 + 64,
    src := 0xfffe * 2 ^ 48 + (2 ^ 32 - 1), len := 2, st := .running }

/-- The entry runs for a block with a share of these units; byte 2^32 of the pool is 1 and every other byte is 0. -/
def wrapState (scr : List Nat) : State :=
  { blocks := [(1, { scr := scr })], cores := [(0, { sram := [(2 ^ 32, 1)], eqs := [[wrapEntry]] })] }

/-- What the chunk is to write. -/
def wrapWrites (scr : List Nat) : List WByte := byteWrites wrapEntry.dst ((wrapState scr).gotBytes 1 {} wrapEntry.src 2)

/-- The second source byte is the one at offset 0: a scratchpad address moves in its 32 bits. -/
theorem wrapWrites_eq (scr : List Nat) : wrapWrites scr =
    [{ va := 0xfffe * 2 ^ 48 + 64, byte := (wrapState scr).gotByte 1 {} (0xfffe * 2 ^ 48 + (2 ^ 32 - 1)) },
     { va := 0xfffe * 2 ^ 48 + 65, byte := (wrapState scr).gotByte 1 {} (0xfffe * 2 ^ 48) }] := rfl

theorem workOf_wrapWrites (scr : List Nat) (t : Part) : workOf t (wrapWrites scr) wrapEntry = { scr := wrapWrites scr, e := wrapEntry } := by
  have scratch : keyOf (0xfffe * 2 ^ 48 + 64) = 0xfffe ∧ keyOf (0xfffe * 2 ^ 48 + 65) = 0xfffe := by decide
  simp only [workOf, lineParts, gatherLines, wrapWrites_eq, List.filter_cons, List.filter_nil, scratch]
  rfl

theorem chunkJob_wrapState (scr : List Nat) : (wrapState scr).chunkJob ((wrapState scr).entryPart 0 0 wrapEntry) wrapEntry 0 =
    (wrapState scr, .go { scr := wrapWrites scr, e := wrapEntry }) := by
  rw [← workOf_wrapWrites scr]; rfl

theorem exec_chunk_wrapState (scr : List Nat) : exec (.chunk 0 0) (wrapState scr) =
    .next ((wrapState scr).releaseChunk 0 0 wrapEntry { scr := wrapWrites scr, e := wrapEntry } []) := by
  have step : exec (.chunk 0 0) (wrapState scr) = .next ((wrapState scr).runChunk 0 0 wrapEntry) := rfl
  have noParts : (wrapState scr).writeParts (.engine 0 0 wrapEntry.id) = [] := rfl
  have goesOn : ((wrapState scr).block wrapEntry.blk).stop = false := rfl
  have notHeld : (wrapState scr).chunkHeld (.engine 0 0 wrapEntry.id) = false := rfl
  have first : wrapEntry.cursor < wrapEntry.steps := by decide
  have here : (wrapState scr).targetsHere wrapEntry = true := rfl
  rw [step]
  simp only [State.runChunk, noParts, goesOn, notHeld, first]
  rw [show wrapEntry.cursor = 0 from rfl, chunkJob_wrapState]
  simp [fatalOf, here, show wrapEntry.cancel = false from rfl]


theorem beyond_wrap (size : Nat) (h : 65 < size) (a b : W8) :
    beyond size [{ va := 0xfffe * 2 ^ 48 + 64, byte := a }, { va := 0xfffe * 2 ^ 48 + 65, byte := b }] = 0 := by
  have first : ¬ size ≤ (0xfffe * 2 ^ 48 + 64) % 2 ^ 32 := by rw [show (0xfffe * 2 ^ 48 + 64) % 2 ^ 32 = 64 by norm_num]; omega
  have second : ¬ size ≤ (0xfffe * 2 ^ 48 + 65) % 2 ^ 32 := by rw [show (0xfffe * 2 ^ 48 + 65) % 2 ^ 32 = 65 by norm_num]; omega
  simp only [beyond, List.filter_cons, first, second, decide_false, Bool.false_eq_true, if_false, List.filter_nil, List.length_nil]

theorem releaseChunk_wrapState (scr : List Nat) (h : 65 < 2048 * scr.length) :
    (wrapState scr).releaseChunk 0 0 wrapEntry { scr := wrapWrites scr, e := wrapEntry } [] =
    (((wrapState scr).scrApply 1 0 (wrapWrites scr)).onEntry 0 0 1 fun _ => wrapEntry).chunkDone 0 0 wrapEntry [] := by
  have none : beyond ((wrapState scr).block 1).scrBytes (wrapWrites scr) = 0 := by
    rw [wrapWrites_eq]; exact beyond_wrap _ h _ _
  rw [State.releaseChunk]
  simp only [none, show wrapEntry.blk = 1 from rfl]
  rfl

/-- A share of `n` units, unit for unit the beginning of the pool. -/
structure Straight (n : Nat) (scr : List Nat) : Prop where
  length : scr.length = n
  unit : ∀ u < n, scr[u]? = some u
  nodup : scr.Nodup

theorem straight_range (n : Nat) : Straight n (List.range n) := ⟨List.length_range, fun _ h => List.getElem?_range h, List.nodup_range⟩

section wide
variable {scr : List Nat} (wide : Straight (2 ^ 21 + 1) scr)
include wide

theorem shareByte_straight {o : Nat} (h : o ≤ 2 ^ 32) : shareByte scr o = some o := by
  rw [shareByte, wide.unit (o / 2048) (by omega)]
  exact congrArg some (Nat.div_add_mod' o 2048)

theorem shareRead_straight (cells : Cells) {o n : Nat} (h : o + n ≤ 2 ^ 32 + 1) :
    shareRead cells scr o n = (List.range' o n).map fun i => cellGet i cells := by
  induction n generalizing o with
  | zero => rfl
  | succ n ih =>
    rw [shareRead, shareByte_straight wide (by omega), ih (by omega)]
    rfl

theorem gotByte_wrapState {va : Nat} (hkey : keyOf va = 0xfffe) : (wrapState scr).gotByte 1 {} va = cellGet (va % 2 ^ 32) [(2 ^ 32, 1)] := by
  have read : (wrapState scr).scrRead 1 (va % 2 ^ 32) 1 = shareRead [(2 ^ 32, 1)] scr (va % 2 ^ 32) 1 := rfl
  have inside := Nat.mod_lt va (show 0 < 2 ^ 32 by decide)
  rw [State.gotByte, if_pos hkey, read, shareRead_straight wide _ (by omega)]
  rfl

theorem wrapWrites_zero : wrapWrites scr = [{ va := 0xfffe * 2 ^ 48 + 64, byte := 0 }, { va := 0xfffe * 2 ^ 48 + 65, byte := 0 }] := by
  rw [wrapWrites_eq, gotByte_wrapState wide (by decide), gotByte_wrapState wide (by decide)]
  rfl

theorem scrWrite_wrapState {o : Nat} (h : o < 2 ^ 32) : (wrapState scr).scrWrite 1 o [0] = wrapState scr := by
  have write : (wrapState scr).scrWrite 1 o [0] = (wrapState scr).onCore 0 fun c => { c with sram := shareWrite scr o [0] c.sram } := rfl
  have put : cellPut o 0 [(2 ^ 32, (1 : W8))] = [(2 ^ 32, 1)] := by rw [cellPut, if_pos h]; rfl
  rw [write, State.onCore]
  have sram : ((wrapState scr).core 0).sram = [(2 ^ 32, 1)] := rfl
  have same : shareWrite scr o [0] [(2 ^ 32, 1)] = [(2 ^ 32, 1)] := by
    simp only [shareWrite, shareByte_straight wide h.le, put]
  rw [sram, same]
  rfl

theorem scrApply_wrapState : (wrapState scr).scrApply 1 0 (wrapWrites scr) = wrapState scr := by
  have scratch : keyOf (0xfffe * 2 ^ 48 + 64) = 0xfffe ∧ keyOf (0xfffe * 2 ^ 48 + 65) = 0xfffe := by decide
  have masked (old : W8) : (old &&& ~~~ 0xff) ||| (0 &&& 0xff) = 0 := by simp
  rw [State.scrApply, wrapWrites_zero wide]
  simp only [List.filter_cons, List.filter_nil, scratch, beq_self_eq_true, if_true, List.isEmpty_cons, Bool.false_eq_true, if_false,
    List.foldl_cons, List.foldl_nil, masked]
  rw [scrWrite_wrapState wide (by decide), scrWrite_wrapState wide (by decide)]
  rfl

/-- The chunk writes two zeros, where the second byte behind the source is 1. -/
theorem scrRead_after_chunk {t : State} (h : exec (.chunk 0 0) (wrapState scr) = .next t) : t.scrRead 1 64 2 = [0, 0] := by
  rw [exec_chunk_wrapState, releaseChunk_wrapState _ (by rw [wide.length]; norm_num), scrApply_wrapState wide] at h
  obtain rfl := Host.Outcome.next.inj h
  have same : ((((wrapState scr).onEntry 0 0 1 fun _ => wrapEntry).chunkDone 0 0 wrapEntry []).scrRead 1 64 2) =
    shareRead [(2 ^ 32, 1)] scr 64 2 := rfl
  rw [same, shareRead_straight wide _ (by norm_num)]
  rfl

theorem scrRead_before_chunk : (wrapState scr).scrRead 1 (2 ^ 32 - 1) 2 = [0, 1] := by
  have read : (wrapState scr).scrRead 1 (2 ^ 32 - 1) 2 = shareRead [(2 ^ 32, 1)] scr (2 ^ 32 - 1) 2 := rfl
  rw [read, shareRead_straight wide _ (by norm_num)]
  decide

end wide

theorem not_chunkCopies : ¬ Claims.ChunkCopies := by
  obtain ⟨scr, wide⟩ : ∃ scr, Straight (2 ^ 21 + 1) scr := ⟨_, straight_range _⟩
  intro h
  have size : Block.scrBytes { scr := scr } = 2048 * (2 ^ 21 + 1) := congrArg (2048 * ·) wide.length
  have fits {o : Nat} (ho : o + 2 ≤ 2 ^ 32 + 1) : o + wrapEntry.len ≤ Block.scrBytes { scr := scr } := by
    rw [size, show wrapEntry.len = 2 from rfl]; omega
  have keys : keyOf wrapEntry.src = 0xfffe ∧ keyOf wrapEntry.dst = 0xfffe ∧ bits wrapEntry.src 47 32 = 0 ∧ bits wrapEntry.dst 47 32 = 0 := by
    decide
  obtain ⟨src, dst, src', dst'⟩ := keys
  have fitsSrc : wrapEntry.src % 2 ^ 32 + wrapEntry.len ≤ Block.scrBytes { scr := scr } := fits (by decide)
  have fitsDst : wrapEntry.dst % 2 ^ 32 + wrapEntry.len ≤ Block.scrBytes { scr := scr } := fits (by decide)
  have sram : Memory.wf ((wrapState scr).core 0).sram = true := show Memory.wf [(2 ^ 32, 1)] = true by decide
  have alone : (((wrapState scr).core 0).eqs.getD 0 []).Pairwise (fun x y => x.id ≠ y.id) := List.pairwise_singleton _ _
  have found : Tbl.find 1 (wrapState scr).blocks = some { scr := scr } := rfl
  have idle : ∀ p ∈ (wrapState scr).parts, p.src ≠ .engine 0 0 wrapEntry.id := fun _ hp => absurd hp List.not_mem_nil
  have queues : 0 < ((wrapState scr).core 0).eqs.length := Nat.zero_lt_one
  have chunk := h (wrapState scr) 0 0 1 wrapEntry { scr := scr } (.w 0) (.w 2) (.w 4) .zero .zero 0 0 0
    rfl rfl rfl found rfl rfl rfl rfl rfl rfl rfl rfl rfl (by decide) (by decide) src dst src' dst'
    fitsSrc fitsDst wide.nodup sram idle alone queues
  obtain ⟨t, ht, hcopy, -⟩ := chunk
  have before : (wrapState scr).scrRead 1 (wrapEntry.src % 2 ^ 32) wrapEntry.len = [0, 1] := scrRead_before_chunk wide
  have after : t.scrRead 1 (wrapEntry.dst % 2 ^ 32) wrapEntry.len = [0, 0] := scrRead_after_chunk wide ht
  rw [before, after] at hcopy
  exact absurd hcopy (by decide)

/-- Refutes O28: in a share that goes on behind offset 2^32, the bytes of a copy that reach 2^32 are those at offset 0 and on (a scratchpad
address has 32 bits, R314), and the statement asks for those that follow in the share. No launch gets so large a share (R118), but no
hypothesis of the statement excludes it. -/
theorem not_engineEvents : ¬ Obligations.EngineEvents := fun ⟨_, h⟩ => not_chunkCopies h

end Sys2Proof.Machine
end

section
/-! PROOFS of the issue of memory accesses (R22, R62, R183, R191, R198 to R205): what the sending of parts changes, the checks that all
strands pass, and the parts that an access becomes. -/

namespace Sys2Proof.Machine

/-! Changed entries of the tables -/

theorem Tbl.find_upd_same {α : Type} (k : Nat) (f : α → α) (t : Tbl α) : Tbl.find k (Tbl.upd k f t) = (Tbl.find k t).map f := by
  induction t with
  | nil => rfl
  | cons e t ih => by_cases h : e.1 = k <;> simp [Tbl.upd, Tbl.find, h, ih]

theorem Tbl.find_upd_of_ne {α : Type} {j k : Nat} (h : j ≠ k) (f : α → α) (t : Tbl α) : Tbl.find j (Tbl.upd k f t) = Tbl.find j t := by
  induction t with
  | nil => rfl
  | cons e t ih =>
    by_cases hk : e.1 = k
    · simp [Tbl.upd, Tbl.find, hk, h.symm]
    · simp [Tbl.upd, Tbl.find, hk, ih]

theorem State.block_of_find {s : State} {u : Nat} {b : Block} (h : Tbl.find u s.blocks = some b) : s.block u = b := Tbl.getD_of_find h {}

theorem State.block_onBlock_same {s : State} {u : Nat} {b : Block} (h : Tbl.find u s.blocks = some b) (f : Block → Block) :
    (s.onBlock u f).block u = f b :=
  State.block_of_find (s := s.onBlock u f) ((Tbl.find_upd_same u f s.blocks).trans (h ▸ rfl))

theorem State.block_onBlock_of_ne {u v : Nat} (h : v ≠ u) (s : State) (f : Block → Block) : (s.onBlock u f).block v = s.block v := by
  simp [State.block, State.onBlock, Tbl.getD, Tbl.find_upd_of_ne h]

/-- What a change of a block keeps in every block, it keeps in the one that an absent number reads as. -/
theorem State.block_onBlock_keeps {β : Type} (view : Block → β) {f : Block → Block} (h : ∀ b, view (f b) = view b) (s : State) (u v : Nat) :
    view ((s.onBlock u f).block v) = view (s.block v) := by
  by_cases hv : v = u
  · subst hv
    cases hb : Tbl.find v s.blocks with
    | none => simp [State.block, State.onBlock, Tbl.getD, Tbl.find_upd_same, hb]
    | some b => rw [State.block_onBlock_same hb, h, State.block_of_find hb]
  · rw [State.block_onBlock_of_ne hv]

theorem Block.group_of_getElem? {b : Block} {g : Nat} {x : Group} (h : b.groups[g]? = some x) : b.group g = x := by
  simp [Block.group, List.getD_eq_getElem?_getD, h]

theorem Block.group_onGroup_same {b : Block} {g : Nat} {x : Group} (h : b.groups[g]? = some x) (f : Group → Group) :
    (b.onGroup g f).group g = f x := by
  simp [Block.group, Block.onGroup, List.getD_eq_getElem?_getD, List.getElem?_modify_eq, h]

theorem Block.group_onGroup_of_ne {g h : Nat} (hne : h ≠ g) (b : Block) (f : Group → Group) : (b.onGroup g f).group h = b.group h := by
  simp only [Block.group, Block.onGroup, List.getD_eq_getElem?_getD, List.getElem?_modify_ne f _ hne.symm]

theorem State.grp_onGrp_same {s : State} {u g : Nat} {b : Block} {x : Group} (hb : Tbl.find u s.blocks = some b) (hx : b.groups[g]? = some x)
    (f : Group → Group) : (s.onGrp u g f).grp u g = f x := by
  rw [State.grp, State.onGrp, State.block_onBlock_same hb, Block.group_onGroup_same hx]

theorem State.grp_onGrp_of_ne {u g v h : Nat} (hne : (v, h) ≠ (u, g)) (s : State) (f : Group → Group) : (s.onGrp u g f).grp v h = s.grp v h := by
  by_cases hv : v = u
  · subst hv
    exact State.block_onBlock_keeps (·.group h) (fun b => Block.group_onGroup_of_ne (fun hg => hne (by rw [hg])) b f) s v v
  · rw [State.grp, State.onGrp, State.block_onBlock_of_ne hv, State.grp]

/-! Sending parts -/

@[simp] theorem State.count_blocks (s : State) (d vf code n : Nat) : (s.count d vf code n).blocks = s.blocks := by
  simp [State.count, apply_ite State.blocks]
@[simp] theorem State.count_parts (s : State) (d vf code n : Nat) : (s.count d vf code n).parts = s.parts := by
  simp [State.count, apply_ite State.parts]
@[simp] theorem State.count_issues (s : State) (d vf code n : Nat) : (s.count d vf code n).issues = s.issues := by
  simp [State.count, apply_ite State.issues]
@[simp] theorem State.count_nextId (s : State) (d vf code n : Nat) : (s.count d vf code n).nextId = s.nextId := by
  simp [State.count, apply_ite State.nextId]
@[simp] theorem State.count_focus (s : State) (d vf code n : Nat) : (s.count d vf code n).focus = s.focus := by
  simp [State.count, apply_ite State.focus]

/-- A lookup of the distribution table changes a core's cache of it alone. -/
theorem State.lookUp_cases (s : State) (p : Part) : (s.lookUp p).1 = s ∨ ∃ c e, (s.lookUp p).1 = s.cacheDist c e := by
  simp only [State.lookUp]
  split
  · exact .inr ⟨_, _, rfl⟩
  · exact .inl rfl

theorem State.lookUp_keeps {α : Type} (view : State → α) (h : ∀ (s : State) c f, view (s.onCore c f) = view s) (s : State) (p : Part) :
    view (s.lookUp p).1 = view s := by
  obtain hs | ⟨c, e, hs⟩ := s.lookUp_cases p <;> simp [hs, State.cacheDist, h]

/-- The state but for cores and counts: what the sending of parts leaves, beside the parts and their numbers. -/
def State.sendView (s : State) : Tbl Block × List Issue × Focus := (s.blocks, s.issues, s.focus)

@[simp] theorem State.send_sendView (s : State) (p : Part) : (s.send p).sendView = s.sendView :=
  s.lookUp_keeps State.sendView (fun _ _ _ => rfl) p

@[simp] theorem State.send_nextId (s : State) (p : Part) : (s.send p).nextId = s.nextId + 1 := rfl

/-- What a part asks for, by its number. -/
def Part.view (p : Part) : Nat × PartKind × Nat × Nat × List W8 × Nat := (p.id, p.kind, p.va, p.len, p.data, p.clk)

theorem State.send_parts_view (s : State) (p : Part) :
    (s.send p).parts.map Part.view = s.parts.map Part.view ++ [(s.nextId, p.kind, p.va, p.len, p.data, p.clk)] := by
  have same : (s.lookUp p).1.parts = s.parts := s.lookUp_keeps State.parts (fun _ _ _ => rfl) p
  simp [State.send, same, Part.view]

@[simp] theorem State.count_sendView (s : State) (d vf code n : Nat) : (s.count d vf code n).sendView = s.sendView := by
  simp [State.sendView]

@[simp] theorem State.sendParts_sendView (ps : List Part) (s : State) : (s.sendParts ps).1.sendView = s.sendView := by
  induction ps generalizing s with
  | nil => rfl
  | cons p ps ih => simp [State.sendParts, ih]

@[simp] theorem State.sendParts_nextId (ps : List Part) (s : State) : (s.sendParts ps).1.nextId = s.nextId + ps.length := by
  induction ps generalizing s with
  | nil => rfl
  | cons p ps ih => simp [State.sendParts, ih]; omega

/-- The parts have the next numbers, in their order. -/
theorem State.sendParts_ids (ps : List Part) (s : State) : (s.sendParts ps).2 = (List.range ps.length).map (s.nextId + ·) := by
  induction ps generalizing s with
  | nil => rfl
  | cons p ps ih =>
    simp [State.sendParts, ih, List.range_succ_eq_map]
    omega

theorem State.sendParts_parts_view (ps : List Part) (s : State) : (s.sendParts ps).1.parts.map Part.view = s.parts.map Part.view ++
    ps.zipIdx.map fun p => (s.nextId + p.2, p.1.kind, p.1.va, p.1.len, p.1.data, p.1.clk) := by
  induction ps generalizing s with
  | nil => simp [State.sendParts]
  | cons p ps ih =>
    simp [State.sendParts, ih, State.send_parts_view, List.zipIdx_succ, Nat.add_assoc, Nat.add_comm 1]

/-! The start of a counted instruction -/

theorem Group.ctr_bump {c d : Nat} (hc : c < 4) (hd : d < 4) (x : Group) (f : Nat → Nat) :
    (x.bump c f).ctr d = if d = c then f (x.ctr c) else x.ctr d := by
  interval_cases c <;> interval_cases d <;> rfl

theorem Group.bump_strands (x : Group) (c : Nat) (f : Nat → Nat) : (x.bump c f).strands = x.strands := by unfold Group.bump; split <;> rfl
theorem Group.bump_vregs (x : Group) (c : Nat) (f : Nat → Nat) : (x.bump c f).vregs = x.vregs := by unfold Group.bump; split <;> rfl
theorem Group.bump_w (x : Group) (c : Nat) (f : Nat → Nat) : (x.bump c f).w = x.w := by unfold Group.bump; split <;> rfl

/-- The state in which the parts of a counted instruction have been sent, and nothing counts them yet. -/
def State.partsOpened (s : State) (ps : List Part) : State :=
  (s.newId.2.sendParts (ps.map fun p => { p with issue := s.nextId })).1

/-- The entry of a counted instruction whose parts have been sent. -/
def State.issueEntry (s : State) (e : Issue) (n : Nat) : Issue :=
  { e with id := s.nextId, left := (List.range n).map (s.nextId + 1 + ·), pc := s.focus.pc, hdr := s.focus.hdr, idx := s.focus.idx }

def State.addIssue (s : State) (e : Issue) : State := { s with issues := s.issues ++ [e] }

@[simp] theorem State.addIssue_blocks (s : State) (e : Issue) : (s.addIssue e).blocks = s.blocks := rfl
@[simp] theorem State.addIssue_nextId (s : State) (e : Issue) : (s.addIssue e).nextId = s.nextId := rfl

theorem State.partsOpened_sendView (s : State) (ps : List Part) : (s.partsOpened ps).sendView = s.sendView :=
  State.sendParts_sendView _ _

@[simp] theorem State.partsOpened_blocks (s : State) (ps : List Part) : (s.partsOpened ps).blocks = s.blocks :=
  congrArg Prod.fst (s.partsOpened_sendView ps)

theorem State.openIssue_eq (s : State) (e : Issue) {ps : List Part} (h : ps ≠ []) : s.openIssue e ps =
    ((s.partsOpened ps).addIssue (s.issueEntry e ps.length)).onGrp e.blk e.grp fun x => x.bump e.ctr (· + 1) := by
  have hfocus : (s.partsOpened ps).focus = s.focus := congrArg (fun v => v.2.2) (s.partsOpened_sendView ps)
  have ids := State.sendParts_ids (ps.map fun p => { p with issue := s.nextId }) s.newId.2
  rw [List.length_map, show s.newId.2.nextId = s.nextId + 1 from rfl] at ids
  simp only [State.openIssue, List.isEmpty_iff, h, if_false, State.issueEntry, ← ids, ← hfocus]
  rfl

theorem State.openIssue_core (s : State) (e : Issue) {ps : List Part} (h : ps ≠ []) (v : Nat) :
    ((s.openIssue e ps).block v).core = (s.block v).core := by
  rw [State.openIssue_eq s e h]
  have kept := State.block_onBlock_keeps Block.core (f := fun b => b.onGroup e.grp fun x => x.bump e.ctr (· + 1)) (fun _ => rfl)
    ((s.partsOpened ps).addIssue (s.issueEntry e ps.length)) e.blk v
  exact kept.trans (by simp [State.block])

theorem State.openIssue_issues_getLast? (s : State) (e : Issue) {ps : List Part} (h : ps ≠ []) :
    (s.openIssue e ps).issues.getLast? = some (s.issueEntry e ps.length) := by
  rw [State.openIssue_eq s e h]
  exact List.getLast?_concat

theorem issueOpens : Claims.IssueOpens := by
  intro s e ps b x hb hx hne hctr
  have hb' : Tbl.find e.blk (s.partsOpened ps).blocks = some b := (s.partsOpened_blocks ps).symm ▸ hb
  have group : (s.openIssue e ps).grp e.blk e.grp = x.bump e.ctr (· + 1) := by
    rw [State.openIssue_eq s e hne]; exact State.grp_onGrp_same hb' hx _
  refine ⟨?_, ?_, ?_, ?_, ?_, ?_, ?_, ?_, ?_⟩
  · exact s.openIssue_mem e ps
  · rw [State.openIssue_eq s e hne]; simp [State.partsOpened, State.newId]
  · rw [group, Group.ctr_bump hctr hctr, if_pos rfl]
  · intro k hk hne
    rw [group, Group.ctr_bump hctr hk, if_neg hne]
  · rw [group, Group.bump_strands]
  · rw [group, Group.bump_vregs]
  · rw [group, Group.bump_w]
  · intro v h hvh
    rw [State.openIssue_eq s e hne, State.grp_onGrp_of_ne hvh]
    simp [State.grp, State.block]
  · rw [State.openIssue_eq s e hne]
    have sent := State.sendParts_parts_view (ps.map fun p => { p with issue := s.nextId }) s.newId.2
    rw [List.zipIdx_map, List.map_map] at sent
    exact sent

end Sys2Proof.Machine
end

section
/-! PROOFS of the issue of memory accesses (R62, R183, R198 to R205): the checks that all strands pass, and the parts that an access
becomes. -/

namespace Sys2Proof.Machine

theorem address_eq (base : Nat) (index : W32) (off : BitVec 12) (n : Nat) : Claims.address base index off n = ea base index off n := by
  have key : keyOf base = base / 2 ^ 48 % 2 ^ 16 := by rw [keyOf, bits_eq_div_mod]
  have offset : offOf base = base % 2 ^ 48 := by rw [offOf, bits_from_zero]
  rw [Claims.address, ea, key, offset, wrapN]
  push_cast
  rfl

/-- Strands that all pass the checks change nothing, and each brings its own operands. -/
theorem State.checkAll_of_pass {s : State} {u g align need : Nat} {opnds : Nat → Nat × List W8 × List W8} {cov : List Nat}
    (h : ∀ k ∈ cov, s.checkMem u (opnds k).1 align need = none ∧ ((s.grp u g).strand k).replay = none) :
    s.checkAll u g align need opnds cov = (s, cov.map fun k => (k, (opnds k).1, (opnds k).2.1, (opnds k).2.2, false)) := by
  induction cov with
  | nil => rfl
  | cons k cov ih =>
    obtain ⟨hpass, hreplay⟩ := h k List.mem_cons_self
    rw [State.checkAll, ih fun j hj => h j (List.mem_cons_of_mem k hj)]
    simp [Strand.operands, hreplay, hpass]

end Sys2Proof.Machine

namespace Sys2Proof.Claims.Access
open Machine

/-- The operands that a form's checked strands bring. -/
def brought (a : Claims.Access) (cov : List Nat) : List (Nat × Nat × List W8 × List W8 × Bool) :=
  cov.map fun k => (k, a.va k, a.data k, a.cmp k, false)

/-- The strands of a collapsed access have the same operands. -/
def Uniform (a : Claims.Access) (cov : List Nat) : Prop :=
  a.once = true → ∀ j ∈ cov, ∀ k ∈ cov, a.va j = a.va k ∧ a.data j = a.data k ∧ a.cmp j = a.cmp k

theorem partsOf_brought {a : Claims.Access} {cov : List Nat} (hne : cov ≠ []) (h : a.Uniform cov) (t : State) (u g : Nat) :
    (t.partsOf u g a.kind a.size a.once (a.brought cov)).map (fun q => { q with hint := a.hint, aop := a.aop, ty := a.ty }) =
      a.parts t u g cov := by
  cases honce : a.once with
  | false =>
    rw [State.partsOf, if_neg Bool.false_ne_true, brought, List.map_map, List.map_map, parts, if_neg (by rw [honce]; exact Bool.false_ne_true)]
    rfl
  | true =>
    obtain ⟨c, hc⟩ : ∃ c, c = cov.headD 0 := ⟨_, rfl⟩
    have mem : c ∈ cov := by
      obtain ⟨k, rest, rfl⟩ := List.exists_cons_of_ne_nil hne
      exact hc ▸ List.mem_cons_self
    have same : ∀ k ∈ cov, (a.va k, a.data k, a.cmp k) = (a.va c, a.data c, a.cmp c) := fun k hk => by
      obtain ⟨hva, hdata, hcmp⟩ := h honce k hk c mem
      rw [hva, hdata, hcmp]
    have one : ((a.brought cov).map fun e => (e.2.1, e.2.2.1, e.2.2.2.1)).dedup = [(a.va c, a.data c, a.cmp c)] := by
      have constant : (a.brought cov).map (fun e => (e.2.1, e.2.2.1, e.2.2.2.1)) = cov.map fun _ => (a.va c, a.data c, a.cmp c) := by
        rw [brought, List.map_map]
        exact List.map_congr_left same
      rw [constant, List.map_const', List.replicate_dedup (by simp [hne])]
    have all : ((a.brought cov).filter fun e => (e.2.1, e.2.2.1, e.2.2.2.1) == (a.va c, a.data c, a.cmp c)).map Prod.fst = cov := by
      have every : cov.filter ((fun e => (e.2.1, e.2.2.1, e.2.2.2.1) == (a.va c, a.data c, a.cmp c)) ∘ fun k =>
          (k, a.va k, a.data k, a.cmp k, false)) = cov :=
        List.filter_eq_self.mpr fun k hk => beq_iff_eq.mpr (same k hk)
      rw [brought, List.filter_map, every, List.map_map]
      exact List.map_id cov
    rw [State.partsOf, if_pos rfl, one, parts, if_pos honce, ← hc, List.map_singleton, List.map_singleton, all]

theorem length_parts_of_once {a : Claims.Access} (h : a.once = true) (t : State) (u g : Nat) (cov : List Nat) :
    (a.parts t u g cov).length = 1 := by
  simp [parts, h]

theorem parts_ne_nil {a : Claims.Access} {cov : List Nat} (h : cov ≠ []) (t : State) (u g : Nat) : a.parts t u g cov ≠ [] := by
  rw [parts]; split <;> simp [h]

/-- The state in which a form's parts are on their way. -/
def opened (a : Claims.Access) (t : State) (u g : Nat) (cov : List Nat) : State :=
  (if a.once then t.count (t.block u).dist (vfNum (t.block u).dist (t.block u).vf) 0x08 1 else t).openIssue a.issue (a.parts t u g cov)

theorem memAccess_of_pass {a : Claims.Access} {t : State} {u g : Nat} {p : Pr} (hblk : a.issue.blk = u) (hgrp : a.issue.grp = g)
    (hsize : a.issue.size = a.size) (hne : t.covered p ≠ [])
    (hpass : ∀ k ∈ t.covered p, t.checkMem u (a.va k) a.size a.need = none ∧ ((t.grp u g).strand k).replay = none)
    (hsame : a.Uniform (t.covered p)) :
    t.memAccess a.issue a.kind a.size a.need a.once p a.hint a.aop a.ty (fun j => (a.va j, a.data j, a.cmp j)) =
      if a.kind == .load then (List.range (a.parts t u g (t.covered p)).length).foldl (fun y j => y.l1Serve (t.nextId + 1 + j))
        (a.opened t u g (t.covered p))
      else a.opened t u g (t.covered p) := by
  have counted : t.countCollapsed u a.once (a.parts t u g (t.covered p)) =
      if a.once then t.count (t.block u).dist (vfNum (t.block u).dist (t.block u).vf) 0x08 1 else t := by
    rw [State.countCollapsed]
    split
    case isTrue honce => rw [length_parts_of_once honce]
    case isFalse => rfl
  have number : (if a.once then t.count (t.block u).dist (vfNum (t.block u).dist (t.block u).vf) 0x08 1 else t).nextId = t.nextId := by
    split <;> simp
  have checked := State.checkAll_of_pass (opnds := fun j => (a.va j, a.data j, a.cmp j)) hpass
  simp only [State.memAccess, hblk, hgrp, hsize, checked]
  have parts := partsOf_brought hne hsame t u g
  rw [brought] at parts
  simp only [parts, counted, number]
  rfl

end Sys2Proof.Claims.Access

namespace Sys2Proof.Machine

/-- The data operand of an ST takes as many words as its size has (R199). -/
theorem ceilDiv_size (k : Fin 5) : ceilDiv (2 ^ k.val) 4 = if k.val = 4 then 4 else if k.val = 3 then 2 else 1 := by
  revert k; decide

/-- A form that runs as one `memAccess` with what `accessOf` says of it. -/
def SendsAccess (i : Instr) : Prop :=
  ∃ body : List Elem → State → State, (∀ s, exec i s = issue i s body) ∧
    ∀ es t u g a, t.who = some (u, g, false) → Claims.accessOf u g (t.grp u g) i = some a →
      body es t = t.memAccess a.issue a.kind a.size a.need a.once (predOf i) a.hint a.aop a.ty fun j => (a.va j, a.data j, a.cmp j)

theorem sendsAccess_ld (k : Fin 5) (d b x : Opd) (p : Pr) (sx : Bool) (hint : BitVec 3) (off : BitVec 12) :
    SendsAccess (.ld k d b x p sx hint off) := by
  refine ⟨_, fun s => show execLd k d b x p sx hint off s = _ from rfl, fun es t u g a who ha => ?_⟩
  obtain rfl := Option.some.inj ha
  simp only [who, address_eq]
  rfl

theorem sendsAccess_st (k : Fin 5) (d b x : Opd) (p : Pr) (hint : BitVec 3) (off : BitVec 12) : SendsAccess (.st k d b x p hint off) := by
  refine ⟨_, fun s => show execSt k d b x p hint off s = _ from rfl, fun es t u g a who ha => ?_⟩
  obtain rfl := Option.some.inj ha
  simp only [who, address_eq, ceilDiv_size]
  rfl

theorem sendsAccess_atom (d b x c : Opd) (p : Pr) (ty : BitVec 3) (aop : BitVec 4) (hint : BitVec 3) (off : BitVec 12) :
    SendsAccess (.atom d b x c p ty aop hint off) := by
  refine ⟨_, fun s => show execAtom d b x c p ty aop hint off s = _ from rfl, fun es t u g a who ha => ?_⟩
  obtain rfl := Option.some.inj ha
  simp only [who, address_eq]
  rfl

theorem sendsAccess_red (d b x : Opd) (p : Pr) (ty : BitVec 3) (aop : BitVec 4) (hint : BitVec 3) (off : BitVec 12) :
    SendsAccess (.red d b x p ty aop hint off) := by
  refine ⟨_, fun s => show execRed d b x p ty aop hint off s = _ from rfl, fun es t u g a who ha => ?_⟩
  obtain rfl := Option.some.inj ha
  simp only [who, address_eq]
  rfl

/-- The parts of the newest counted instruction, if it has this number, make an entry of eq7 (R204). -/
def State.queuePosted (y : State) (id u g : Nat) : State :=
  match y.issues.getLast? with
  | some e => if e.id = id then y.onCore (y.block u).core fun c => { c with eq7 := c.eq7 ++ [{ id := id, blk := u, grp := g, parts := e.left }] }
    else y
  | none => y

theorem execPst_eq (d b x : Opd) (p : Pr) (ty : BitVec 3) (off : BitVec 12) :
    ∃ body : List Elem → State → State, (∀ s, exec (.pst d b x p ty off) s = issue (.pst d b x p ty off) s body) ∧
      ∀ es t u g a, t.who = some (u, g, false) → Claims.accessOf u g (t.grp u g) (.pst d b x p ty off) = some a →
        body es t = (t.memAccess a.issue a.kind a.size a.need a.once p a.hint a.aop a.ty fun j => (a.va j, a.data j, a.cmp j)).queuePosted
          t.nextId u g := by
  refine ⟨_, fun s => show execPst d b x p ty off s = _ from rfl, fun es t u g a who ha => ?_⟩
  obtain rfl := Option.some.inj ha
  simp only [who, address_eq]
  rfl

/-- The entry of eq7 has the parts that were opened. -/
theorem State.queuePosted_openIssue (t : State) (e : Issue) {ps : List Part} (h : ps ≠ []) (u g : Nat) :
    (t.openIssue e ps).queuePosted t.nextId u g = (t.openIssue e ps).onCore (t.block u).core fun c =>
      { c with eq7 := c.eq7 ++ [{ id := t.nextId, blk := u, grp := g, parts := (List.range ps.length).map (t.nextId + 1 + ·) }] } := by
  simp only [State.queuePosted, State.openIssue_issues_getLast? t e h, State.openIssue_core t e h]
  exact if_pos rfl

theorem accessOf_issue {u g : Nat} {x : Group} {i : Instr} {a : Claims.Access} (h : Claims.accessOf u g x i = some a) :
    a.issue.blk = u ∧ a.issue.grp = g ∧ a.issue.size = a.size ∧ (a.once = true → a.cmp = fun _ => []) := by
  unfold Claims.accessOf at h
  split at h
  · obtain rfl := Option.some.inj h
    exact ⟨rfl, rfl, rfl, fun _ => rfl⟩
  · obtain rfl := Option.some.inj h
    exact ⟨rfl, rfl, rfl, fun _ => rfl⟩
  · obtain rfl := Option.some.inj h
    exact ⟨rfl, rfl, rfl, nofun⟩
  · obtain rfl := Option.some.inj h
    exact ⟨rfl, rfl, rfl, nofun⟩
  · obtain rfl := Option.some.inj h
    exact ⟨rfl, rfl, rfl, nofun⟩
  · exact absurd h nofun

theorem accessesSend : Claims.AccessIssue := by
  intro i s t u g ks a hr ht hk ha hne hpass hsame
  have who := State.who_of_path hk
  obtain ⟨hblk, hgrp, hsize, hcmp⟩ := accessOf_issue ha
  have uniform : a.Uniform (t.covered (predOf i)) := fun once j hj k hk => by
    obtain ⟨hva, hdata⟩ := hsame once j hj k hk
    exact ⟨hva, hdata, by rw [hcmp once]⟩
  have sent := Claims.Access.memAccess_of_pass hblk hgrp hsize hne hpass uniform
  have runs : SendsAccess i → exec i s = .next (if a.kind == .load then (List.range (a.parts t u g (t.covered (predOf i))).length).foldl
      (fun y j => y.l1Serve (t.nextId + 1 + j)) (a.opened t u g (t.covered (predOf i))) else a.opened t u g (t.covered (predOf i))).passes := by
    rintro ⟨body, hexec, hbody⟩
    rw [hexec, issue_runs i s body hr, ht, hbody _ t u g a who ha, sent]
  cases i
  case ld k d b x p sx hint off =>
    rw [runs (sendsAccess_ld ..)]
    obtain rfl := Option.some.inj ha
    rfl
  case st k d b x p hint off =>
    rw [runs (sendsAccess_st ..)]
    obtain rfl := Option.some.inj ha
    rfl
  case atom d b x c p ty aop hint off =>
    rw [runs (sendsAccess_atom ..)]
    obtain rfl := Option.some.inj ha
    rfl
  case red d b x p ty aop hint off =>
    rw [runs (sendsAccess_red ..)]
    obtain rfl := Option.some.inj ha
    rfl
  case pst d b x p ty off =>
    obtain ⟨body, hexec, hbody⟩ := execPst_eq d b x p ty off
    rw [hexec, issue_runs _ s body hr, ht, hbody _ t u g a who ha]
    have queued := State.queuePosted_openIssue t a.issue (Claims.Access.parts_ne_nil (a := a) hne t u g) u g
    obtain rfl := Option.some.inj ha
    exact congrArg (fun y => Host.Outcome.next (State.passes y)) ((congrArg (State.queuePosted · t.nextId u g) sent).trans queued)
  all_goals exact absurd ha nofun

/-! LDW and STW -/

theorem wEa_eq (t : State) (b x : Opd) (off : BitVec 12) (n : Nat) : t.wEa b x off n =
    Claims.address (match b with | .w n => t.readW64 n.val | _ => 0) (match x with | .w n => t.readW n.val | _ => 0) off n := by
  rw [address_eq]; rfl

theorem Group.byReplay_of_none {x : Group} {ks : List Nat} (h : ∀ k ∈ ks, (x.strand k).replay = none) : x.byReplay ks = [(none, ks)] := by
  obtain rfl | hne := eq_or_ne ks []
  · rfl
  · have one : (ks.map fun k => (x.strand k).replay).dedup = [none] := by
      rw [List.map_congr_left (g := fun _ => none) h, List.map_const', List.replicate_dedup (by simp [hne])]
    have all : (ks.filter fun k => (x.strand k).replay == none) = ks := List.filter_eq_self.mpr fun k hk => by simp [h k hk]
    rw [Group.byReplay, if_neg (by simpa using hne), one, List.map_singleton, all]

theorem State.wAccess_of_pass {t : State} {u g : Nat} {e : Issue} {kind : PartKind} {va n need : Nat} {p : Pr} (hblk : e.blk = u)
    (hgrp : e.grp = g) (hpass : t.checkMem u va n need = none) (hnew : ∀ k ∈ t.covered p, ((t.grp u g).strand k).replay = none)
    (data : List W8) (hint : Nat) : t.wAccess e kind va n need data p hint =
      (let y := t.openIssue e [{ t.strandPart u g (t.covered p) kind va n with data := data, hint := hint }]
       if kind == .load then y.l1Serve (t.nextId + 1) else y).advance := by
  rw [State.wAccess]
  simp only [hblk, hgrp, hpass]
  split
  · contradiction
  · simp only [Group.byReplay_of_none hnew, State.wRequests, hpass]
    rfl

theorem exec_ldw_of_who {s t : State} {u g : Nat} {h : Bool} {d b x : Opd} {p : Pr} {ty hint : BitVec 3} {off : BitVec 12}
    (hr : s.runs (.ldw d b x p ty hint off) = true) (ht : (s.operands (.ldw d b x p ty hint off)).1 = t) (who : t.who = some (u, g, h)) :
    exec (.ldw d b x p ty hint off) s = .next (t.wAccess
      { id := 0, blk := u, grp := g, ctr := 0, dest := d, bits := 8 * 2 ^ ty.toNat, size := 2 ^ ty.toNat } .load
      (t.wEa b x off (2 ^ ty.toNat)) (2 ^ ty.toNat) rightRD [] p hint.toNat).endPass := by
  rw [show exec (.ldw d b x p ty hint off) s = execLdw d b x p ty hint off s from rfl, execLdw, issueMove_runs _ _ _ hr, ht]
  split
  case h_1 q hk => simp [State.who, hk] at who
  case h_2 => simp only [who]

theorem exec_stw_of_who {s t : State} {u g : Nat} {h : Bool} {d b x : Opd} {p : Pr} {ty hint : BitVec 3} {off : BitVec 12}
    (hr : s.runs (.stw d b x p ty hint off) = true) (ht : (s.operands (.stw d b x p ty hint off)).1 = t) (who : t.who = some (u, g, h)) :
    exec (.stw d b x p ty hint off) s = .next (t.wAccess { id := 0, blk := u, grp := g, ctr := 1, size := 2 ^ ty.toNat } .store
      (t.wEa b x off (2 ^ ty.toNat)) (2 ^ ty.toNat) rightW (t.wBytes d (2 ^ ty.toNat)) p hint.toNat).endPass := by
  rw [show exec (.stw d b x p ty hint off) s = execStw d b x p ty hint off s from rfl, execStw, issueMove_runs _ _ _ hr, ht]
  split
  case h_1 q hk => simp [State.who, hk] at who
  case h_2 => simp only [who]

theorem who_of_path_or_handler {t : State} {u g : Nat} (h : (∃ P, t.focus.kind = .path u g P) ∨ t.focus.kind = .handler u g) :
    ∃ b, t.who = some (u, g, b) := by
  obtain ⟨P, hk⟩ | hk := h
  · exact ⟨false, by rw [State.who, hk]⟩
  · exact ⟨true, by rw [State.who, hk]⟩

theorem uniformAccess : Claims.UniformAccess := by
  intro s t u g d b x p ty hint off hk va part hnew
  obtain ⟨h, who⟩ := who_of_path_or_handler hk
  have address : t.wEa b x off (2 ^ ty.toNat) = va := wEa_eq t b x off _
  clear_value va
  constructor
  · intro hr ht hpass
    rw [exec_ldw_of_who hr ht who, address, State.wAccess_of_pass (u := u) (g := g) ?blk ?grp hpass hnew]
    case blk => rfl
    case grp => rfl
    simp only [State.passes, beq_self_eq_true, if_true]
    rfl
  · intro hr ht hpass
    rw [exec_stw_of_who hr ht who, address, State.wAccess_of_pass (u := u) (g := g) ?blk ?grp hpass hnew]
    case blk => rfl
    case grp => rfl
    simp only [State.passes, beq_iff_eq, reduceCtorEq, if_false]
    rfl

/-- Settles O17: strands that pass the checks bring their own operands, so that the parts are those of `accessOf`, and a counted
instruction opens with them. -/
theorem accessIssue : Obligations.AccessIssue := ⟨accessesSend, uniformAccess, issueOpens⟩

end Sys2Proof.Machine
end

section
/-! PROOFS of barrier objects, remote arrivals and GSYNC (R34, R266 to R271). -/

namespace Sys2Proof.Machine

/-! Changes of several elements of a list -/

theorem getElem?_foldl_modify {α : Type} (f : α → α) {ks : List Nat} (hks : ks.Nodup) (l : List α) (k : Nat) :
    (ks.foldl (fun l k => l.modify k f) l)[k]? = if k ∈ ks then l[k]?.map f else l[k]? := by
  induction ks generalizing l with
  | nil => simp
  | cons j ks ih =>
    obtain ⟨hj, hks⟩ := List.nodup_cons.mp hks
    rw [List.foldl_cons, ih hks]
    by_cases hk : k = j
    · subst hk
      simp [hj]
    · simp [hk, List.getElem?_modify_ne f _ (Ne.symm hk)]

theorem Group.onStrands_strands (x : Group) (ks : List Nat) (f : Strand → Strand) :
    (x.onStrands ks f).strands = ks.foldl (fun l k => l.modify k f) x.strands := by
  induction ks generalizing x with
  | nil => rfl
  | cons k ks ih => exact ih (x.onStrand k f)

theorem Group.strand_onStrands {x : Group} {ks : List Nat} (hks : ks.Nodup) {k : Nat} (hk : k ∈ ks) (hw : k < x.width) (f : Strand → Strand) :
    (x.onStrands ks f).strand k = f (x.strand k) := by
  have here : x.strands[k]? = some x.strands[k] := List.getElem?_eq_getElem hw
  simp [Group.strand, List.getD_eq_getElem?_getD, Group.onStrands_strands, getElem?_foldl_modify f hks, hk, here]

theorem Block.foldl_onGroup_groups (b : Block) (gs : List Nat) (f : Group → Group) :
    (gs.foldl (fun b g => b.onGroup g f) b).groups = gs.foldl (fun l g => l.modify g f) b.groups := by
  induction gs generalizing b with
  | nil => rfl
  | cons g gs ih => exact ih (b.onGroup g f)

theorem Block.group_foldl_onGroup {b : Block} {gs : List Nat} (hgs : gs.Nodup) {g : Nat} (hg : g ∈ gs) (hlt : g < b.groups.length)
    (f : Group → Group) : (gs.foldl (fun b g => b.onGroup g f) b).group g = f (b.group g) := by
  have here : b.groups[g]? = some b.groups[g] := List.getElem?_eq_getElem hlt
  simp [Block.group, List.getD_eq_getElem?_getD, Block.foldl_onGroup_groups, getElem?_foldl_modify f hgs, hg, here]

theorem le_foldl_max {α : Type} (f : α → Nat) {l : List α} {a : α} (h : a ∈ l) (n : Nat) : f a ≤ l.foldl (fun m x => max m (f x)) n := by
  have start (l : List α) (n : Nat) : n ≤ l.foldl (fun m x => max m (f x)) n := by
    induction l generalizing n with
    | nil => exact le_rfl
    | cons b l ih => exact (le_max_left n (f b)).trans (ih _)
  induction l generalizing n with
  | nil => exact absurd h List.not_mem_nil
  | cons b l ih =>
    obtain rfl | h := List.mem_cons.mp h
    · exact (le_max_right n (f a)).trans (start l _)
    · exact ih h _

/-! GSYNC -/

theorem Group.living_nodup (x : Group) : x.living.Nodup := List.nodup_range.filter _
theorem Group.lt_width_of_mem_living {x : Group} {k : Nat} (h : k ∈ x.living) : k < x.width :=
  List.mem_range.mp (List.mem_of_mem_filter h)
theorem Block.liveGroups_nodup (b : Block) : b.liveGroups.Nodup := List.nodup_range.filter _
theorem Block.lt_length_of_mem_liveGroups {b : Block} {g : Nat} (h : g ∈ b.liveGroups) : g < b.groups.length :=
  List.mem_range.mp (List.mem_of_mem_filter h)

theorem Group.arrived_iff (x : Group) : x.arrived = true ↔
    x.anyParked = false ∧ x.handler = none ∧ ∀ k ∈ x.living, ∃ n, (x.strand k).wait = .gsync n := by
  have sync (w : Wait) : w.isSync = true ↔ ∃ n, w = .gsync n := by cases w <;> simp [Wait.isSync]
  simp [Group.arrived, sync, and_assoc]

/-- The largest tick of all live groups' strands. -/
def Block.syncTime (b : Block) : Nat := b.liveGroups.foldl (fun a g => max a ((b.group g).pathTime (b.group g).living)) 0

theorem Block.tick_le_syncTime {b : Block} {g k : Nat} (hg : g ∈ b.liveGroups) (hk : k ∈ (b.group g).living) :
    ((b.group g).strand k).tick ≤ b.syncTime :=
  (le_foldl_max (fun k => ((b.group g).strand k).tick) hk 0).trans
    (le_foldl_max (fun g => (b.group g).pathTime (b.group g).living) hg 0)

theorem Block.settleSync_strand {b : Block} (h : ∀ g ∈ b.liveGroups, (b.group g).arrived = true) {g k : Nat} (hg : g ∈ b.liveGroups)
    (hk : k ∈ (b.group g).living) : (b.settleSync.group g).strand k =
      { ((b.group g).strand k).goOn with tick := max ((b.group g).strand k).tick b.syncTime } := by
  have release : (b.liveGroups.isEmpty || !b.liveGroups.all fun g => (b.group g).arrived) = false := by
    simpa [List.ne_nil_of_mem hg] using h
  rw [Block.settleSync]
  simp only [release, Bool.false_eq_true, if_false]
  rw [Block.group_foldl_onGroup b.liveGroups_nodup hg (Block.lt_length_of_mem_liveGroups hg),
    Group.strand_onStrands (Group.living_nodup _) hk (Group.lt_width_of_mem_living hk)]
  rfl

theorem syncReleases : Claims.SyncReleases := by
  intro b hlive
  constructor
  · intro arrived g hg k hk n y z hy
    have hz : z = { y.goOn with tick := max y.tick b.syncTime } :=
      Block.settleSync_strand (fun g hg => (Group.arrived_iff _).mpr (arrived g hg)) hg hk
    have past : y.goOn = y.pastWait 1 n := by rw [Strand.goOn, hy]
    rw [hz, past]
    refine ⟨rfl, ?_, fun h hh j hj => (Block.tick_le_syncTime hh hj).trans (le_max_right _ _)⟩
    by_cases hn : y.idx < n <;> simp [Strand.pastWait, Strand.past, Strand.goto, Focus.nextClause, hn]
  · rintro ⟨g, hg, k, hk, hwait⟩
    have missing : (b.group g).arrived ≠ true := fun h => by
      obtain ⟨-, -, sync⟩ := (Group.arrived_iff _).mp h
      obtain ⟨n, hn⟩ := sync k hk
      exact hwait n hn
    have held : (b.liveGroups.all fun g => (b.group g).arrived) = false := by
      rw [List.all_eq_false]
      exact ⟨g, hg, missing⟩
    rw [Block.settleSync]
    simp [held]

/-! Barrier objects -/

theorem State.newPhase_eq (t : State) (u off time : Nat) (x : Barrier) : t.newPhase u off time x = Claims.phaseTaken t u off time x := by
  simp only [State.newPhase, Claims.phaseTaken, Block.wakeBarrier, Barrier.bytes, beq_iff_eq]

theorem State.setBarrier_eq (t : State) (u off time : Nat) (x : Barrier) : t.setBarrier u off time x = Claims.barrierAfter t u off time x := by
  simp only [State.setBarrier, Claims.barrierAfter, State.newPhase_eq, Barrier.bytes]

/-! BRMT_ARRIVAL -/

theorem State.applyArrival_of_pending {s : State} {u off : Nat} {b : Block} (hb : Tbl.find u s.blocks = some b)
    (hp : (s.barrier u off).pending ≠ 0) (id tick : Nat) : s.applyArrival u off id tick =
      (Claims.barrierAfter (s.onBlock u fun z => { z with clk := max tick b.clk }) u off (max tick b.clk)
        { s.barrier u off with pending := (s.barrier u off).pending - 1 }).brmtDone id := by
  simp only [State.applyArrival, hp, if_false, State.block_of_find hb, State.setBarrier_eq]

theorem State.applyArrival_of_none_pending {s : State} {u off : Nat} {b : Block} (hb : Tbl.find u s.blocks = some b)
    (hp : (s.barrier u off).pending = 0) (id tick : Nat) : s.applyArrival u off id tick = (s.countErr b.dist 5 1).brmtDone id := by
  simp only [State.applyArrival, hp, if_true, State.block_of_find hb]

/-- A block has a path that waits until an arrival is taken. -/
def Block.sent (b : Block) (id : Nat) : Prop := ∃ x ∈ b.groups, ∃ y ∈ x.strands, ∃ n, y.wait = .brmt id n

theorem Block.sent_iff (b : Block) (id : Nat) : (b.groups.any fun x => x.strands.any fun t => t.wait.isArrival id) = true ↔ b.sent id := by
  have arrival (w : Wait) : w.isArrival id = true ↔ ∃ n, w = .brmt id n := by cases w <;> simp [Wait.isArrival]
  simp [Block.sent, arrival]

theorem firstWith_eq_some_of_unique {α : Type} {p : α → Bool} {l : List α} {a : α} (ha : a ∈ l) (hp : p a = true)
    (h : ∀ b ∈ l, p b = true → b = a) : firstWith p l = some a := by
  induction l with
  | nil => exact absurd ha List.not_mem_nil
  | cons b l ih =>
    by_cases hb : p b = true
    · rw [firstWith, if_pos hb, h b List.mem_cons_self hb]
    · have hne : a ≠ b := fun e => hb (e ▸ hp)
      rw [firstWith, if_neg hb, ih (List.mem_of_ne_of_mem hne ha) fun c hc => h c (List.mem_cons_of_mem b hc)]

theorem firstWith_eq_none {α : Type} {p : α → Bool} {l : List α} (h : ∀ b ∈ l, p b ≠ true) : firstWith p l = none := by
  induction l with
  | nil => rfl
  | cons b l ih => rw [firstWith, if_neg (h b List.mem_cons_self), ih fun c hc => h c (List.mem_cons_of_mem b hc)]

theorem State.brmtLost_of_sender {s : State} {id : Nat} {e : Nat × Block} (he : e ∈ s.blocks) (hsent : e.2.sent id)
    (honly : ∀ q ∈ s.blocks, q.2.sent id → q = e) : s.brmtLost id = s.countErr e.2.dist 5 1 := by
  have found := firstWith_eq_some_of_unique (p := fun e : Nat × Block => e.2.groups.any fun x => x.strands.any fun t => t.wait.isArrival id)
    he ((Block.sent_iff _ _).mpr hsent) fun q hq hp => honly q hq ((Block.sent_iff _ _).mp hp)
  rw [State.brmtLost, State.brmtFrom, found]
  rfl

theorem State.brmtLost_of_none {s : State} {id : Nat} (h : ∀ e ∈ s.blocks, ¬ e.2.sent id) : s.brmtLost id = s := by
  have found := firstWith_eq_none (p := fun e : Nat × Block => e.2.groups.any fun x => x.strands.any fun t => t.wait.isArrival id)
    fun e he hp => h e he ((Block.sent_iff _ _).mp hp)
  rw [State.brmtLost, State.brmtFrom, found]
  rfl

theorem remoteArrival : Claims.RemoteArrival := by
  intro s u off id tick
  have step : exec (.brmtArrival u off id tick) s = execBrmtArrival u off id tick s := rfl
  rw [step, execBrmtArrival]
  refine ⟨?_, ?_, ?_, ?_, ?_⟩
  · intro b hb hres hp
    simp only [hb, hres, if_true, State.applyArrival_of_pending hb hp]
  · intro b hb hres hp
    simp only [hb, hres, if_true, State.applyArrival_of_none_pending hb hp]
  · intro b hb hres
    simp only [hb, hres, Bool.false_eq_true, if_false]
  · intro hb e he hsent honly
    simp only [hb, State.brmtLost_of_sender he hsent honly]
  · intro hb hnone
    have silent : ∀ e ∈ s.blocks, ¬ e.2.sent id := fun e he ⟨x, hx, y, hy, n, hn⟩ => hnone e he x hx y hy n hn
    simp only [hb, State.brmtLost_of_none silent]

end Sys2Proof.Machine
end

section
/-! PROOFS of the instructions on barrier objects, BRMT and GSYNC (R266 to R271). -/

namespace Sys2Proof.Machine

theorem State.pathStrands_of_path {t : State} {u g : Nat} {ks : List Nat} (h : t.focus.kind = .path u g ks) : t.pathStrands = ks := by
  simp only [State.pathStrands, h]

/-- An instruction on a barrier object that passes the checks of R266. -/
theorem barrierOp_runs {i : Instr} {s t : State} {u g : Nat} {ks : List Nat} {a : Opd} (body : Nat → Nat → Nat → State → State)
    (hk : t.focus.kind = .path u g ks) (hpass : (t.block u).barFault ((t.grp u g).uniOpd a).toNat = none) (hr : s.runs i = true)
    (ht : (s.operands i).1 = t) : barrierOp i a s body = .next (body u g ((t.grp u g).uniOpd a).toNat t).endPass := by
  rw [barrierOp, issueMove_runs i s _ hr, ht]
  simp only [State.who_of_path hk, hpass]

theorem State.waitIn_of_path {t : State} {u g : Nat} {ks : List Nat} (h : t.focus.kind = .path u g ks) (w : Wait) :
    t.waitIn w = t.onGrp u g fun x => x.onStrands ks fun y => if y.st = .active then { y with wait := w } else y := by
  simp only [State.waitIn, h, beq_iff_eq]

theorem State.softRead_focus_of_handler {s : State} {u g : Nat} (h : s.focus.kind = .handler u g) (v k : Nat) (i : Instr) :
    (s.softRead v k i).focus = s.focus := by
  simp only [State.softRead]
  split
  · rfl
  · simp only [State.countErr_focus, State.onGrp_focus, h]

/-- The reading of the operands keeps who issues the instruction. -/
theorem State.who_operands_eq (s : State) (i : Instr) : (s.operands i).1.who = s.who := by
  cases hk : s.focus.kind
  case path u g ks => rw [State.who_operands hk, State.who_of_path hk]
  case handler u g =>
    have who : s.who = some (u, g, true) := by simp only [State.who, hk]
    simp only [State.operands, who]
    rw [State.who, State.popSrcs_focus, State.softRead_focus_of_handler hk, hk]
  case thread q => simp only [State.operands, State.who, hk]
  case none => simp only [State.operands, State.who, hk]

/-- BWAIT of a path that does not wait in it begins with the checks (R270). -/
theorem execBwait_of_not_waiting {s : State} (h1 : ∀ time, s.pathWait ≠ .bdone time) (h2 : ∀ o k, s.pathWait ≠ .bwait o k) (a b : Opd) (bp : Pr) :
    execBwait a b bp s = barrierOp (.bwait a b bp) a s fun u g off s =>
      if (s.barrier u off).phase != ((s.grp u g).uniOpd b).getLsbD 0 then
        (s.onGrp u g fun x => x.raise s.pathStrands (Tbl.getD off (s.block u).barTimes 0)).advance
      else s.waitIn (.bwait off (((s.grp u g).uniOpd b).getLsbD 0)) := by
  rw [execBwait]
  split
  · exact absurd ‹_› (h1 _)
  · exact absurd ‹_› (h2 _ _)
  · rfl

theorem State.putB_focus (t : State) (n : Nat) (v : Bool) : (t.putB n v).focus = t.focus := by
  unfold State.putB
  split <;> simp [apply_ite State.focus]

theorem State.putB_barTimes {t : State} {u g : Nat} {ks : List Nat} (h : t.focus.kind = .path u g ks) (n : Nat) (v : Bool) (w : Nat) :
    ((t.putB n v).block w).barTimes = (t.block w).barTimes := by
  simp only [State.putB, h]
  exact State.block_onBlock_keeps Block.barTimes (f := fun b => b.onGroup g fun x => x.setB n v) (fun _ => rfl) t u w

/-- A local arrival with a credit has been counted. -/
def arrivedAt (t : State) (u g : Nat) (ks : List Nat) (off credit : Nat) : State :=
  Claims.barrierAfter (t.scrTime u g ks 0).1 u off (t.scrTime u g ks 0).2 { t.barrier u off with
    pending := (t.barrier u off).pending - 1, xbytes := ((t.barrier u off).xbytes + credit) % 2 ^ 32 }

theorem State.arrive_of_pending {t : State} {u g : Nat} {ks : List Nat} (hk : t.focus.kind = .path u g ks) {off : Nat}
    (hp : (t.barrier u off).pending ≠ 0) (credit : Nat) : t.arrive u g off credit = (arrivedAt t u g ks off credit).advance := by
  rw [State.arrive, arrivedAt]
  simp only [hp, if_false, State.pathStrands_of_path hk, State.setBarrier_eq]

section
variable {s t : State} {u g : Nat} {ks : List Nat} {a b : Opd} {bp : Pr} (hk : t.focus.kind = .path u g ks)
  (hpass : (t.block u).barFault ((t.grp u g).uniOpd a).toNat = none)
include hk hpass

theorem exec_binit_of_pass (hr : s.runs (.binit a b bp) = true) (ht : (s.operands (.binit a b bp)).1 = t)
    (hpos : 0 < ((t.grp u g).uniOpd b).toNat) (hle : ((t.grp u g).uniOpd b).toNat ≤ 65535) : exec (.binit a b bp) s =
      .next (Claims.phaseTaken (t.scrTime u g ks 0).1 u ((t.grp u g).uniOpd a).toNat (t.scrTime u g ks 0).2
        ⟨((t.grp u g).uniOpd b).toNat, ((t.grp u g).uniOpd b).toNat, 0, false⟩).passes := by
  have range : ¬(((t.grp u g).uniOpd b).toNat = 0 ∨ 65535 < ((t.grp u g).uniOpd b).toNat) := by omega
  rw [show exec (.binit a b bp) s = execBinit a b bp s from rfl, execBinit, barrierOp_runs _ hk hpass hr ht, if_neg range,
    State.pathStrands_of_path hk]
  simp only [State.newPhase_eq]
  rfl

theorem exec_barr_of_pending (hr : s.runs (.barr a bp) = true) (ht : (s.operands (.barr a bp)).1 = t)
    (hp : (t.barrier u ((t.grp u g).uniOpd a).toNat).pending ≠ 0) : exec (.barr a bp) s =
      .next (arrivedAt t u g ks ((t.grp u g).uniOpd a).toNat 0).passes := by
  rw [show exec (.barr a bp) s = execBarr a bp s from rfl, execBarr, barrierOp_runs _ hk hpass hr ht, State.arrive_of_pending hk hp]
  rfl

theorem exec_barr_of_none_pending (hr : s.runs (.barr a bp) = true) (ht : (s.operands (.barr a bp)).1 = t)
    (hp : (t.barrier u ((t.grp u g).uniOpd a).toNat).pending = 0) : exec (.barr a bp) s = .next (t.trapPath 0x0d).endPass := by
  rw [show exec (.barr a bp) s = execBarr a bp s from rfl, execBarr, barrierOp_runs _ hk hpass hr ht, State.arrive]
  simp only [hp, if_true]

theorem exec_barx_of_pending (hr : s.runs (.barx a b bp) = true) (ht : (s.operands (.barx a b bp)).1 = t)
    (hp : (t.barrier u ((t.grp u g).uniOpd a).toNat).pending ≠ 0) : exec (.barx a b bp) s =
      .next (arrivedAt t u g ks ((t.grp u g).uniOpd a).toNat ((t.grp u g).uniOpd b).toNat).passes := by
  rw [show exec (.barx a b bp) s = execBarx a b bp s from rfl, execBarx, barrierOp_runs _ hk hpass hr ht, State.arrive_of_pending hk hp]
  rfl

theorem exec_bwait_of_not_waiting (hr : s.runs (.bwait a b bp) = true) (ht : (s.operands (.bwait a b bp)).1 = t)
    (h1 : ∀ time, s.pathWait ≠ .bdone time) (h2 : ∀ o k, s.pathWait ≠ .bwait o k) : exec (.bwait a b bp) s =
      .next (if (t.barrier u ((t.grp u g).uniOpd a).toNat).phase != ((t.grp u g).uniOpd b).getLsbD 0 then
        (t.onGrp u g fun x => x.raise ks (Tbl.getD ((t.grp u g).uniOpd a).toNat (t.block u).barTimes 0)).advance
      else t.waitIn (.bwait ((t.grp u g).uniOpd a).toNat (((t.grp u g).uniOpd b).getLsbD 0))).endPass := by
  rw [show exec (.bwait a b bp) s = execBwait a b bp s from rfl, execBwait_of_not_waiting h1 h2, barrierOp_runs _ hk hpass hr ht,
    State.pathStrands_of_path hk]

theorem exec_btest_of_pass {n : Pr} (hr : s.runs (.btest n a b bp) = true) (ht : (s.operands (.btest n a b bp)).1 = t) :
    exec (.btest n a b bp) s = .next (
      if (t.barrier u ((t.grp u g).uniOpd a).toNat).phase != ((t.grp u g).uniOpd b).getLsbD 0 then
        (t.putB n.val true).onGrp u g fun y => y.raise ks (Tbl.getD ((t.grp u g).uniOpd a).toNat (t.block u).barTimes 0)
      else t.putB n.val false).passes := by
  have path (v : Bool) : (t.putB n.val v).pathStrands = ks := State.pathStrands_of_path ((congrArg Focus.kind (t.putB_focus n.val v)).trans hk)
  rw [show exec (.btest n a b bp) s = execBtest n a b bp s from rfl, execBtest, barrierOp_runs _ hk hpass hr ht]
  simp only [path, State.putB_barTimes hk]
  cases (t.barrier u ((t.grp u g).uniOpd a).toNat).phase != ((t.grp u g).uniOpd b).getLsbD 0
  · simp only [Bool.false_eq_true, if_false, State.passes]
  · simp only [if_true, State.passes]

end

section
variable {s t : State} {u g : Nat} {ks : List Nat} {a b : Opd} {bp : Pr} (hk : t.focus.kind = .path u g ks)
  (hr : s.runs (.bwait a b bp) = true) (ht : (s.operands (.bwait a b bp)).1 = t)
include hk hr ht

theorem exec_bwait_of_bdone {time : Nat} (hw : s.pathWait = .bdone time) :
    exec (.bwait a b bp) s = .next (t.onGrp u g fun y => y.raise ks time).passes := by
  have who : s.who = some (u, g, false) := by rw [← State.who_operands_eq s (.bwait a b bp), ht, State.who_of_path hk]
  rw [show exec (.bwait a b bp) s = execBwait a b bp s from rfl, execBwait]
  simp only [who, hw]
  rw [issueMove_runs _ _ _ hr, ht, State.pathStrands_of_path hk, State.passes]

theorem exec_bwait_of_bwait {o : Nat} {k : Bool} (hw : s.pathWait = .bwait o k) :
    exec (.bwait a b bp) s = .next (t.onGrp u g fun y => y.raise ks (Tbl.getD o (t.block u).barTimes 0)).passes := by
  have who : s.who = some (u, g, false) := by rw [← State.who_operands_eq s (.bwait a b bp), ht, State.who_of_path hk]
  rw [show exec (.bwait a b bp) s = execBwait a b bp s from rfl, execBwait]
  simp only [who, hw]
  rw [issueMove_runs _ _ _ hr, ht, State.pathStrands_of_path hk, State.passes]

end

theorem barrierInstructions : Claims.BarrierOperations := by
  intro s t u g ks a b bp hk off x r arrived hpass
  refine ⟨fun hr ht hpos hle => exec_binit_of_pass hk hpass hr ht hpos hle, fun hr ht hp => exec_barr_of_pending hk hpass hr ht hp,
    fun hr ht hp => exec_barx_of_pending hk hpass hr ht hp, ?wait, fun n hr ht => exec_btest_of_pass hk hpass hr ht,
    fun hr ht hp => exec_barr_of_none_pending hk hpass hr ht hp⟩
  case wait =>
    intro hr ht back parity
    refine ⟨fun time hw => exec_bwait_of_bdone hk hr ht hw, fun o k hw => exec_bwait_of_bwait hk hr ht hw, fun h1 h2 => ?_⟩
    have run := exec_bwait_of_not_waiting hk hpass hr ht h1 h2
    constructor
    · intro hne
      rw [if_pos (bne_iff_ne.mpr hne)] at run
      exact run
    · intro heq
      rw [if_neg (fun h => bne_iff_ne.mp h heq), State.waitIn_of_path hk] at run
      exact run

/-! GSYNC and BRMT -/

theorem exec_gsync_of_path {s t : State} {u g : Nat} {ks : List Nat} {bp : Pr} (hk : t.focus.kind = .path u g ks)
    (hr : s.runs (.gsync bp) = true) (ht : (s.operands (.gsync bp)).1 = t) : exec (.gsync bp) s = .next (t.onGrp u g fun x =>
      x.onStrands ks fun y => if y.st = .active then { y with wait := .gsync t.focus.n } else y).endPass := by
  rw [show exec (.gsync bp) s = execGsync bp s from rfl, execGsync, issueMove_runs _ _ _ hr, ht, State.waitIn_of_path hk]

theorem map_fst_firstWith_upd {α : Type} {p : Nat × α → Bool} {f : α → α} (hp : ∀ k a, p (k, f a) = p (k, a)) (u : Nat) (l : Tbl α) :
    (firstWith p (Tbl.upd u f l)).map Prod.fst = (firstWith p l).map Prod.fst := by
  induction l with
  | nil => rfl
  | cons e l ih =>
    rw [Tbl.upd]
    split
    · simp only [firstWith, hp]
      split <;> rfl
    · simp only [firstWith]
      split
      · rfl
      · exact ih

theorem State.blockOf_onGrp (s : State) (u g : Nat) (f : Group → Group) (d lid ident : Nat) :
    (s.onGrp u g f).blockOf d lid ident = s.blockOf d lid ident :=
  map_fst_firstWith_upd (p := fun e : Nat × Block => e.2.dist == d && e.2.lid == lid && e.2.ident == ident) (f := fun b : Block => b.onGroup g f)
    (fun _ _ => rfl) u s.blocks

theorem exec_brmt_of_pass {s t : State} {u g : Nat} {ks : List Nat} {a : Opd} {bp : Pr} {ident v : Nat} (hk : t.focus.kind = .path u g ks)
    (hr : s.runs (.brmt a bp) = true) (ht : (s.operands (.brmt a bp)).1 = t) {va : Nat} (hva : t.uniWord64 a false = va)
    (hkey : keyOf va = 0xffff) (hzero : bits va 47 40 = 0) (hmember : t.member u (bits va 39 32) = some ident) (halign : va % 2 ^ 32 % 16 = 0)
    (hscr : va % 2 ^ 32 + 16 ≤ (t.block u).scrBytes) (hblock : t.blockOf (t.block u).dist (t.block u).lid ident = some v) :
    exec (.brmt a bp) s = .next ((((t.newId.2).waitIn (.brmt t.nextId t.focus.n)).post
      (.brmtArrival v (va % 2 ^ 32) t.nextId ((t.grp u g).pathTime ks))).endPass) := by
  have key : ¬(keyOf va ≠ 0xffff ∨ bits va 47 40 ≠ 0) := by simp only [hkey, hzero, ne_eq, not_true_eq_false, or_self, not_false_eq_true]
  have found : ((t.newId.2).waitIn (.brmt t.nextId t.focus.n)).blockOf (t.block u).dist (t.block u).lid ident = some v := by
    rw [State.waitIn_of_path (t := t.newId.2) hk, State.blockOf_onGrp]
    exact hblock
  have path : t.newId.2.pathStrands = ks := State.pathStrands_of_path (t := t.newId.2) hk
  rw [show exec (.brmt a bp) s = execBrmt a bp s from rfl, execBrmt, issueMove_runs _ _ _ hr, ht]
  simp only [State.who_of_path hk, hva]
  rw [if_neg key, hmember]
  simp only
  rw [if_neg (not_not.mpr halign), if_neg (Nat.not_lt.mpr hscr)]
  rw [path, show t.newId.1 = t.nextId from rfl, show t.newId.2.focus = t.focus from rfl, found,
    show t.newId.2.grp u g = t.grp u g from rfl]

theorem syncAndRemote : Claims.SyncAndRemote := by
  intro s t u g ks a bp hk
  refine ⟨exec_gsync_of_path hk, ?_⟩
  intro ident v hr ht va hkey hzero hmember halign hscr hblock w
  have key : keyOf va = 0xffff := by rw [keyOf, bits_eq_div_mod]; exact hkey
  have zero : bits va 47 40 = 0 := by rw [bits_eq_div_mod]; exact hzero
  have member : t.member u (bits va 39 32) = some ident := by rw [bits_eq_div_mod]; exact hmember
  have align : va % 2 ^ 32 % 16 = 0 := by rw [Nat.mod_mod_of_dvd va ⟨2 ^ 28, by norm_num⟩]; exact halign
  have waits : t.newId.2.waitIn (.brmt t.nextId t.focus.n) = w := State.waitIn_of_path (t := t.newId.2) hk _
  rw [exec_brmt_of_pass hk hr ht rfl key zero member align hscr hblock, waits]
  rfl

/-- Settles O22: the instructions by one rule for `barrierOp`, arrivals by whether the target takes them, and GSYNC by what its release
makes of each strand. -/
theorem barrierOperations : Obligations.BarrierOperations := ⟨barrierInstructions, syncAndRemote, remoteArrival, syncReleases⟩

end Sys2Proof.Machine
end

section
/-! PROOFS of the issue of block-transfer and transform entries (R22, R27, R265, R317 to R323, R341 to R354). -/

namespace Sys2Proof.Machine

/-! Checks -/

theorem barAlign_of_fits {b : Block} {bar : Option Nat} (h : Claims.barrierFits b bar) : barAlign bar = true := by
  cases bar with
  | none => rfl
  | some o => exact decide_eq_true (h o rfl).1

theorem barInside_of_fits {b : Block} {bar : Option Nat} (h : Claims.barrierFits b bar) : b.barInside bar = true := by
  cases bar with
  | none => rfl
  | some o => exact decide_eq_true (h o rfl).2

theorem State.barOf_eq (t : State) (o : Opd) (e : Elem) : t.barOf o e = if o = .zero then none else some (t.uniWord o e).toNat := by
  cases o <;> rfl

/-! Entries -/

/-- A class 6 instruction of a path whose effect runs. -/
theorem entryBy_runs {i : Instr} {s t : State} {u g : Nat} {ks : List Nat} (body : Nat → Nat → List Elem → State → State)
    (hk : t.focus.kind = .path u g ks) (hr : s.runs i = true) (ht : (s.operands i).1 = t) :
    entryBy i s body = .next (body u g (s.operands i).2 t).endPass := by
  rw [entryBy, issueBy_runs i s _ hr, ht]
  simp only [State.who_of_path hk]

theorem State.newEntry_eq {t : State} {u g : Nat} {ks : List Nat} (hk : t.focus.kind = .path u g ks) (i : Instr) (lo : Nat) :
    t.newEntry i u g lo = { Claims.entryOf t u g ks i lo with id := 0 } := by
  simp only [State.newEntry, Claims.entryOf, State.pathStrands_of_path hk, bitOf, Nat.testBit_zero]

/-- An entry that passes its checks enters its queue. -/
theorem State.enqueue_of_pass {t : State} {e : Entry} {checks : List (Bool × Nat)} (h : firstTrap checks = none) (q : Nat) :
    (t.enqueue q e checks).endPass = Claims.entersQueue t e.blk e.grp q { e with id := t.nextId } := by
  rw [State.enqueue, h]
  rfl

/-! Copies and streams of bytes -/

/-- A form whose operands are a destination, a source and a length runs with the checks of its rule. -/
def ByteStreamMeaning (i : Instr) (eq : BitVec 3) (lo : Nat) (d a b c e : Opd) (fits : Nat → Nat → Nat → Bool) (right : Nat)
    (cover : Nat → Nat) : Prop :=
  ∃ body, (∀ s, exec i s = entryBy i s body) ∧ ∀ u g es t, ∃ checks,
    (let len := (t.uniWord b (es.getD 0 none)).toNat
     let bar := t.barOf e (es.getD 1 none)
     body u g es t = t.enqueue eq.toNat
        { t.newEntry i u g lo with dst := t.pairOf d, src := t.pairOf a, len := len, tag := t.tagOf c, bar := bar } checks ∧
      (fits (t.pairOf d) (t.pairOf a) len = true → t.engineKey u (t.pairOf a) rightRD = true → t.engineKey u (t.pairOf d) right = true →
        (t.block u).rangeOk (t.pairOf a) len = true → (t.block u).rangeOk (t.pairOf d) (cover len) = true →
        barAlign bar = true → (t.block u).barInside bar = true → firstTrap checks = none))

theorem byteStreamMeaning_cpy (d a b c e : Opd) (eq : BitVec 3) (m : BitVec 17) (bp : Pr) :
    ByteStreamMeaning (.cpy d a b c e eq m bp) eq m.toNat d a b c e (fun _ _ _ => true) rightW id := by
  refine ⟨_, fun s => show execCpy d a b c e eq m bp s = _ from rfl, fun u g es t => ⟨_, rfl, ?_⟩⟩
  intro _ hsrc hdst hsrc' hdst' halign hinside
  simp only [id] at hdst'
  simp only [hsrc, hdst, hsrc', hdst', halign, hinside, Bool.and_self, firstTrap, if_true]

theorem byteStreamMeaning_rcpy (d a b c e : Opd) (eq : BitVec 3) (m : BitVec 17) (bp : Pr) :
    ByteStreamMeaning (.rcpy d a b c e eq m bp) eq m.toNat d a b c e (fun x y n =>
      let z := atomSize (rcpyTy (m.toNat / 1024 % 8))
      x % z = 0 && y % z = 0 && n % z = 0) (rightW + rightA) id := by
  refine ⟨_, fun s => show execRcpy d a b c e eq m bp s = _ from rfl, fun u g es t => ⟨_, rfl, ?_⟩⟩
  intro hfits hsrc hdst hsrc' hdst' halign hinside
  have type : bits m.toNat 12 10 = m.toNat / 1024 % 8 := bits_eq_div_mod ..
  simp only [id] at hdst'
  simp only [Bool.and_eq_true] at hfits
  obtain ⟨⟨h1, h2⟩, h3⟩ := hfits
  simp only [type, h1, h2, h3, hsrc, hdst, hsrc', hdst', halign, hinside, Bool.and_self, firstTrap, if_true]

theorem ceilDiv_page (n : Nat) : ceilDiv n 4096 = (n + 4095) / 4096 := by
  rw [ceilDiv, Nat.add_sub_assoc (by decide)]

theorem byteStreamMeaning_length {i : Instr} {eq : BitVec 3} {lo : BitVec 6} {d a b c e : Opd} {fits : Nat → Nat → Nat → Bool} {right : Nat}
    {cover : Nat → Nat} (h : ∀ s, exec i s = lengthBy i d a b c e eq lo s fits right cover) :
    ByteStreamMeaning i eq lo.toNat d a b c e fits right cover := by
  refine ⟨_, h, fun u g es t => ⟨_, rfl, ?_⟩⟩
  intro hfits hsrc hdst hsrc' hdst' halign hinside
  simp only [hfits, hsrc, hdst, hsrc', hdst', halign, hinside, Bool.and_self, firstTrap, if_true]

theorem byteStreamMeaning {i : Instr} {eq : BitVec 3} {lo : Nat} {d a b c e : Opd} {fits : Nat → Nat → Nat → Bool} {right : Nat}
    {cover : Nat → Nat} (h : Claims.byteStream i = some (eq, lo, d, a, b, c, e, fits, right, cover)) :
    ByteStreamMeaning i eq lo d a b c e fits right cover := by
  unfold Claims.byteStream at h
  split at h
  case h_1 => obtain ⟨⟩ := h; exact byteStreamMeaning_cpy ..
  case h_2 => obtain ⟨⟩ := h; exact byteStreamMeaning_rcpy ..
  case h_3 d a b c e eq lo hi bp =>
    obtain ⟨⟩ := h
    have width : xZw hi = hi.toNat / 8 % 4 := bits_eq_div_mod ..
    exact byteStreamMeaning_length fun s => show execXfmBdxe d a b c e eq lo hi bp s = _ by rw [execXfmBdxe, width]
  case h_4 d a b c e eq lo hi bp =>
    obtain ⟨⟩ := h
    exact byteStreamMeaning_length fun s => show execXfmCrcg d a b c e eq lo hi bp s = _ by simp only [execXfmCrcg, ceilDiv_page]
  case h_5 d a b c e eq lo hi bp =>
    obtain ⟨⟩ := h
    exact byteStreamMeaning_length fun s => show execXfmCrcv d a b c e eq lo hi bp s = _ by simp only [execXfmCrcv, ceilDiv_page]
  case h_6 => exact absurd h nofun

theorem byteStreams : Claims.ByteStreams := by
  intro i s t u g ks eq lo d a b c e fits right cover hr ht hk hform es dst src len bar hfits hsrc hdst hsrc' hdst' hbar hring
  obtain ⟨body, hexec, hbody⟩ := byteStreamMeaning hform
  obtain ⟨checks, heq, hchecks⟩ := hbody u g es t
  have barrier : t.barOf e (es.getD 1 none) = bar := State.barOf_eq ..
  have pass := hchecks hfits hsrc hdst hsrc' hdst' (barrier ▸ barAlign_of_fits hbar) (barrier ▸ barInside_of_fits hbar)
  rw [hexec, entryBy_runs body hk hr ht, heq, State.enqueue_of_pass pass, State.newEntry_eq hk, barrier]
  rfl

/-! CPYM, GATH and SCAT -/

/-- An instruction whose checks pass puts its entry into its queue. -/
theorem exec_enters {i : Instr} {s t : State} {u g q : Nat} {ks : List Nat} {e : Entry} {checks : List (Bool × Nat)}
    {body : Nat → Nat → List Elem → State → State} (hexec : ∀ s, exec i s = entryBy i s body) (hk : t.focus.kind = .path u g ks)
    (hr : s.runs i = true) (ht : (s.operands i).1 = t) (heq : body u g (s.operands i).2 t = t.enqueue q e checks) (hblk : e.blk = u)
    (hgrp : e.grp = g) (pass : firstTrap checks = none) : exec i s = .next (Claims.entersQueue t u g q { e with id := t.nextId }) := by
  subst hblk hgrp
  rw [hexec, entryBy_runs body hk hr ht, heq, State.enqueue_of_pass pass]

theorem multicast : Claims.Multicast := by
  intro s t u g ks d a b c e eq m bp ts hr ht hk es dst src len bar mask hsrc hdst hsrc' hdst' hmembers hbar hring
  have barrier : t.barOf e (es.getD 1 none) = bar := State.barOf_eq ..
  have first : bits m.toNat 13 6 = m.toNat / 64 % 256 := bits_eq_div_mod ..
  have window : t.engineKey u dst rightW = true := by simp only [State.engineKey, hdst, if_true]
  have members : t.membersAt u ((setBits mask 64).map fun j => bits m.toNat 13 6 + j) = some ts := by rw [first]; exact hmembers
  refine (exec_enters (i := .cpym d a b c e eq m bp) (fun s => show execCpym d a b c e eq m bp s = _ from rfl) hk hr ht rfl rfl rfl ?_).trans ?_
  · show firstTrap [(barAlign (t.barOf e (es.getD 1 none)), 0x08), (t.engineKey u src rightRD && t.engineKey u dst rightW, 0x06),
      (decide (keyOf dst = 0xfffe) && (t.block u).rangeOk src len && (t.block u).rangeOk dst len &&
        (t.block u).barInside (t.barOf e (es.getD 1 none)) &&
        (t.membersAt u ((setBits mask 64).map fun j => bits m.toNat 13 6 + j)).isSome, 0x06)] = none
    simp only [barrier, members, barAlign_of_fits hbar, barInside_of_fits hbar, hsrc, window, hdst, hsrc', hdst', Option.isSome_some, decide_true,
      Bool.and_self, firstTrap, if_true]
  · rw [State.newEntry_eq hk, ← barrier, ← Option.getD_some (a := ts) (b := []), ← members]
    rfl

theorem indexed : Claims.Indexed := by
  intro i s t u g ks gath d a b c e eq m bp hi hr ht hk w idx n z dst src bar hdstz hsrcz hsrc hidx hdst hidx' hrange hbar hring
  have barrier : t.barOf e ((s.operands i).2.getD 0 none) = bar := State.barOf_eq ..
  have size : 2 ^ bits m.toNat 7 6 = z := congrArg (2 ^ ·) (bits_eq_div_mod m.toNat 7 6)
  have hexec : ∀ s, exec i s = gathScat i gath d a b c e eq m s := fun s => by
    cases gath <;> subst hi <;> rfl
  refine (exec_enters hexec hk hr ht rfl rfl rfl ?_).trans ?_
  · show firstTrap [(barAlign (t.barOf e ((s.operands i).2.getD 0 none)) && decide (dst % 2 ^ bits m.toNat 7 6 = 0) &&
        decide (src % 2 ^ bits m.toNat 7 6 = 0), 0x08),
      (t.engineKey u src rightRD && t.engineKey u idx rightRD && t.engineKey u dst rightW, 0x06),
      ((t.block u).rangeOk idx (4 * n) && (t.block u).rangeOk (if gath then dst else src) (n * 2 ^ bits m.toNat 7 6) &&
        (t.block u).barInside (t.barOf e ((s.operands i).2.getD 0 none)), 0x06)] = none
    simp only [barrier, size, barAlign_of_fits hbar, barInside_of_fits hbar, hdstz, hsrcz, hsrc, hidx, hdst, hidx', hrange, decide_true,
      Bool.and_self, firstTrap, if_true]
  · rw [State.newEntry_eq hk, ← barrier, ← size]
    rfl

/-! Tensors -/

theorem ceilDiv_eight (n : Nat) : ceilDiv n 8 = (n + 7) / 8 := by rw [ceilDiv, Nat.add_sub_assoc (by decide)]

theorem tileCopyAndDecode : Claims.TileCopyAndDecode := by
  intro s t u g ks d a b c e eq bp hk
  constructor
  · intro m dr ar hr ht ws bar hdr har hrank hfmt hsrc hdst hsideA hsideD hbar hring
    have barrier : t.barOf e ((s.operands (.cpyt d a b c e eq m bp)).2.getD 0 none) = bar := State.barOf_eq ..
    have hexec : exec (.cpyt d a b c e eq m bp) s = execCpyt d a b c e eq m bp s := rfl
    rw [hexec, execCpyt, entryBy_runs _ hk hr ht]
    simp only [hdr, har]
    rw [State.enqueue_of_pass ?pass]
    case pass =>
      simp only [barrier, barAlign_of_fits hbar, barInside_of_fits hbar, hrank, hfmt, hsrc, hdst, hsideA, hsideD, decide_true, Bool.and_self,
        firstTrap, if_true]
    rw [State.newEntry_eq hk, ← barrier, ceilDiv_eight]
    rfl
  · intro lo hi hr ht w side dst src bar hsrc8 hside16 hdst16 hsrc hdst hside hsrc' hdst' hbar hring
    have barrier : t.barOf e ((s.operands (.xfmBdxd d a b c e eq lo hi bp)).2.getD 0 none) = bar := State.barOf_eq ..
    have sideKey : (decide (side = 0) || t.engineKey u side rightW) = true := by
      obtain h | ⟨h, -⟩ := hside <;> simp [h]
    have sideRange : (decide (side = 0) || (t.block u).rangeOk side 0) = true := by
      obtain h | ⟨-, h⟩ := hside <;> simp [h]
    refine (exec_enters (i := .xfmBdxd d a b c e eq lo hi bp) (fun s => show execXfmBdxd d a b c e eq lo hi bp s = _ from rfl) hk hr ht rfl rfl
      rfl ?_).trans ?_
    · show firstTrap [(barAlign (t.barOf e ((s.operands (.xfmBdxd d a b c e eq lo hi bp)).2.getD 0 none)) && decide (src % 8 = 0) &&
          decide (side % 16 = 0) && decide (dst % 16 = 0), 0x08),
        (t.engineKey u src rightRD && t.engineKey u dst rightW && (decide (side = 0) || t.engineKey u side rightW), 0x06),
        ((t.block u).rangeOk src 0 && (t.block u).rangeOk dst 0 && (decide (side = 0) || (t.block u).rangeOk side 0) &&
          (t.block u).barInside (t.barOf e ((s.operands (.xfmBdxd d a b c e eq lo hi bp)).2.getD 0 none)), 0x06)] = none
      simp only [barrier, barAlign_of_fits hbar, barInside_of_fits hbar, hsrc8, hside16, hdst16, hsrc, hdst, sideKey, sideRange, hsrc', hdst',
        decide_true, Bool.and_self, firstTrap, if_true]
    · rw [State.newEntry_eq hk, ← barrier]
      rfl

/-- A transform of elements runs with the checks of its rule. -/
def TensorMeaning (i : Instr) (eq : BitVec 3) (lo : Nat) (d a b c e : Opd) (scaleD scaleA : Bool) (fits : Nat → Nat → Bool) : Prop :=
  ∃ (low : BitVec 6) (check : Record → Record → Option Record → List W32 → Bool), low.toNat = lo ∧
    (∀ s, exec i s = elementBy i d a b c e eq low scaleD scaleA check s) ∧
    ∀ dr ar sc ws, fits (rFmtCode dr) (rFmtCode ar) = true → (scaleD = true ∨ scaleA = true → isE8m0 sc = true) →
      (scaleD = true → (extentOf (ws.drop 6)).getD 0 0 % 32 = 0 ∧ coord (originOf ws) 0 % 32 = 0) →
      (scaleA = true → coord (originOf (ws.drop 3)) 0 % 32 = 0) → check dr ar sc ws = true

theorem tensorMeaning {i : Instr} {eq : BitVec 3} {lo : Nat} {d a b c e : Opd} {scaleD scaleA : Bool} {fits : Nat → Nat → Bool}
    (h : Claims.tensorForm i = some (eq, lo, d, a, b, c, e, scaleD, scaleA, fits)) : TensorMeaning i eq lo d a b c e scaleD scaleA fits := by
  unfold Claims.tensorForm at h
  split at h
  case h_1 d a b c e eq lo hi bp =>
    obtain ⟨⟩ := h
    exact ⟨lo, _, rfl, fun s => show execXfmMove d a b c e eq lo hi bp s = _ from rfl, fun dr ar sc ws hfits _ _ _ => hfits⟩
  case h_2 d a b c e eq lo hi bp =>
    obtain ⟨⟩ := h
    exact ⟨lo, _, rfl, fun s => show execXfmCvt d a b c e eq lo hi bp s = _ from rfl, fun dr ar sc ws hfits _ _ _ => hfits⟩
  case h_3 d a b c e eq lo hi bp =>
    obtain ⟨⟩ := h
    refine ⟨lo, _, rfl, fun s => show execXfmMxq d a b c e eq lo hi bp s = _ from rfl, fun dr ar sc ws hfits hscale hdst _ => ?_⟩
    obtain ⟨hextent, horigin⟩ := hdst rfl
    simp only [Bool.and_eq_true] at hfits
    obtain ⟨hplain, hnarrow⟩ := hfits
    simp only [plainCode, hplain, hnarrow, hscale (.inl rfl), hextent, horigin, decide_true, Bool.and_self]
  case h_4 d a b c e eq lo hi bp =>
    obtain ⟨⟩ := h
    refine ⟨lo, _, rfl, fun s => show execXfmMxdq d a b c e eq lo hi bp s = _ from rfl, fun dr ar sc ws hfits hscale _ hsrc => ?_⟩
    simp only [Bool.and_eq_true] at hfits
    obtain ⟨hnarrow, hplain⟩ := hfits
    simp only [plainCode, hplain, hnarrow, hscale (.inr rfl), hsrc rfl, decide_true, Bool.and_self]
  case h_5 => exact absurd h nofun

/-- The scale record of a transform: one of the same rank and of the scale format, which the engine may use, where there is to be one. -/
structure ScaleFits (t : State) (u : Nat) (scaleD scaleA : Bool) (dr : Record) (sc : Option Record) : Prop where
  stands : (sc.isSome || !(scaleD || scaleA)) = true
  rank : (sc.all fun r => rRank r = rRank dr) = true
  format : scaleD = true ∨ scaleA = true → isE8m0 sc = true
  key : (sc.isNone || t.engineKey u (rBase (sc.getD [])) (if scaleD then rightW else rightRD)) = true
  side : sc.toList.all (t.sideKey u) = true

theorem scaleFits {t : State} {u : Nat} {scaleD scaleA : Bool} {dr : Record} {sc : Option Record}
    (hnone : ¬(scaleD = true ∨ scaleA = true) → sc = none)
    (h : scaleD = true ∨ scaleA = true → ∃ r, sc = some r ∧ rRank r = rRank dr ∧ rFmtCode r = 17 ∧
      t.engineKey u (rBase r) (if scaleD then rightW else rightRD) = true ∧ t.sideKey u r = true) : ScaleFits t u scaleD scaleA dr sc := by
  by_cases hs : scaleD = true ∨ scaleA = true
  · obtain ⟨r, rfl, hrank, hfmt, hkey, hside⟩ := h hs
    exact ⟨rfl, by simp [hrank], fun _ => by simp [isE8m0, hfmt], by simp [hkey], by simp [hside]⟩
  · obtain rfl := hnone hs
    exact ⟨by simpa using hs, rfl, fun h => absurd h hs, rfl, rfl⟩

theorem tensors : Claims.Tensors := by
  intro i s t u g ks eq lo d a b c e scaleD scaleA fits dr ar sc hr ht hk hform ws bar hdr har hsc hscale hdst32 hsrc32 hrank hfits hside0
    hsrc hdst hsideD hbar hring
  obtain ⟨low, check, rfl, hexec, hcheck⟩ := tensorMeaning hform
  have barrier : t.barOf e ((s.operands i).2.getD 0 none) = bar := State.barOf_eq ..
  have scale : ScaleFits t u scaleD scaleA dr sc := scaleFits (fun h => by
    obtain ⟨hd, ha⟩ := not_or.mp h
    rw [hsc, if_neg hd, if_neg ha]) hscale
  have format : check dr ar sc (t.wordsAt b 9) = true := hcheck dr ar sc ws hfits scale.format hdst32 hsrc32
  have ranks : decide (rRank dr = rRank ar) = true := decide_eq_true hrank
  have sideA : t.sideKey u ar = true := by simp only [State.sideKey, hside0]; rfl
  have sideKey : (keyOf (rSide ar) != 0xffff) = true := by rw [hside0]; rfl
  have sides : ([dr, ar] ++ sc.toList).all (t.sideKey u) = true := by
    rw [List.all_append, scale.side]
    simp [hsideD, sideA]
  rw [hexec, elementBy, entryBy_runs _ hk hr ht]
  simp only [hdr, har, ← hsc]
  rw [State.enqueue_of_pass ?pass]
  case pass =>
    simp only [barrier, barAlign_of_fits hbar, barInside_of_fits hbar, scale.stands, scale.rank, scale.key, sides, sideKey, format, ranks, hsrc,
      hdst, Bool.and_self, firstTrap, if_true]
  rw [State.newEntry_eq hk, ← barrier, ceilDiv_eight]
  rfl

/-- Settles O26: an instruction whose checks pass is one `enqueue`, and every entry begins as `entryOf` says. -/
theorem engineIssue : Obligations.EngineIssue := ⟨byteStreams, multicast, indexed, tensors, tileCopyAndDecode⟩

end Sys2Proof.Machine
end

section
/-! PROOFS of what the lane, exchange and uniform instructions write: their destination alone (R71, R179, R180, R219 to R250). -/

namespace Sys2Proof.Machine

/-- What an instruction of a path writes: nothing, a uniform destination at once, or the results of a lane form of at most four words. -/
def WritesDst (i : Instr) (u g : Nat) (t y : State) : Prop :=
  y = t ∨ (∃ v, y = t.putUni (dst i) v) ∨ ∃ f res preds, f.d = dst i ∧ f.bits ≤ 128 ∧ y = t.deliver u g f res preds

/-- An instruction behind which its path goes on, and that writes its destination alone. -/
def DeliversDst (i : Instr) : Prop :=
  ∃ body : List Elem → State → State, (∀ s, exec i s = issue i s body) ∧
    ∀ es t u g, t.who = some (u, g, false) → WritesDst i u g t (body es t)

theorem dst_of_laneForm {i : Instr} {f : LaneForm} (h : laneForm i = some f) : f.d = dst i := by
  unfold dst
  split
  case h_17 => simp only [h]
  all_goals exact absurd h nofun
theorem laneForm_bits (i : Instr) : (laneForm i).all (fun f => f.bits ≤ 128) = true := by
  cases i
  case bfxI d a b p x => simp only [laneForm]; split <;> rfl
  case bfxN d a b p x => simp only [laneForm]; split <;> rfl
  case bfi d a b c p x => simp only [laneForm]; split <;> rfl
  case bsel d a b c p x => simp only [laneForm]; split <;> rfl
  case mov d a width p => simp only [laneForm]; split <;> rfl
  case cvt d a p x => 
    simp only [laneForm]
    split
    · simp only [Option.all_some]; split <;> rfl
    · rfl
  all_goals rfl
theorem laneForm_bits_le {i : Instr} {f : LaneForm} (h : laneForm i = some f) : f.bits ≤ 128 := by
  have le := laneForm_bits i
  rw [h] at le
  exact of_decide_eq_true le

theorem writesDst_deliver {i : Instr} {u g : Nat} {t : State} {f : LaneForm} (h : laneForm i = some f) (res : List (Nat × Nat))
    (preds : List (Nat × List (Nat × Bool))) : WritesDst i u g t (t.deliver u g f res preds) :=
  .inr (.inr ⟨f, res, preds, dst_of_laneForm h, laneForm_bits_le h, rfl⟩)

/-! The shared passes -/

theorem State.lanes_writesDst {t : State} {u g : Nat} (hw : t.who = some (u, g, false)) (i : Instr) (es : List Elem) (fs : List Fmt)
    (op : List Nat → Nat) : WritesDst i u g t (t.lanes i es fs op) := by
  cases hf : laneForm i with
  | none => exact .inl (by simp only [State.lanes, hw, hf])
  | some f => simpa only [State.lanes, hw, hf] using writesDst_deliver hf _ _

theorem State.lanesOld_writesDst {t : State} {u g : Nat} (hw : t.who = some (u, g, false)) (i : Instr) (es : List Elem) (fs : List Fmt)
    (op : Nat → List Nat → Nat) : WritesDst i u g t (t.lanesOld i es fs op) := by
  cases hf : laneForm i with
  | none => exact .inl (by simp only [State.lanesOld, hw, hf])
  | some f => simpa only [State.lanesOld, hw, hf] using writesDst_deliver hf _ _

theorem State.compares_writesDst {t : State} {u g : Nat} (hw : t.who = some (u, g, false)) (i : Instr) (es : List Elem) (fs : List Fmt)
    (x : Fx) (cond : Nat → Nat → Bool) : WritesDst i u g t (t.compares i es fs x cond) := by
  cases hf : laneForm i with
  | none => exact .inl (by simp only [State.compares, hw, hf])
  | some f => simpa only [State.compares, hw, hf] using writesDst_deliver hf _ _

theorem State.exchange_writesDst {t : State} {u g : Nat} (hw : t.who = some (u, g, false)) (i : Instr) (ks : List Nat)
    (op : Group → LaneForm → Nat → Nat) (preds : Group → List (Nat × List (Nat × Bool))) : WritesDst i u g t (t.exchange i ks op preds) := by
  cases hf : laneForm i with
  | none => exact .inl (by simp only [State.exchange, hw, Group.form, hf, Option.map_none])
  | some f =>
    simp only [State.exchange, hw, Group.form, hf, Option.map_some]
    split
    · exact .inr (.inr ⟨{ f with bits := 64 }, _, _, show f.d = dst i from dst_of_laneForm hf, show 64 ≤ 128 by decide, rfl⟩)
    · exact writesDst_deliver hf _ _

theorem deliversDst_of_lanes {i : Instr} {fs : List Fmt} {op : State → List Nat → Nat}
    (h : ∀ s, exec i s = issue i s fun es s => s.lanes i es fs (op s)) : DeliversDst i :=
  ⟨_, h, fun es _ _ _ hw => State.lanes_writesDst hw i es fs _⟩

theorem deliversDst_of_compares {i : Instr} {fs : List Fmt} {x : Fx} {cond : State → Nat → Nat → Bool}
    (h : ∀ s, exec i s = issue i s fun es s => s.compares i es fs x (cond s)) : DeliversDst i :=
  ⟨_, h, fun es _ _ _ hw => State.compares_writesDst hw i es fs x _⟩

theorem deliversDst_of_exchange {i : Instr} {ks : State → List Nat} {op : List Elem → State → Group → LaneForm → Nat → Nat}
    {preds : State → Group → List (Nat × List (Nat × Bool))}
    (h : ∀ s, exec i s = issue i s fun es s => s.exchange i (ks s) (op es s) (preds s)) : DeliversDst i :=
  ⟨_, h, fun _ _ _ _ hw => State.exchange_writesDst hw i _ _ _⟩

theorem deliversDst_of_putUni {i : Instr} {v : List Elem → State → W32}
    (h : ∀ s, exec i s = issue i s fun es s => s.putUni (dst i) (v es s)) : DeliversDst i :=
  ⟨_, h, fun _ _ _ _ _ => .inr (.inl ⟨_, rfl⟩)⟩

theorem LaneMeaning.deliversDst {i : Instr} {r : Claims.Rule} (h : LaneMeaning i r) : DeliversDst i := by
  obtain ⟨fs, op, hexec, -⟩ := h
  exact deliversDst_of_lanes (op := fun _ => op) hexec

/-- An instruction whose format code is reserved does nothing. -/
theorem deliversDst_of_nothing {i : Instr} (h : ∀ s, exec i s = issue i s fun _ s => s) : DeliversDst i := ⟨_, h, fun _ _ _ _ _ => .inl rfl⟩

/-! Instructions with a pass of their own -/

theorem deliversDst_mov (d a : Opd) (width : BitVec 7) (p : Pr) : DeliversDst (.mov d a width p) := by
  refine ⟨_, fun s => show execMov d a width p s = _ from rfl, fun es t u g hw => ?_⟩
  simp only
  split
  · exact State.lanes_writesDst hw ..
  · exact State.lanes_writesDst hw ..
  · cases hf : laneForm (.mov d a width p) with
    | none => exact absurd hf nofun
    | some f => simpa only [hw, hf] using writesDst_deliver hf _ _

theorem deliversDst_sel (d a b : Opd) (c : Pr) : DeliversDst (.sel d a b c) :=
  ⟨_, fun s => show execSel d a b c s = _ from rfl, fun es t u g hw => by
    have hf : laneForm (.sel d a b c) = some _ := rfl
    simpa only [hw, hf] using writesDst_deliver hf _ _⟩

theorem deliversDst_plog (t a b c p : Pr) (x : Fx) : DeliversDst (.plog t a b c p x) :=
  ⟨_, fun s => show execPlog t a b c p x s = _ from rfl, fun es y u g hw => by
    have hf : laneForm (.plog t a b c p x) = some _ := rfl
    simpa only [hw, hf] using writesDst_deliver hf _ _⟩

theorem deliversDst_pmov (d a : Opd) (p : Pr) : DeliversDst (.pmov d a p) :=
  ⟨_, fun s => show execPmov d a p s = _ from rfl, fun es t u g hw => by
    have hf : laneForm (.pmov d a p) = some _ := rfl
    simpa only [hw, hf] using writesDst_deliver hf _ _⟩

theorem deliversDst_cvt (d a : Opd) (p : Pr) (x : Fx) : DeliversDst (.cvt d a p x) := by
  have run (s : State) : exec (.cvt d a p x) s = execCvt d a p x s := rfl
  rcases hr : Fmt.ofCode (x.i 9 5) with _ | fr
  · exact deliversDst_of_nothing fun s => by rw [run, execCvt, hr]
  rcases ht : Fmt.ofCode (x.i 4 0) with _ | ft
  · exact deliversDst_of_nothing fun s => by rw [run, execCvt, hr, ht]
  · refine ⟨_, fun s => by rw [run, execCvt, hr, ht], fun es t u g hw => ?_⟩
    simp only
    split
    · exact State.lanesOld_writesDst hw ..
    · exact State.lanes_writesDst hw ..

theorem deliversDst_pack (d a b : Opd) (p : Pr) (x : Fx) : DeliversDst (.pack d a b p x) := by
  have run (s : State) : exec (.pack d a b p x) s = execPack d a b p x s := rfl
  rcases h : Fmt.ofCode (x.sel 4 0) with _ | ft
  · exact deliversDst_of_nothing fun s => by rw [run, execPack, h]
  · exact ⟨_, fun s => by rw [run, execPack, h], fun es t u g hw => State.lanesOld_writesDst hw ..⟩

theorem deliversDst_unpk (d a : Opd) (p : Pr) (x : Fx) : DeliversDst (.unpk d a p x) := by
  have run (s : State) : exec (.unpk d a p x) s = execUnpk d a p x s := rfl
  rcases h : Fmt.ofCode (x.sel 4 0) with _ | f
  · exact deliversDst_of_nothing fun s => by rw [run, execUnpk, h]
  · exact ⟨_, fun s => by rw [run, execUnpk, h], fun es t u g hw => State.lanes_writesDst hw ..⟩

theorem deliversDst_dot4 (d a b c : Opd) (p : Pr) (x : Fx) : DeliversDst (.dot4 d a b c p x) := by
  have run (s : State) : exec (.dot4 d a b c p x) s = execDot4 d a b c p x s := rfl
  rcases ha : dot4Fmt (x.sel 2 0) with _ | fa
  · exact deliversDst_of_nothing fun s => by rw [run, execDot4, ha]
  rcases hb : dot4Fmt (x.sel 5 3) with _ | fb
  · exact deliversDst_of_nothing fun s => by rw [run, execDot4, ha, hb]
  · exact ⟨_, fun s => by rw [run, execDot4, ha, hb], fun es t u g hw => State.lanes_writesDst hw ..⟩

theorem deliversDst_dot8 (d a b c : Opd) (p : Pr) (x : Fx) : DeliversDst (.dot8 d a b c p x) := by
  have run (s : State) : exec (.dot8 d a b c p x) s = execDot8 d a b c p x s := rfl
  rcases ha : dot8Fmt (x.sel 2 0) with _ | fa
  · exact deliversDst_of_nothing fun s => by rw [run, execDot8, ha]
  rcases hb : dot8Fmt (x.sel 5 3) with _ | fb
  · exact deliversDst_of_nothing fun s => by rw [run, execDot8, ha, hb]
  · exact ⟨_, fun s => by rw [run, execDot8, ha, hb], fun es t u g hw => State.lanes_writesDst hw ..⟩

/-- The lane, exchange and uniform instructions beside those of R226 to R234. -/
theorem deliversDst_of_not_int {i : Instr} (hget : ∀ d a b, i ≠ .xget d a b) (hput : ∀ d a b, i ≠ .xput d a b)
    (h : ((Claims.intRule i).isNone && ((laneForm i).isSome || (Claims.uniRule i).isSome)) = true) : DeliversDst i := by
  cases i
  case xget d a b => exact absurd rfl (hget d a b)
  case xput d a b => exact absurd rfl (hput d a b)
  case mov d a width p => exact deliversDst_mov ..
  case sel d a b c => exact deliversDst_sel ..
  case plog t a b c p x => exact deliversDst_plog ..
  case pmov d a p => exact deliversDst_pmov ..
  case cvt d a p x => exact deliversDst_cvt ..
  case pack d a b p x => exact deliversDst_pack ..
  case unpk d a p x => exact deliversDst_unpk ..
  case dot4 d a b c p x => exact deliversDst_dot4 ..
  case dot8 d a b c p x => exact deliversDst_dot8 ..
  case icmpI d a b p x => exact deliversDst_of_compares fun s => show execIcmpI d a b p x s = _ from rfl
  case icmpN d a b p x => exact deliversDst_of_compares fun s => show execIcmpN d a b p x s = _ from rfl
  case fcmp d a b p x => exact deliversDst_of_compares fun s => show execFcmp d a b p x s = _ from rfl
  case dcmp d a b p x => exact deliversDst_of_compares fun s => show execDcmp d a b p x s = _ from rfl
  case fadd d a b p => exact deliversDst_of_lanes fun s => show execFadd d a b p s = _ from rfl
  case fsub d a b p => exact deliversDst_of_lanes fun s => show execFsub d a b p s = _ from rfl
  case fmul d a b p => exact deliversDst_of_lanes fun s => show execFmul d a b p s = _ from rfl
  case fmin d a b p => exact deliversDst_of_lanes fun s => show execFmin d a b p s = _ from rfl
  case fmax d a b p => exact deliversDst_of_lanes fun s => show execFmax d a b p s = _ from rfl
  case duoadd d a b p x => exact deliversDst_of_lanes fun s => show execDuoadd d a b p x s = _ from rfl
  case duomul d a b p x => exact deliversDst_of_lanes fun s => show execDuomul d a b p x s = _ from rfl
  case fneg d a p => exact deliversDst_of_lanes fun s => show execFneg d a p s = _ from rfl
  case fabs d a p => exact deliversDst_of_lanes fun s => show execFabs d a p s = _ from rfl
  case frcp d a p => exact deliversDst_of_lanes fun s => show execFrcp d a p s = _ from rfl
  case frsq d a p => exact deliversDst_of_lanes fun s => show execFrsq d a p s = _ from rfl
  case fsqrt d a p => exact deliversDst_of_lanes fun s => show execFsqrt d a p s = _ from rfl
  case fex2 d a p => exact deliversDst_of_lanes fun s => show execFex2 d a p s = _ from rfl
  case fsin d a p => exact deliversDst_of_lanes fun s => show execFsin d a p s = _ from rfl
  case fcos d a p => exact deliversDst_of_lanes fun s => show execFcos d a p s = _ from rfl
  case fscale d a b p => exact deliversDst_of_lanes fun s => show execFscale d a b p s = _ from rfl
  case ffma d a b c p x => exact deliversDst_of_lanes fun s => show execFfma d a b c p x s = _ from rfl
  case duofma d a b c p x => exact deliversDst_of_lanes fun s => show execDuofma d a b c p x s = _ from rfl
  case dadd d a b p => exact deliversDst_of_lanes fun s => show execDadd d a b p s = _ from rfl
  case dmul d a b p => exact deliversDst_of_lanes fun s => show execDmul d a b p s = _ from rfl
  case dfma d a b c p x => exact deliversDst_of_lanes fun s => show execDfma d a b c p x s = _ from rfl
  case poll d a p x => exact deliversDst_of_exchange fun s => show execPoll d a p x s = _ from rfl
  case ballot d a b p => exact deliversDst_of_exchange fun s => show execBallot d a b p s = _ from rfl
  case pick d a b c p x => exact deliversDst_of_exchange fun s => show execPick d a b c p x s = _ from rfl
  case bcast d a b p => exact deliversDst_of_exchange fun s => show execBcast d a b p s = _ from rfl
  case rots d a b p => exact deliversDst_of_exchange fun s => show execRots d a b p s = _ from rfl
  case redX d a p x => exact deliversDst_of_exchange fun s => show execRedX d a p x s = _ from rfl
  case scan d a p x => exact deliversDst_of_exchange fun s => show execScan d a p x s = _ from rfl
  case matchX d a p => exact deliversDst_of_exchange fun s => show execMatchX d a p s = _ from rfl
  case wmov d a bp => exact deliversDst_of_putUni fun s => show execWmov d a bp s = _ from rfl
  case wadd d a b bp => exact deliversDst_of_putUni fun s => show execWadd d a b bp s = _ from rfl
  case wsub d a b bp => exact deliversDst_of_putUni fun s => show execWsub d a b bp s = _ from rfl
  case wmul d a b bp => exact deliversDst_of_putUni fun s => show execWmul d a b bp s = _ from rfl
  case wand d a b bp => exact deliversDst_of_putUni fun s => show execWand d a b bp s = _ from rfl
  case wor d a b bp => exact deliversDst_of_putUni fun s => show execWor d a b bp s = _ from rfl
  case wxor d a b bp => exact deliversDst_of_putUni fun s => show execWxor d a b bp s = _ from rfl
  case wshl d a b bp => exact deliversDst_of_putUni fun s => show execWshl d a b bp s = _ from rfl
  case wshr d a b bp => exact deliversDst_of_putUni fun s => show execWshr d a b bp s = _ from rfl
  case wasr d a b bp => exact deliversDst_of_putUni fun s => show execWasr d a b bp s = _ from rfl
  case wmin d a b bp => exact deliversDst_of_putUni fun s => show execWmin d a b bp s = _ from rfl
  case wmax d a b bp => exact deliversDst_of_putUni fun s => show execWmax d a b bp s = _ from rfl
  case wpopc d a bp => exact deliversDst_of_putUni fun s => show execWpopc d a bp s = _ from rfl
  case fdiv d a b p => exact deliversDst_of_lanes fun s => show execFdiv d a b p s = _ from rfl
  case flg2 d a p => exact deliversDst_of_lanes fun s => show execFlg2 d a p s = _ from rfl
  case imac d a b c p x => exact deliversDst_of_lanes fun s => show execImac d a b c p x s = _ from rfl
  case imacw d a b c p x => exact deliversDst_of_lanes fun s => show execImacw d a b c p x s = _ from rfl
  case bfi d a b c p x =>
    have ruled : (Claims.intRule (.bfi d a b c p x)).isNone = false := by simp only [Claims.intRule]; split <;> rfl
    rw [ruled] at h
    exact absurd h Bool.false_ne_true
  case bsel d a b c p x =>
    have ruled : (Claims.intRule (.bsel d a b c p x)).isNone = false := by simp only [Claims.intRule]; split <;> rfl
    rw [ruled] at h
    exact absurd h Bool.false_ne_true
  all_goals exact absurd h Bool.false_ne_true

/-- Every lane, exchange and uniform instruction but XGET and XPUT, which a path does not run, writes its destination alone. -/
theorem deliversDst {i : Instr} (h : (laneForm i).isSome = true ∨ (Claims.uniRule i).isSome = true) (hget : ∀ d a b, i ≠ .xget d a b)
    (hput : ∀ d a b, i ≠ .xput d a b) : DeliversDst i := by
  cases hrule : Claims.intRule i with
  | some r => exact (intRule_meaning hrule).deliversDst
  | none => exact deliversDst_of_not_int hget hput (by simpa [hrule] using h)

end Sys2Proof.Machine
end

section
/-! PROOFS of the frame of lane, exchange and uniform instructions (R22, R167, R178, R220, R222). -/

namespace Sys2Proof.Machine

/-! Changes that change nothing -/

theorem Tbl.upd_eq_self {α : Type} {k : Nat} {f : α → α} {t : Tbl α} (h : ∀ a, Tbl.find k t = some a → f a = a) : Tbl.upd k f t = t := by
  induction t with
  | nil => rfl
  | cons e t ih =>
    obtain ⟨j, a⟩ := e
    by_cases hk : j = k
    · have same : f a = a := h a (by simp [Tbl.find, hk])
      simp [Tbl.upd, hk, same]
    · have rest : Tbl.upd k f t = t := ih fun a ha => h a (by simpa [Tbl.find, hk] using ha)
      simp [Tbl.upd, hk, rest]

theorem State.onBlock_eq_self {s : State} {u : Nat} {f : Block → Block} (h : ∀ b, Tbl.find u s.blocks = some b → f b = b) :
    s.onBlock u f = s := by
  rw [State.onBlock, Tbl.upd_eq_self h]

theorem Block.onGroup_eq_self {b : Block} {g : Nat} {f : Group → Group} (h : ∀ x, b.groups[g]? = some x → f x = x) : b.onGroup g f = b := by
  have same : b.groups.modify g f = b.groups := by
    refine List.ext_getElem? fun k => ?_
    rw [List.getElem?_modify]
    split
    · subst_vars
      cases hx : b.groups[k]? with
      | none => rfl
      | some x => simp [h x hx]
    · cases b.groups[k]? <;> rfl
  rw [Block.onGroup, same]

theorem State.onGrp_eq_self {s : State} {u g : Nat} {f : Group → Group}
    (h : ∀ b x, Tbl.find u s.blocks = some b → b.groups[g]? = some x → f x = x) : s.onGrp u g f = s :=
  State.onBlock_eq_self fun b hb => Block.onGroup_eq_self fun x hx => h b x hb hx

/-! A settled pass -/

/-- A group whose strands all run on, and that nothing waits to interrupt. -/
structure Group.Running (x : Group) : Prop where
  handler : x.handler = none
  live : x.life = .live
  traps : x.pendTraps = []
  some : x.living ≠ []
  active : ∀ k ∈ x.living, (x.strand k).st = .active ∧ (x.strand k).wait = .none

theorem Group.mem_living {x : Group} {k : Nat} : k ∈ x.living ↔ k < x.width ∧ (x.strand k).isExited = false := by
  simp [Group.living, Group.all]

theorem Group.Running.joiners_eq_nil {x : Group} (h : x.Running) : x.joiners = [] :=
  List.filter_eq_nil_iff.mpr fun k hk => by rw [(h.active k hk).2]; decide

theorem Group.Running.settleJoin_eq {x : Group} (h : x.Running) : x.settleJoin = x := by
  rw [Group.settleJoin, h.joiners_eq_nil]
  rfl

theorem Group.Running.arrived_eq_false {x : Group} (h : x.Running) : x.arrived = false := by
  refine eq_false_of_ne_true fun arrived => ?_
  obtain ⟨-, -, sync⟩ := (Group.arrived_iff x).mp arrived
  obtain ⟨k, hk⟩ := List.exists_mem_of_ne_nil _ h.some
  obtain ⟨n, hn⟩ := sync k hk
  rw [(h.active k hk).2] at hn
  exact nomatch hn

theorem Group.trapSet_eq_none {x : Group} (h : ∀ k ∈ x.all, ∀ c a v, (x.strand k).st ≠ .fatal c a v) : x.trapSet = none := by
  unfold Group.trapSet
  dsimp only
  split
  · rfl
  · split
    · rfl
    case h_2 k rest here =>
      have hk := List.mem_of_mem_filter (List.mem_of_mem_filter (here ▸ List.mem_cons_self (a := k)))
      split
      case h_1 c a v hst => exact absurd hst (h k hk c a v)
      case h_2 => rfl

theorem Group.Running.trapSet_eq_none {x : Group} (h : x.Running) : x.trapSet = none := by
  refine Group.trapSet_eq_none fun k hk c a v hst => ?_
  have alive : (x.strand k).isExited = false := by rw [Strand.isExited, hst]; rfl
  have active := (h.active k (Group.mem_living.mpr ⟨List.mem_range.mp hk, alive⟩)).1
  rw [active] at hst
  exact nomatch hst

theorem Block.settleSync_of_running {b : Block} {g : Nat} {x : Group} (hx : b.groups[g]? = some x) (h : x.Running) : b.settleSync = b := by
  have hlt : g < b.groups.length := (List.getElem?_eq_some_iff.mp hx).1
  have group : b.group g = x := Block.group_of_getElem? hx
  have mem : g ∈ b.liveGroups := by
    simp [Block.liveGroups, hlt, group, h.live]
  have held : (b.liveGroups.all fun g => (b.group g).arrived) = false :=
    List.all_eq_false.mpr ⟨g, mem, by rw [group, h.arrived_eq_false]; exact Bool.false_ne_true⟩
  rw [Block.settleSync]
  simp [held]

theorem State.grp_of_find {s : State} {u g : Nat} {b : Block} {x : Group} (hb : Tbl.find u s.blocks = some b) (hx : b.groups[g]? = some x) :
    s.grp u g = x := by
  rw [State.grp, State.block_of_find hb, Block.group_of_getElem? hx]

theorem State.settle_of_running {s : State} {u g : Nat} {b : Block} {x : Group} (hb : Tbl.find u s.blocks = some b)
    (hx : b.groups[g]? = some x) (h : x.Running) : s.settle u g = s := by
  have group := State.grp_of_find hb hx
  have join : s.onGrp u g Group.settleJoin = s := State.onGrp_eq_self fun c y hc hy => by
    obtain rfl : b = c := Option.some.inj (hb.symm.trans hc)
    obtain rfl : x = y := Option.some.inj (hx.symm.trans hy)
    exact h.settleJoin_eq
  have sync : s.onBlock u Block.settleSync = s := State.onBlock_eq_self fun c hc => by
    obtain rfl : b = c := Option.some.inj (hb.symm.trans hc)
    exact Block.settleSync_of_running hx h
  have nonempty : x.living.isEmpty = false := by simpa using h.some
  have leave : s.leaveOps u g = s := by rw [State.leaveOps]; simp [group, nonempty]
  have exit : s.exitSettle u g = s := by rw [State.exitSettle]; simp [group, nonempty]
  have latch : s.latchSettle u g = s := by rw [State.latchSettle]; simp [group, h.live]
  have trap : s.takeTrap u g = s := by
    rw [State.takeTrap]
    simp only [group, h.handler, h.trapSet_eq_none, h.traps]
    exact ite_self s
  simp only [State.settle, join, sync, leave, exit, latch, trap]
  simp

theorem State.performScr_of_none {s : State} (h : s.scrOps = []) : s.performScr = s := by
  rw [State.performScr, h]
  have same : ({ s with scrOps := [] } : State) = s := by rw [← h]
  exact same

/-- A pass that leaves its group running has nothing to settle. -/
theorem State.endPass_of_running {s : State} {u g : Nat} {ks : List Nat} {b : Block} {x : Group} (hk : s.focus.kind = .path u g ks)
    (hy : s.focus.yieldAfter = false) (hkept : s.focus.kept = false) (hscr : s.scrOps = []) (hb : Tbl.find u s.blocks = some b)
    (hx : b.groups[g]? = some x) (h : x.Running) : s.endPass = s := by
  rw [State.endPass]
  simp only [hk, hy, hkept, Bool.false_and, Bool.false_eq_true, if_false, State.performScr_of_none hscr, State.settle_of_running hb hx h]
  exact ite_self s

/-! What the destination's change leaves of its group -/

/-- A write-back of an instruction's results: registers of its destination, and no queue. -/
structure WriteBack.Into (w : WriteBack) (d : Opd) : Prop where
  push : w.push = none
  uniform : ∀ e ∈ w.wWrites, ∃ m : Fin 32, d = .w m ∧ m.val ≤ e.1 ∧ e.1 < m.val + 4
  vector : ∀ e ∈ w.vWrites, ∃ m : Fin 64, d = .v m ∧ m.val ≤ e.1 ∧ e.1 < m.val + 4

/-- A group whose destination has been written, or waits for its write-backs. -/
structure Group.Written (d : Opd) (x y : Group) : Prop where
  same : y = { x with w := y.w, pendWb := y.pendWb }
  writes : ∃ more, y.pendWb = x.pendWb ++ more ∧ ∀ w ∈ more, w.Into d
  words : ∀ n, (∀ m : Fin 32, d = .w m → n < m.val ∨ m.val + 4 ≤ n) → y.getW n = x.getW n

theorem Group.Written.refl (d : Opd) (x : Group) : Group.Written d x x := ⟨rfl, ⟨[], by simp⟩, fun _ _ => rfl⟩

theorem listSet_eq_set {α : Type} (l : List α) (n : Nat) (a : α) : listSet l n a = l.set n a := by
  induction l generalizing n with
  | nil => rfl
  | cons b l ih => cases n <;> simp [listSet, ih]

theorem Group.written_setW (x : Group) (m : Fin 32) (v : W32) : Group.Written (.w m) x (x.setW m.val v) where
  same := rfl
  writes := ⟨[], by simp [Group.setW]⟩
  words n hn := by
    have hne : m.val ≠ n := by have := hn m rfl; omega
    simp [Group.getW, Group.setW, listSet_eq_set, List.getD_eq_getElem?_getD, List.getElem?_set_ne hne]

/-- The parts into which an instruction's write-back falls write what it writes (R222). -/
theorem WriteBack.split_into {wb : WriteBack} {d : Opd} (h : wb.Into d) (f : Focus) (pass : Nat) : ∀ w ∈ wb.split f pass, w.Into d := by
  intro w hw
  simp only [WriteBack.split, h.push, List.append_nil, List.mem_append, List.mem_map] at hw
  obtain ⟨due, -, rfl⟩ | hw := hw
  · refine ⟨rfl, fun _ he => absurd he List.not_mem_nil, fun e he => ?_⟩
    obtain ⟨e', he', rfl⟩ := List.mem_map.mp (List.mem_of_mem_filter he)
    exact h.vector e' he'
  · split at hw
    · exact absurd hw List.not_mem_nil
    · obtain rfl := List.mem_singleton.mp hw
      exact ⟨rfl, h.uniform, fun _ he => absurd he List.not_mem_nil⟩

theorem Group.written_pendWb {wb : WriteBack} {d : Opd} (h : wb.Into d) (f : Focus) (pass : Nat) (x : Group) :
    Group.Written d x { x with pendWb := x.pendWb ++ wb.split f pass } :=
  ⟨rfl, ⟨_, rfl, WriteBack.split_into h f pass⟩, fun _ _ => rfl⟩

theorem natWords_length (n x : Nat) : (natWords n x).length = n := by
  induction n generalizing x with
  | zero => rfl
  | succ n ih => simp [natWords, ih]

theorem vectorWrites_register {n words : Nat} {res : List (Nat × Nat)} {e : Nat × List (Nat × W32)} (h : e ∈ vectorWrites n words res) :
    n ≤ e.1 ∧ e.1 < n + words := by
  obtain ⟨j, hj, rfl⟩ := List.mem_map.mp h
  have := List.mem_range.mp hj
  exact ⟨Nat.le_add_right n j, by simpa using this⟩

theorem uniformWrites_register {n words x : Nat} {e : Nat × W32} (h : e ∈ (natWords words x).zipIdx.map fun e => (n + e.2, e.1)) :
    n ≤ e.1 ∧ e.1 < n + words := by
  obtain ⟨e', he, rfl⟩ := List.mem_map.mp h
  have := List.snd_lt_of_mem_zipIdx he
  rw [natWords_length] at this
  exact ⟨Nat.le_add_right n e'.2, by simpa using this⟩

/-- A lane form's results wait for their write-backs, where the destination names no queue (R220). -/
theorem State.deliver_written {t : State} {u g : Nat} {f : LaneForm} (hq : ∀ q, f.d ≠ .q q) (hm : ∀ m, f.d ≠ .mask m) (hbits : f.bits ≤ 128)
    (res : List (Nat × Nat)) (preds : List (Nat × List (Nat × Bool))) :
    ∃ F, t.deliver u g f res preds = t.onGrp u g F ∧ ∀ x, Group.Written f.d x (F x) := by
  have words : f.bits / 32 ≤ 4 := by omega
  rw [State.deliver]
  split
  case h_1 n hd =>
    refine ⟨_, rfl, Group.written_pendWb ⟨rfl, fun _ he => absurd he List.not_mem_nil, fun e he => ⟨n, hd, ?_⟩⟩ _ _⟩
    have := vectorWrites_register he
    omega
  case h_2 n hd =>
    refine ⟨_, rfl, Group.written_pendWb ⟨rfl, fun e he => ⟨n, hd, ?_⟩, fun _ he => absurd he List.not_mem_nil⟩ _ _⟩
    have := uniformWrites_register he
    omega
  case h_3 q hd => exact absurd hd (hq q)
  case h_4 m hd => exact absurd hd (hm m)
  case h_5 => exact ⟨_, rfl, Group.written_pendWb ⟨rfl, fun _ he => absurd he List.not_mem_nil, fun _ he => absurd he List.not_mem_nil⟩ _ _⟩

theorem State.putUni_written {t : State} {u g : Nat} {ks : List Nat} (hk : t.focus.kind = .path u g ks) {d : Opd} (hq : ∀ q, d ≠ .q q)
    (v : W32) : ∃ F, t.putUni d v = t.onGrp u g F ∧ ∀ x, Group.Written d x (F x) := by
  cases d
  case w n => exact ⟨_, by simp only [State.putUni, State.putW, hk], fun x => Group.written_setW x n v⟩
  case q q => exact absurd rfl (hq q)
  all_goals exact ⟨id, (State.onGrp_eq_self fun _ _ _ _ => rfl).symm, fun x => Group.Written.refl _ x⟩

theorem WritesDst.written {i : Instr} {u g : Nat} {ks : List Nat} {t y : State} (h : WritesDst i u g t y) (hk : t.focus.kind = .path u g ks)
    (hq : ∀ q, dst i ≠ .q q) (hm : ∀ m, dst i ≠ .mask m) : ∃ F, y = t.onGrp u g F ∧ ∀ x, Group.Written (dst i) x (F x) := by
  obtain rfl | ⟨v, rfl⟩ | ⟨f, res, preds, hd, hbits, rfl⟩ := h
  · exact ⟨id, (State.onGrp_eq_self fun _ _ _ _ => rfl).symm, fun x => Group.Written.refl _ x⟩
  · exact State.putUni_written hk hq v
  · exact hd ▸ State.deliver_written (hd ▸ hq) (hd ▸ hm) hbits res preds

end Sys2Proof.Machine
end

section
/-! PROOFS of the frame of lane, exchange and uniform instructions: the path goes on, and the pass ends (R167, R220, R222). -/

namespace Sys2Proof.Machine

/-! The operands of an instruction that names no queue -/

theorem State.popSrcs_of_no_queue {os : List Opd} (h : ∀ q, Opd.q q ∉ os) (s : State) (u g : Nat) (ks : List Nat) :
    (s.popSrcs u g ks os).1 = s := by
  induction os with
  | nil => rfl
  | cons o os ih =>
    have rest := ih fun q hq => h q (List.mem_cons_of_mem o hq)
    cases o
    case q q => exact absurd List.mem_cons_self (h q)
    all_goals exact rest

theorem State.operands_of_quiet {s : State} {u g : Nat} {ks : List Nat} {i : Instr} (hk : s.focus.kind = .path u g ks)
    (hsoft : (s.grp u g).soft = []) (hok : (s.grp u g).softOk = []) (h : ∀ q, Opd.q q ∉ srcs i) : (s.operands i).1 = s := by
  have read : s.softRead u g i = s := by simp [State.softRead, hsoft, hok]
  simp only [State.operands, State.who_of_path hk, read]
  exact State.popSrcs_of_no_queue h s u g _

/-! The path goes on -/

/-- A strand that the path's strands take past the present instruction. -/
def Strand.passed (f : Focus) (t : Strand) : Strand :=
  if t.st == .active then if t.wait.isMask then { t with replay := none } else { t.past f with wait := .none, replay := none } else t

theorem Group.advance_eq (x : Group) (f : Focus) (ks : List Nat) : x.advance f ks = x.onStrands ks (Strand.passed f) := rfl

theorem Strand.past_past (t : Strand) (f : Focus) : ({ t.past f with wait := .none, replay := none } : Strand).past f =
    { t.past f with wait := .none, replay := none } := by
  by_cases h : f.idx + f.len ≤ f.n <;> simp [Strand.past, Strand.goto, h]

@[simp] theorem Strand.past_st (t : Strand) (f : Focus) : (t.past f).st = t.st := by
  by_cases h : f.idx + f.len ≤ f.n <;> simp [Strand.past, Strand.goto, h]

theorem Strand.passed_of_active {t : Strand} (hst : t.st = .active) (hw : t.wait = .none) (f : Focus) :
    t.passed f = { t.past f with wait := .none, replay := none } := by
  simp [Strand.passed, hst, hw, Wait.isMask]

/-- A strand that stands twice among a path's is past the instruction once. -/
theorem Strand.passed_passed (t : Strand) (f : Focus) : (t.passed f).passed f = t.passed f := by
  by_cases hst : t.st = .active
  · by_cases hw : t.wait.isMask = true
    · simp [Strand.passed, hst, hw]
    · have once : t.passed f = { t.past f with wait := .none, replay := none } := by simp [Strand.passed, hst, hw]
      rw [once, Strand.passed_of_active (by simpa using hst) rfl, Strand.past_past]
  · simp [Strand.passed, hst]

theorem getElem?_foldl_modify_of_idem {α : Type} {f : α → α} (hf : ∀ a, f (f a) = f a) (ks : List Nat) (l : List α) (k : Nat) :
    (ks.foldl (fun l k => l.modify k f) l)[k]? = if k ∈ ks then l[k]?.map f else l[k]? := by
  induction ks generalizing l with
  | nil => simp
  | cons j ks ih =>
    rw [List.foldl_cons, ih]
    by_cases hk : k = j
    · subst hk
      have twice : f ∘ f = f := funext hf
      simp [twice]
    · simp [hk, List.getElem?_modify_ne f _ (Ne.symm hk)]

theorem Group.strand_eq (x : Group) (k : Nat) : x.strand k = x.strands[k]?.getD {} := List.getD_eq_getElem?_getD

theorem Group.strand_advance_of_mem {x : Group} {ks : List Nat} {k : Nat} (hk : k ∈ ks) (hlt : k < x.width) (f : Focus) :
    (x.advance f ks).strand k = (x.strand k).passed f := by
  have here : x.strands[k]? = some x.strands[k] := List.getElem?_eq_getElem hlt
  rw [Group.advance_eq, Group.strand_eq, Group.strand_eq, Group.onStrands_strands,
    getElem?_foldl_modify_of_idem (fun t => Strand.passed_passed t f), if_pos hk, here]
  rfl

theorem Group.strand_advance_of_not_mem {x : Group} {ks : List Nat} {k : Nat} (hk : k ∉ ks) (f : Focus) :
    (x.advance f ks).strand k = x.strand k := by
  rw [Group.advance_eq, Group.strand_eq, Group.strand_eq, Group.onStrands_strands,
    getElem?_foldl_modify_of_idem (fun t => Strand.passed_passed t f), if_neg hk]

theorem Group.onStrands_eq (x : Group) (ks : List Nat) (f : Strand → Strand) :
    x.onStrands ks f = { x with strands := (x.onStrands ks f).strands } := by
  induction ks generalizing x with
  | nil => rfl
  | cons k ks ih => exact ih (x.onStrand k f)

theorem Group.advance_strands (x : Group) (f : Focus) (ks : List Nat) : x.advance f ks = { x with strands := (x.advance f ks).strands } :=
  Group.onStrands_eq x ks _

theorem Group.width_advance (x : Group) (f : Focus) (ks : List Nat) : (x.advance f ks).width = x.width := by
  have length (l : List Strand) : (ks.foldl (fun l k => l.modify k (Strand.passed f)) l).length = l.length := by
    induction ks generalizing l with
    | nil => rfl
    | cons k ks ih => simp [ih]
  rw [Group.width, Group.advance_eq, Group.onStrands_strands, length, Group.width]

/-- The group behind a pass of all its living strands, whose destination has been written. -/
structure Group.Passed (d : Opd) (f : Focus) (ks : List Nat) (x y : Group) : Prop where
  same : y = { x with w := y.w, strands := y.strands, pendWb := y.pendWb }
  writes : ∃ more, y.pendWb = x.pendWb ++ more ∧ ∀ w ∈ more, w.Into d
  words : ∀ n, (∀ m : Fin 32, d = .w m → n < m.val ∨ m.val + 4 ≤ n) → y.getW n = x.getW n
  others : ∀ k, k ∉ ks → y.strand k = x.strand k
  path : ∀ k ∈ ks, y.strand k = { (x.strand k).past f with wait := .none, replay := none }
  width : y.width = x.width

section
variable {d : Opd} {ks : List Nat} {x z : Group} (hz : Group.Written d x z) (hks : ∀ k, k ∈ ks ↔ k ∈ x.living)
  (hact : ∀ k ∈ ks, (x.strand k).st = .active ∧ (x.strand k).wait = .none)
include hz hks hact

theorem Group.Written.passed (f : Focus) : Group.Passed d f ks x (z.advance f ks) := by
  have strands : z.strands = x.strands := by rw [hz.same]
  have strand (k : Nat) : z.strand k = x.strand k := by rw [Group.strand, strands, Group.strand]
  have width : z.width = x.width := by rw [Group.width, strands, Group.width]
  have hw : (z.advance f ks).w = z.w := by rw [Group.advance_strands]
  have hwb : (z.advance f ks).pendWb = z.pendWb := by rw [Group.advance_strands]
  refine ⟨?_, hwb ▸ hz.writes, fun n hn => ?_, fun k hk => ?_, fun k hk => ?_, ?_⟩
  · rw [hw, hwb]
    exact (Group.advance_strands z f ks).trans (congrArg (fun q : Group => { q with strands := (z.advance f ks).strands }) hz.same)
  · rw [Group.getW, hw]
    exact hz.words n hn
  · rw [Group.strand_advance_of_not_mem hk, strand]
  · obtain ⟨hst, hwait⟩ := hact k hk
    have hlt : k < z.width := width ▸ (Group.mem_living.mp ((hks k).mp hk)).1
    rw [Group.strand_advance_of_mem hk hlt, strand, Strand.passed_of_active hst hwait]
  · rw [Group.width_advance, width]

end

theorem Group.Passed.running {d : Opd} {f : Focus} {ks : List Nat} {x y : Group} (h : Group.Passed d f ks x y) (hh : x.handler = none)
    (hlive : x.life = .live) (htraps : x.pendTraps = []) (hne : ks ≠ []) (hks : ∀ k, k ∈ ks ↔ k ∈ x.living)
    (hact : ∀ k ∈ ks, (x.strand k).st = .active ∧ (x.strand k).wait = .none) : y.Running := by
  have active (k : Nat) (hk : k ∈ ks) : (y.strand k).st = .active ∧ (y.strand k).wait = .none := by
    rw [h.path k hk]
    exact ⟨(Strand.past_st _ _).trans (hact k hk).1, rfl⟩
  have living (k : Nat) (hk : k ∈ y.living) : k ∈ ks := by
    obtain ⟨hlt, halive⟩ := Group.mem_living.mp hk
    by_contra hout
    rw [h.others k hout] at halive
    exact hout ((hks k).mpr (Group.mem_living.mpr ⟨h.width ▸ hlt, halive⟩))
  refine ⟨by rw [h.same]; exact hh, by rw [h.same]; exact hlive, by rw [h.same]; exact htraps, ?_, fun k hk => active k (living k hk)⟩
  obtain ⟨k, hk⟩ := List.exists_mem_of_ne_nil ks hne
  have alive : (y.strand k).isExited = false := by rw [Strand.isExited, (active k hk).1]; rfl
  have hlt : k < y.width := h.width ▸ (Group.mem_living.mp ((hks k).mp hk)).1
  exact List.ne_nil_of_mem (Group.mem_living.mpr ⟨hlt, alive⟩)

/-! The frame -/

theorem State.advance_of_path {t : State} {u g : Nat} {ks : List Nat} (h : t.focus.kind = .path u g ks) :
    t.advance = t.onGrp u g fun y => y.advance t.focus ks := by
  simp only [State.advance, h]

/-- XGET and XPUT of a path take trap 0x05 (R251). -/
theorem not_exchange_of_runs {i : Instr} {s : State} {u g : Nat} {ks : List Nat} (hk : s.focus.kind = .path u g ks) (hr : s.runs i = true) :
    (∀ d a b, i ≠ .xget d a b) ∧ ∀ d a b, i ≠ .xput d a b := by
  have pass : (execTrap i s).isNone = true := by
    simp only [State.runs, Bool.and_eq_true] at hr
    obtain ⟨⟨⟨-, hexec⟩, -⟩, -⟩ := hr
    exact hexec
  constructor <;> rintro d a b rfl <;> simp [execTrap, hk] at pass

/-- Settles O6: the instruction writes its destination alone (`deliversDst`), the path's strands go on, and behind that its group still runs,
so that the end of the pass settles nothing. -/
theorem laneFrame : Obligations.LaneFrame := by
  intro i s u g ks b x hb hx hk hyield hkept hr hscr hsoft hok hh hlive htraps hne hks hact hform hsrcs hq hm
  have group : s.grp u g = x := State.grp_of_find hb hx
  have quiet : (s.operands i).1 = s := State.operands_of_quiet hk (group ▸ hsoft) (group ▸ hok) hsrcs
  obtain ⟨hget, hput⟩ := not_exchange_of_runs hk hr
  obtain ⟨body, hexec, hbody⟩ := deliversDst hform hget hput
  obtain ⟨F, hF, hwritten⟩ := (hbody (s.operands i).2 s u g (State.who_of_path hk)).written hk hq hm
  have passed : Group.Passed (dst i) s.focus ks x ((F x).advance s.focus ks) := (hwritten x).passed hks hact s.focus
  have running := passed.running hh hlive htraps hne hks hact
  have hb1 : Tbl.find u (s.onGrp u g F).blocks = some (b.onGroup g F) := (Tbl.find_upd_same u _ s.blocks).trans (hb ▸ rfl)
  have hx1 : (b.onGroup g F).groups[g]? = some (F x) := by simp [Block.onGroup, hx]
  have moved : (s.onGrp u g F).advance = (s.onGrp u g F).onGrp u g fun y => y.advance s.focus ks := State.advance_of_path hk
  have hb2 : Tbl.find u (s.onGrp u g F).advance.blocks = some ((b.onGroup g F).onGroup g fun y => y.advance s.focus ks) := by
    rw [moved]; exact (Tbl.find_upd_same u _ _).trans (hb1 ▸ rfl)
  have hx2 : ((b.onGroup g F).onGroup g fun y => y.advance s.focus ks).groups[g]? = some ((F x).advance s.focus ks) := by
    rw [Block.onGroup, List.getElem?_modify_eq, hx1]; rfl
  have ends : (s.onGrp u g F).passes = (s.onGrp u g F).advance := by
    refine State.endPass_of_running (ks := ks) ?_ ?_ ?_ ?_ hb2 hx2 running <;> rw [moved]
    exacts [hk, hyield, hkept, hscr]
  refine ⟨(s.onGrp u g F).advance, ?_, ?_, ?_, ?_, ?_, ?_⟩
  · rw [hexec, issue_runs i s body hr, quiet, hF, ends]
  · rw [moved]; exact fun _ => rfl
  · rw [moved]; rfl
  · intro v hv
    rw [moved]
    exact (Tbl.find_upd_of_ne hv _ _).trans (Tbl.find_upd_of_ne hv _ _)
  · intro h hne
    have other : (u, h) ≠ (u, g) := fun e => hne (congrArg Prod.snd e)
    rw [moved, State.grp_onGrp_of_ne other, State.grp_onGrp_of_ne other]
  · rw [State.grp_of_find hb2 hx2]
    obtain ⟨more, hmore, hinto⟩ := passed.writes
    exact ⟨passed.same, ⟨more, hmore, fun w hw => ⟨(hinto w hw).push, (hinto w hw).uniform, (hinto w hw).vector⟩⟩, passed.words,
      passed.others, passed.path⟩

end Sys2Proof.Machine
end

section
/-! PROOFS of the round trip: operand codes (R54 to R58) and the fields of the words (R59 to R66). -/

namespace Sys2Proof
open Machine

/-! Operands -/

/-- An operand that a 7-bit register field names (Table 3 of R54). -/
def isReg7 : Opd → Bool
  | .lit _ | .mask _ | .bad _ => false
  | _ => true

/-- An operand that a 7-bit source field names: a register, a constant or a literal. -/
def isSrc7 : Opd → Bool
  | .mask _ | .bad _ => false
  | _ => true

/-- An operand that a 7-bit destination field names: a register, a constant's code or a consumer mask. -/
def isDst7 : Opd → Bool
  | .lit _ | .bad _ => false
  | _ => true

/-- An operand that a 6-bit register field names (Table 4 of R56). -/
def isReg6 : Opd → Bool
  | .w _ | .q _ | .zero | .one | .mone => true
  | _ => false

theorem code7_lt {o : Opd} (h : (isSrc7 o || isDst7 o) = true) : code7 o < 128 := by
  cases o <;> simp_all [isSrc7, isDst7, code7] <;> omega

theorem code7_lt_of_src {o : Opd} (h : isSrc7 o = true) : code7 o < 128 := code7_lt (by simp [h])
theorem code7_lt_of_dst {o : Opd} (h : isDst7 o = true) : code7 o < 128 := code7_lt (by simp [h])
theorem isSrc7_of_reg {o : Opd} (h : isReg7 o = true) : isSrc7 o = true := by cases o <;> simp_all [isReg7, isSrc7]
theorem code7_lt_of_reg {o : Opd} (h : isReg7 o = true) : code7 o < 128 := code7_lt_of_src (isSrc7_of_reg h)

theorem code6_lt_of_src {o : Opd} (h : uSrc o = true) : code6 o < 64 := by
  cases o <;> simp_all [uSrc, code6] <;> omega

theorem uSrc_of_reg {o : Opd} (h : isReg6 o = true) : uSrc o = true := by cases o <;> simp_all [isReg6, uSrc]
theorem code6_lt_of_reg {o : Opd} (h : isReg6 o = true) : code6 o < 64 := code6_lt_of_src (uSrc_of_reg h)

/-- A register field reads back the operand whose code it holds. -/
theorem reg7_of_code {c : Nat} {o : Opd} (hc : c = code7 o) (h : isReg7 o = true) : reg7 c = o := by
  subst hc
  cases o with
  | v n => simp [code7, reg7, n.isLt]
  | w n => simp [code7, reg7]
  | q n => simp [code7, reg7, show ¬ 96 + n.val < 64 by omega, show ¬ 96 + n.val - 64 < 32 by omega]
  | lit x => simp [isReg7] at h
  | mask x => simp [isReg7] at h
  | bad c => simp [isReg7] at h
  | _ => rfl

theorem reg6_of_code {c : Nat} {o : Opd} (hc : c = code6 o) (h : isReg6 o = true) : reg6 c = o := by
  subst hc
  cases o with
  | w n => simp [code6, reg6]
  | q n => simp [code6, reg6]
  | zero | one | mone => rfl
  | _ => simp [isReg6] at h

theorem litOf_of_reg7 {o : Opd} (h : isReg7 o = true) : litOf o = [] := by
  cases o <;> simp_all [isReg7, litOf]

/-- A source field and the word behind it read back the operand. -/
theorem src7_of_code {c : Nat} {o : Opd} (hc : c = code7 o) (h : isSrc7 o = true) (r : List W32) :
    src7 c (litOf o ++ r) = .ok (o, r) := by
  by_cases hr : isReg7 o = true
  · have code : c ≠ 120 := by subst hc; cases o <;> simp_all [isReg7, code7] <;> omega
    simp [src7, code, litOf_of_reg7 hr, reg7_of_code hc hr]
  · subst hc
    cases o with
    | lit x => rfl
    | _ => simp_all [isSrc7, isReg7]

theorem dst7_of_code {c : Nat} {o : Opd} (hc : c = code7 o) (h : isDst7 o = true) (r : List W32) :
    dst7 c (litOf o ++ r) = .ok (o, r) := by
  by_cases hr : isReg7 o = true
  · have code : c ≠ 121 := by subst hc; cases o <;> simp_all [isReg7, code7] <;> omega
    simp [dst7, code, litOf_of_reg7 hr, reg7_of_code hc hr]
  · subst hc
    cases o with
    | mask x => rfl
    | _ => simp_all [isDst7, isReg7]

theorem src6_of_code {c : Nat} {o : Opd} (hc : c = code6 o) (h : uSrc o = true) (r : List W32) :
    src6 c (litOf o ++ r) = .ok (o, r) := by
  by_cases hr : isReg6 o = true
  · have code : c ≠ 51 := by subst hc; cases o <;> simp_all [isReg6, code6] <;> omega
    have lit : litOf o = [] := by cases o <;> simp_all [isReg6, litOf]
    simp [src6, code, lit, reg6_of_code hc hr]
  · subst hc
    cases o with
    | lit x => rfl
    | _ => simp_all [uSrc, isReg6]

/-- The codes of 7 bits behind the registers. -/
theorem reg7_constant : ∀ k : Fin 16, code7 (reg7 (112 + k)) = 112 + k ∧ litOf (reg7 (112 + k)) = [] := by
  decide

/-- The code of the operand that a register field reads is the field, and the operand takes no word. -/
theorem codes_of_reg7 {c : Nat} (h : c < 128) : code7 (reg7 c) = c ∧ litOf (reg7 c) = [] := by
  by_cases hv : c < 64
  · rw [reg7, dif_pos hv]
    exact ⟨rfl, rfl⟩
  by_cases hw : c - 64 < 32
  · rw [reg7, dif_neg hv, dif_pos hw]
    exact ⟨show 64 + (c - 64) = c by omega, rfl⟩
  by_cases hq : c - 96 < 16
  · rw [reg7, dif_neg hv, dif_neg hw, dif_pos hq]
    exact ⟨show 96 + (c - 96) = c by omega, rfl⟩
  have constant := reg7_constant ⟨c - 112, by omega⟩
  rwa [show 112 + (⟨c - 112, by omega⟩ : Fin 16).val = c by simp only; omega] at constant

theorem codes_of_reg6 : ∀ {c : Nat}, c < 64 → code6 (reg6 c) = c ∧ litOf (reg6 c) = [] := by
  have fields : ∀ k : Fin 64, code6 (reg6 k) = k ∧ litOf (reg6 k) = [] := by decide
  exact fun {c} h => fields ⟨c, h⟩

/-- What a source field reads: its code, and the words that it takes. -/
theorem words_of_src7 {c : Nat} {r r' : List W32} {o : Opd} (hc : c < 128) (h : src7 c r = .ok (o, r')) :
    c = code7 o ∧ r = litOf o ++ r' := by
  unfold src7 at h
  split at h
  · split at h <;> cases h
    exact ⟨‹_›, rfl⟩
  · cases h
    obtain ⟨code, lit⟩ := codes_of_reg7 hc
    exact ⟨code.symm, by simp [lit]⟩

theorem words_of_dst7 {c : Nat} {r r' : List W32} {o : Opd} (hc : c < 128) (h : dst7 c r = .ok (o, r')) :
    c = code7 o ∧ r = litOf o ++ r' := by
  unfold dst7 at h
  split at h
  · split at h <;> cases h
    exact ⟨‹_›, rfl⟩
  · cases h
    obtain ⟨code, lit⟩ := codes_of_reg7 hc
    exact ⟨code.symm, by simp [lit]⟩

theorem words_of_src6 {c : Nat} {r r' : List W32} {o : Opd} (hc : c < 64) (h : src6 c r = .ok (o, r')) :
    c = code6 o ∧ r = litOf o ++ r' := by
  unfold src6 at h
  split at h
  · split at h <;> cases h
    exact ⟨‹_›, rfl⟩
  · cases h
    obtain ⟨code, lit⟩ := codes_of_reg6 hc
    exact ⟨code.symm, by simp [lit]⟩

theorem takeWord_eq_ok {r r' : List W32} {x : W32} : takeWord r = .ok (x, r') ↔ r = x :: r' := by
  cases r <;> simp [takeWord]

theorem need_eq_ok {ok : Bool} {i i' : Instr} {r r' : List W32} : need ok i r = .ok (i', r') ↔ ok = true ∧ i = i' ∧ r = r' := by
  cases ok <;> simp [need]

/-! Fields of the words -/

theorem bits_lt (x hi lo : Nat) : bits x hi lo < 2 ^ (hi + 1 - lo) := Nat.mod_lt _ (Nat.two_pow_pos _)

theorem d7_lt (w : Nat) : d7 w < 128 := bits_lt w 23 17
theorem a7_lt (w : Nat) : a7 w < 128 := bits_lt w 16 10
theorem b7_lt (w : Nat) : b7 w < 128 := bits_lt w 9 3
theorem d6_lt (w : Nat) : d6 w < 64 := bits_lt w 23 18
theorem a6_lt (w : Nat) : a6 w < 64 := bits_lt w 17 12
theorem b6_lt (w : Nat) : b6 w < 64 := bits_lt w 11 6

/-- A bit read as a field of one bit. -/
theorem toNat_bitOf (x n : Nat) : (bitOf x n).toNat = x / 2 ^ n % 2 := by
  simp [bitOf, Nat.testBit_eq_decide_div_mod_eq, Bool.toNat]
  rcases Nat.mod_two_eq_zero_or_one (x / 2 ^ n) with h | h <;> simp [h]

theorem bool_eq_iff_toNat (a b : Bool) : a = b ↔ a.toNat = b.toNat := by
  cases a <;> cases b <;> decide

/-- The fields of a first word of 7-bit operands hold all of it (Table 5 of R59). -/
theorem w7_fields (w : W32) : w7 (opcOf w.toNat) (d7 w.toNat) (a7 w.toNat) (b7 w.toNat) (pOf w.toNat).val = w := by
  have := w.isLt
  apply BitVec.eq_of_toNat_eq
  simp only [w7, word, BitVec.toNat_ofNat, opcOf, d7, a7, b7, pOf, prOf, bits_eq_div_mod]
  omega

/-- The fields of a first word of 6-bit operands, whose low three bits are 0 (Table 9 of R63). -/
theorem w6_fields {w : W32} (low : bits w.toNat 2 0 = 0) :
    w6 (opcOf w.toNat) (d6 w.toNat) (a6 w.toNat) (b6 w.toNat) (bpOf w.toNat).val = w := by
  have := w.isLt
  rw [bits_eq_div_mod] at low
  apply BitVec.eq_of_toNat_eq
  simp only [w6, word, BitVec.toNat_ofNat, opcOf, d6, a6, b6, bpOf, prOf, bits_eq_div_mod]
  omega

/-- The fields of a branch (Table 10 of R64). -/
theorem wB_fields (w : W32) :
    wB (opcOf w.toNat) (prOf (bits w.toNat 23 21)).val (prOf (bits w.toNat 20 18)).val (BitVec.ofNat 18 (bits w.toNat 17 0)) = w := by
  have := w.isLt
  apply BitVec.eq_of_toNat_eq
  simp only [wB, word, BitVec.toNat_ofNat, opcOf, prOf, bits_eq_div_mod]
  omega

/-- The extension word of FX (Table 6 of R59). -/
theorem xw_fields (x : W32) : xw (bits x.toNat 31 25) (fxOf x.toNat) = x := by
  have := x.isLt
  apply BitVec.eq_of_toNat_eq
  simp only [xw, word, BitVec.toNat_ofNat, fxOf, toNat_bitOf, bits_eq_div_mod]
  omega

/-- The extension word of FA (Table 8 of R61). -/
theorem aw_fields (x : W32) :
    aw (xC x.toNat) (xFK x.toNat) (xTY x.toNat) (xAOP x.toNat) (xSX x.toNat) (xHINT x.toNat) (xOFF x.toNat) = x := by
  have := x.isLt
  apply BitVec.eq_of_toNat_eq
  simp only [aw, word, BitVec.toNat_ofNat, xC, xFK, xTY, xAOP, xSX, xHINT, xOFF, bits_eq_div_mod]
  omega

/-- The extension words of FM and FY (Table 12 of R66). -/
theorem mw_fields (x : W32) : mw (yC x.toNat) (yE x.toNat) (mMODE x.toNat) (mIMM x.toNat) = x := by
  have := x.isLt
  apply BitVec.eq_of_toNat_eq
  simp only [mw, word, BitVec.toNat_ofNat, yC, yE, mMODE, mIMM, bits_eq_div_mod]
  omega

theorem yw_fields (x : W32) : yw (yC x.toNat) (yE x.toNat) (yEQ x.toNat).toNat (yMODE x.toNat).toNat = x := by
  have := x.isLt
  apply BitVec.eq_of_toNat_eq
  simp only [yw, word, BitVec.toNat_ofNat, yC, yE, yEQ, yMODE, bits_eq_div_mod]
  omega

/-- What a first word of 7-bit operands reads back. -/
theorem fields_w7 {opc d a b : Nat} (p : Pr) (ho : opc < 256) (hd : d < 128) (ha : a < 128) (hb : b < 128) :
    opcOf (w7 opc d a b p.val).toNat = opc ∧ d7 (w7 opc d a b p.val).toNat = d ∧ a7 (w7 opc d a b p.val).toNat = a ∧
      b7 (w7 opc d a b p.val).toNat = b ∧ pOf (w7 opc d a b p.val).toNat = p ∧ bits (w7 opc d a b p.val).toNat 2 0 = p.val := by
  have := p.isLt
  simp only [w7, word, BitVec.toNat_ofNat, opcOf, d7, a7, b7, pOf, prOf, bits_eq_div_mod, Fin.ext_iff]
  omega

theorem fields_w6 {opc d a b : Nat} (p : Pr) (ho : opc < 256) (hd : d < 64) (ha : a < 64) (hb : b < 64) :
    opcOf (w6 opc d a b p.val).toNat = opc ∧ d6 (w6 opc d a b p.val).toNat = d ∧ a6 (w6 opc d a b p.val).toNat = a ∧
      b6 (w6 opc d a b p.val).toNat = b ∧ bpOf (w6 opc d a b p.val).toNat = p ∧ bits (w6 opc d a b p.val).toNat 2 0 = 0 := by
  have := p.isLt
  simp only [w6, word, BitVec.toNat_ofNat, opcOf, d6, a6, b6, bpOf, prOf, bits_eq_div_mod, Fin.ext_iff]
  omega

theorem fields_wB {opc : Nat} (bp ps : Pr) (off : BitVec 18) (ho : opc < 256) :
    opcOf (wB opc bp.val ps.val off).toNat = opc ∧ prOf (bits (wB opc bp.val ps.val off).toNat 23 21) = bp ∧
      prOf (bits (wB opc bp.val ps.val off).toNat 20 18) = ps ∧ BitVec.ofNat 18 (bits (wB opc bp.val ps.val off).toNat 17 0) = off := by
  have := bp.isLt
  have := ps.isLt
  have := off.isLt
  simp only [wB, word, BitVec.toNat_ofNat, opcOf, prOf, bits_eq_div_mod, Fin.ext_iff, ← BitVec.toNat_inj]
  omega

theorem fields_xw {c : Nat} (x : Fx) (hc : c < 128) : bits (xw c x).toNat 31 25 = c ∧ fxOf (xw c x).toNat = x := by
  obtain ⟨rm, sat, na, nb, nc, opx, imm⟩ := x
  have := rm.isLt
  have := opx.isLt
  have := imm.isLt
  have := sat.toNat_lt
  have := na.toNat_lt
  have := nb.toNat_lt
  have := nc.toNat_lt
  simp only [xw, word, BitVec.toNat_ofNat, fxOf, bits_eq_div_mod, Fx.mk.injEq, ← BitVec.toNat_inj, bool_eq_iff_toNat, toNat_bitOf]
  omega

theorem fields_aw {c fk ty aop sx hint : Nat} (off : BitVec 12) (hc : c < 128) (hf : fk < 4) (ht : ty < 8) (ha : aop < 16)
    (hs : sx < 2) (hh : hint < 8) :
    xC (aw c fk ty aop sx hint off).toNat = c ∧ xFK (aw c fk ty aop sx hint off).toNat = fk ∧ xTY (aw c fk ty aop sx hint off).toNat = ty ∧
      xAOP (aw c fk ty aop sx hint off).toNat = aop ∧ xSX (aw c fk ty aop sx hint off).toNat = sx ∧
      xHINT (aw c fk ty aop sx hint off).toNat = hint ∧ xOFF (aw c fk ty aop sx hint off).toNat = off := by
  have := off.isLt
  simp only [aw, word, BitVec.toNat_ofNat, xC, xFK, xTY, xAOP, xSX, xHINT, xOFF, bits_eq_div_mod, ← BitVec.toNat_inj]
  omega

theorem fields_mw {c e : Nat} (mode : BitVec 12) (imm : W8) (hc : c < 64) (he : e < 64) :
    yC (mw c e mode imm).toNat = c ∧ yE (mw c e mode imm).toNat = e ∧ mMODE (mw c e mode imm).toNat = mode ∧
      mIMM (mw c e mode imm).toNat = imm := by
  have := mode.isLt
  have := imm.isLt
  simp only [mw, word, BitVec.toNat_ofNat, yC, yE, mMODE, mIMM, bits_eq_div_mod, ← BitVec.toNat_inj]
  omega

theorem fields_yw {c e mode : Nat} (eq : BitVec 3) (hc : c < 64) (he : e < 64) (hm : mode < 2 ^ 17) :
    yC (yw c e eq.toNat mode).toNat = c ∧ yE (yw c e eq.toNat mode).toNat = e ∧ yEQ (yw c e eq.toNat mode).toNat = eq ∧
      bits (yw c e eq.toNat mode).toNat 16 0 = mode := by
  have := eq.isLt
  simp only [yw, word, BitVec.toNat_ofNat, yC, yE, yEQ, bits_eq_div_mod, ← BitVec.toNat_inj]
  omega

end Sys2Proof
end

section
/-! PROOFS of the round trip: what is decoded encodes to the words that were taken (R50, R52), one lemma for each shape of words. -/

namespace Sys2Proof
open Machine

/-- What a builder reads under an opcode of a class encodes to the words that it took. -/
def Decodes (c opc : Nat) (b : Bld) : Prop :=
  ∀ (w : W32) (r r' : List W32) (i : Instr), opcOf w.toNat = opc → b w.toNat r = .ok (i, r') →
    w :: r = encode i ++ r' ∧ classOf i = c

theorem prOf_val {n : Nat} (h : n < 8) : (prOf n).val = n := Nat.mod_eq_of_lt h

/-! Class 0 and class 3 (R59, R70, R75) -/

theorem decodes_f3 {c opc : Nat} {k : Opd → Opd → Opd → Pr → Instr}
    (hk : ∀ d a b p, encode (k d a b p) = e3 opc d a b p ∧ classOf (k d a b p) = c) : Decodes c opc (f3 k) := by
  rintro w r r' i rfl h
  unfold f3 at h
  iterate 3 (split at h; · cases h)
  rename_i d _ rd _ a _ ra _ b _ rb
  cases h
  obtain ⟨hd, rfl⟩ := words_of_dst7 (d7_lt _) rd
  obtain ⟨ha, rfl⟩ := words_of_src7 (a7_lt _) ra
  obtain ⟨hb, rfl⟩ := words_of_src7 (b7_lt _) rb
  obtain ⟨code, cls⟩ := hk d a b (pOf w.toNat)
  rw [code, e3, ← hd, ← ha, ← hb, w7_fields]
  simp [cls]

theorem decodes_f3u {c opc : Nat} {k : Opd → Opd → Pr → Instr}
    (hk : ∀ d a p, encode (k d a p) = e3u opc d a p ∧ classOf (k d a p) = c) : Decodes c opc (f3u k) := by
  rintro w r r' i rfl h
  unfold f3u at h
  iterate 2 (split at h; · cases h)
  rename_i d _ rd _ a _ ra
  obtain ⟨zero, rfl, rfl⟩ := need_eq_ok.1 h
  obtain ⟨hd, rfl⟩ := words_of_dst7 (d7_lt _) rd
  obtain ⟨ha, rfl⟩ := words_of_src7 (a7_lt _) ra
  obtain ⟨code, cls⟩ := hk d a (pOf w.toNat)
  rw [code, e3u, ← hd, ← ha, ← beq_iff_eq.1 zero, w7_fields]
  simp [cls]

theorem decodes_f3mov : Decodes 0 0x20 f3mov := by
  intro w r r' i ho h
  unfold f3mov at h
  iterate 2 (split at h; · cases h)
  rename_i d _ rd _ a _ ra
  cases h
  obtain ⟨hd, rfl⟩ := words_of_dst7 (d7_lt _) rd
  obtain ⟨ha, rfl⟩ := words_of_src7 (a7_lt _) ra
  have width : (BitVec.ofNat 7 (b7 w.toNat)).toNat = b7 w.toNat := by simpa using Nat.mod_eq_of_lt (b7_lt w.toNat)
  refine ⟨?_, rfl⟩
  change _ = w7 0x20 (code7 d) (code7 a) (BitVec.ofNat 7 (b7 w.toNat)).toNat (pOf w.toNat).val :: (litOf d ++ litOf a) ++ r'
  have first := w7_fields w
  rw [ho, hd, ha] at first
  rw [width, first]
  simp

theorem decodes_f3x {c opc : Nat} {k : Opd → Opd → Opd → Instr}
    (hk : ∀ d a b, encode (k d a b) = e3 opc d a b 0 ∧ classOf (k d a b) = c) : Decodes c opc (f3x k) := by
  rintro w r r' i rfl h
  unfold f3x at h
  iterate 3 (split at h; · cases h)
  rename_i d _ rd _ a _ ra _ b _ rb
  obtain ⟨zero, rfl, rfl⟩ := need_eq_ok.1 h
  obtain ⟨hd, rfl⟩ := words_of_dst7 (d7_lt _) rd
  obtain ⟨ha, rfl⟩ := words_of_src7 (a7_lt _) ra
  obtain ⟨hb, rfl⟩ := words_of_src7 (b7_lt _) rb
  obtain ⟨code, cls⟩ := hk d a b
  have guard : pOf w.toNat = 0 := by simp [pOf, prOf, beq_iff_eq.1 zero]
  rw [code, e3, ← hd, ← ha, ← hb, ← guard, w7_fields]
  simp [cls]

theorem decodes_fx3 {c opc : Nat} {k : Opd → Opd → Opd → Opd → Pr → Fx → Instr}
    (hk : ∀ d a b e p x, encode (k d a b e p x) = ex3 opc d a b e p x ∧ classOf (k d a b e p x) = c) : Decodes c opc (fx3 k) := by
  rintro w r r' i rfl h
  unfold fx3 at h
  iterate 5 (split at h; · cases h)
  rename_i x _ hx _ d _ rd _ a _ ra _ b _ rb _ e _ re
  cases h
  obtain rfl := takeWord_eq_ok.1 hx
  obtain ⟨hd, rfl⟩ := words_of_dst7 (d7_lt _) rd
  obtain ⟨ha, rfl⟩ := words_of_src7 (a7_lt _) ra
  obtain ⟨hb, rfl⟩ := words_of_src7 (b7_lt _) rb
  obtain ⟨he, rfl⟩ := words_of_src7 (bits_lt _ _ _) re
  obtain ⟨code, cls⟩ := hk d a b e (pOf w.toNat) (fxOf x.toNat)
  rw [code, ex3, ← hd, ← ha, ← hb, ← he, w7_fields, xw_fields]
  simp [cls]

theorem decodes_fx2 {c opc : Nat} {k : Opd → Opd → Opd → Pr → Fx → Instr}
    (hk : ∀ d a b p x, encode (k d a b p x) = ex2 opc d a b p x ∧ classOf (k d a b p x) = c) : Decodes c opc (fx2 k) := by
  rintro w r r' i rfl h
  unfold fx2 at h
  iterate 4 (split at h; · cases h)
  rename_i x _ hx _ d _ rd _ a _ ra _ b _ rb
  obtain ⟨zero, rfl, rfl⟩ := need_eq_ok.1 h
  obtain rfl := takeWord_eq_ok.1 hx
  obtain ⟨hd, rfl⟩ := words_of_dst7 (d7_lt _) rd
  obtain ⟨ha, rfl⟩ := words_of_src7 (a7_lt _) ra
  obtain ⟨hb, rfl⟩ := words_of_src7 (b7_lt _) rb
  obtain ⟨code, cls⟩ := hk d a b (pOf w.toNat) (fxOf x.toNat)
  rw [code, ex2, ← hd, ← ha, ← hb, ← beq_iff_eq.1 zero, w7_fields, xw_fields]
  simp [cls]

theorem decodes_fx1 {c opc : Nat} {k : Opd → Opd → Pr → Fx → Instr}
    (hk : ∀ d a p x, encode (k d a p x) = ex1 opc d a p x ∧ classOf (k d a p x) = c) : Decodes c opc (fx1 k) := by
  rintro w r r' i rfl h
  unfold fx1 at h
  iterate 3 (split at h; · cases h)
  rename_i x _ hx _ d _ rd _ a _ ra
  obtain ⟨zero, rfl, rfl⟩ := need_eq_ok.1 h
  obtain rfl := takeWord_eq_ok.1 hx
  obtain ⟨hd, rfl⟩ := words_of_dst7 (d7_lt _) rd
  obtain ⟨ha, rfl⟩ := words_of_src7 (a7_lt _) ra
  obtain ⟨code, cls⟩ := hk d a (pOf w.toNat) (fxOf x.toNat)
  simp only [Bool.and_eq_true, beq_iff_eq] at zero
  obtain ⟨hb, hc⟩ := zero
  have first := w7_fields w
  have second := xw_fields x
  rw [hb] at first
  rw [hc] at second
  rw [code, ex1, ← hd, ← ha, first, second]
  simp [cls]

theorem decodes_fxPlog : Decodes 0 0x26 fxPlog := by
  intro w r r' i ho h
  unfold fxPlog at h
  split at h
  · cases h
  rename_i x s hx
  obtain ⟨small, rfl, rfl⟩ := need_eq_ok.1 h
  obtain rfl := takeWord_eq_ok.1 hx
  simp only [Bool.and_eq_true, decide_eq_true_eq] at small
  obtain ⟨⟨⟨hd, ha⟩, hb⟩, hc⟩ := small
  refine ⟨?_, rfl⟩
  change _ = [w7 0x26 (prOf (d7 w.toNat)).val (prOf (a7 w.toNat)).val (prOf (b7 w.toNat)).val (pOf w.toNat).val,
    xw (prOf (bits x.toNat 31 25)).val (fxOf x.toNat)] ++ s
  have first := w7_fields w
  rw [ho] at first
  rw [prOf_val hd, prOf_val ha, prOf_val hb, prOf_val hc, first, xw_fields]
  rfl

theorem decodes_fxPoll : Decodes 3 0x00 fxPoll := by
  intro w r r' i ho h
  unfold fxPoll at h
  iterate 2 (split at h; · cases h)
  rename_i x _ hx _ d s rd
  obtain ⟨small, rfl, rfl⟩ := need_eq_ok.1 h
  obtain rfl := takeWord_eq_ok.1 hx
  obtain ⟨hd, rfl⟩ := words_of_dst7 (d7_lt _) rd
  simp only [Bool.and_eq_true, decide_eq_true_eq, beq_iff_eq] at small
  obtain ⟨⟨ha, hb⟩, hc⟩ := small
  have first := w7_fields w
  have second := xw_fields x
  rw [ho, hb, hd] at first
  rw [hc] at second
  refine ⟨?_, rfl⟩
  change _ = w7 0x00 (code7 d) (prOf (a7 w.toNat)).val 0 (pOf w.toNat).val :: xw 0 (fxOf x.toNat) :: litOf d ++ s
  rw [prOf_val ha, first, second]
  rfl

/-! Class 1 and class 7 (R63, R64, R71, R79) -/

theorem decodes_fu0 {c opc : Nat} {k : Pr → Instr} (hk : ∀ p, encode (k p) = eu0 opc p ∧ classOf (k p) = c) :
    Decodes c opc (fu0 k) := by
  rintro w r r' i rfl h
  obtain ⟨zero, rfl, rfl⟩ := need_eq_ok.1 h
  obtain ⟨code, cls⟩ := hk (bpOf w.toNat)
  simp only [Bool.and_eq_true, beq_iff_eq, bits_eq_div_mod] at zero
  have first := w6_fields (w := w) (by rw [bits_eq_div_mod]; exact zero.2)
  rw [show d6 w.toNat = 0 by simp only [d6, bits_eq_div_mod]; omega, show a6 w.toNat = 0 by simp only [a6, bits_eq_div_mod]; omega,
    show b6 w.toNat = 0 by simp only [b6, bits_eq_div_mod]; omega] at first
  rw [code, eu0, first]
  simp [cls]

theorem decodes_fu3 {c opc : Nat} {k : Opd → Opd → Opd → Pr → Instr}
    (hk : ∀ d a b p, encode (k d a b p) = eu3 opc d a b p ∧ classOf (k d a b p) = c) : Decodes c opc (fu3 k) := by
  rintro w r r' i rfl h
  unfold fu3 at h
  iterate 2 (split at h; · cases h)
  rename_i a _ ra _ b _ rb
  obtain ⟨zero, rfl, rfl⟩ := need_eq_ok.1 h
  obtain ⟨ha, rfl⟩ := words_of_src6 (a6_lt _) ra
  obtain ⟨hb, rfl⟩ := words_of_src6 (b6_lt _) rb
  obtain ⟨hd, -⟩ := codes_of_reg6 (d6_lt w.toNat)
  obtain ⟨code, cls⟩ := hk (reg6 (d6 w.toNat)) a b (bpOf w.toNat)
  rw [code, eu3, hd, ← ha, ← hb, w6_fields (beq_iff_eq.1 zero)]
  simp [cls]

theorem decodes_fu2 {c opc : Nat} {k : Opd → Opd → Pr → Instr}
    (hk : ∀ d a p, encode (k d a p) = eu2 opc d a p ∧ classOf (k d a p) = c) : Decodes c opc (fu2 k) := by
  rintro w r r' i rfl h
  unfold fu2 at h
  split at h
  · cases h
  rename_i a _ ra
  obtain ⟨zero, rfl, rfl⟩ := need_eq_ok.1 h
  obtain ⟨ha, rfl⟩ := words_of_src6 (a6_lt _) ra
  obtain ⟨hd, -⟩ := codes_of_reg6 (d6_lt w.toNat)
  obtain ⟨code, cls⟩ := hk (reg6 (d6 w.toNat)) a (bpOf w.toNat)
  simp only [Bool.and_eq_true, beq_iff_eq] at zero
  obtain ⟨hb, low⟩ := zero
  rw [code, eu2, hd, ← ha, ← hb, w6_fields low]
  simp [cls]

theorem decodes_fuA {c opc : Nat} {k : Opd → Pr → Instr}
    (hk : ∀ a p, encode (k a p) = w6 opc 0 (code6 a) 0 p.val :: litOf a ∧ classOf (k a p) = c) : Decodes c opc (fuA k) := by
  rintro w r r' i rfl h
  unfold fuA at h
  split at h
  · cases h
  rename_i a _ ra
  obtain ⟨zero, rfl, rfl⟩ := need_eq_ok.1 h
  obtain ⟨ha, rfl⟩ := words_of_src6 (a6_lt _) ra
  obtain ⟨code, cls⟩ := hk a (bpOf w.toNat)
  simp only [Bool.and_eq_true, beq_iff_eq] at zero
  obtain ⟨⟨hd, hb⟩, low⟩ := zero
  have first := w6_fields low
  rw [hd, hb, ha] at first
  rw [code, first]
  simp [cls]

theorem decodes_fuK {c opc : Nat} {k : BitVec 8 → Pr → Instr}
    (hk : ∀ n p, encode (k n p) = [word (opc * 2 ^ 24 + n.toNat * 2 ^ 12 + p.val * 2 ^ 3)] ∧ classOf (k n p) = c) :
    Decodes c opc (fuK k) := by
  rintro w r r' i rfl h
  obtain ⟨zero, rfl, rfl⟩ := need_eq_ok.1 h
  obtain ⟨code, cls⟩ := hk (BitVec.ofNat 8 (bits w.toNat 19 12)) (bpOf w.toNat)
  refine ⟨?_, cls⟩
  rw [code, List.singleton_append, List.cons.injEq]
  refine ⟨BitVec.eq_of_toNat_eq ?_, rfl⟩
  have := w.isLt
  simp only [Bool.and_eq_true, beq_iff_eq, b6, bits_eq_div_mod] at zero
  simp only [word, BitVec.toNat_ofNat, opcOf, bpOf, prOf, bits_eq_div_mod]
  omega

theorem decodes_fuWait : Decodes 1 0x09 fuWait := by
  intro w r r' i ho h
  obtain ⟨zero, rfl, rfl⟩ := need_eq_ok.1 h
  refine ⟨congrArg (· :: r) (BitVec.eq_of_toNat_eq ?_), rfl⟩
  have := w.isLt
  simp only [Bool.and_eq_true, beq_iff_eq, b6, bits_eq_div_mod] at zero
  simp only [opcOf, bits_eq_div_mod] at ho
  simp only [word, BitVec.toNat_ofNat, bpOf, prOf, bits_eq_div_mod]
  omega

theorem decodes_fuWli : Decodes 1 0x21 fuWli := by
  intro w r r' i ho h
  unfold fuWli at h
  iterate 2 (split at h; · cases h)
  rename_i lo _ hlo _ hi s hhi
  obtain ⟨zero, rfl, rfl⟩ := need_eq_ok.1 h
  obtain rfl := takeWord_eq_ok.1 hlo
  obtain rfl := takeWord_eq_ok.1 hhi
  simp only [Bool.and_eq_true, beq_iff_eq] at zero
  obtain ⟨⟨ha, hb⟩, low⟩ := zero
  obtain ⟨hd, -⟩ := codes_of_reg6 (d6_lt w.toNat)
  have first := w6_fields low
  rw [ho, ha, hb] at first
  refine ⟨?_, rfl⟩
  change _ = w6 0x21 (code6 (reg6 (d6 w.toNat))) 0 0 (bpOf w.toNat).val :: lo :: hi :: s
  rw [hd, first]

theorem decodes_fuCmp : Decodes 1 0x2d fuCmp := by
  intro w r r' i ho h
  unfold fuCmp at h
  iterate 2 (split at h; · cases h)
  rename_i a _ ra _ b s rb
  obtain ⟨zero, rfl, rfl⟩ := need_eq_ok.1 h
  obtain ⟨ha, rfl⟩ := words_of_src6 (a6_lt _) ra
  obtain ⟨hb, rfl⟩ := words_of_src6 (b6_lt _) rb
  have hd : (BitVec.ofNat 3 (bits w.toNat 23 21)).toNat * 8 + (prOf (bits w.toNat 20 18)).val = d6 w.toNat := by
    simp only [BitVec.toNat_ofNat, prOf, d6, bits_eq_div_mod]
    omega
  refine ⟨?_, rfl⟩
  change _ = w6 0x2d ((BitVec.ofNat 3 (bits w.toNat 23 21)).toNat * 8 + (prOf (bits w.toNat 20 18)).val) (code6 a) (code6 b)
    (bpOf w.toNat).val :: (litOf a ++ litOf b) ++ s
  have first := w6_fields (beq_iff_eq.1 zero)
  rw [ho, ha, hb] at first
  rw [hd, first]
  simp

theorem decodes_fuWrs : Decodes 1 0x30 fuWrs := by
  intro w r r' i ho h
  obtain ⟨zero, rfl, rfl⟩ := need_eq_ok.1 h
  simp only [Bool.and_eq_true, beq_iff_eq] at zero
  obtain ⟨hb, low⟩ := zero
  obtain ⟨hd, -⟩ := codes_of_reg6 (d6_lt w.toNat)
  have ha : (BitVec.ofNat 6 (a6 w.toNat)).toNat = a6 w.toNat := by simpa using Nat.mod_eq_of_lt (a6_lt w.toNat)
  refine ⟨?_, rfl⟩
  change _ = w6 0x30 (code6 (reg6 (d6 w.toNat))) (BitVec.ofNat 6 (a6 w.toNat)).toNat 0 (bpOf w.toNat).val :: r
  have first := w6_fields low
  rw [ho, hb] at first
  rw [hd, ha, first]

theorem decodes_fuWws : Decodes 1 0x31 fuWws := by
  intro w r r' i ho h
  unfold fuWws at h
  split at h
  · cases h
  rename_i a s ra
  obtain ⟨zero, rfl, rfl⟩ := need_eq_ok.1 h
  obtain ⟨ha, rfl⟩ := words_of_src6 (a6_lt _) ra
  simp only [Bool.and_eq_true, beq_iff_eq] at zero
  obtain ⟨hb, low⟩ := zero
  have hd : (BitVec.ofNat 6 (d6 w.toNat)).toNat = d6 w.toNat := by simpa using Nat.mod_eq_of_lt (d6_lt w.toNat)
  refine ⟨?_, rfl⟩
  change _ = w6 0x31 (BitVec.ofNat 6 (d6 w.toNat)).toNat (code6 a) 0 (bpOf w.toNat).val :: litOf a ++ s
  have first := w6_fields low
  rw [ho, ha, hb] at first
  rw [hd, first]
  rfl

theorem decodes_fb {c opc : Nat} {k : Pr → Pr → BitVec 18 → Instr}
    (hk : ∀ p q off, encode (k p q off) = [wB opc p.val q.val off] ∧ classOf (k p q off) = c) : Decodes c opc (fb k) := by
  rintro w r r' i rfl h
  cases h
  obtain ⟨code, cls⟩ := hk (prOf (bits w.toNat 23 21)) (prOf (bits w.toNat 20 18)) (BitVec.ofNat 18 (bits w.toNat 17 0))
  rw [code, wB_fields]
  exact ⟨rfl, cls⟩

theorem decodes_fbCall : Decodes 1 0x05 fbCall := by
  intro w r r' i ho h
  obtain ⟨zero, rfl, rfl⟩ := need_eq_ok.1 h
  have first := wB_fields w
  rw [beq_iff_eq.1 zero, ho] at first
  exact ⟨congrArg (· :: r) first.symm, rfl⟩

theorem decodes_fuRett : Decodes 1 0x0c fuRett := by
  intro w r r' i ho h
  obtain ⟨zero, rfl, rfl⟩ := need_eq_ok.1 h
  refine ⟨congrArg (· :: r) (BitVec.eq_of_toNat_eq ?_), rfl⟩
  have := w.isLt
  simp only [beq_iff_eq, bits_eq_div_mod] at zero
  simp only [opcOf, bits_eq_div_mod] at ho
  simp only [word, BitVec.toNat_ofNat]
  omega

theorem decodes_fsSpwt : Decodes 7 0x08 fsSpwt := by
  intro w r r' i ho h
  unfold fsSpwt at h
  split at h
  · cases h
  rename_i a s ra
  obtain ⟨zero, rfl, rfl⟩ := need_eq_ok.1 h
  obtain ⟨ha, rfl⟩ := words_of_src6 (a6_lt _) ra
  simp only [Bool.and_eq_true, decide_eq_true_eq, beq_iff_eq] at zero
  obtain ⟨port, low⟩ := zero
  obtain ⟨hd, -⟩ := codes_of_reg6 (d6_lt w.toNat)
  have first := w6_fields low
  rw [ho, ha, ← hd] at first
  clear h
  generalize b6 w.toNat = n at port first ⊢
  match n, port with
  | 0, _ | 1, _ | 2, _ | 3, _ => exact ⟨congrArg (· :: (litOf a ++ s)) first.symm, rfl⟩

/-! Class 2 (R61, R73) -/

theorem toNat_bv3 (n : Nat) : (bv3 n).toNat = n % 8 := rfl
theorem toNat_bv4 (n : Nat) : (bv4 n).toNat = n % 16 := rfl

/-- The fields of an access's extension word read back as the fields of its instruction. -/
theorem access_fields (x : Nat) : (bv3 (xTY x)).toNat = xTY x ∧ (bv4 (xAOP x)).toNat = xAOP x ∧ (bv3 (xHINT x)).toNat = xHINT x ∧
    (xSX x == 1).toNat = xSX x := by
  refine ⟨Nat.mod_eq_of_lt (bits_lt x 22 20), Nat.mod_eq_of_lt (bits_lt x 19 16), Nat.mod_eq_of_lt (bits_lt x 14 12), ?_⟩
  have := bits_lt x 15 15
  rcases (show xSX x = 0 ∨ xSX x = 1 by rw [xSX]; omega) with h | h <;> rw [h] <;> rfl

theorem decodes_faLd {c opc : Nat} {ok : Nat → Bool} {k : Opd → Opd → Opd → Pr → Nat → Instr}
    (hk : ∀ d b i p (x : W32), litOf d = [] → ok x.toNat = true →
      encode (k d b i p x.toNat) = eA opc d b i p x ∧ classOf (k d b i p x.toNat) = c) : Decodes c opc (faLd ok k) := by
  rintro w r r' i rfl h
  unfold faLd at h
  split at h
  · cases h
  rename_i x s hx
  obtain ⟨fields, rfl, rfl⟩ := need_eq_ok.1 h
  obtain rfl := takeWord_eq_ok.1 hx
  obtain ⟨hd, lit⟩ := codes_of_reg7 (d7_lt w.toNat)
  obtain ⟨ha, -⟩ := codes_of_reg7 (a7_lt w.toNat)
  obtain ⟨hb, -⟩ := codes_of_reg7 (b7_lt w.toNat)
  obtain ⟨code, cls⟩ := hk (reg7 (d7 w.toNat)) (reg7 (a7 w.toNat)) (reg7 (b7 w.toNat)) (pOf w.toNat) x lit fields
  rw [code, eA, hd, ha, hb, lit, w7_fields]
  exact ⟨rfl, cls⟩

theorem decodes_faSt {c opc : Nat} {ok : Nat → Bool} {k : Opd → Opd → Opd → Pr → Nat → Instr}
    (hk : ∀ d b i p (x : W32), ok x.toNat = true →
      encode (k d b i p x.toNat) = eA opc d b i p x ∧ classOf (k d b i p x.toNat) = c) : Decodes c opc (faSt ok k) := by
  rintro w r r' i rfl h
  unfold faSt at h
  iterate 2 (split at h; · cases h)
  rename_i x _ hx _ d s rd
  obtain ⟨fields, rfl, rfl⟩ := need_eq_ok.1 h
  obtain rfl := takeWord_eq_ok.1 hx
  obtain ⟨hd, rfl⟩ := words_of_src7 (d7_lt _) rd
  obtain ⟨ha, -⟩ := codes_of_reg7 (a7_lt w.toNat)
  obtain ⟨hb, -⟩ := codes_of_reg7 (b7_lt w.toNat)
  obtain ⟨code, cls⟩ := hk d (reg7 (a7 w.toNat)) (reg7 (b7 w.toNat)) (pOf w.toNat) x fields
  rw [code, eA, ← hd, ha, hb, w7_fields]
  exact ⟨rfl, cls⟩

theorem decodes_faAt {c opc : Nat} {ok : Nat → Bool} {k : Opd → Opd → Opd → Opd → Pr → Nat → Instr}
    (hk : ∀ d b i e p (x : W32), xC x.toNat = code7 e → ok x.toNat = true →
      encode (k d b i e p x.toNat) = eAc opc d b i e p x ∧ classOf (k d b i e p x.toNat) = c) : Decodes c opc (faAt ok k) := by
  rintro w r r' i rfl h
  unfold faAt at h
  iterate 2 (split at h; · cases h)
  rename_i x _ hx _ e s re
  obtain ⟨fields, rfl, rfl⟩ := need_eq_ok.1 h
  obtain rfl := takeWord_eq_ok.1 hx
  obtain ⟨he, rfl⟩ := words_of_src7 (bits_lt _ _ _) re
  obtain ⟨hd, -⟩ := codes_of_reg7 (d7_lt w.toNat)
  obtain ⟨ha, -⟩ := codes_of_reg7 (a7_lt w.toNat)
  obtain ⟨hb, -⟩ := codes_of_reg7 (b7_lt w.toNat)
  obtain ⟨code, cls⟩ := hk (reg7 (d7 w.toNat)) (reg7 (a7 w.toNat)) (reg7 (b7 w.toNat)) e (pOf w.toNat) x he fields
  rw [code, eAc, hd, ha, hb, w7_fields]
  exact ⟨rfl, cls⟩

theorem decodes_faNo {c opc : Nat} {ok : Nat → Bool} {k : Opd → Opd → Pr → Nat → Instr}
    (hk : ∀ b i p (x : W32), ok x.toNat = true →
      encode (k b i p x.toNat) = [w7 opc 0 (code7 b) (code7 i) p.val, x] ∧ classOf (k b i p x.toNat) = c) :
    Decodes c opc (faNo ok k) := by
  rintro w r r' i rfl h
  unfold faNo at h
  split at h
  · cases h
  rename_i x s hx
  obtain ⟨fields, rfl, rfl⟩ := need_eq_ok.1 h
  obtain rfl := takeWord_eq_ok.1 hx
  simp only [Bool.and_eq_true, beq_iff_eq] at fields
  obtain ⟨hd, fields⟩ := fields
  obtain ⟨ha, -⟩ := codes_of_reg7 (a7_lt w.toNat)
  obtain ⟨hb, -⟩ := codes_of_reg7 (b7_lt w.toNat)
  obtain ⟨code, cls⟩ := hk (reg7 (a7 w.toNat)) (reg7 (b7 w.toNat)) (pOf w.toNat) x fields
  have first := w7_fields w
  rw [hd] at first
  rw [code, ha, hb, first]
  exact ⟨rfl, cls⟩

/-- A first word whose three operand fields are 0. -/
theorem w7_of_zero {w : W32} (h : bits w.toNat 23 3 = 0) : w7 (opcOf w.toNat) 0 0 0 (pOf w.toNat).val = w := by
  have first := w7_fields w
  rw [bits_eq_div_mod] at h
  rwa [show d7 w.toNat = 0 by simp only [d7, bits_eq_div_mod]; omega, show a7 w.toNat = 0 by simp only [a7, bits_eq_div_mod]; omega,
    show b7 w.toNat = 0 by simp only [b7, bits_eq_div_mod]; omega] at first

theorem decodes_faFence : Decodes 2 0x38 faFence := by
  intro w r r' i ho h
  unfold faFence at h
  split at h
  · cases h
  rename_i x s hx
  obtain ⟨zero, rfl, rfl⟩ := need_eq_ok.1 h
  obtain rfl := takeWord_eq_ok.1 hx
  simp only [Bool.and_eq_true, beq_iff_eq, bne_iff_ne] at zero
  obtain ⟨⟨⟨operands, compare⟩, low⟩, kind⟩ := zero
  have first := w7_of_zero operands
  rw [ho] at first
  have second : aw 0 (xFK x.toNat) 0 0 0 0 0 = x := by
    have := x.isLt
    apply BitVec.eq_of_toNat_eq
    simp only [xC, bits_eq_div_mod] at compare low
    simp only [aw, word, BitVec.ofNat_eq_ofNat, BitVec.toNat_ofNat, xFK, bits_eq_div_mod]
    omega
  have bound : xFK x.toNat < 4 := bits_lt _ _ _
  have words : w :: x :: s = w7 0x38 0 0 0 (pOf w.toNat).val :: aw 0 (xFK x.toNat) 0 0 0 0 0 :: s := by rw [first, second]
  clear h
  generalize xFK x.toNat = n at kind words bound ⊢
  rcases (show n = 0 ∨ n = 1 ∨ n = 2 by omega) with rfl | rfl | rfl
  · exact ⟨words, rfl⟩
  · exact ⟨words, rfl⟩
  · exact ⟨words, rfl⟩

theorem decodes_faSleep : Decodes 2 0x3a faSleep := by
  intro w r r' i ho h
  unfold faSleep at h
  split at h
  · cases h
  rename_i x s hx
  obtain ⟨zero, rfl, rfl⟩ := need_eq_ok.1 h
  obtain rfl := takeWord_eq_ok.1 hx
  simp only [Bool.and_eq_true, beq_iff_eq] at zero
  obtain ⟨operands, hx⟩ := zero
  have first := w7_of_zero operands
  rw [ho] at first
  have second : x = word 0 := BitVec.eq_of_toNat_eq hx
  refine ⟨?_, rfl⟩
  change _ = w7 0x3a 0 0 0 (pOf w.toNat).val :: word 0 :: s
  rw [first, second]

/-! Class 4 (R76) -/

theorem decodes_fqDA {c opc : Nat} {k : Opd → Opd → Pr → Instr}
    (hk : ∀ d a p, encode (k d a p) = eDA opc d a p ∧ classOf (k d a p) = c) : Decodes c opc (fqDA k) := by
  rintro w r r' i rfl h
  unfold fqDA at h
  split at h
  · cases h
  rename_i a s ra
  obtain ⟨zero, rfl, rfl⟩ := need_eq_ok.1 h
  obtain ⟨ha, rfl⟩ := words_of_src7 (a7_lt _) ra
  obtain ⟨hd, -⟩ := codes_of_reg7 (d7_lt w.toNat)
  obtain ⟨code, cls⟩ := hk (reg7 (d7 w.toNat)) a (pOf w.toNat)
  rw [code, eDA, hd, ← ha, ← beq_iff_eq.1 zero, w7_fields]
  exact ⟨rfl, cls⟩

theorem decodes_fqAB {c opc : Nat} {k : Opd → Opd → Pr → Instr}
    (hk : ∀ a b p, encode (k a b p) = eAB opc a b p ∧ classOf (k a b p) = c) : Decodes c opc (fqAB k) := by
  rintro w r r' i rfl h
  unfold fqAB at h
  iterate 2 (split at h; · cases h)
  rename_i a _ ra _ b s rb
  obtain ⟨zero, rfl, rfl⟩ := need_eq_ok.1 h
  obtain ⟨ha, rfl⟩ := words_of_src7 (a7_lt _) ra
  obtain ⟨hb, rfl⟩ := words_of_src7 (b7_lt _) rb
  obtain ⟨code, cls⟩ := hk a b (pOf w.toNat)
  rw [code, eAB, ← ha, ← hb, ← beq_iff_eq.1 zero, w7_fields]
  simp [cls]

theorem decodes_fqA {c opc : Nat} {k : Opd → Pr → Instr}
    (hk : ∀ a p, encode (k a p) = w7 opc 0 (code7 a) 0 p.val :: litOf a ∧ classOf (k a p) = c) : Decodes c opc (fqA k) := by
  rintro w r r' i rfl h
  unfold fqA at h
  split at h
  · cases h
  rename_i a s ra
  obtain ⟨zero, rfl, rfl⟩ := need_eq_ok.1 h
  obtain ⟨ha, rfl⟩ := words_of_src7 (a7_lt _) ra
  obtain ⟨code, cls⟩ := hk a (pOf w.toNat)
  simp only [Bool.and_eq_true, beq_iff_eq] at zero
  obtain ⟨hd, hb⟩ := zero
  have first := w7_fields w
  rw [hd, hb, ha] at first
  rw [code, first]
  exact ⟨rfl, cls⟩

theorem decodes_fqBtest : Decodes 4 0x0d fqBtest := by
  intro w r r' i ho h
  unfold fqBtest at h
  iterate 2 (split at h; · cases h)
  rename_i a _ ra _ b s rb
  obtain ⟨zero, rfl, rfl⟩ := need_eq_ok.1 h
  obtain ⟨ha, rfl⟩ := words_of_src7 (a7_lt _) ra
  obtain ⟨hb, rfl⟩ := words_of_src7 (b7_lt _) rb
  have hd : d7 w.toNat = (prOf (bits w.toNat 19 17)).val := by
    simp only [beq_iff_eq, bits_eq_div_mod] at zero
    simp only [d7, prOf, bits_eq_div_mod]
    omega
  have first := w7_fields w
  rw [ho, ha, hb, hd] at first
  refine ⟨?_, rfl⟩
  change _ = w7 0x0d (prOf (bits w.toNat 19 17)).val (code7 a) (code7 b) (pOf w.toNat).val :: (litOf a ++ litOf b) ++ s
  rw [first]
  simp

theorem decodes_fqGsync : Decodes 4 0x0e fqGsync := by
  intro w r r' i ho h
  obtain ⟨zero, rfl, rfl⟩ := need_eq_ok.1 h
  have first := w7_of_zero (beq_iff_eq.1 zero)
  rw [ho] at first
  exact ⟨congrArg (· :: r) first.symm, rfl⟩

/-! Class 5 and class 6 (R66, R77, R78) -/

/-- An operand of a form, or zero where the form does not use the field. -/
def used (u : Bool) (o : Opd) : Opd := if u then o else .zero

/-- The code that a form's field holds: 0 where the form does not use it. -/
def fieldCode (u : Bool) (o : Opd) : Nat := if u then code6 o else 0

theorem words_of_used {u : Bool} {f : Nat} {r r' : List W32} {o : Opd} (hf : f < 64) (zero : (u || f == 0) = true)
    (h : src6 (if u then f else 48) r = .ok (o, r')) : f = fieldCode u o ∧ o = used u o ∧ r = litOf o ++ r' := by
  cases u with
  | true =>
    obtain ⟨code, lit⟩ := words_of_src6 hf h
    exact ⟨code, rfl, lit⟩
  | false =>
    cases h
    exact ⟨beq_iff_eq.1 zero, rfl, rfl⟩

theorem decodes_fm {cls opc : Nat} {uD uA uB uC uE : Bool} {ok : Nat → Bool} {k : Opd → Opd → Opd → Opd → Opd → Pr → Nat → Instr}
    (hk : ∀ d a b c e p (x : W32), ok x.toNat = true → yC x.toNat = fieldCode uC c → yE x.toNat = fieldCode uE e →
      ∃ y l, encode (k d (used uA a) (used uB b) (used uC c) (used uE e) p x.toNat) =
          w6 opc (fieldCode uD d) (fieldCode uA a) (fieldCode uB b) p.val :: y :: l ∧
        y = x ∧ l = litOf (used uA a) ++ litOf (used uB b) ++ litOf (used uC c) ++ litOf (used uE e) ∧
        classOf (k d (used uA a) (used uB b) (used uC c) (used uE e) p x.toNat) = cls) :
    Decodes cls opc (fm uD uA uB uC uE ok k) := by
  rintro w r r' i rfl h
  unfold fm at h
  iterate 5 (split at h; · cases h)
  rename_i x _ hx _ a _ ra _ b _ rb _ c _ rc _ e s re
  obtain ⟨fields, rfl, rfl⟩ := need_eq_ok.1 h
  obtain rfl := takeWord_eq_ok.1 hx
  simp only [Bool.and_eq_true] at fields
  obtain ⟨⟨⟨⟨⟨⟨low, zd⟩, za⟩, zb⟩, zc⟩, ze⟩, fields⟩ := fields
  obtain ⟨ha, ua, rfl⟩ := words_of_used (a6_lt _) za ra
  obtain ⟨hb, ub, rfl⟩ := words_of_used (b6_lt _) zb rb
  obtain ⟨hc, uc, rfl⟩ := words_of_used (bits_lt _ _ _) zc rc
  obtain ⟨he, ue, rfl⟩ := words_of_used (bits_lt _ _ _) ze re
  have hd : d6 w.toNat = fieldCode uD (reg6 (d6 w.toNat)) := by
    obtain ⟨code, -⟩ := codes_of_reg6 (d6_lt w.toNat)
    cases uD with
    | true => exact code.symm
    | false => exact beq_iff_eq.1 zd
  obtain ⟨y, l, code, rfl, rfl, cls⟩ := hk (reg6 (d6 w.toNat)) a b c e (bpOf w.toNat) x fields hc he
  rw [← ua, ← ub, ← uc, ← ue] at code cls
  rw [code, ← hd, ← ha, ← hb, w6_fields (beq_iff_eq.1 low)]
  simp [cls]

theorem mw_of_fields {x : W32} {c e : Nat} {mode : BitVec 12} {imm : W8} (hc : yC x.toNat = c) (he : yE x.toNat = e)
    (hm : mMODE x.toNat = mode) (hi : mIMM x.toNat = imm) : mw c e mode imm = x := by
  rw [← hc, ← he, ← hm, ← hi, mw_fields]

theorem mMODE_of_noMode {x : Nat} (h : noMode x = true) : mMODE x = 0 := by
  rw [mMODE, beq_iff_eq.1 h]
  rfl

theorem fields_of_noModeImm {x : Nat} (h : noModeImm x = true) : mMODE x = 0 ∧ mIMM x = 0 := by
  simp only [noModeImm, beq_iff_eq, bits_eq_div_mod] at h
  simp only [mMODE, mIMM, bits_eq_div_mod]
  rw [show x / 2 ^ 8 % 2 ^ (19 + 1 - 8) = 0 by omega, show x / 2 ^ 0 % 2 ^ (7 + 1 - 0) = 0 by omega]
  exact ⟨rfl, rfl⟩

theorem decodes_fy {opc : Nat} {k : Opd → Opd → Opd → Opd → Opd → BitVec 3 → BitVec 17 → Pr → Instr}
    (hk : ∀ d a b c e eq mode p, encode (k d a b c e eq mode p) = eY opc d a b c e eq mode.toNat p ∧
      classOf (k d a b c e eq mode p) = 6) : Decodes 6 opc (fy k) := by
  refine decodes_fm (uD := true) fun d a b c e p x _ hc he => ?_
  obtain ⟨code, cls⟩ := hk d a b c e (yEQ x.toNat) (yMODE x.toNat) p
  refine ⟨_, _, code, ?_, rfl, cls⟩
  have second := yw_fields x
  rwa [hc, he] at second

/-- The words of a transform, by the opcode in its mode (R340). -/
theorem encode_xfmOf {xop : Nat} {k : Opd → Opd → Opd → Opd → Opd → BitVec 3 → BitVec 6 → BitVec 6 → Pr → Instr}
    (h : xfmOf xop = some k) (d a b c e : Opd) (eq : BitVec 3) (lo hi : BitVec 6) (p : Pr) :
    encode (k d a b c e eq lo hi p) = eX xop d a b c e eq lo hi p ∧ classOf (k d a b c e eq lo hi p) = 6 := by
  unfold xfmOf at h
  split at h <;> cases h <;> exact ⟨rfl, rfl⟩

theorem decodes_fyXfm : Decodes 6 0x08 fyXfm := by
  refine decodes_fm (uD := true) fun d a b c e p x hx hc he => ?_
  obtain ⟨k, hk⟩ := Option.isSome_iff_exists.1 hx
  obtain ⟨code, cls⟩ := encode_xfmOf hk d a b c e (yEQ x.toNat) (BitVec.ofNat 6 (bits x.toNat 5 0))
    (BitVec.ofNat 6 (bits x.toNat 16 11)) p
  simp only [used, if_true, hk]
  refine ⟨_, _, code, ?_, rfl, cls⟩
  have second := yw_fields x
  rw [hc, he] at second
  refine Eq.trans (congrArg (yw _ _ _) ?_) second
  simp only [yMODE, BitVec.toNat_ofNat, bits_eq_div_mod]
  omega

theorem decodes_fyDrain : Decodes 6 0x0d fyDrain := by
  refine decodes_fm (uD := false) fun d a b c e p x hx hc he => ?_
  simp only [Bool.and_eq_true, beq_iff_eq, bne_iff_ne] at hx
  obtain ⟨high, kind⟩ := hx
  have second : word (bits x.toNat 1 0) = x := by
    have := x.isLt
    apply BitVec.eq_of_toNat_eq
    simp only [fieldCode, yC, yE, bits_eq_div_mod, Bool.false_eq_true, if_false] at high hc he
    simp only [word, BitVec.toNat_ofNat, bits_eq_div_mod]
    omega
  have bound : bits x.toNat 1 0 < 4 := bits_lt _ _ _
  generalize bits x.toNat 1 0 = n at kind second bound ⊢
  match n, bound with
  | 0, _ | 1, _ | 2, _ => exact ⟨_, _, rfl, second, rfl, rfl⟩
  | 3, _ => exact absurd rfl kind

end Sys2Proof
end

section
/-! PROOFS of the round trip: the tables of the classes (R70, R71, R73, R75 to R79), and what is decoded is unique. -/

namespace Sys2Proof
open Machine

/-- CVT is of class 0 whatever formats its modifiers name. -/
theorem classOf_cvt (d a : Opd) (p : Pr) (x : Fx) : classOf (.cvt d a p x) = 0 := by
  change (if (laneForm (.cvt d a p x)).isSome then 0 else 8) = 0
  rw [if_pos]
  simp only [laneForm]
  split <;> rfl

theorem decodes_class0 {opc : Nat} {b : Bld} (h : class0 opc = some b) : Decodes 0 opc b := by
  unfold class0 at h
  split at h <;> cases h
  case h_1 | h_2 | h_3 | h_4 | h_5 | h_6 | h_9 | h_10 | h_11 | h_12 | h_15 | h_16 | h_17 | h_18 | h_20 | h_21 | h_22 | h_23 |
      h_32 | h_39 | h_40 | h_41 | h_42 | h_43 | h_44 | h_45 | h_47 | h_48 | h_55 | h_60 | h_64 | h_65 =>
    exact decodes_f3 fun _ _ _ _ => ⟨rfl, rfl⟩
  case h_13 | h_14 | h_19 | h_28 | h_29 | h_30 | h_38 | h_50 | h_51 | h_52 | h_53 | h_54 | h_56 | h_57 | h_58 | h_59 =>
    exact decodes_f3u fun _ _ _ => ⟨rfl, rfl⟩
  case h_7 | h_8 | h_24 | h_27 | h_36 | h_46 | h_63 | h_66 | h_71 | h_72 => exact decodes_fx3 fun _ _ _ _ _ _ => ⟨rfl, rfl⟩
  case h_25 | h_26 | h_33 | h_34 | h_35 | h_49 | h_61 | h_62 | h_67 | h_69 => exact decodes_fx2 fun _ _ _ _ _ => ⟨rfl, rfl⟩
  case h_68 => exact decodes_fx1 fun _ _ _ _ => ⟨rfl, classOf_cvt _ _ _ _⟩
  case h_70 => exact decodes_fx1 fun _ _ _ _ => ⟨rfl, rfl⟩
  case h_31 => exact decodes_f3mov
  case h_37 => exact decodes_fxPlog

theorem decodes_class1 {opc : Nat} {b : Bld} (h : class1 opc = some b) : Decodes 1 opc b := by
  unfold class1 at h
  split at h <;> cases h
  case h_1 | h_7 | h_8 | h_9 | h_11 => exact decodes_fu0 fun _ => ⟨rfl, rfl⟩
  case h_2 | h_3 | h_4 | h_14 => exact decodes_fb fun _ _ _ => ⟨rfl, rfl⟩
  case h_5 => exact decodes_fuA fun _ _ => ⟨rfl, rfl⟩
  case h_6 => exact decodes_fbCall
  case h_10 => exact decodes_fuWait
  case h_12 | h_15 => exact decodes_fuK fun _ _ => ⟨rfl, rfl⟩
  case h_13 => exact decodes_fuRett
  case h_16 | h_34 => exact decodes_fu2 fun _ _ _ => ⟨rfl, rfl⟩
  case h_17 => exact decodes_fuWli
  case h_18 | h_19 | h_20 | h_21 | h_22 | h_23 | h_24 | h_25 | h_26 | h_27 | h_28 | h_30 | h_31 =>
    exact decodes_fu3 fun _ _ _ _ => ⟨rfl, rfl⟩
  case h_29 => exact decodes_fuCmp
  case h_32 => exact decodes_fuWrs
  case h_33 => exact decodes_fuWws

/-- An extension word of an access, from the values of its fields. -/
theorem aw_of_fields {x : W32} {c fk ty aop sx hint : Nat}
    (h : xC x.toNat = c ∧ xFK x.toNat = fk ∧ xTY x.toNat = ty ∧ xAOP x.toNat = aop ∧ xSX x.toNat = sx ∧ xHINT x.toNat = hint) :
    aw c fk ty aop sx hint (xOFF x.toNat) = x := by
  obtain ⟨rfl, rfl, rfl, rfl, rfl, rfl⟩ := h
  exact aw_fields x

theorem decodes_fLd {k : Nat} (hk : k < 5) : Decodes 2 k (fLd k) := by
  refine decodes_faLd fun d b i p x _ ok => ⟨?_, rfl⟩
  obtain ⟨-, -, hint, sx⟩ := access_fields x.toNat
  simp only [Bool.and_eq_true, beq_iff_eq] at ok
  obtain ⟨⟨⟨hc, hf⟩, ht⟩, ha⟩ := ok
  refine congrArg₂ (fun o => eA o d b i p) (Nat.mod_eq_of_lt hk) (aw_of_fields ⟨hc, hf, ht, ha, sx.symm, hint.symm⟩)

theorem decodes_fSt {opc k : Nat} (hk : k < 5) (ho : opc = 0x08 + k) : Decodes 2 opc (fSt k) := by
  subst ho
  refine decodes_faSt fun d b i p x ok => ⟨?_, rfl⟩
  obtain ⟨-, -, hint, -⟩ := access_fields x.toNat
  simp only [Bool.and_eq_true, beq_iff_eq] at ok
  obtain ⟨⟨⟨⟨hc, hf⟩, ht⟩, ha⟩, hs⟩ := ok
  exact congrArg₂ (fun o => eA (0x08 + o) d b i p) (Nat.mod_eq_of_lt hk) (aw_of_fields ⟨hc, hf, ht, ha, hs, hint.symm⟩)

theorem decodes_fLds {opc k : Nat} (hk : k < 5) (ho : opc = 0x10 + k) : Decodes 2 opc (fLds k) := by
  subst ho
  refine decodes_faLd fun d b i p x _ ok => ⟨?_, rfl⟩
  obtain ⟨-, -, -, sx⟩ := access_fields x.toNat
  simp only [Bool.and_eq_true, beq_iff_eq] at ok
  obtain ⟨⟨⟨⟨hc, hf⟩, ht⟩, ha⟩, hh⟩ := ok
  exact congrArg₂ (fun o => eA (0x10 + o) d b i p) (Nat.mod_eq_of_lt hk) (aw_of_fields ⟨hc, hf, ht, ha, sx.symm, hh⟩)

theorem decodes_fSts {opc k : Nat} (hk : k < 5) (ho : opc = 0x18 + k) : Decodes 2 opc (fSts k) := by
  subst ho
  refine decodes_faSt fun d b i p x ok => ⟨?_, rfl⟩
  simp only [Bool.and_eq_true, beq_iff_eq] at ok
  obtain ⟨⟨⟨⟨⟨hc, hf⟩, ht⟩, ha⟩, hs⟩, hh⟩ := ok
  exact congrArg₂ (fun o => eA (0x18 + o) d b i p) (Nat.mod_eq_of_lt hk) (aw_of_fields ⟨hc, hf, ht, ha, hs, hh⟩)

theorem decodes_class2 {opc : Nat} {b : Bld} (h : class2 opc = some b) : Decodes 2 opc b := by
  unfold class2 at h
  split at h <;> cases h
  case h_1 | h_2 | h_3 | h_4 | h_5 => exact decodes_fLd (by decide)
  case h_6 | h_7 | h_8 | h_9 | h_10 => exact decodes_fSt (by decide) rfl
  case h_11 | h_12 | h_13 | h_14 | h_15 => exact decodes_fLds (by decide) rfl
  case h_16 | h_17 | h_18 | h_19 | h_20 => exact decodes_fSts (by decide) rfl
  case h_28 => exact decodes_faFence
  case h_30 => exact decodes_faSleep
  case h_21 =>
    refine decodes_faLd fun d b i p x _ ok => ⟨congrArg (eA 0x20 d b i p) (aw_of_fields ?_), rfl⟩
    simp_all [access_fields]
  case h_22 =>
    refine decodes_faSt fun d b i p x ok => ⟨congrArg (eA 0x21 d b i p) (aw_of_fields ?_), rfl⟩
    simp_all [access_fields]
  case h_23 =>
    refine decodes_faAt fun d b i e p x he ok => ⟨congrArg (eAc 0x28 d b i e p) (aw_of_fields ?_), rfl⟩
    simp_all [access_fields]
  case h_24 =>
    refine decodes_faAt fun d b i e p x he ok => ⟨congrArg (eAc 0x29 d b i e p) (aw_of_fields ?_), rfl⟩
    simp_all [access_fields]
  case h_25 =>
    refine decodes_faSt fun d b i p x ok => ⟨congrArg (eA 0x2a d b i p) (aw_of_fields ?_), rfl⟩
    simp_all [access_fields]
  case h_26 =>
    refine decodes_faSt fun d b i p x ok => ⟨congrArg (eA 0x30 d b i p) (aw_of_fields ?_), rfl⟩
    simp_all [access_fields]
  case h_27 =>
    refine decodes_faNo fun b i p x ok => ⟨congrArg ([w7 0x31 0 (code7 b) (code7 i) p.val, ·]) (aw_of_fields ?_), rfl⟩
    simp_all [access_fields]
  case h_29 =>
    refine decodes_faNo fun b i p x ok => ⟨congrArg ([w7 0x39 0 (code7 b) (code7 i) p.val, ·]) (aw_of_fields ?_), rfl⟩
    simp_all

theorem decodes_class3 {opc : Nat} {b : Bld} (h : class3 opc = some b) : Decodes 3 opc b := by
  unfold class3 at h
  split at h <;> cases h
  case h_1 => exact decodes_fxPoll
  case h_2 | h_6 | h_10 => exact decodes_f3 fun _ _ _ _ => ⟨rfl, rfl⟩
  case h_3 => exact decodes_fx3 fun _ _ _ _ _ _ => ⟨rfl, rfl⟩
  case h_4 | h_5 => exact decodes_f3x fun _ _ _ => ⟨rfl, rfl⟩
  case h_7 | h_8 => exact decodes_fx1 fun _ _ _ _ => ⟨rfl, rfl⟩
  case h_9 => exact decodes_f3u fun _ _ _ => ⟨rfl, rfl⟩

theorem decodes_class4 {opc : Nat} {b : Bld} (h : class4 opc = some b) : Decodes 4 opc b := by
  unfold class4 at h
  split at h <;> cases h
  case h_1 | h_2 | h_11 => exact decodes_fqDA fun _ _ _ => ⟨rfl, rfl⟩
  case h_3 | h_4 | h_6 | h_8 => exact decodes_fqAB fun _ _ _ => ⟨rfl, rfl⟩
  case h_5 | h_7 | h_12 => exact decodes_fqA fun _ _ => ⟨rfl, rfl⟩
  case h_9 => exact decodes_fqBtest
  case h_10 => exact decodes_fqGsync

theorem decodes_class5 {opc : Nat} {b : Bld} (h : class5 opc = some b) : Decodes 5 opc b := by
  unfold class5 at h
  split at h <;> cases h
  case h_1 | h_8 =>
    refine decodes_fm fun d a b c e p x ok hc he => ?_
    obtain ⟨mode, imm⟩ := fields_of_noModeImm ok
    exact ⟨_, _, rfl, mw_of_fields hc he mode imm, by simp [used, litOf], rfl⟩
  case h_2 | h_3 | h_6 | h_9 | h_10 =>
    refine decodes_fm fun d a b c e p x ok hc he => ?_
    exact ⟨_, _, rfl, mw_of_fields hc he (mMODE_of_noMode ok) rfl, by simp [used, litOf], rfl⟩
  case h_4 | h_5 | h_7 =>
    refine decodes_fm fun d a b c e p x ok hc he => ?_
    exact ⟨_, _, rfl, mw_of_fields hc he rfl rfl, by simp [used, litOf], rfl⟩
  case h_11 =>
    refine decodes_fm fun d a b c e p x ok hc he => ?_
    have imm : mIMM x.toNat = 0 := by rw [mIMM, beq_iff_eq.1 ok]; rfl
    exact ⟨_, _, rfl, mw_of_fields hc he rfl imm, by simp [used, litOf], rfl⟩

theorem decodes_class6 {opc : Nat} {b : Bld} (h : class6 opc = some b) : Decodes 6 opc b := by
  unfold class6 at h
  split at h <;> cases h
  case h_1 | h_2 | h_3 | h_4 | h_5 | h_6 => exact decodes_fy fun _ _ _ _ _ _ _ _ => ⟨rfl, rfl⟩
  case h_7 =>
    refine decodes_fm fun d a b c e p x ok hc he => ?_
    have second := yw_fields x
    rw [hc, he] at second
    exact ⟨_, _, rfl, second, by simp [used, litOf], rfl⟩
  case h_8 => exact decodes_fyXfm
  case h_9 =>
    refine decodes_fm fun d a b c e p x ok hc he => ?_
    exact ⟨_, _, rfl, mw_of_fields hc he (mMODE_of_noMode ok) rfl, by simp [used, litOf], rfl⟩
  case h_10 => exact decodes_fyDrain

theorem decodes_class7 {opc : Nat} {b : Bld} (h : class7 opc = some b) : Decodes 7 opc b := by
  unfold class7 at h
  split at h <;> cases h
  case h_1 | h_12 => exact decodes_fu0 fun _ => ⟨rfl, rfl⟩
  case h_2 | h_4 | h_5 | h_6 | h_7 | h_10 => exact decodes_fu3 fun _ _ _ _ => ⟨rfl, rfl⟩
  case h_3 | h_8 | h_11 => exact decodes_fu2 fun _ _ _ => ⟨rfl, rfl⟩
  case h_9 => exact decodes_fsSpwt

theorem decodes_opcode {c opc : Nat} {b : Bld} (h : opcode c opc = some b) : Decodes c opc b := by
  unfold opcode at h
  split at h
  · exact decodes_class0 h
  · exact decodes_class1 h
  · exact decodes_class2 h
  · exact decodes_class3 h
  · exact decodes_class4 h
  · exact decodes_class5 h
  · exact decodes_class6 h
  · exact decodes_class7 h
  · cases h

theorem class_lt_of_opcode {c opc : Nat} {b : Bld} (h : opcode c opc = some b) : c < 8 := by
  unfold opcode at h
  split at h
  case h_9 => cases h
  all_goals decide

/-- An encoded instruction takes a word; the events take none. -/
theorem encode_ne_nil {i : Instr} (h : encoded i = true) : encode i ≠ [] := by
  cases i
  case cvt => exact List.cons_ne_nil _ _
  all_goals cases h
  all_goals exact List.cons_ne_nil _ _

/-- What is decoded encodes to the words that were taken (R50, R52). -/
theorem encode_of_decode : Claims.WordsAreUnique := by
  intro c n ws i h
  unfold decode at h
  split at h
  · cases h
  rename_i w r
  split at h
  · cases h
  rename_i b hb
  split at h
  · cases h
  rename_i _ i' r' hr
  split at h
  · cases h
  cases h
  obtain ⟨words, cls⟩ := decodes_opcode hb w r r' i rfl hr
  have some_word : encode i ≠ [] := encode_ne_nil (by simpa [encoded, cls] using class_lt_of_opcode hb)
  rw [words, List.length_append, Nat.add_sub_cancel, List.take_left]
  exact ⟨rfl, cls, List.length_pos_of_ne_nil some_word, Nat.le_add_right _ _⟩

end Sys2Proof
end

section
/-! PROOFS of the clause headers (Table 1 of R50, R51). -/

namespace Sys2Proof
open Machine

/-- The fields of a header word (Table 1 of R50). -/
def headerFields (x : Nat) : Header :=
  { cue := bits x 29 22, dual := bitOf x 21, yieldAfter := bitOf x 20, join := bitOf x 19,
    wt := bits x 18 16, wc := bits x 15 13, ws := bits x 12 10, wl := bits x 9 7, cls := bits x 6 4, n := bits x 3 0 }

theorem decodeHeader_eq (w : W32) : decodeHeader w =
    if (headerFields w.toNat).n = 0 ∨ bits w.toNat 31 30 ≠ 0 ∨ ((headerFields w.toNat).dual = true ∧
      (headerFields w.toNat).cls ≠ 0 ∧ (headerFields w.toNat).cls ≠ 2 ∧ (headerFields w.toNat).cls ≠ 3) then none
    else some (headerFields w.toNat) := rfl

/-- The word of a header whose fields fit holds them, and nothing above them. -/
theorem headerFields_encodeHeader {h : Header} (hcue : h.cue < 256) (hwt : h.wt < 8) (hwc : h.wc < 8) (hws : h.ws < 8)
    (hwl : h.wl < 8) (hcls : h.cls < 8) (hn : h.n < 16) :
    headerFields (encodeHeader h).toNat = h ∧ bits (encodeHeader h).toNat 31 30 = 0 := by
  obtain ⟨cue, d, y, j, wt, wc, ws, wl, cls, n⟩ := h
  have := d.toNat_lt
  have := y.toNat_lt
  have := j.toNat_lt
  simp only at hcue hwt hwc hws hwl hcls hn
  simp only [headerFields, encodeHeader, BitVec.toNat_ofNat, Header.mk.injEq, bool_eq_iff_toNat, toNat_bitOf, bits_eq_div_mod]
  omega

theorem decodeHeader_encodeHeader {h : Header} (hcue : h.cue < 256) (hwt : h.wt < 8) (hwc : h.wc < 8) (hws : h.ws < 8)
    (hwl : h.wl < 8) (hcls : h.cls < 8) (pos : 0 < h.n) (hn : h.n < 16)
    (dual : h.dual = true → h.cls = 0 ∨ h.cls = 2 ∨ h.cls = 3) : decodeHeader (encodeHeader h) = some h := by
  obtain ⟨fields, high⟩ := headerFields_encodeHeader hcue hwt hwc hws hwl hcls hn
  rw [decodeHeader_eq, fields, if_neg]
  rintro (zero | set | ⟨two, cls⟩)
  · omega
  · exact set high
  · have := dual two
    omega

/-- A word that is a header's is that header's word. -/
theorem encodeHeader_of_decodeHeader {w : W32} {h : Header} (hw : decodeHeader w = some h) : encodeHeader h = w := by
  rw [decodeHeader_eq] at hw
  split at hw
  · cases hw
  next fits =>
    cases hw
    have high : bits w.toNat 31 30 = 0 := by
      by_contra set
      exact fits (.inr (.inl set))
    have := w.isLt
    apply BitVec.eq_of_toNat_eq
    simp only [bits_eq_div_mod] at high
    simp only [headerFields, encodeHeader, BitVec.toNat_ofNat, toNat_bitOf, bits_eq_div_mod]
    omega

/-- The words that the rules refuse (R51). -/
theorem decodeHeader_eq_none {w : W32} : decodeHeader w = none ↔
    (w.toNat % 16 = 0 ∨ w.toNat / 2 ^ 30 ≠ 0 ∨ (w.getLsbD 21 = true ∧ w.toNat / 16 % 8 ∉ [0, 2, 3])) := by
  have high : bits w.toNat 31 30 = w.toNat / 2 ^ 30 := by
    have := w.isLt
    rw [bits_eq_div_mod]
    omega
  have cls : (headerFields w.toNat).cls = w.toNat / 16 % 8 := bits_eq_div_mod _ _ _
  have count : (headerFields w.toNat).n = w.toNat % 16 := bits_from_zero _ _
  have dual : (headerFields w.toNat).dual = w.getLsbD 21 := rfl
  rw [decodeHeader_eq, high, cls, count, dual]
  simp only [List.mem_cons, List.not_mem_nil, or_false, not_or, ite_eq_left_iff, reduceCtorEq, imp_false]
  tauto

/-- Settles O55: one lemma for each shape of words says that a builder reads what the encoder writes; the headers are
arithmetic on their fields. -/
theorem wordsAndHeaders : Obligations.WordsAndHeaders :=
  ⟨encode_of_decode,
    fun _ hcue hwt hwc hws hwl hcls pos hn dual => decodeHeader_encodeHeader hcue hwt hwc hws hwl hcls pos hn dual,
    fun _ _ hw => encodeHeader_of_decodeHeader hw, fun _ => decodeHeader_eq_none⟩

end Sys2Proof
end

section
/-! PROOFS of the round trip: what an encoded instruction reads back (R50, R52), one lemma for each shape of words. -/

namespace Sys2Proof
open Machine

/-- An instruction whose first word names a builder that reads it back from its words and leaves the words behind them. -/
def ReadsBack (i : Instr) : Prop :=
  ∃ w l b, encode i = w :: l ∧ opcode (classOf i) (opcOf w.toNat) = some b ∧ ∀ r, b w.toNat (l ++ r) = .ok (i, r)

theorem decode_of_readsBack {i : Instr} {r : List W32} (h : ReadsBack i) (last : isTransfer i = true → r = []) :
    decode (classOf i) (encode i ++ r) = .ok (i, (encode i).length) := by
  obtain ⟨w, l, b, code, row, read⟩ := h
  have behind : (isTransfer i && !r.isEmpty) = false := by
    cases ht : isTransfer i with
    | false => rfl
    | true => rw [last ht]; rfl
  simp only [decode, code, List.cons_append, row, read, behind, Bool.false_eq_true, if_false, List.length_cons, List.length_append]
  rw [show l.length + r.length + 1 - r.length = l.length + 1 by omega]

/-- The row of the opcode tables for an instruction: its opcode names its builder. -/
def InRow (i : Instr) (opc : Nat) (b : Bld) : Prop := opcode (classOf i) opc = some b ∧ opc < 256

/-! Class 0 and class 3 (R59, R70, R75) -/

theorem f3_reads {k : Opd → Opd → Opd → Pr → Instr} {d a b : Opd} {p : Pr} {w : Nat}
    (fields : d7 w = code7 d ∧ a7 w = code7 a ∧ b7 w = code7 b ∧ pOf w = p)
    (operands : isDst7 d = true ∧ isSrc7 a = true ∧ isSrc7 b = true) (r : List W32) :
    f3 k w (litOf d ++ litOf a ++ litOf b ++ r) = .ok (k d a b p, r) := by
  obtain ⟨fd, fa, fb, rfl⟩ := fields
  obtain ⟨hd, ha, hb⟩ := operands
  simp only [f3, List.append_assoc, dst7_of_code fd hd, src7_of_code fa ha, src7_of_code fb hb]

theorem readsBack_f3 {opc : Nat} {k : Opd → Opd → Opd → Pr → Instr} {d a b : Opd} {p : Pr}
    (code : encode (k d a b p) = e3 opc d a b p) (row : InRow (k d a b p) opc (f3 k))
    (operands : isDst7 d = true ∧ isSrc7 a = true ∧ isSrc7 b = true) : ReadsBack (k d a b p) := by
  obtain ⟨row, small⟩ := row
  have ⟨hd, ha, hb⟩ := operands
  obtain ⟨ho, fd, fa, fb, fp, -⟩ := fields_w7 p small (code7_lt_of_dst hd) (code7_lt_of_src ha) (code7_lt_of_src hb)
  exact ⟨_, _, _, code, by rw [ho]; exact row, f3_reads ⟨fd, fa, fb, fp⟩ operands⟩

theorem f3u_reads {k : Opd → Opd → Pr → Instr} {d a : Opd} {p : Pr} {w : Nat}
    (fields : d7 w = code7 d ∧ a7 w = code7 a ∧ b7 w = 0 ∧ pOf w = p) (operands : isDst7 d = true ∧ isSrc7 a = true) (r : List W32) :
    f3u k w (litOf d ++ litOf a ++ r) = .ok (k d a p, r) := by
  obtain ⟨fd, fa, fb, rfl⟩ := fields
  obtain ⟨hd, ha⟩ := operands
  simp only [f3u, List.append_assoc, dst7_of_code fd hd, src7_of_code fa ha, need, fb, beq_self_eq_true, if_true]

theorem readsBack_f3u {opc : Nat} {k : Opd → Opd → Pr → Instr} {d a : Opd} {p : Pr}
    (code : encode (k d a p) = e3u opc d a p) (row : InRow (k d a p) opc (f3u k))
    (operands : isDst7 d = true ∧ isSrc7 a = true) : ReadsBack (k d a p) := by
  obtain ⟨row, small⟩ := row
  have ⟨hd, ha⟩ := operands
  obtain ⟨ho, fd, fa, fb, fp, -⟩ := fields_w7 p small (code7_lt_of_dst hd) (code7_lt_of_src ha) (Nat.zero_lt_succ _)
  exact ⟨_, _, _, code, by rw [ho]; exact row, f3u_reads ⟨fd, fa, fb, fp⟩ operands⟩

theorem f3mov_reads {d a : Opd} {width : BitVec 7} {p : Pr} {w : Nat}
    (fields : d7 w = code7 d ∧ a7 w = code7 a ∧ b7 w = width.toNat ∧ pOf w = p) (operands : isDst7 d = true ∧ isSrc7 a = true)
    (r : List W32) : f3mov w (litOf d ++ litOf a ++ r) = .ok (.mov d a width p, r) := by
  obtain ⟨fd, fa, fb, rfl⟩ := fields
  obtain ⟨hd, ha⟩ := operands
  simp only [f3mov, List.append_assoc, dst7_of_code fd hd, src7_of_code fa ha, fb, BitVec.ofNat_toNat, BitVec.setWidth_eq]

theorem readsBack_mov {d a : Opd} {width : BitVec 7} {p : Pr} (operands : isDst7 d = true ∧ isSrc7 a = true) :
    ReadsBack (.mov d a width p) := by
  have ⟨hd, ha⟩ := operands
  obtain ⟨ho, fd, fa, fb, fp, -⟩ := fields_w7 (opc := 0x20) p (by decide) (code7_lt_of_dst hd) (code7_lt_of_src ha) width.isLt
  exact ⟨_, _, f3mov, rfl, by rw [ho]; rfl, f3mov_reads ⟨fd, fa, fb, fp⟩ operands⟩

theorem f3x_reads {k : Opd → Opd → Opd → Instr} {d a b : Opd} {w : Nat}
    (fields : d7 w = code7 d ∧ a7 w = code7 a ∧ b7 w = code7 b ∧ bits w 2 0 = 0)
    (operands : isDst7 d = true ∧ isSrc7 a = true ∧ isSrc7 b = true) (r : List W32) :
    f3x k w (litOf d ++ litOf a ++ litOf b ++ r) = .ok (k d a b, r) := by
  obtain ⟨fd, fa, fb, low⟩ := fields
  obtain ⟨hd, ha, hb⟩ := operands
  simp only [f3x, List.append_assoc, dst7_of_code fd hd, src7_of_code fa ha, src7_of_code fb hb, need, low, beq_self_eq_true, if_true]

theorem readsBack_f3x {opc : Nat} {k : Opd → Opd → Opd → Instr} {d a b : Opd}
    (code : encode (k d a b) = e3 opc d a b 0) (row : InRow (k d a b) opc (f3x k))
    (operands : isDst7 d = true ∧ isSrc7 a = true ∧ isSrc7 b = true) : ReadsBack (k d a b) := by
  obtain ⟨row, small⟩ := row
  have ⟨hd, ha, hb⟩ := operands
  obtain ⟨ho, fd, fa, fb, -, low⟩ := fields_w7 0 small (code7_lt_of_dst hd) (code7_lt_of_src ha) (code7_lt_of_src hb)
  exact ⟨_, _, _, code, by rw [ho]; exact row, f3x_reads ⟨fd, fa, fb, low⟩ operands⟩

theorem fx3_reads {k : Opd → Opd → Opd → Opd → Pr → Fx → Instr} {d a b c : Opd} {p : Pr} {x : Fx} {w : Nat} {y : W32}
    (fields : d7 w = code7 d ∧ a7 w = code7 a ∧ b7 w = code7 b ∧ pOf w = p) (second : bits y.toNat 31 25 = code7 c ∧ fxOf y.toNat = x)
    (operands : isDst7 d = true ∧ isSrc7 a = true ∧ isSrc7 b = true ∧ isSrc7 c = true) (r : List W32) :
    fx3 k w (y :: (litOf d ++ litOf a ++ litOf b ++ litOf c) ++ r) = .ok (k d a b c p x, r) := by
  obtain ⟨fd, fa, fb, rfl⟩ := fields
  obtain ⟨fc, rfl⟩ := second
  obtain ⟨hd, ha, hb, hc⟩ := operands
  simp only [fx3, takeWord, List.cons_append, List.append_assoc, dst7_of_code fd hd, src7_of_code fa ha, src7_of_code fb hb,
    src7_of_code fc hc]

theorem readsBack_fx3 {opc : Nat} {k : Opd → Opd → Opd → Opd → Pr → Fx → Instr} {d a b c : Opd} {p : Pr} {x : Fx}
    (code : encode (k d a b c p x) = ex3 opc d a b c p x) (row : InRow (k d a b c p x) opc (fx3 k))
    (operands : isDst7 d = true ∧ isSrc7 a = true ∧ isSrc7 b = true ∧ isSrc7 c = true) : ReadsBack (k d a b c p x) := by
  obtain ⟨row, small⟩ := row
  have ⟨hd, ha, hb, hc⟩ := operands
  obtain ⟨ho, fd, fa, fb, fp, -⟩ := fields_w7 p small (code7_lt_of_dst hd) (code7_lt_of_src ha) (code7_lt_of_src hb)
  exact ⟨_, _, _, code, by rw [ho]; exact row, fx3_reads ⟨fd, fa, fb, fp⟩ (fields_xw x (code7_lt_of_src hc)) operands⟩

theorem fx2_reads {k : Opd → Opd → Opd → Pr → Fx → Instr} {d a b : Opd} {p : Pr} {x : Fx} {w : Nat} {y : W32}
    (fields : d7 w = code7 d ∧ a7 w = code7 a ∧ b7 w = code7 b ∧ pOf w = p) (second : bits y.toNat 31 25 = 0 ∧ fxOf y.toNat = x)
    (operands : isDst7 d = true ∧ isSrc7 a = true ∧ isSrc7 b = true) (r : List W32) :
    fx2 k w (y :: (litOf d ++ litOf a ++ litOf b) ++ r) = .ok (k d a b p x, r) := by
  obtain ⟨fd, fa, fb, rfl⟩ := fields
  obtain ⟨fc, rfl⟩ := second
  obtain ⟨hd, ha, hb⟩ := operands
  simp only [fx2, takeWord, List.cons_append, List.append_assoc, dst7_of_code fd hd, src7_of_code fa ha, src7_of_code fb hb,
    need, fc, beq_self_eq_true, if_true]

theorem readsBack_fx2 {opc : Nat} {k : Opd → Opd → Opd → Pr → Fx → Instr} {d a b : Opd} {p : Pr} {x : Fx}
    (code : encode (k d a b p x) = ex2 opc d a b p x) (row : InRow (k d a b p x) opc (fx2 k))
    (operands : isDst7 d = true ∧ isSrc7 a = true ∧ isSrc7 b = true) : ReadsBack (k d a b p x) := by
  obtain ⟨row, small⟩ := row
  have ⟨hd, ha, hb⟩ := operands
  obtain ⟨ho, fd, fa, fb, fp, -⟩ := fields_w7 p small (code7_lt_of_dst hd) (code7_lt_of_src ha) (code7_lt_of_src hb)
  exact ⟨_, _, _, code, by rw [ho]; exact row, fx2_reads ⟨fd, fa, fb, fp⟩ (fields_xw x (Nat.zero_lt_succ _)) operands⟩

theorem fx1_reads {k : Opd → Opd → Pr → Fx → Instr} {d a : Opd} {p : Pr} {x : Fx} {w : Nat} {y : W32}
    (fields : d7 w = code7 d ∧ a7 w = code7 a ∧ b7 w = 0 ∧ pOf w = p) (second : bits y.toNat 31 25 = 0 ∧ fxOf y.toNat = x)
    (operands : isDst7 d = true ∧ isSrc7 a = true) (r : List W32) :
    fx1 k w (y :: (litOf d ++ litOf a) ++ r) = .ok (k d a p x, r) := by
  obtain ⟨fd, fa, fb, rfl⟩ := fields
  obtain ⟨fc, rfl⟩ := second
  obtain ⟨hd, ha⟩ := operands
  simp only [fx1, takeWord, List.cons_append, List.append_assoc, dst7_of_code fd hd, src7_of_code fa ha,
    need, fb, fc, beq_self_eq_true, Bool.and_self, if_true]

theorem readsBack_fx1 {opc : Nat} {k : Opd → Opd → Pr → Fx → Instr} {d a : Opd} {p : Pr} {x : Fx}
    (code : encode (k d a p x) = ex1 opc d a p x) (row : InRow (k d a p x) opc (fx1 k))
    (operands : isDst7 d = true ∧ isSrc7 a = true) : ReadsBack (k d a p x) := by
  obtain ⟨row, small⟩ := row
  have ⟨hd, ha⟩ := operands
  obtain ⟨ho, fd, fa, fb, fp, -⟩ := fields_w7 p small (code7_lt_of_dst hd) (code7_lt_of_src ha) (Nat.zero_lt_succ _)
  exact ⟨_, _, _, code, by rw [ho]; exact row, fx1_reads ⟨fd, fa, fb, fp⟩ (fields_xw x (Nat.zero_lt_succ _)) operands⟩

theorem pr_lt (p : Pr) : p.val < 128 := Nat.lt_trans p.isLt (by decide)

@[simp] theorem prOf_pr (p : Pr) : prOf p.val = p := Fin.ext (prOf_val p.isLt)

theorem readsBack_plog {t a b c p : Pr} {x : Fx} : ReadsBack (.plog t a b c p x) := by
  obtain ⟨ho, fd, fa, fb, fp, -⟩ := fields_w7 (opc := 0x26) p (by decide) (pr_lt t) (pr_lt a) (pr_lt b)
  obtain ⟨fc, fx⟩ := fields_xw x (pr_lt c)
  refine ⟨_, _, fxPlog, rfl, by rw [ho]; rfl, fun r => ?_⟩
  simp [fxPlog, takeWord, need, fd, fa, fb, fp, fc, fx]

theorem fxPoll_reads {d : Opd} {a p : Pr} {x : Fx} {w : Nat} {y : W32}
    (fields : d7 w = code7 d ∧ a7 w = a.val ∧ b7 w = 0 ∧ pOf w = p) (second : bits y.toNat 31 25 = 0 ∧ fxOf y.toNat = x)
    (hd : isDst7 d = true) (r : List W32) : fxPoll w (y :: litOf d ++ r) = .ok (.poll d a p x, r) := by
  obtain ⟨fd, fa, fb, rfl⟩ := fields
  obtain ⟨fc, rfl⟩ := second
  simp [fxPoll, takeWord, dst7_of_code fd hd, need, fa, fb, fc]

theorem readsBack_poll {d : Opd} {a p : Pr} {x : Fx} (hd : isDst7 d = true) : ReadsBack (.poll d a p x) := by
  obtain ⟨ho, fd, fa, fb, fp, -⟩ := fields_w7 (opc := 0x00) p (by decide) (code7_lt_of_dst hd) (pr_lt a) (Nat.zero_lt_succ _)
  exact ⟨_, _, fxPoll, rfl, by rw [ho]; rfl, fxPoll_reads ⟨fd, fa, fb, fp⟩ (fields_xw x (Nat.zero_lt_succ _)) hd⟩

/-! Class 1 and class 7 (R63, R64, R71, R79) -/

theorem readsBack_fu0 {opc : Nat} {k : Pr → Instr} {p : Pr} (code : encode (k p) = eu0 opc p) (row : InRow (k p) opc (fu0 k)) :
    ReadsBack (k p) := by
  obtain ⟨row, small⟩ := row
  obtain ⟨ho, fd, fa, fb, fp, low⟩ := fields_w6 (d := 0) (a := 0) (b := 0) p small (by decide) (by decide) (by decide)
  have zero : bits (w6 opc 0 0 0 p.val).toNat 23 6 = 0 := by
    simp only [d6, a6, b6, bits_eq_div_mod] at fd fa fb ⊢
    omega
  refine ⟨_, _, _, code, by rw [ho]; exact row, fun r => ?_⟩
  simp [fu0, need, zero, low, fp]

theorem fu3_reads {k : Opd → Opd → Opd → Pr → Instr} {d a b : Opd} {p : Pr} {w : Nat}
    (fields : d6 w = code6 d ∧ a6 w = code6 a ∧ b6 w = code6 b ∧ bpOf w = p ∧ bits w 2 0 = 0)
    (operands : isReg6 d = true ∧ uSrc a = true ∧ uSrc b = true) (r : List W32) :
    fu3 k w (litOf a ++ litOf b ++ r) = .ok (k d a b p, r) := by
  obtain ⟨fd, fa, fb, rfl, low⟩ := fields
  obtain ⟨hd, ha, hb⟩ := operands
  simp only [fu3, List.append_assoc, src6_of_code fa ha, src6_of_code fb hb, reg6_of_code fd hd, need, low, beq_self_eq_true, if_true]

theorem readsBack_fu3 {opc : Nat} {k : Opd → Opd → Opd → Pr → Instr} {d a b : Opd} {p : Pr}
    (code : encode (k d a b p) = eu3 opc d a b p) (row : InRow (k d a b p) opc (fu3 k))
    (operands : isReg6 d = true ∧ uSrc a = true ∧ uSrc b = true) : ReadsBack (k d a b p) := by
  obtain ⟨row, small⟩ := row
  have ⟨hd, ha, hb⟩ := operands
  obtain ⟨ho, fields⟩ := fields_w6 p small (code6_lt_of_reg hd) (code6_lt_of_src ha) (code6_lt_of_src hb)
  exact ⟨_, _, _, code, by rw [ho]; exact row, fu3_reads fields operands⟩

theorem fu2_reads {k : Opd → Opd → Pr → Instr} {d a : Opd} {p : Pr} {w : Nat}
    (fields : d6 w = code6 d ∧ a6 w = code6 a ∧ b6 w = 0 ∧ bpOf w = p ∧ bits w 2 0 = 0)
    (operands : isReg6 d = true ∧ uSrc a = true) (r : List W32) : fu2 k w (litOf a ++ r) = .ok (k d a p, r) := by
  obtain ⟨fd, fa, fb, rfl, low⟩ := fields
  obtain ⟨hd, ha⟩ := operands
  simp only [fu2, src6_of_code fa ha, reg6_of_code fd hd, need, fb, low, beq_self_eq_true, Bool.and_self, if_true]

theorem readsBack_fu2 {opc : Nat} {k : Opd → Opd → Pr → Instr} {d a : Opd} {p : Pr}
    (code : encode (k d a p) = eu2 opc d a p) (row : InRow (k d a p) opc (fu2 k))
    (operands : isReg6 d = true ∧ uSrc a = true) : ReadsBack (k d a p) := by
  obtain ⟨row, small⟩ := row
  have ⟨hd, ha⟩ := operands
  obtain ⟨ho, fields⟩ := fields_w6 p small (code6_lt_of_reg hd) (code6_lt_of_src ha) (Nat.zero_lt_succ _)
  exact ⟨_, _, _, code, by rw [ho]; exact row, fu2_reads fields operands⟩

theorem readsBack_brx {a : Opd} {p : Pr} (ha : uSrc a = true) : ReadsBack (.brx a p) := by
  obtain ⟨ho, fd, fa, fb, fp, low⟩ := fields_w6 (opc := 0x04) p (by decide) (Nat.zero_lt_succ _) (code6_lt_of_src ha) (Nat.zero_lt_succ _)
  refine ⟨_, _, fuA .brx, rfl, by rw [ho]; rfl, fun r => ?_⟩
  simp only [fuA, fd, fb, fp, low, src6_of_code fa ha]
  rfl

theorem readsBack_fuK {opc : Nat} {k : BitVec 8 → Pr → Instr} {n : BitVec 8} {p : Pr}
    (code : encode (k n p) = [word (opc * 2 ^ 24 + n.toNat * 2 ^ 12 + p.val * 2 ^ 3)]) (row : InRow (k n p) opc (fuK k)) :
    ReadsBack (k n p) := by
  obtain ⟨row, small⟩ := row
  have := n.isLt
  have := p.isLt
  have fields : ∀ w, w = (word (opc * 2 ^ 24 + n.toNat * 2 ^ 12 + p.val * 2 ^ 3)).toNat → opcOf w = opc ∧ bits w 23 20 = 0 ∧ b6 w = 0 ∧
      bits w 2 0 = 0 ∧ BitVec.ofNat 8 (bits w 19 12) = n ∧ bpOf w = p := by
    intro w hw
    simp only [word, BitVec.toNat_ofNat] at hw
    simp only [opcOf, b6, bpOf, prOf, bits_eq_div_mod, ← BitVec.toNat_inj, Fin.ext_iff, BitVec.toNat_ofNat]
    omega
  obtain ⟨ho, high, fb, low, fn, fp⟩ := fields _ rfl
  refine ⟨_, _, _, code, by rw [ho]; exact row, fun r => ?_⟩
  simp only [fuK, high, fb, low, fn, fp]
  rfl

theorem readsBack_wait {wl ws wc wt : BitVec 3} {p : Pr} : ReadsBack (.wait wl ws wc wt p) := by
  have := wl.isLt
  have := ws.isLt
  have := wc.isLt
  have := wt.isLt
  have := p.isLt
  have fields : ∀ w, w = (word (0x09 * 2 ^ 24 + wl.toNat * 2 ^ 21 + ws.toNat * 2 ^ 18 + wc.toNat * 2 ^ 15 + wt.toNat * 2 ^ 12 +
      p.val * 2 ^ 3)).toNat → opcOf w = 0x09 ∧ b6 w = 0 ∧ bits w 2 0 = 0 ∧ BitVec.ofNat 3 (bits w 23 21) = wl ∧
      BitVec.ofNat 3 (bits w 20 18) = ws ∧ BitVec.ofNat 3 (bits w 17 15) = wc ∧ BitVec.ofNat 3 (bits w 14 12) = wt ∧ bpOf w = p := by
    intro w hw
    simp only [word, BitVec.toNat_ofNat] at hw
    simp only [opcOf, b6, bpOf, prOf, bits_eq_div_mod, ← BitVec.toNat_inj, Fin.ext_iff, BitVec.toNat_ofNat]
    omega
  obtain ⟨ho, fb, low, fl, fs, fc, ft, fp⟩ := fields _ rfl
  refine ⟨_, _, fuWait, rfl, by rw [ho]; rfl, fun r => ?_⟩
  simp only [fuWait, fb, low, fl, fs, fc, ft, fp]
  rfl

theorem readsBack_rett : ReadsBack .rett := ⟨_, _, fuRett, rfl, rfl, fun _ => rfl⟩

theorem readsBack_wli {d : Opd} {lo hi : W32} {p : Pr} (hd : isReg6 d = true) : ReadsBack (.wli d lo hi p) := by
  obtain ⟨ho, fd, fa, fb, fp, low⟩ := fields_w6 (opc := 0x21) (a := 0) (b := 0) p (by decide) (code6_lt_of_reg hd) (by decide) (by decide)
  refine ⟨_, _, fuWli, rfl, by rw [ho]; rfl, fun r => ?_⟩
  simp only [fuWli, takeWord, List.cons_append, fa, fb, fp, low, reg6_of_code fd hd]
  rfl

theorem fuCmp_reads {c : BitVec 3} {t : Pr} {a b : Opd} {p : Pr} {w : Nat}
    (fields : d6 w = c.toNat * 8 + t.val ∧ a6 w = code6 a ∧ b6 w = code6 b ∧ bpOf w = p ∧ bits w 2 0 = 0)
    (operands : uSrc a = true ∧ uSrc b = true) (r : List W32) :
    fuCmp w (litOf a ++ litOf b ++ r) = .ok (.wcmp c t a b p, r) := by
  obtain ⟨fd, fa, fb, rfl, low⟩ := fields
  obtain ⟨ha, hb⟩ := operands
  have := c.isLt
  have := t.isLt
  simp only [d6, bits_eq_div_mod] at fd
  have fc : BitVec.ofNat 3 (bits w 23 21) = c := by
    simp only [bits_eq_div_mod, ← BitVec.toNat_inj, BitVec.toNat_ofNat]
    omega
  have ft : prOf (bits w 20 18) = t := by
    simp only [prOf, bits_eq_div_mod, Fin.ext_iff]
    omega
  simp only [fuCmp, List.append_assoc, src6_of_code fa ha, src6_of_code fb hb, fc, ft, need, low, beq_self_eq_true, if_true]

theorem readsBack_wcmp {c : BitVec 3} {t : Pr} {a b : Opd} {p : Pr} (operands : uSrc a = true ∧ uSrc b = true) :
    ReadsBack (.wcmp c t a b p) := by
  have ⟨ha, hb⟩ := operands
  have := c.isLt
  have := t.isLt
  obtain ⟨ho, fields⟩ :=
    fields_w6 (opc := 0x2d) (d := c.toNat * 8 + t.val) p (by decide) (by omega) (code6_lt_of_src ha) (code6_lt_of_src hb)
  exact ⟨_, _, fuCmp, rfl, by rw [ho]; rfl, fuCmp_reads fields operands⟩

theorem readsBack_wrs {d : Opd} {n : BitVec 6} {p : Pr} (hd : isReg6 d = true) : ReadsBack (.wrs d n p) := by
  obtain ⟨ho, fd, fa, fb, fp, low⟩ := fields_w6 (opc := 0x30) (b := 0) p (by decide) (code6_lt_of_reg hd) n.isLt (by decide)
  refine ⟨_, _, fuWrs, rfl, by rw [ho]; rfl, fun r => ?_⟩
  simp only [fuWrs, fa, fb, fp, low, reg6_of_code fd hd, BitVec.ofNat_toNat, BitVec.setWidth_eq]
  rfl

theorem fuWws_reads {n : BitVec 6} {a : Opd} {p : Pr} {w : Nat}
    (fields : d6 w = n.toNat ∧ a6 w = code6 a ∧ b6 w = 0 ∧ bpOf w = p ∧ bits w 2 0 = 0) (ha : uSrc a = true) (r : List W32) :
    fuWws w (litOf a ++ r) = .ok (.wws n a p, r) := by
  obtain ⟨fd, fa, fb, rfl, low⟩ := fields
  simp only [fuWws, src6_of_code fa ha, fd, BitVec.ofNat_toNat, BitVec.setWidth_eq, need, fb, low, beq_self_eq_true, Bool.and_self,
    if_true]

theorem readsBack_wws {n : BitVec 6} {a : Opd} {p : Pr} (ha : uSrc a = true) : ReadsBack (.wws n a p) := by
  obtain ⟨ho, fields⟩ := fields_w6 (opc := 0x31) (b := 0) p (by decide) n.isLt (code6_lt_of_src ha) (by decide)
  exact ⟨_, _, fuWws, rfl, by rw [ho]; rfl, fuWws_reads fields ha⟩

theorem readsBack_fb {opc : Nat} {k : Pr → Pr → BitVec 18 → Instr} {p q : Pr} {off : BitVec 18}
    (code : encode (k p q off) = [wB opc p.val q.val off]) (row : InRow (k p q off) opc (fb k)) : ReadsBack (k p q off) := by
  obtain ⟨row, small⟩ := row
  obtain ⟨ho, fp, fq, fo⟩ := fields_wB p q off small
  refine ⟨_, _, _, code, by rw [ho]; exact row, fun r => ?_⟩
  simp only [fb, fp, fq, fo, List.nil_append]

theorem readsBack_call {p : Pr} {off : BitVec 18} : ReadsBack (.call p off) := by
  obtain ⟨ho, fp, fq, fo⟩ := fields_wB (opc := 0x05) p 0 off (by decide)
  have zero : bits (wB 0x05 p.val 0 off).toNat 20 18 = 0 := by
    rw [← prOf_val (bits_lt (wB 0x05 p.val 0 off).toNat 20 18)]
    exact congrArg Fin.val fq
  refine ⟨wB 0x05 p.val 0 off, [], fbCall, rfl, ?_, fun r => ?_⟩
  · exact congrArg (opcode 1) ho
  · refine Eq.trans (congrArg (fun ok => need ok _ _) (beq_iff_eq.2 zero)) ?_
    exact congrArg₂ (fun p off => Except.ok (Instr.call p off, r)) fp fo

/-- The instructions of opcode 0x08 of class 7, by the port number in B (R435). -/
def spwtOf : Nat → Opd → Opd → Pr → Instr
  | 0 => .spwtWait
  | 1 => .spwtSubmit
  | 2 => .spwtReply
  | _ => .spwtKill

theorem fsSpwt_reads {n : Nat} {d a : Opd} {p : Pr} {w : Nat} (port : n < 4)
    (fields : d6 w = code6 d ∧ a6 w = code6 a ∧ b6 w = n ∧ bpOf w = p ∧ bits w 2 0 = 0)
    (operands : isReg6 d = true ∧ uSrc a = true) (r : List W32) : fsSpwt w (litOf a ++ r) = .ok (spwtOf n d a p, r) := by
  obtain ⟨fd, fa, fb, rfl, low⟩ := fields
  obtain ⟨hd, ha⟩ := operands
  simp only [fsSpwt, src6_of_code fa ha, reg6_of_code fd hd, fb, need, low, port, decide_true, beq_self_eq_true, Bool.and_self, if_true]
  match n, port with
  | 0, _ | 1, _ | 2, _ | 3, _ => rfl

theorem readsBack_spwt {n : Nat} {d a : Opd} {p : Pr} (port : n < 4) (operands : isReg6 d = true ∧ uSrc a = true) :
    ReadsBack (spwtOf n d a p) := by
  have ⟨hd, ha⟩ := operands
  obtain ⟨ho, fields⟩ :=
    fields_w6 (opc := 0x08) (b := n) p (by decide) (code6_lt_of_reg hd) (code6_lt_of_src ha) (Nat.lt_trans port (by decide))
  have code : encode (spwtOf n d a p) = w6 0x08 (code6 d) (code6 a) n p.val :: litOf a ∧ classOf (spwtOf n d a p) = 7 := by
    match n, port with
    | 0, _ | 1, _ | 2, _ | 3, _ => exact ⟨rfl, rfl⟩
  obtain ⟨code, cls⟩ := code
  exact ⟨_, _, fsSpwt, code, by rw [ho, cls]; rfl, fsSpwt_reads port fields operands⟩

/-! Class 2 (R61, R73) -/

theorem faLd_reads {ok : Nat → Bool} {k : Opd → Opd → Opd → Pr → Nat → Instr} {d b i : Opd} {p : Pr} {w : Nat} {x : W32}
    (fields : d7 w = code7 d ∧ a7 w = code7 b ∧ b7 w = code7 i ∧ pOf w = p)
    (operands : isReg7 d = true ∧ isReg7 b = true ∧ isReg7 i = true) (fits : ok x.toNat = true) (r : List W32) :
    faLd ok k w (x :: litOf d ++ r) = .ok (k d b i p x.toNat, r) := by
  obtain ⟨fd, fa, fb, rfl⟩ := fields
  obtain ⟨hd, hb, hi⟩ := operands
  simp only [faLd, takeWord, List.cons_append, litOf_of_reg7 hd, List.nil_append, reg7_of_code fd hd, reg7_of_code fa hb,
    reg7_of_code fb hi, need, fits, if_true]

theorem faSt_reads {ok : Nat → Bool} {k : Opd → Opd → Opd → Pr → Nat → Instr} {d b i : Opd} {p : Pr} {w : Nat} {x : W32}
    (fields : d7 w = code7 d ∧ a7 w = code7 b ∧ b7 w = code7 i ∧ pOf w = p)
    (operands : isSrc7 d = true ∧ isReg7 b = true ∧ isReg7 i = true) (fits : ok x.toNat = true) (r : List W32) :
    faSt ok k w (x :: litOf d ++ r) = .ok (k d b i p x.toNat, r) := by
  obtain ⟨fd, fa, fb, rfl⟩ := fields
  obtain ⟨hd, hb, hi⟩ := operands
  simp only [faSt, takeWord, List.cons_append, src7_of_code fd hd, reg7_of_code fa hb, reg7_of_code fb hi, need, fits, if_true]

theorem faAt_reads {ok : Nat → Bool} {k : Opd → Opd → Opd → Opd → Pr → Nat → Instr} {d b i c : Opd} {p : Pr} {w : Nat} {x : W32}
    (fields : d7 w = code7 d ∧ a7 w = code7 b ∧ b7 w = code7 i ∧ pOf w = p)
    (operands : isReg7 d = true ∧ isReg7 b = true ∧ isReg7 i = true ∧ isSrc7 c = true) (fc : xC x.toNat = code7 c)
    (fits : ok x.toNat = true) (r : List W32) : faAt ok k w (x :: litOf c ++ r) = .ok (k d b i c p x.toNat, r) := by
  obtain ⟨fd, fa, fb, rfl⟩ := fields
  obtain ⟨hd, hb, hi, hc⟩ := operands
  simp only [faAt, takeWord, List.cons_append, src7_of_code fc hc, reg7_of_code fd hd, reg7_of_code fa hb, reg7_of_code fb hi, need,
    fits, if_true]

theorem faNo_reads {ok : Nat → Bool} {k : Opd → Opd → Pr → Nat → Instr} {b i : Opd} {p : Pr} {w : Nat} {x : W32}
    (fields : d7 w = 0 ∧ a7 w = code7 b ∧ b7 w = code7 i ∧ pOf w = p) (operands : isReg7 b = true ∧ isReg7 i = true)
    (fits : ok x.toNat = true) (r : List W32) : faNo ok k w ([x] ++ r) = .ok (k b i p x.toNat, r) := by
  obtain ⟨fd, fa, fb, rfl⟩ := fields
  obtain ⟨hb, hi⟩ := operands
  simp only [faNo, takeWord, List.cons_append, List.nil_append, reg7_of_code fa hb, reg7_of_code fb hi, need, fd, fits,
    beq_self_eq_true, Bool.and_self, if_true]

/-- The fields that an extension word of an access holds. -/
def AccessWord (c fk ty aop sx hint : Nat) (off : BitVec 12) (n : Nat) : Prop :=
  xC n = c ∧ xFK n = fk ∧ xTY n = ty ∧ xAOP n = aop ∧ xSX n = sx ∧ xHINT n = hint ∧ xOFF n = off

/-- Values that fit the fields of the extension word of an access (Table 8 of R61). -/
def AccessFits (c fk ty aop sx hint : Nat) : Prop := c < 128 ∧ fk < 4 ∧ ty < 8 ∧ aop < 16 ∧ sx < 2 ∧ hint < 8

theorem accessWord_aw {c fk ty aop sx hint : Nat} (off : BitVec 12) (fits : AccessFits c fk ty aop sx hint) :
    AccessWord c fk ty aop sx hint off (aw c fk ty aop sx hint off).toNat := by
  obtain ⟨hc, hf, ht, ha, hs, hh⟩ := fits
  exact fields_aw off hc hf ht ha hs hh

/-- An access with DATA a destination reads back when its extension word holds the fields that its form uses. -/
theorem readsBack_faLd {opc c fk ty aop sx hint : Nat} {off : BitVec 12} {ok : Nat → Bool}
    {k : Opd → Opd → Opd → Pr → Nat → Instr} {m : Instr} {d b i : Opd} {p : Pr}
    (code : encode m = eA opc d b i p (aw c fk ty aop sx hint off)) (row : InRow m opc (faLd ok k))
    (fits : AccessFits c fk ty aop sx hint) (operands : isReg7 d = true ∧ isReg7 b = true ∧ isReg7 i = true)
    (second : ∀ n, AccessWord c fk ty aop sx hint off n → ok n = true ∧ k d b i p n = m) : ReadsBack m := by
  obtain ⟨row, small⟩ := row
  have ⟨hd, hb, hi⟩ := operands
  obtain ⟨ok_word, same⟩ := second _ (accessWord_aw off fits)
  obtain ⟨ho, fd, fa, fb, fp, -⟩ := fields_w7 p small (code7_lt_of_reg hd) (code7_lt_of_reg hb) (code7_lt_of_reg hi)
  have reads := faLd_reads (k := k) ⟨fd, fa, fb, fp⟩ operands ok_word
  rw [same] at reads
  exact ⟨_, _, _, code, by rw [ho]; exact row, reads⟩

theorem readsBack_faSt {opc c fk ty aop sx hint : Nat} {off : BitVec 12} {ok : Nat → Bool}
    {k : Opd → Opd → Opd → Pr → Nat → Instr} {m : Instr} {d b i : Opd} {p : Pr}
    (code : encode m = eA opc d b i p (aw c fk ty aop sx hint off)) (row : InRow m opc (faSt ok k))
    (fits : AccessFits c fk ty aop sx hint) (operands : isSrc7 d = true ∧ isReg7 b = true ∧ isReg7 i = true)
    (second : ∀ n, AccessWord c fk ty aop sx hint off n → ok n = true ∧ k d b i p n = m) : ReadsBack m := by
  obtain ⟨row, small⟩ := row
  have ⟨hd, hb, hi⟩ := operands
  obtain ⟨ok_word, same⟩ := second _ (accessWord_aw off fits)
  obtain ⟨ho, fd, fa, fb, fp, -⟩ := fields_w7 p small (code7_lt_of_src hd) (code7_lt_of_reg hb) (code7_lt_of_reg hi)
  have reads := faSt_reads (k := k) ⟨fd, fa, fb, fp⟩ operands ok_word
  rw [same] at reads
  exact ⟨_, _, _, code, by rw [ho]; exact row, reads⟩

theorem readsBack_faAt {opc fk ty aop sx hint : Nat} {off : BitVec 12} {ok : Nat → Bool}
    {k : Opd → Opd → Opd → Opd → Pr → Nat → Instr} {m : Instr} {d b i c : Opd} {p : Pr}
    (code : encode m = eAc opc d b i c p (aw (code7 c) fk ty aop sx hint off)) (row : InRow m opc (faAt ok k))
    (fits : AccessFits (code7 c) fk ty aop sx hint)
    (operands : isReg7 d = true ∧ isReg7 b = true ∧ isReg7 i = true ∧ isSrc7 c = true)
    (second : ∀ n, AccessWord (code7 c) fk ty aop sx hint off n → ok n = true ∧ k d b i c p n = m) : ReadsBack m := by
  obtain ⟨row, small⟩ := row
  have ⟨hd, hb, hi, _⟩ := operands
  have word := accessWord_aw off fits
  obtain ⟨ok_word, same⟩ := second _ word
  obtain ⟨ho, fd, fa, fb, fp, -⟩ := fields_w7 p small (code7_lt_of_reg hd) (code7_lt_of_reg hb) (code7_lt_of_reg hi)
  have reads := faAt_reads (k := k) ⟨fd, fa, fb, fp⟩ operands word.1 ok_word
  rw [same] at reads
  exact ⟨_, _, _, code, by rw [ho]; exact row, reads⟩

theorem readsBack_faNo {opc c fk ty aop sx hint : Nat} {off : BitVec 12} {ok : Nat → Bool} {k : Opd → Opd → Pr → Nat → Instr}
    {m : Instr} {b i : Opd} {p : Pr} (code : encode m = [w7 opc 0 (code7 b) (code7 i) p.val, aw c fk ty aop sx hint off])
    (row : InRow m opc (faNo ok k)) (fits : AccessFits c fk ty aop sx hint) (operands : isReg7 b = true ∧ isReg7 i = true)
    (second : ∀ n, AccessWord c fk ty aop sx hint off n → ok n = true ∧ k b i p n = m) : ReadsBack m := by
  obtain ⟨row, small⟩ := row
  have ⟨hb, hi⟩ := operands
  obtain ⟨ok_word, same⟩ := second _ (accessWord_aw off fits)
  obtain ⟨ho, fd, fa, fb, fp, -⟩ := fields_w7 p small (Nat.zero_lt_succ _) (code7_lt_of_reg hb) (code7_lt_of_reg hi)
  have reads := faNo_reads (k := k) ⟨fd, fa, fb, fp⟩ operands ok_word
  rw [same] at reads
  exact ⟨_, _, _, code, by rw [ho]; exact row, reads⟩

/-- The kinds of FENCE, in FK of the extension word (R207). -/
theorem faFence_reads {w : Nat} {x : W32} {p : Pr} {n : Nat} (fields : bits w 23 3 = 0 ∧ pOf w = p)
    (second : xC x.toNat = 0 ∧ xFK x.toNat = n ∧ bits x.toNat 22 0 = 0) (r : List W32) :
    (n = 0 → faFence w ([x] ++ r) = .ok (.fenceP p, r)) ∧ (n = 1 → faFence w ([x] ++ r) = .ok (.fenceH p, r)) ∧
      (n = 2 → faFence w ([x] ++ r) = .ok (.fenceA p, r)) := by
  obtain ⟨zero, rfl⟩ := fields
  obtain ⟨fc, fk, low⟩ := second
  refine ⟨?_, ?_, ?_⟩ <;> rintro rfl <;> simp [faFence, takeWord, need, zero, fc, fk, low]

/-- A first word of FENCE, SLEEP or GSYNC: its operand fields are 0. -/
theorem fields_w7_zero {opc : Nat} (p : Pr) (small : opc < 256) : opcOf (w7 opc 0 0 0 p.val).toNat = opc ∧
    bits (w7 opc 0 0 0 p.val).toNat 23 3 = 0 ∧ pOf (w7 opc 0 0 0 p.val).toNat = p := by
  obtain ⟨ho, fd, fa, fb, fp, -⟩ := fields_w7 (d := 0) (a := 0) (b := 0) p small (by decide) (by decide) (by decide)
  simp only [d7, a7, b7, bits_eq_div_mod] at fd fa fb
  refine ⟨ho, ?_, fp⟩
  rw [bits_eq_div_mod]
  omega

theorem fields_aw_fence {n : Nat} (hn : n < 4) : xC (aw 0 n 0 0 0 0 0).toNat = 0 ∧ xFK (aw 0 n 0 0 0 0 0).toNat = n ∧
    bits (aw 0 n 0 0 0 0 0).toNat 22 0 = 0 := by
  simp only [aw, word, BitVec.toNat_ofNat, xC, xFK, bits_eq_div_mod, BitVec.ofNat_eq_ofNat]
  omega

theorem readsBack_fences (p : Pr) : ReadsBack (.fenceP p) ∧ ReadsBack (.fenceH p) ∧ ReadsBack (.fenceA p) := by
  obtain ⟨ho, fields⟩ := fields_w7_zero (opc := 0x38) p (by decide)
  refine ⟨⟨_, _, faFence, rfl, by rw [ho]; rfl, fun r => ?_⟩, ⟨_, _, faFence, rfl, by rw [ho]; rfl, fun r => ?_⟩,
    ⟨_, _, faFence, rfl, by rw [ho]; rfl, fun r => ?_⟩⟩
  · exact (faFence_reads fields (fields_aw_fence (by decide)) r).1 rfl
  · exact (faFence_reads fields (fields_aw_fence (by decide)) r).2.1 rfl
  · exact (faFence_reads fields (fields_aw_fence (by decide)) r).2.2 rfl

theorem faSleep_reads {w : Nat} {p : Pr} (fields : bits w 23 3 = 0 ∧ pOf w = p) (r : List W32) :
    faSleep w ([word 0] ++ r) = .ok (.sleep p, r) := by
  obtain ⟨zero, rfl⟩ := fields
  simp [faSleep, takeWord, need, zero, word]

theorem readsBack_sleep (p : Pr) : ReadsBack (.sleep p) := by
  obtain ⟨ho, fields⟩ := fields_w7_zero (opc := 0x3a) p (by decide)
  exact ⟨_, _, faSleep, rfl, by rw [ho]; rfl, faSleep_reads fields⟩

/-! Class 4 (R76) -/

theorem fqDA_reads {k : Opd → Opd → Pr → Instr} {d a : Opd} {p : Pr} {w : Nat}
    (fields : d7 w = code7 d ∧ a7 w = code7 a ∧ b7 w = 0 ∧ pOf w = p) (operands : isReg7 d = true ∧ isSrc7 a = true) (r : List W32) :
    fqDA k w (litOf a ++ r) = .ok (k d a p, r) := by
  obtain ⟨fd, fa, fb, rfl⟩ := fields
  obtain ⟨hd, ha⟩ := operands
  simp only [fqDA, src7_of_code fa ha, reg7_of_code fd hd, need, fb, beq_self_eq_true, if_true]

theorem readsBack_fqDA {opc : Nat} {k : Opd → Opd → Pr → Instr} {d a : Opd} {p : Pr}
    (code : encode (k d a p) = eDA opc d a p) (row : InRow (k d a p) opc (fqDA k))
    (operands : isReg7 d = true ∧ isSrc7 a = true) : ReadsBack (k d a p) := by
  obtain ⟨row, small⟩ := row
  have ⟨hd, ha⟩ := operands
  obtain ⟨ho, fd, fa, fb, fp, -⟩ := fields_w7 p small (code7_lt_of_reg hd) (code7_lt_of_src ha) (Nat.zero_lt_succ _)
  exact ⟨_, _, _, code, by rw [ho]; exact row, fqDA_reads ⟨fd, fa, fb, fp⟩ operands⟩

theorem fqAB_reads {k : Opd → Opd → Pr → Instr} {a b : Opd} {p : Pr} {w : Nat}
    (fields : d7 w = 0 ∧ a7 w = code7 a ∧ b7 w = code7 b ∧ pOf w = p) (operands : isSrc7 a = true ∧ isSrc7 b = true) (r : List W32) :
    fqAB k w (litOf a ++ litOf b ++ r) = .ok (k a b p, r) := by
  obtain ⟨fd, fa, fb, rfl⟩ := fields
  obtain ⟨ha, hb⟩ := operands
  simp only [fqAB, List.append_assoc, src7_of_code fa ha, src7_of_code fb hb, need, fd, beq_self_eq_true, if_true]

theorem readsBack_fqAB {opc : Nat} {k : Opd → Opd → Pr → Instr} {a b : Opd} {p : Pr}
    (code : encode (k a b p) = eAB opc a b p) (row : InRow (k a b p) opc (fqAB k))
    (operands : isSrc7 a = true ∧ isSrc7 b = true) : ReadsBack (k a b p) := by
  obtain ⟨row, small⟩ := row
  have ⟨ha, hb⟩ := operands
  obtain ⟨ho, fd, fa, fb, fp, -⟩ := fields_w7 p small (Nat.zero_lt_succ _) (code7_lt_of_src ha) (code7_lt_of_src hb)
  exact ⟨_, _, _, code, by rw [ho]; exact row, fqAB_reads ⟨fd, fa, fb, fp⟩ operands⟩

theorem fqA_reads {k : Opd → Pr → Instr} {a : Opd} {p : Pr} {w : Nat}
    (fields : d7 w = 0 ∧ a7 w = code7 a ∧ b7 w = 0 ∧ pOf w = p) (ha : isSrc7 a = true) (r : List W32) :
    fqA k w (litOf a ++ r) = .ok (k a p, r) := by
  obtain ⟨fd, fa, fb, rfl⟩ := fields
  simp only [fqA, src7_of_code fa ha, need, fd, fb, beq_self_eq_true, Bool.and_self, if_true]

theorem readsBack_fqA {opc : Nat} {k : Opd → Pr → Instr} {a : Opd} {p : Pr}
    (code : encode (k a p) = w7 opc 0 (code7 a) 0 p.val :: litOf a) (row : InRow (k a p) opc (fqA k)) (ha : isSrc7 a = true) :
    ReadsBack (k a p) := by
  obtain ⟨row, small⟩ := row
  obtain ⟨ho, fd, fa, fb, fp, -⟩ := fields_w7 p small (Nat.zero_lt_succ _) (code7_lt_of_src ha) (Nat.zero_lt_succ _)
  exact ⟨_, _, _, code, by rw [ho]; exact row, fqA_reads ⟨fd, fa, fb, fp⟩ ha⟩

theorem fqBtest_reads {t : Pr} {a b : Opd} {p : Pr} {w : Nat}
    (fields : d7 w = t.val ∧ a7 w = code7 a ∧ b7 w = code7 b ∧ pOf w = p) (operands : isSrc7 a = true ∧ isSrc7 b = true)
    (r : List W32) : fqBtest w (litOf a ++ litOf b ++ r) = .ok (.btest t a b p, r) := by
  obtain ⟨fd, fa, fb, rfl⟩ := fields
  obtain ⟨ha, hb⟩ := operands
  have := t.isLt
  simp only [d7, bits_eq_div_mod] at fd
  have zero : bits w 23 20 = 0 := by
    rw [bits_eq_div_mod]
    omega
  have target : prOf (bits w 19 17) = t := by
    simp only [prOf, bits_eq_div_mod, Fin.ext_iff]
    omega
  simp only [fqBtest, List.append_assoc, src7_of_code fa ha, src7_of_code fb hb, need, zero, target, beq_self_eq_true, if_true]

theorem readsBack_btest {t : Pr} {a b : Opd} {p : Pr} (operands : isSrc7 a = true ∧ isSrc7 b = true) : ReadsBack (.btest t a b p) := by
  have ⟨ha, hb⟩ := operands
  obtain ⟨ho, fd, fa, fb, fp, -⟩ := fields_w7 (opc := 0x0d) p (by decide) (pr_lt t) (code7_lt_of_src ha) (code7_lt_of_src hb)
  exact ⟨_, _, fqBtest, rfl, by rw [ho]; rfl, fqBtest_reads ⟨fd, fa, fb, fp⟩ operands⟩

theorem readsBack_gsync (p : Pr) : ReadsBack (.gsync p) := by
  obtain ⟨ho, zero, fp⟩ := fields_w7_zero (opc := 0x0e) p (by decide)
  refine ⟨_, _, fqGsync, rfl, by rw [ho]; rfl, fun r => ?_⟩
  simp [fqGsync, need, zero, fp]

/-! Class 5 and class 6 (R66, R77, R78) -/

theorem used_reads {u : Bool} {c : Nat} {o : Opd} (hc : c = fieldCode u o) (h : uSrc o = true) (r : List W32) :
    src6 (if u then c else 48) (litOf (used u o) ++ r) = .ok (used u o, r) := by
  cases u with
  | true => exact src6_of_code hc h r
  | false => rfl

theorem fieldCode_lt {o : Opd} (u : Bool) (h : uSrc o = true) : fieldCode u o < 64 := by
  cases u with
  | true => exact code6_lt_of_src h
  | false => exact Nat.zero_lt_succ _

/-- A field that a form does not use holds 0. -/
theorem used_or_zero (u : Bool) (o : Opd) : (u || fieldCode u o == 0) = true := by
  cases u <;> rfl

theorem fm_reads {uD uA uB uC uE : Bool} {ok : Nat → Bool} {k : Opd → Opd → Opd → Opd → Opd → Pr → Nat → Instr} {d a b c e : Opd}
    {p : Pr} {w : Nat} {x : W32}
    (fields : d6 w = fieldCode uD d ∧ a6 w = fieldCode uA a ∧ b6 w = fieldCode uB b ∧ bpOf w = p ∧ bits w 2 0 = 0)
    (second : yC x.toNat = fieldCode uC c ∧ yE x.toNat = fieldCode uE e)
    (operands : uSrc a = true ∧ uSrc b = true ∧ uSrc c = true ∧ uSrc e = true) (fits : ok x.toNat = true) (r : List W32) :
    fm uD uA uB uC uE ok k w (x :: (litOf (used uA a) ++ litOf (used uB b) ++ litOf (used uC c) ++ litOf (used uE e)) ++ r) =
      .ok (k (reg6 (d6 w)) (used uA a) (used uB b) (used uC c) (used uE e) p x.toNat, r) := by
  obtain ⟨fd, fa, fb, rfl, low⟩ := fields
  obtain ⟨fc, fe⟩ := second
  obtain ⟨ha, hb, hc, he⟩ := operands
  simp only [fm, takeWord, List.cons_append, List.append_assoc, used_reads fa ha, used_reads fb hb, used_reads fc hc, used_reads fe he]
  simp only [need, low, fd, fa, fb, fc, fe, fits, used_or_zero, beq_self_eq_true, Bool.and_self, if_true]

/-- A form of class 5 or 6 reads back when its extension word holds the fields that it uses. -/
theorem readsBack_fm {opc : Nat} {uD uA uB uC uE : Bool} {ok : Nat → Bool} {k : Opd → Opd → Opd → Opd → Opd → Pr → Nat → Instr}
    {i : Instr} {d a b c e : Opd} {p : Pr} {x : W32} {l : List W32}
    (row : InRow i opc (fm uD uA uB uC uE ok k))
    (code : encode i = w6 opc (fieldCode uD d) (fieldCode uA a) (fieldCode uB b) p.val :: x :: l)
    (words : l = litOf (used uA a) ++ litOf (used uB b) ++ litOf (used uC c) ++ litOf (used uE e))
    (operands : isReg6 d = true ∧ uSrc a = true ∧ uSrc b = true ∧ uSrc c = true ∧ uSrc e = true)
    (second : yC x.toNat = fieldCode uC c ∧ yE x.toNat = fieldCode uE e ∧ ok x.toNat = true ∧
      ∀ d', (uD = true → d' = d) → k d' (used uA a) (used uB b) (used uC c) (used uE e) p x.toNat = i) : ReadsBack i := by
  obtain ⟨row, small⟩ := row
  obtain ⟨hd, sources⟩ := operands
  have ⟨ha, hb, _, _⟩ := sources
  obtain ⟨fc, fe, fits, same⟩ := second
  obtain ⟨ho, fields⟩ := fields_w6 p small (fieldCode_lt uD (uSrc_of_reg hd)) (fieldCode_lt uA ha) (fieldCode_lt uB hb)
  refine ⟨_, _, _, code, by rw [ho]; exact row, fun r => ?_⟩
  rw [words, fm_reads fields ⟨fc, fe⟩ sources fits, same]
  rintro rfl
  exact reg6_of_code fields.1 hd

theorem readsBack_mw {opc : Nat} {uD uA uB uC uE : Bool} {ok : Nat → Bool} {k : Opd → Opd → Opd → Opd → Opd → Pr → Nat → Instr}
    {i : Instr} {d a b c e : Opd} {p : Pr} {mode : BitVec 12} {imm : W8} {l : List W32}
    (row : InRow i opc (fm uD uA uB uC uE ok k))
    (code : encode i = w6 opc (fieldCode uD d) (fieldCode uA a) (fieldCode uB b) p.val ::
      mw (fieldCode uC c) (fieldCode uE e) mode imm :: l)
    (words : l = litOf (used uA a) ++ litOf (used uB b) ++ litOf (used uC c) ++ litOf (used uE e))
    (operands : isReg6 d = true ∧ uSrc a = true ∧ uSrc b = true ∧ uSrc c = true ∧ uSrc e = true)
    (second : ∀ n, mMODE n = mode → mIMM n = imm → ok n = true ∧
      ∀ d', (uD = true → d' = d) → k d' (used uA a) (used uB b) (used uC c) (used uE e) p n = i) : ReadsBack i := by
  have ⟨_, _, _, hc, he⟩ := operands
  obtain ⟨fc, fe, fmode, fi⟩ := fields_mw mode imm (fieldCode_lt uC hc) (fieldCode_lt uE he)
  exact readsBack_fm row code words operands ⟨fc, fe, second _ fmode fi⟩

theorem readsBack_yw {opc : Nat} {uD uA uB uC uE : Bool} {ok : Nat → Bool} {k : Opd → Opd → Opd → Opd → Opd → Pr → Nat → Instr}
    {i : Instr} {d a b c e : Opd} {p : Pr} {eq : BitVec 3} {mode : Nat} {l : List W32}
    (row : InRow i opc (fm uD uA uB uC uE ok k))
    (code : encode i = w6 opc (fieldCode uD d) (fieldCode uA a) (fieldCode uB b) p.val ::
      yw (fieldCode uC c) (fieldCode uE e) eq.toNat mode :: l)
    (fits : mode < 2 ^ 17)
    (words : l = litOf (used uA a) ++ litOf (used uB b) ++ litOf (used uC c) ++ litOf (used uE e))
    (operands : isReg6 d = true ∧ uSrc a = true ∧ uSrc b = true ∧ uSrc c = true ∧ uSrc e = true)
    (second : ∀ n, yEQ n = eq → bits n 16 0 = mode → ok n = true ∧
      ∀ d', (uD = true → d' = d) → k d' (used uA a) (used uB b) (used uC c) (used uE e) p n = i) : ReadsBack i := by
  have ⟨_, _, _, hc, he⟩ := operands
  obtain ⟨fc, fe, feq, fmode⟩ := fields_yw eq (fieldCode_lt uC hc) (fieldCode_lt uE he) fits
  exact readsBack_fm row code words operands ⟨fc, fe, second _ feq fmode⟩

/-- FY, XFM and DRAIN are forms of class 6 with their own reading of MODE (R66, R336, R340). -/
theorem fy_eq (k : Opd → Opd → Opd → Opd → Opd → BitVec 3 → BitVec 17 → Pr → Instr) : fy k =
    fm true true true true true (fun _ => true) (fun d a b c e p x => k d a b c e (yEQ x) (yMODE x) p) := rfl

/-- The transform that an extension word names. -/
def xfmAt (d a b c e : Opd) (p : Pr) (x : Nat) : Instr :=
  ((xfmOf (bits x 10 6)).map fun k => k d a b c e (yEQ x) (BitVec.ofNat 6 (bits x 5 0)) (BitVec.ofNat 6 (bits x 16 11)) p).getD (.nop p)

theorem fyXfm_eq : fyXfm = fm true true true true true (fun x => (xfmOf (bits x 10 6)).isSome) xfmAt := by
  have named : (fun d a b c e p x => match xfmOf (bits x 10 6) with
      | some k => k d a b c e (yEQ x) (BitVec.ofNat 6 (bits x 5 0)) (BitVec.ofNat 6 (bits x 16 11)) p
      | none => .nop p) = xfmAt := by
    funext d a b c e p x
    unfold xfmAt
    cases xfmOf (bits x 10 6) <;> rfl
  exact congrArg (fm true true true true true (fun x => (xfmOf (bits x 10 6)).isSome)) named

theorem readsBack_fy {opc : Nat} {k : Opd → Opd → Opd → Opd → Opd → BitVec 3 → BitVec 17 → Pr → Instr} {d a b c e : Opd}
    {eq : BitVec 3} {mode : BitVec 17} {p : Pr} (code : encode (k d a b c e eq mode p) = eY opc d a b c e eq mode.toNat p)
    (row : InRow (k d a b c e eq mode p) opc (fy k))
    (operands : isReg6 d = true ∧ uSrc a = true ∧ uSrc b = true ∧ uSrc c = true ∧ uSrc e = true) :
    ReadsBack (k d a b c e eq mode p) := by
  refine readsBack_yw (uD := true) (uA := true) (uB := true) (uC := true) (uE := true) (fy_eq k ▸ row) code mode.isLt rfl operands
    fun n heq hmode => ⟨rfl, fun d' hd => ?_⟩
  rw [hd rfl, heq, yMODE, hmode, BitVec.ofNat_toNat, BitVec.setWidth_eq]
  rfl

theorem readsBack_xfm {xop : Nat} {k : Opd → Opd → Opd → Opd → Opd → BitVec 3 → BitVec 6 → BitVec 6 → Pr → Instr} {d a b c e : Opd}
    {eq : BitVec 3} {lo hi : BitVec 6} {p : Pr} (hk : xfmOf xop = some k)
    (operands : isReg6 d = true ∧ uSrc a = true ∧ uSrc b = true ∧ uSrc c = true ∧ uSrc e = true) :
    ReadsBack (k d a b c e eq lo hi p) := by
  obtain ⟨code, cls⟩ := encode_xfmOf hk d a b c e eq lo hi p
  have small : xop < 8 := by
    unfold xfmOf at hk
    split at hk
    case h_9 => cases hk
    all_goals decide
  have := lo.isLt
  have := hi.isLt
  refine readsBack_yw (uD := true) (uA := true) (uB := true) (uC := true) (uE := true)
    ⟨by rw [cls, ← fyXfm_eq]; rfl, by decide⟩ code (by omega) rfl operands fun n heq hmode => ?_
  simp only [bits_eq_div_mod] at hmode
  have fop : bits n 10 6 = xop := by
    rw [bits_eq_div_mod]
    omega
  have flo : BitVec.ofNat 6 (bits n 5 0) = lo := by
    simp only [bits_eq_div_mod, ← BitVec.toNat_inj, BitVec.toNat_ofNat]
    omega
  have fhi : BitVec.ofNat 6 (bits n 16 11) = hi := by
    simp only [bits_eq_div_mod, ← BitVec.toNat_inj, BitVec.toNat_ofNat]
    omega
  refine ⟨by rw [fop, hk]; rfl, fun d' hd => ?_⟩
  simp only [xfmAt, fop, hk, heq, flo, fhi, hd, used, if_true, Option.map_some, Option.getD_some]

theorem fields_word_drain {n : Nat} (hn : n < 3) : yC (word n).toNat = 0 ∧ yE (word n).toNat = 0 ∧ bits (word n).toNat 19 2 = 0 ∧
    bits (word n).toNat 1 0 = n := by
  simp only [word, BitVec.toNat_ofNat, yC, yE, bits_eq_div_mod]
  omega

/-- The paths that DRAIN names, in MODE of its extension word (R336). -/
def drainOf : Nat → Pr → Instr
  | 0 => .drainScr
  | 1 => .drainL1
  | _ => .drainMem

theorem fyDrain_eq : fyDrain = fm false false false false false (fun x => bits x 19 2 == 0 && bits x 1 0 != 3)
    (fun _ _ _ _ _ p x => drainOf (bits x 1 0) p) := by
  have named : (fun (_ _ _ _ _ : Opd) p x => match bits x 1 0 with
      | 0 => .drainScr p
      | 1 => .drainL1 p
      | _ => .drainMem p) = (fun _ _ _ _ _ p x => drainOf (bits x 1 0) p) := by
    funext d a b c e p x
    generalize bits x 1 0 = n
    match n with
    | 0 | 1 | _ + 2 => rfl
  exact congrArg (fm false false false false false (fun x => bits x 19 2 == 0 && bits x 1 0 != 3)) named

theorem readsBack_drain {n : Nat} {p : Pr} (hn : n < 3) : ReadsBack (drainOf n p) := by
  obtain ⟨fc, fe, high, low⟩ := fields_word_drain hn
  have table : encode (drainOf n p) = [w6 0x0d 0 0 0 p.val, word n] ∧ classOf (drainOf n p) = 6 := by
    match n, hn with
    | 0, _ | 1, _ | 2, _ => exact ⟨rfl, rfl⟩
  obtain ⟨code, cls⟩ := table
  refine readsBack_fm (uD := false) (uA := false) (uB := false) (uC := false) (uE := false) (d := .zero) (a := .zero) (b := .zero)
    (c := .zero) (e := .zero) ⟨by rw [cls, ← fyDrain_eq]; rfl, by decide⟩ code rfl (by decide) ⟨fc, fe, ?_, fun _ _ => ?_⟩
  · rw [high, low]
    simpa using (Nat.ne_of_lt hn)
  · rw [low]

end Sys2Proof
end

section
/-! PROOFS of the round trip: the operands of well-formed instructions are readable, and every one of them reads back (R53 to R79). -/

namespace Sys2Proof
open Machine

/-! What the operand rules accept, a field reads back -/

theorem isSrc7_of_okSrc7 {t : STy} {o : Opd} (h : okSrc7 t o = true) : isSrc7 o = true := by
  cases o with
  | mask x => exact absurd h Bool.false_ne_true
  | bad c => exact absurd h Bool.false_ne_true
  | _ => rfl

theorem isDst7_of_okDst7 {n : Nat} {o : Opd} (h : okDst7 n o = true) : isDst7 o = true := by
  cases o with
  | lit x => exact absurd h Bool.false_ne_true
  | bad c => exact absurd h Bool.false_ne_true
  | _ => rfl

theorem isSrc7_of_stSrc {t : STy} {o : Opd} (h : stSrc t o = true) : isSrc7 o = true := by
  cases o with
  | q n => exact absurd h Bool.false_ne_true
  | _ => exact isSrc7_of_okSrc7 (t := t) h

theorem isSrc7_of_uniVal {o : Opd} (h : uniVal o = true) : isSrc7 o = true := by
  cases o <;> simp_all [uniVal, isSrc7]

theorem isReg7_of_ldDst {n : Nat} {o : Opd} (h : ldDst n o = true) : isReg7 o = true := by
  cases o <;> simp_all [ldDst, isReg7]

theorem isReg7_of_baseOk {pair : Bool} {o : Opd} (h : baseOk pair o = true) : isReg7 o = true := by
  cases o <;> simp_all [baseOk, isReg7]

theorem isReg7_of_idxOk {o : Opd} (h : idxOk o = true) : isReg7 o = true := by
  cases o <;> simp_all [idxOk, isReg7]

theorem isReg7_of_reg6 {o : Opd} (h : isReg6 o = true) : isReg7 o = true := by
  cases o <;> simp_all [isReg6, isReg7]

theorem isReg6_of_isW {o : Opd} (h : isW o = true) : isReg6 o = true := by
  cases o <;> simp_all [isW, isReg6]

theorem isReg6_of_evenW {o : Opd} (h : evenW o = true) : isReg6 o = true := by
  cases o <;> simp_all [evenW, isReg6]

theorem isReg6_of_quadW {o : Opd} (h : quadW o = true) : isReg6 o = true := by
  cases o <;> simp_all [quadW, isReg6]

theorem isReg6_of_wUpTo {m : Nat} {o : Opd} (h : wUpTo m o = true) : isReg6 o = true := by
  cases o <;> simp_all [wUpTo, isReg6]

theorem isReg6_of_wOrZero {o : Opd} (h : wOrZero o = true) : isReg6 o = true := by
  cases o <;> simp_all [wOrZero, isReg6]

theorem isReg6_of_uDst {o : Opd} (h : uDst o = true) : isReg6 o = true := by
  cases o <;> simp_all [uDst, isReg6]

theorem isReg6_of_uDst64 {o : Opd} (h : uDst64 o = true) : isReg6 o = true := by
  cases o <;> simp_all [uDst64, isReg6]

theorem uSrc_of_uSrc64 {o : Opd} (h : uSrc64 o = true) : uSrc o = true := by
  cases o <;> simp_all [uSrc64, uSrc]

theorem uSrc_of_sysVal {o : Opd} (h : sysVal o = true) : uSrc o = true := by
  cases o <;> simp_all [sysVal, uSrc]

theorem uSrc_of_tagOk {o : Opd} (h : tagOk o = true) : uSrc o = true := by
  cases o <;> simp_all [tagOk, uSrc]

theorem uSrc_of_isW {o : Opd} (h : isW o = true) : uSrc o = true := uSrc_of_reg (isReg6_of_isW h)
theorem uSrc_of_evenW {o : Opd} (h : evenW o = true) : uSrc o = true := uSrc_of_reg (isReg6_of_evenW h)
theorem uSrc_of_quadW {o : Opd} (h : quadW o = true) : uSrc o = true := uSrc_of_reg (isReg6_of_quadW h)
theorem uSrc_of_wUpTo {m : Nat} {o : Opd} (h : wUpTo m o = true) : uSrc o = true := uSrc_of_reg (isReg6_of_wUpTo h)
theorem uSrc_of_wOrZero {o : Opd} (h : wOrZero o = true) : uSrc o = true := uSrc_of_reg (isReg6_of_wOrZero h)

/-! What a well-formed instruction's checks say (R53) -/

theorem checks_of_wellFormed_lane {i : Instr} {f : LaneForm} (hf : laneForm i = some f) (hw : wellFormed i = true) :
    fxOk i = true ∧ f.ok = true ∧ exchangeOk i = true := by
  by_cases modifiers : (fxOk i && modeOk i && maskOk i) = true
  · by_cases operands : (f.ok && exchangeOk i) = true
    · simp only [Bool.and_eq_true] at modifiers operands
      exact ⟨modifiers.1.1, operands⟩
    · simp [wellFormed, ill, modifiers, hf, operands] at hw
  · simp [wellFormed, ill, modifiers] at hw

theorem opdOk_of_wellFormed {i : Instr} (hf : laneForm i = none) (hw : wellFormed i = true) : opdOk i = true := by
  by_cases modifiers : (fxOk i && modeOk i && maskOk i) = true
  · by_cases operands : opdOk i = true
    · exact operands
    · simp [wellFormed, ill, modifiers, hf, operands] at hw
  · simp [wellFormed, ill, modifiers] at hw

/-- The destination and the sources of a class 0 or class 3 instruction. -/
def LaneOpds (i : Instr) (d : Opd) (os : List Opd) : Prop :=
  ∃ f, laneForm i = some f ∧ f.d = d ∧ f.srcs.map Prod.snd = os

theorem lane_operands {i : Instr} {d : Opd} {os : List Opd} (h : LaneOpds i d os) (hw : wellFormed i = true) :
    isDst7 d = true ∧ ∀ o ∈ os, isSrc7 o = true := by
  obtain ⟨f, hf, rfl, rfl⟩ := h
  obtain ⟨-, ok, -⟩ := checks_of_wellFormed_lane hf hw
  simp only [LaneForm.ok, LaneForm.dstOk, Bool.and_eq_true, List.all_eq_true] at ok
  obtain ⟨⟨⟨dst, -⟩, srcs⟩, -⟩ := ok
  refine ⟨isDst7_of_okDst7 dst, fun o ho => ?_⟩
  obtain ⟨s, hs, rfl⟩ := List.mem_map.1 ho
  exact isSrc7_of_okSrc7 (srcs s hs)

theorem lane1_operands {i : Instr} {d a : Opd} (h : LaneOpds i d [a]) (hw : wellFormed i = true) :
    isDst7 d = true ∧ isSrc7 a = true := by
  simpa using lane_operands h hw

theorem lane2_operands {i : Instr} {d a b : Opd} (h : LaneOpds i d [a, b]) (hw : wellFormed i = true) :
    isDst7 d = true ∧ isSrc7 a = true ∧ isSrc7 b = true := by
  simpa using lane_operands h hw

theorem lane3_operands {i : Instr} {d a b c : Opd} (h : LaneOpds i d [a, b, c]) (hw : wellFormed i = true) :
    isDst7 d = true ∧ isSrc7 a = true ∧ isSrc7 b = true ∧ isSrc7 c = true := by
  simpa using lane_operands h hw

/-- BFX with the field in the instruction names no B: it is the constant zero (R230). -/
theorem bfx_operands {i : Instr} {d a b : Opd} {p : Pr} {x : Fx}
    (hf : laneForm i = some (if x.sel 0 0 = 1 then lane1 .i32 d a p else lane2 .i32 d a b p))
    (hx : fxOk i = (x.plain && x.sel 5 1 == 0 &&
      (if x.sel 0 0 = 1 then x.i 11 11 == 0 && x.i 10 5 ≤ 32 && b == .zero else x.imm == 0)))
    (hw : wellFormed i = true) : isDst7 d = true ∧ isSrc7 a = true ∧ isSrc7 b = true := by
  obtain ⟨fx, -, -⟩ := checks_of_wellFormed_lane hf hw
  by_cases field : x.sel 0 0 = 1
  · rw [if_pos field] at hf
    rw [hx, if_pos field] at fx
    simp only [Bool.and_eq_true, beq_iff_eq] at fx
    obtain ⟨-, -, rfl⟩ := fx
    obtain ⟨hd, ha⟩ := lane1_operands ⟨_, hf, rfl, rfl⟩ hw
    exact ⟨hd, ha, rfl⟩
  · rw [if_neg field] at hf
    exact lane2_operands ⟨_, hf, rfl, rfl⟩ hw

theorem bfi_operands {d a b c : Opd} {p : Pr} {x : Fx} (hw : wellFormed (.bfi d a b c p x) = true) :
    isDst7 d = true ∧ isSrc7 a = true ∧ isSrc7 b = true ∧ isSrc7 c = true := by
  have hf : laneForm (.bfi d a b c p x) = some (if x.sel 0 0 = 1 then lane2 .i32 d a c p else lane3 .i32 d a b c p) := rfl
  obtain ⟨fx, -, -⟩ := checks_of_wellFormed_lane hf hw
  by_cases field : x.sel 0 0 = 1
  · rw [if_pos field] at hf
    simp only [fxOk, field, if_true, Bool.and_eq_true, beq_iff_eq] at fx
    obtain ⟨-, -, rfl⟩ := fx
    obtain ⟨hd, ha, hc⟩ := lane2_operands ⟨_, hf, rfl, rfl⟩ hw
    exact ⟨hd, ha, rfl, hc⟩
  · rw [if_neg field] at hf
    exact lane3_operands ⟨_, hf, rfl, rfl⟩ hw

/-- BSEL by a sign names no C: it is v0 (R229). -/
theorem bsel_operands {d a b c : Opd} {p : Pr} {x : Fx} (hw : wellFormed (.bsel d a b c p x) = true) :
    isDst7 d = true ∧ isSrc7 a = true ∧ isSrc7 b = true ∧ isSrc7 c = true := by
  have hf : laneForm (.bsel d a b c p x) = some (if x.sel 0 0 = 1 then lane2 .i32 d a b p else lane3 .i32 d a b c p) := rfl
  obtain ⟨fx, -, -⟩ := checks_of_wellFormed_lane hf hw
  by_cases sign : x.sel 0 0 = 1
  · rw [if_pos sign] at hf
    simp only [fxOk, sign, if_true, Bool.and_eq_true, beq_iff_eq] at fx
    obtain ⟨-, -, rfl⟩ := fx
    obtain ⟨hd, ha, hb⟩ := lane2_operands ⟨_, hf, rfl, rfl⟩ hw
    exact ⟨hd, ha, hb, rfl⟩
  · rw [if_neg sign] at hf
    exact lane3_operands ⟨_, hf, rfl, rfl⟩ hw

theorem mov_operands {d a : Opd} {width : BitVec 7} {p : Pr} (hw : wellFormed (.mov d a width p) = true) :
    isDst7 d = true ∧ isSrc7 a = true := by
  refine lane1_operands ⟨_, rfl, ?_, ?_⟩ hw <;> split <;> rfl

theorem cvt_operands {d a : Opd} {p : Pr} {x : Fx} (hw : wellFormed (.cvt d a p x) = true) :
    isDst7 d = true ∧ isSrc7 a = true := by
  refine lane1_operands ?_ hw
  unfold LaneOpds
  simp only [laneForm]
  split <;> exact ⟨_, rfl, rfl, rfl⟩

end Sys2Proof
end

section
/-! PROOFS of the round trip: every well-formed instruction of each class reads back (R53 to R79). -/

namespace Sys2Proof
open Machine

theorem readsBack_class0 {i : Instr} (hc : classOf i = 0) (hw : wellFormed i = true) : ReadsBack i := by
  cases i
  case iadd | isub | iaddc | imul | imulhI | imulhN | iminI | iminN | imaxI | imaxN | andB | orB | xorB | andn | shl | shr | asr | rol |
      sel | iadd64 | isub64 | shl64 | shr64 | fadd | fsub | fmul | fmin | fmax | fdiv | fscale | dadd | dmul =>
    exact readsBack_f3 rfl ⟨rfl, by decide⟩ (lane2_operands ⟨_, rfl, rfl, rfl⟩ hw)
  case iabs | ineg | notB | popc | clz | brev | pmov | fneg | fabs | frcp | frsq | fsqrt | fex2 | flg2 | fsin | fcos =>
    exact readsBack_f3u rfl ⟨rfl, by decide⟩ (lane1_operands ⟨_, rfl, rfl, rfl⟩ hw)
  case imac | imacw | fshf | ffma | duofma | dfma | dot4 | dot8 =>
    exact readsBack_fx3 rfl ⟨rfl, by decide⟩ (lane3_operands ⟨_, rfl, rfl, rfl⟩ hw)
  case icmpI | icmpN | lea | fcmp | duoadd | duomul | dcmp | pack =>
    exact readsBack_fx2 rfl ⟨rfl, by decide⟩ (lane2_operands ⟨_, rfl, rfl, rfl⟩ hw)
  case bfxI | bfxN => exact readsBack_fx2 rfl ⟨rfl, by decide⟩ (bfx_operands rfl rfl hw)
  case bfi => exact readsBack_fx3 rfl ⟨rfl, by decide⟩ (bfi_operands hw)
  case bsel => exact readsBack_fx3 rfl ⟨rfl, by decide⟩ (bsel_operands hw)
  case mov => exact readsBack_mov (mov_operands hw)
  case plog => exact readsBack_plog
  case cvt => exact readsBack_fx1 rfl ⟨by rw [classOf_cvt]; rfl, by decide⟩ (cvt_operands hw)
  case unpk => exact readsBack_fx1 rfl ⟨rfl, by decide⟩ (lane1_operands ⟨_, rfl, rfl, rfl⟩ hw)
  all_goals cases hc

theorem readsBack_class3 {i : Instr} (hc : classOf i = 3) (hw : wellFormed i = true) : ReadsBack i := by
  cases i
  case cvt => rw [classOf_cvt] at hc; cases hc
  case poll => exact readsBack_poll (lane_operands ⟨_, rfl, rfl, rfl⟩ hw).1
  case ballot | bcast | rots => exact readsBack_f3 rfl ⟨rfl, by decide⟩ (lane2_operands ⟨_, rfl, rfl, rfl⟩ hw)
  case xget | xput => exact readsBack_f3x rfl ⟨rfl, by decide⟩ (lane2_operands ⟨_, rfl, rfl, rfl⟩ hw)
  case matchX => exact readsBack_f3u rfl ⟨rfl, by decide⟩ (lane1_operands ⟨_, rfl, rfl, rfl⟩ hw)
  case pick => exact readsBack_fx3 rfl ⟨rfl, by decide⟩ (lane3_operands ⟨_, rfl, rfl, rfl⟩ hw)
  case redX | scan => exact readsBack_fx1 rfl ⟨rfl, by decide⟩ (lane1_operands ⟨_, rfl, rfl, rfl⟩ hw)
  all_goals cases hc

/-! Classes other than 0 and 3: the operand rules of an instruction, one for each operand. -/

theorem opds2 {i : Instr} {a b : Opd} {A B A' B' : Opd → Bool} (hw : wellFormed i = true) (hf : laneForm i = none)
    (rule : opdOk i = (A a && B b)) (hA : ∀ {o}, A o = true → A' o = true) (hB : ∀ {o}, B o = true → B' o = true) :
    A' a = true ∧ B' b = true := by
  have ok := opdOk_of_wellFormed hf hw
  simp only [rule, Bool.and_eq_true] at ok
  obtain ⟨ha, hb⟩ := ok
  exact ⟨hA ha, hB hb⟩

theorem opds3 {i : Instr} {a b c : Opd} {A B C A' B' C' : Opd → Bool} (hw : wellFormed i = true) (hf : laneForm i = none)
    (rule : opdOk i = (A a && B b && C c)) (hA : ∀ {o}, A o = true → A' o = true) (hB : ∀ {o}, B o = true → B' o = true)
    (hC : ∀ {o}, C o = true → C' o = true) : A' a = true ∧ B' b = true ∧ C' c = true := by
  have ok := opdOk_of_wellFormed hf hw
  simp only [rule, Bool.and_eq_true] at ok
  obtain ⟨⟨ha, hb⟩, hc⟩ := ok
  exact ⟨hA ha, hB hb, hC hc⟩

theorem readsBack_class1 {i : Instr} (hc : classOf i = 1) (hw : wellFormed i = true) : ReadsBack i := by
  cases i
  case cvt => rw [classOf_cvt] at hc; cases hc
  case nop | ret | rjoin | exit | yield => exact readsBack_fu0 rfl ⟨rfl, by decide⟩
  case bra | brc | brd | loop => exact readsBack_fb rfl ⟨rfl, by decide⟩
  case call => exact readsBack_call
  case brx => exact readsBack_brx (uSrc_of_evenW (opdOk_of_wellFormed rfl hw))
  case trap | cue => exact readsBack_fuK rfl ⟨rfl, by decide⟩
  case wait => exact readsBack_wait
  case rett => exact readsBack_rett
  case wmov | wpopc => exact readsBack_fu2 rfl ⟨rfl, by decide⟩ (opds2 hw rfl rfl isReg6_of_uDst id)
  case wli => exact readsBack_wli (isReg6_of_uDst64 (opdOk_of_wellFormed rfl hw))
  case wadd | wsub | wmul | wand | wor | wxor | wshl | wshr | wasr | wmin | wmax | wsel =>
    exact readsBack_fu3 rfl ⟨rfl, by decide⟩ (opds3 hw rfl rfl isReg6_of_uDst id id)
  case wadd64 => exact readsBack_fu3 rfl ⟨rfl, by decide⟩ (opds3 hw rfl rfl isReg6_of_uDst64 uSrc_of_uSrc64 uSrc_of_uSrc64)
  case wcmp => exact readsBack_wcmp (opds2 hw rfl rfl id id)
  case wrs d n p =>
    have ok : (n.toNat ≤ 0x16 && (if spr64 n.toNat then uDst64 d else uDst d)) = true := opdOk_of_wellFormed rfl hw
    refine readsBack_wrs ?_
    cases wide : spr64 n.toNat with
    | true =>
      simp only [wide, if_true, Bool.and_eq_true] at ok
      exact isReg6_of_uDst64 ok.2
    | false =>
      simp only [wide, Bool.false_eq_true, if_false, Bool.and_eq_true] at ok
      exact isReg6_of_uDst ok.2
  case wws n a p =>
    have ok : ((n.toNat == 0x13 && uSrc a) || ((n.toNat == 0x14 || n.toNat == 0x15) && uSrc64 a)) = true := opdOk_of_wellFormed rfl hw
    simp only [Bool.or_eq_true, Bool.and_eq_true] at ok
    obtain ⟨-, word⟩ | ⟨-, wide⟩ := ok
    · exact readsBack_wws word
    · exact readsBack_wws (uSrc_of_uSrc64 wide)
  all_goals cases hc

theorem readsBack_class7 {i : Instr} (hc : classOf i = 7) (hw : wellFormed i = true) : ReadsBack i := by
  cases i
  case cvt => rw [classOf_cvt] at hc; cases hc
  case trig | halt => exact readsBack_fu0 rfl ⟨rfl, by decide⟩
  case svc | hinv => exact readsBack_fu3 rfl ⟨rfl, by decide⟩ (opds3 hw rfl rfl isReg6_of_wOrZero uSrc_of_evenW uSrc_of_sysVal)
  case cntc => exact readsBack_fu3 rfl ⟨rfl, by decide⟩ (opds3 hw rfl rfl isReg6_of_wOrZero uSrc_of_sysVal uSrc_of_sysVal)
  case pkw => exact readsBack_fu3 rfl ⟨rfl, by decide⟩ (opds3 hw rfl rfl isReg6_of_wOrZero uSrc_of_isW uSrc_of_sysVal)
  case dtw => exact readsBack_fu3 rfl ⟨rfl, by decide⟩ (opds3 hw rfl rfl isReg6_of_wOrZero uSrc_of_quadW uSrc_of_sysVal)
  case ctxs => exact readsBack_fu3 rfl ⟨rfl, by decide⟩ (opds3 hw rfl rfl isReg6_of_isW uSrc_of_evenW uSrc_of_isW)
  case cntr => exact readsBack_fu2 rfl ⟨rfl, by decide⟩ (opds2 hw rfl rfl isReg6_of_evenW uSrc_of_sysVal)
  case watch => exact readsBack_fu2 rfl ⟨rfl, by decide⟩ (opds2 hw rfl rfl isReg6_of_wOrZero uSrc_of_evenW)
  case ctxr => exact readsBack_fu2 rfl ⟨rfl, by decide⟩ (opds2 hw rfl rfl isReg6_of_isW uSrc_of_evenW)
  case spwtWait => exact readsBack_spwt (n := 0) (by decide) (opds2 hw rfl rfl isReg6_of_wOrZero uSrc_of_wOrZero)
  case spwtSubmit => exact readsBack_spwt (n := 1) (by decide) (opds2 hw rfl rfl isReg6_of_evenW uSrc_of_quadW)
  case spwtReply => exact readsBack_spwt (n := 2) (by decide) (opds2 hw rfl rfl isReg6_of_wOrZero uSrc_of_quadW)
  case spwtKill => exact readsBack_spwt (n := 3) (by decide) (opds2 hw rfl rfl isReg6_of_wOrZero uSrc_of_isW)
  all_goals cases hc

end Sys2Proof
end

section
/-! PROOFS of the round trip: the well-formed instructions of the classes with an extension word (R61, R66, R73, R76 to R78). -/

namespace Sys2Proof
open Machine

/-! Class 2 (R73) -/

@[simp] theorem bv3_toNat (x : BitVec 3) : bv3 x.toNat = x := by simp [bv3]
@[simp] theorem bv4_toNat (x : BitVec 4) : bv4 x.toNat = x := by simp [bv4]
@[simp] theorem toNat_beq_one (b : Bool) : (b.toNat == 1) = b := by cases b <;> rfl
@[simp] theorem w5_val (k : Fin 5) : w5 k.val = k := Fin.ext (Nat.mod_eq_of_lt k.isLt)

theorem opds4 {i : Instr} {a b c d : Opd} {A B C D A' B' C' D' : Opd → Bool} (hw : wellFormed i = true) (hf : laneForm i = none)
    (rule : opdOk i = (A a && B b && C c && D d)) (hA : ∀ {o}, A o = true → A' o = true) (hB : ∀ {o}, B o = true → B' o = true)
    (hC : ∀ {o}, C o = true → C' o = true) (hD : ∀ {o}, D o = true → D' o = true) :
    A' a = true ∧ B' b = true ∧ C' c = true ∧ D' d = true := by
  have ok := opdOk_of_wellFormed hf hw
  simp only [rule, Bool.and_eq_true] at ok
  obtain ⟨⟨⟨ha, hb⟩, hc⟩, hd⟩ := ok
  exact ⟨hA ha, hB hb, hC hc, hD hd⟩

/-- The rows of the accesses of each width (Table 15 of R73). -/
theorem class2_widths (k : Fin 5) : class2 k.val = some (fLd k.val) ∧ class2 (0x08 + k.val) = some (fSt k.val) ∧
    class2 (0x10 + k.val) = some (fLds k.val) ∧ class2 (0x18 + k.val) = some (fSts k.val) := by
  match k with
  | 0 | 1 | 2 | 3 | 4 => exact ⟨rfl, rfl, rfl, rfl⟩

theorem isReg7_of_isW {o : Opd} (h : isW o = true) : isReg7 o = true := isReg7_of_reg6 (isReg6_of_isW h)
theorem isReg7_of_evenW {o : Opd} (h : evenW o = true) : isReg7 o = true := isReg7_of_reg6 (isReg6_of_evenW h)
theorem isReg7_of_wOrZero {o : Opd} (h : wOrZero o = true) : isReg7 o = true := isReg7_of_reg6 (isReg6_of_wOrZero h)

theorem ldw_operands {d b x : Opd} {p : Pr} {ty hint : BitVec 3} {off : BitVec 12}
    (hw : wellFormed (.ldw d b x p ty hint off) = true) : isReg7 d = true ∧ isReg7 b = true ∧ isReg7 x = true := by
  have ok := opdOk_of_wellFormed rfl hw
  simp only [opdOk, Bool.and_eq_true] at ok
  obtain ⟨⟨hd, hb⟩, hx⟩ := ok
  refine ⟨?_, isReg7_of_evenW hb, isReg7_of_wOrZero hx⟩
  cases d with
  | lit | mask | bad => exact absurd hd Bool.false_ne_true
  | _ => rfl

theorem stw_operands {d b x : Opd} {p : Pr} {ty hint : BitVec 3} {off : BitVec 12}
    (hw : wellFormed (.stw d b x p ty hint off) = true) : isSrc7 d = true ∧ isReg7 b = true ∧ isReg7 x = true := by
  have ok : (stSrc (stSty ty.toNat) d && !isV d && d != .strandIdx && evenW b && wOrZero x) = true := opdOk_of_wellFormed rfl hw
  simp only [Bool.and_eq_true] at ok
  obtain ⟨⟨⟨⟨hd, -⟩, -⟩, hb⟩, hx⟩ := ok
  exact ⟨isSrc7_of_stSrc hd, isReg7_of_evenW hb, isReg7_of_wOrZero hx⟩

theorem atom_operands {d b x c : Opd} {p : Pr} {ty hint : BitVec 3} {aop : BitVec 4} {off : BitVec 12}
    (hw : wellFormed (.atom d b x c p ty aop hint off) = true) :
    isReg7 d = true ∧ isReg7 b = true ∧ isReg7 x = true ∧ isSrc7 c = true := by
  obtain ⟨hd, hc, hb, hx⟩ := opds4 hw rfl rfl isReg7_of_ldDst isSrc7_of_stSrc isReg7_of_baseOk isReg7_of_idxOk
  exact ⟨hd, hb, hx, hc⟩

theorem atoms_operands {d b x c : Opd} {p : Pr} {ty : BitVec 3} {aop : BitVec 4} {off : BitVec 12}
    (hw : wellFormed (.atoms d b x c p ty aop off) = true) :
    isReg7 d = true ∧ isReg7 b = true ∧ isReg7 x = true ∧ isSrc7 c = true := by
  have ok : (ldDst (atomSty ty.toNat).width d && d != .zero && stSrc (atomSty ty.toNat) c && baseOk false b && idxOk x) = true :=
    opdOk_of_wellFormed rfl hw
  simp only [Bool.and_eq_true] at ok
  obtain ⟨⟨⟨⟨hd, -⟩, hc⟩, hb⟩, hx⟩ := ok
  exact ⟨isReg7_of_ldDst hd, isReg7_of_baseOk hb, isReg7_of_idxOk hx, isSrc7_of_stSrc hc⟩

theorem readsBack_class2 {i : Instr} (hc : classOf i = 2) (hw : wellFormed i = true) : ReadsBack i := by
  cases i
  case cvt => rw [classOf_cvt] at hc; cases hc
  case ld k d b x p sx hint off =>
    obtain ⟨ld, -, -, -⟩ := class2_widths k
    refine readsBack_faLd rfl ⟨ld, by omega⟩ ⟨by decide, by decide, by decide, by decide, sx.toNat_lt, hint.isLt⟩
      (opds3 hw rfl rfl isReg7_of_ldDst isReg7_of_baseOk isReg7_of_idxOk) ?_
    rintro n ⟨fc, fk, ft, fa, fs, fh, fo⟩
    simp [fc, fk, ft, fa, fs, fh, fo]
  case st k d b x p hint off =>
    obtain ⟨-, st, -, -⟩ := class2_widths k
    refine readsBack_faSt rfl ⟨st, by omega⟩ ⟨by decide, by decide, by decide, by decide, by decide, hint.isLt⟩
      (opds3 hw rfl rfl isSrc7_of_stSrc isReg7_of_baseOk isReg7_of_idxOk) ?_
    rintro n ⟨fc, fk, ft, fa, fs, fh, fo⟩
    simp [fc, fk, ft, fa, fs, fh, fo]
  case lds k d b x p sx off =>
    obtain ⟨-, -, lds, -⟩ := class2_widths k
    refine readsBack_faLd rfl ⟨lds, by omega⟩ ⟨by decide, by decide, by decide, by decide, sx.toNat_lt, by decide⟩
      (opds3 hw rfl rfl isReg7_of_ldDst isReg7_of_baseOk isReg7_of_idxOk) ?_
    rintro n ⟨fc, fk, ft, fa, fs, fh, fo⟩
    simp [fc, fk, ft, fa, fs, fh, fo]
  case sts k d b x p off =>
    obtain ⟨-, -, -, sts⟩ := class2_widths k
    refine readsBack_faSt rfl ⟨sts, by omega⟩ (by unfold AccessFits; decide)
      (opds3 hw rfl rfl isSrc7_of_stSrc isReg7_of_baseOk isReg7_of_idxOk) ?_
    rintro n ⟨fc, fk, ft, fa, fs, fh, fo⟩
    simp [fc, fk, ft, fa, fs, fh, fo]
  case ldw d b x p ty hint off =>
    refine readsBack_faLd rfl ⟨rfl, by decide⟩ ⟨by decide, by decide, ty.isLt, by decide, by decide, hint.isLt⟩ (ldw_operands hw) ?_
    rintro n ⟨fc, fk, ft, fa, fs, fh, fo⟩
    simp [fc, fk, ft, fa, fs, fh, fo]
  case stw d b x p ty hint off =>
    refine readsBack_faSt rfl ⟨rfl, by decide⟩ ⟨by decide, by decide, ty.isLt, by decide, by decide, hint.isLt⟩ (stw_operands hw) ?_
    rintro n ⟨fc, fk, ft, fa, fs, fh, fo⟩
    simp [fc, fk, ft, fa, fs, fh, fo]
  case atom d b x c p ty aop hint off =>
    have operands := atom_operands hw
    have ⟨_, _, _, third⟩ := operands
    refine readsBack_faAt rfl ⟨rfl, by decide⟩ ⟨code7_lt_of_src third, by decide, ty.isLt, aop.isLt, by decide, hint.isLt⟩
      operands ?_
    rintro n ⟨fc, fk, ft, fa, fs, fh, fo⟩
    simp [fk, ft, fa, fs, fh, fo]
  case atoms d b x c p ty aop off =>
    have operands := atoms_operands hw
    have ⟨_, _, _, third⟩ := operands
    refine readsBack_faAt rfl ⟨rfl, by decide⟩ ⟨code7_lt_of_src third, by decide, ty.isLt, aop.isLt, by decide, by decide⟩
      operands ?_
    rintro n ⟨fc, fk, ft, fa, fs, fh, fo⟩
    simp [fk, ft, fa, fs, fh, fo]
  case red d b x p ty aop hint off =>
    refine readsBack_faSt rfl ⟨rfl, by decide⟩ ⟨by decide, by decide, ty.isLt, aop.isLt, by decide, hint.isLt⟩
      (opds3 hw rfl rfl isSrc7_of_stSrc isReg7_of_baseOk isReg7_of_idxOk) ?_
    rintro n ⟨fc, fk, ft, fa, fs, fh, fo⟩
    simp [fc, fk, ft, fa, fs, fh, fo]
  case pst d b x p ty off =>
    refine readsBack_faSt rfl ⟨rfl, by decide⟩ ⟨by decide, by decide, ty.isLt, by decide, by decide, by decide⟩
      (opds3 hw rfl rfl isSrc7_of_stSrc isReg7_of_baseOk isReg7_of_idxOk) ?_
    rintro n ⟨fc, fk, ft, fa, fs, fh, fo⟩
    simp [fc, fk, ft, fa, fs, fh, fo]
  case pref b x p hint off =>
    refine readsBack_faNo rfl ⟨rfl, by decide⟩ ⟨by decide, by decide, by decide, by decide, by decide, hint.isLt⟩
      (opds2 hw rfl rfl isReg7_of_baseOk isReg7_of_idxOk) ?_
    rintro n ⟨fc, fk, ft, fa, fs, fh, fo⟩
    simp [fc, fk, ft, fa, fs, fh, fo]
  case mon b x p off =>
    refine readsBack_faNo rfl ⟨rfl, by decide⟩ (by unfold AccessFits; decide)
      (opds2 hw rfl rfl isReg7_of_baseOk isReg7_of_idxOk) ?_
    rintro n ⟨fc, fk, ft, fa, fs, fh, fo⟩
    simp [fc, fk, ft, fa, fs, fh, fo]
  case fenceP p => exact (readsBack_fences p).1
  case fenceH p => exact (readsBack_fences p).2.1
  case fenceA p => exact (readsBack_fences p).2.2
  case sleep p => exact readsBack_sleep p
  all_goals cases hc

/-! Class 4 (R76) -/

/-- A queue in A is a source field that names it. -/
theorem isSrc7_of_queue {o : Opd} (h : (match o with | .q _ => true | _ => false) = true) : isSrc7 o = true := by
  cases o with
  | q n => rfl
  | _ => exact absurd h Bool.false_ne_true

theorem isReg7_of_word {o : Opd} (h : (isV o || isW o || o == .zero) = true) : isReg7 o = true := by
  cases o <;> simp_all [isV, isW, isReg7]

theorem readsBack_class4 {i : Instr} (hc : classOf i = 4) (hw : wellFormed i = true) : ReadsBack i := by
  cases i
  case cvt => rw [classOf_cvt] at hc; cases hc
  case qpeek | qcnt | sacq => exact readsBack_fqDA rfl ⟨rfl, by decide⟩ (opds2 hw rfl rfl isReg7_of_word isSrc7_of_queue)
  case qdrop => exact readsBack_fqAB rfl ⟨rfl, by decide⟩ (opds2 hw rfl rfl isSrc7_of_queue isSrc7_of_uniVal)
  case binit | barx | bwait => exact readsBack_fqAB rfl ⟨rfl, by decide⟩ (opds2 hw rfl rfl isSrc7_of_uniVal isSrc7_of_uniVal)
  case barr => exact readsBack_fqA rfl ⟨rfl, by decide⟩ (isSrc7_of_uniVal (opdOk_of_wellFormed rfl hw))
  case brmt => exact readsBack_fqA rfl ⟨rfl, by decide⟩ (isSrc7_of_reg (isReg7_of_evenW (opdOk_of_wellFormed rfl hw)))
  case srel => exact readsBack_fqA rfl ⟨rfl, by decide⟩ (isSrc7_of_queue (opdOk_of_wellFormed rfl hw))
  case btest => exact readsBack_btest (opds2 hw rfl rfl isSrc7_of_uniVal isSrc7_of_uniVal)
  case gsync p => exact readsBack_gsync p
  all_goals cases hc

end Sys2Proof
end

section
/-! PROOFS of the round trip: the well-formed tile and engine instructions (R66, R77, R78), and the statement over all classes. -/

namespace Sys2Proof
open Machine

/-! Class 5 (R77) -/

theorem mode_bits {n : Nat} {mode : BitVec 12} (h : mMODE n = mode) : bits n 19 8 = mode.toNat := by
  rw [← h]
  exact (Nat.mod_eq_of_lt (bits_lt n 19 8)).symm

theorem imm_bits {n : Nat} {imm : W8} (h : mIMM n = imm) : bits n 7 0 = imm.toNat := by
  rw [← h]
  exact (Nat.mod_eq_of_lt (bits_lt n 7 0)).symm

theorem noMode_of_fields {n : Nat} (hm : mMODE n = 0) : noMode n = true := by
  simp [noMode, mode_bits hm]

theorem noModeImm_of_fields {n : Nat} (hm : mMODE n = 0) (hi : mIMM n = 0) : noModeImm n = true := by
  have mode := mode_bits hm
  have imm := imm_bits hi
  rw [bits_eq_div_mod] at mode imm
  change n / 2 ^ 8 % 2 ^ (19 + 1 - 8) = 0 at mode
  change n / 2 ^ 0 % 2 ^ (7 + 1 - 0) = 0 at imm
  rw [noModeImm, beq_iff_eq, bits_eq_div_mod]
  omega

/-- MDRN names C and E, or holds zero in both (R308). -/
theorem mdrn_operands {a b c e : Opd} {mode : BitVec 12} {imm : W8} {p : Pr} (hw : wellFormed (.mdrn a b c e mode imm p) = true) :
    uSrc a = true ∧ uSrc b = true ∧ uSrc c = true ∧ uSrc e = true := by
  have ok : (isW a && wUpTo 29 b && (if bitOf mode.toNat 3 then isW c && wUpTo 29 e else c == .zero && e == .zero)) = true :=
    opdOk_of_wellFormed rfl hw
  simp only [Bool.and_eq_true] at ok
  obtain ⟨⟨ha, hb⟩, pair⟩ := ok
  refine ⟨uSrc_of_isW ha, uSrc_of_wUpTo hb, ?_⟩
  split at pair
  · rw [Bool.and_eq_true] at pair
    exact ⟨uSrc_of_isW pair.1, uSrc_of_wUpTo pair.2⟩
  · simp only [Bool.and_eq_true, beq_iff_eq] at pair
    obtain ⟨rfl, rfl⟩ := pair
    exact ⟨rfl, rfl⟩

theorem readsBack_class5 {i : Instr} (hc : classOf i = 5) (hw : wellFormed i = true) : ReadsBack i := by
  cases i
  case cvt => rw [classOf_cvt] at hc; cases hc
  case gang a p =>
    have ha := uSrc_of_isW (opdOk_of_wellFormed rfl hw)
    refine readsBack_mw (opc := 0x00) (d := .zero) (a := a) (b := .zero) (c := .zero) (e := .zero) ⟨rfl, by decide⟩ rfl
      (by simp [used, litOf]) ⟨rfl, ha, rfl, rfl, rfl⟩ fun n hm hi => ⟨noModeImm_of_fields hm hi, fun _ _ => rfl⟩
  case obres a imm p =>
    have ha : uSrc a = true := opdOk_of_wellFormed rfl hw
    refine readsBack_mw (opc := 0x01) (d := .zero) (a := a) (b := .zero) (c := .zero) (e := .zero) ⟨rfl, by decide⟩ rfl
      (by simp [used, litOf]) ⟨rfl, ha, rfl, rfl, rfl⟩ fun n hm hi => ⟨noMode_of_fields hm, fun _ _ => by rw [hi]; rfl⟩
  case obrel imm p =>
    exact readsBack_mw (opc := 0x02) (d := .zero) (a := .zero) (b := .zero) (c := .zero) (e := .zero) ⟨rfl, by decide⟩ rfl
      rfl (by decide) fun n hm hi => ⟨noMode_of_fields hm, fun _ _ => by rw [hi]⟩
  case mbld a b mode imm p =>
    obtain ⟨ha, hb⟩ := opds2 hw rfl rfl uSrc_of_isW uSrc_of_wUpTo
    exact readsBack_mw (opc := 0x03) (d := .zero) (a := a) (b := b) (c := .zero) (e := .zero) ⟨rfl, by decide⟩ rfl
      (by simp [used, litOf]) ⟨rfl, ha, hb, rfl, rfl⟩ fun n hm hi => ⟨rfl, fun _ _ => by rw [hm, hi]; rfl⟩
  case mma a b c mode imm p =>
    obtain ⟨ha, hb, hc⟩ := opds3 hw rfl rfl uSrc_of_isW uSrc_of_wUpTo id
    exact readsBack_mw (opc := 0x04) (d := .zero) (a := a) (b := b) (c := c) (e := .zero) ⟨rfl, by decide⟩ rfl
      (by simp [used, litOf]) ⟨rfl, ha, hb, hc, rfl⟩ fun n hm hi => ⟨rfl, fun _ _ => by rw [hm, hi]; rfl⟩
  case mzero imm p =>
    exact readsBack_mw (opc := 0x05) (d := .zero) (a := .zero) (b := .zero) (c := .zero) (e := .zero) ⟨rfl, by decide⟩ rfl
      rfl (by decide) fun n hm hi => ⟨noMode_of_fields hm, fun _ _ => by rw [hi]⟩
  case mdrn a b c e mode imm p =>
    exact readsBack_mw (opc := 0x06) (d := .zero) (a := a) (b := b) (c := c) (e := e) ⟨rfl, by decide⟩ rfl
      rfl ⟨rfl, mdrn_operands hw⟩ fun n hm hi => ⟨rfl, fun _ _ => by rw [hm, hi]; rfl⟩
  case mstat d p =>
    have hd := isReg6_of_uDst (opdOk_of_wellFormed rfl hw)
    exact readsBack_mw (opc := 0x07) (d := d) (a := .zero) (b := .zero) (c := .zero) (e := .zero) ⟨rfl, by decide⟩ rfl
      rfl ⟨hd, rfl, rfl, rfl, rfl⟩ fun n hm hi => ⟨noModeImm_of_fields hm hi, fun _ h => by rw [h rfl]⟩
  case mldacc a b imm p =>
    obtain ⟨ha, hb⟩ := opds2 hw rfl rfl uSrc_of_isW uSrc_of_wUpTo
    exact readsBack_mw (opc := 0x08) (d := .zero) (a := a) (b := b) (c := .zero) (e := .zero) ⟨rfl, by decide⟩ rfl
      (by simp [used, litOf]) ⟨rfl, ha, hb, rfl, rfl⟩ fun n hm hi => ⟨noMode_of_fields hm, fun _ _ => by rw [hi]; rfl⟩
  case msvacc a b imm p =>
    obtain ⟨ha, hb⟩ := opds2 hw rfl rfl uSrc_of_isW uSrc_of_wUpTo
    exact readsBack_mw (opc := 0x09) (d := .zero) (a := a) (b := b) (c := .zero) (e := .zero) ⟨rfl, by decide⟩ rfl
      (by simp [used, litOf]) ⟨rfl, ha, hb, rfl, rfl⟩ fun n hm hi => ⟨noMode_of_fields hm, fun _ _ => by rw [hi]; rfl⟩
  case mcancel mode p =>
    exact readsBack_mw (opc := 0x0a) (d := .zero) (a := .zero) (b := .zero) (c := .zero) (e := .zero) ⟨rfl, by decide⟩ rfl
      rfl (by decide) fun n hm hi => ⟨by rw [imm_bits hi]; rfl, fun _ _ => by rw [hm]⟩
  all_goals cases hc

/-! Class 6 (R78) -/

theorem entry_operands {i : Instr} {d a b c e : Opd} {D A B : Opd → Bool} (hw : wellFormed i = true) (hf : laneForm i = none)
    (rule : opdOk i = (D d && A a && B b && tagBar c e)) (hD : ∀ {o}, D o = true → isReg6 o = true)
    (hA : ∀ {o}, A o = true → uSrc o = true) (hB : ∀ {o}, B o = true → uSrc o = true) :
    isReg6 d = true ∧ uSrc a = true ∧ uSrc b = true ∧ uSrc c = true ∧ uSrc e = true := by
  have ok := opdOk_of_wellFormed hf hw
  simp only [rule, tagBar, Bool.and_eq_true] at ok
  obtain ⟨⟨⟨hd, ha⟩, hb⟩, hc, he⟩ := ok
  exact ⟨hD hd, hA ha, hB hb, uSrc_of_tagOk hc, he⟩

theorem cpym_operands {d a b c e : Opd} {eq : BitVec 3} {mode : BitVec 17} {p : Pr} (hw : wellFormed (.cpym d a b c e eq mode p) = true) :
    isReg6 d = true ∧ uSrc a = true ∧ uSrc b = true ∧ uSrc c = true ∧ uSrc e = true := by
  have ok : (evenW d && evenW a && lenOk b && tagOk c && uSrc e) = true := opdOk_of_wellFormed rfl hw
  simp only [Bool.and_eq_true] at ok
  obtain ⟨⟨⟨⟨hd, ha⟩, hb⟩, hc⟩, he⟩ := ok
  exact ⟨isReg6_of_evenW hd, uSrc_of_evenW ha, hb, uSrc_of_tagOk hc, he⟩

/-- GATH, SCAT and the delta decoder name a list in an even w register at or below w28 (R320, R345). -/
theorem list_operands {i : Instr} {d a b c e : Opd} (hw : wellFormed i = true) (hf : laneForm i = none)
    (rule : opdOk i = (evenW d && evenW a && evenW b && wUpTo 28 b && tagBar c e)) :
    isReg6 d = true ∧ uSrc a = true ∧ uSrc b = true ∧ uSrc c = true ∧ uSrc e = true := by
  have ok := opdOk_of_wellFormed hf hw
  simp only [rule, tagBar, Bool.and_eq_true] at ok
  obtain ⟨⟨⟨⟨hd, ha⟩, hb⟩, -⟩, hc, he⟩ := ok
  exact ⟨isReg6_of_evenW hd, uSrc_of_evenW ha, uSrc_of_evenW hb, uSrc_of_tagOk hc, he⟩

theorem crng_operand {a : Opd} {eq : BitVec 3} {mode : BitVec 17} {p : Pr} (hw : wellFormed (.crng a eq mode p) = true) :
    uSrc a = true := by
  have ok : (evenW a || a == .zero) = true := opdOk_of_wellFormed rfl hw
  rcases Bool.or_eq_true_iff.1 ok with even | zero
  · exact uSrc_of_evenW even
  · rw [beq_iff_eq.1 zero]
    rfl

theorem readsBack_class6 {i : Instr} (hc : classOf i = 6) (hw : wellFormed i = true) : ReadsBack i := by
  cases i
  case cvt => rw [classOf_cvt] at hc; cases hc
  case cpy | rcpy => exact readsBack_fy rfl ⟨rfl, by decide⟩ (entry_operands hw rfl rfl isReg6_of_evenW uSrc_of_evenW id)
  case cpyt => exact readsBack_fy rfl ⟨rfl, by decide⟩ (entry_operands hw rfl rfl isReg6_of_isW uSrc_of_isW uSrc_of_wUpTo)
  case cpym => exact readsBack_fy rfl ⟨rfl, by decide⟩ (cpym_operands hw)
  case gath | scat => exact readsBack_fy rfl ⟨rfl, by decide⟩ (list_operands hw rfl rfl)
  case xfmMove => exact readsBack_xfm (xop := 0) rfl (entry_operands hw rfl rfl isReg6_of_isW uSrc_of_isW uSrc_of_wUpTo)
  case xfmCvt => exact readsBack_xfm (xop := 1) rfl (entry_operands hw rfl rfl isReg6_of_isW uSrc_of_isW uSrc_of_wUpTo)
  case xfmMxq => exact readsBack_xfm (xop := 2) rfl (entry_operands hw rfl rfl isReg6_of_isW uSrc_of_isW uSrc_of_wUpTo)
  case xfmMxdq => exact readsBack_xfm (xop := 3) rfl (entry_operands hw rfl rfl isReg6_of_isW uSrc_of_isW uSrc_of_wUpTo)
  case xfmBdxd => exact readsBack_xfm (xop := 4) rfl (list_operands hw rfl rfl)
  case xfmBdxe => exact readsBack_xfm (xop := 5) rfl (entry_operands hw rfl rfl isReg6_of_evenW uSrc_of_evenW id)
  case xfmCrcg => exact readsBack_xfm (xop := 6) rfl (entry_operands hw rfl rfl isReg6_of_evenW uSrc_of_evenW id)
  case xfmCrcv => exact readsBack_xfm (xop := 7) rfl (entry_operands hw rfl rfl isReg6_of_evenW uSrc_of_evenW id)
  case crng a eq mode p =>
    exact readsBack_yw (opc := 0x06) (d := .zero) (a := a) (b := .zero) (c := .zero) (e := .zero) ⟨rfl, by decide⟩ rfl mode.isLt
      (by simp [used, litOf]) ⟨rfl, crng_operand hw, rfl, rfl, rfl⟩
      fun n he hm => ⟨rfl, fun _ _ => by rw [he, yMODE, hm, BitVec.ofNat_toNat, BitVec.setWidth_eq]; rfl⟩
  case qfence mask p =>
    exact readsBack_mw (opc := 0x0c) (d := .zero) (a := .zero) (b := .zero) (c := .zero) (e := .zero) ⟨rfl, by decide⟩ rfl
      rfl (by decide) fun n hm hi => ⟨noMode_of_fields hm, fun _ _ => by rw [hi]⟩
  case drainScr => exact readsBack_drain (n := 0) (by decide)
  case drainL1 => exact readsBack_drain (n := 1) (by decide)
  case drainMem => exact readsBack_drain (n := 2) (by decide)
  all_goals cases hc

theorem readsBack_of_wellFormed {i : Instr} (he : encoded i = true) (hw : wellFormed i = true) : ReadsBack i := by
  have small : classOf i < 8 := of_decide_eq_true he
  match hc : classOf i, small with
  | 0, _ => exact readsBack_class0 hc hw
  | 1, _ => exact readsBack_class1 hc hw
  | 2, _ => exact readsBack_class2 hc hw
  | 3, _ => exact readsBack_class3 hc hw
  | 4, _ => exact readsBack_class4 hc hw
  | 5, _ => exact readsBack_class5 hc hw
  | 6, _ => exact readsBack_class6 hc hw
  | 7, _ => exact readsBack_class7 hc hw

/-- Settles O54: the operand rules leave only operands that a field reads back, and each shape of words reads back
what its encoder writes. -/
theorem roundTrip : Obligations.RoundTrip :=
  fun _ _ he hw last => decode_of_readsBack (readsBack_of_wellFormed he hw) last

end Sys2Proof
end

section
/-! PROOFS of the checks and guards at issue (R53, R69, R158, R163, R167): every encoded instruction runs through the one pass. -/

namespace Sys2Proof.Machine

/-- Every encoded instruction runs through the pass of `issueBy`, around an effect of its own; eight choose the effect by a field or by
their wait. -/
theorem exec_issues {i : Instr} (he : encoded i = true) (s : State) : ∃ body, exec i s = .next (issueBy i s body) := by
  cases i
  case bfi | bsel | cvt | pack | unpk | dot4 | dot8 | bwait =>
    simp only [exec, execBfi, execBsel, execCvt, execPack, execUnpk, execDot4, execDot8, execBwait]
    split <;> exact ⟨_, rfl⟩
  all_goals cases he
  all_goals exact ⟨_, rfl⟩

/-- A check at decode that fails traps, whatever the effect would have been. -/
theorem issueBy_of_decodeTrap {i : Instr} {s : State} {c : Nat} (stands : s.focus.kind ≠ .none) (may : handlerFault i s = false)
    (trap : decodeTrap i s = some c) (body : List Elem → State → State) : issueBy i s body = (s.trapPath c).endPass := by
  unfold issueBy
  split
  · exact absurd ‹_› stands
  · simp only [may, Bool.false_eq_true, if_false, trap]

theorem issueBy_of_guardOff {i : Instr} {s : State} (stands : s.focus.kind ≠ .none) (may : handlerFault i s = false)
    (legal : decodeTrap i s = none) (off : guardOff i s = true) (body : List Elem → State → State) :
    issueBy i s body = (if isTransfer i then s.nextClause else s.advance).endPass := by
  unfold issueBy
  split
  · exact absurd ‹_› stands
  · simp only [may, Bool.false_eq_true, if_false, legal, off, if_true]

theorem handlerFault_of_path {i : Instr} {s : State} {u g : Nat} {P : List Nat} (hp : s.focus.kind = .path u g P) :
    handlerFault i s = false := by
  simp only [handlerFault, hp]

/-- The header of the next clause is the one that the focus gives (R167). -/
theorem nextClause_eq (s : State) : s.nextClause = s.goto (Claims.nextHeader s) := rfl

theorem decodeTraps : Claims.DecodeTraps := by
  intro i s u g code P he hp trap
  obtain ⟨body, run⟩ := exec_issues he s
  rw [run, issueBy_of_decodeTrap (by simp [hp]) (handlerFault_of_path hp) trap]
  simp only [State.trapPath, hp]

theorem guardsSkip : Claims.GuardsSkip := by
  intro i s u g P he hp legal off
  obtain ⟨body, run⟩ := exec_issues he s
  rw [run, issueBy_of_guardOff (by simp [hp]) (handlerFault_of_path hp) legal off, nextClause_eq]
  split <;> rfl

theorem handlerFaults : Claims.HandlerFaults := by
  intro i s u g code he hp may trap
  obtain ⟨body, run⟩ := exec_issues he s
  rw [run, issueBy_of_decodeTrap (by simp [hp]) may trap]
  simp only [State.trapPath, hp]

/-- Settles O13: every encoded instruction runs through one pass, whose checks at decode and guard come before its effect. -/
theorem checksAtIssue : Obligations.ChecksAtIssue :=
  ⟨decodeTraps, guardsSkip, handlerFaults⟩

end Sys2Proof.Machine
end

section
/-! PROOFS of the uniform results (R71, R178 to R182). -/

namespace Sys2Proof.Machine

/-! Values of the rules -/

theorem ofInt_min (x y : W32) : (if y.toInt < x.toInt then y else x) = BitVec.ofInt 32 (min x.toInt y.toInt) := by
  split
  · rw [min_eq_right (by omega), BitVec.ofInt_toInt]
  · rw [min_eq_left (by omega), BitVec.ofInt_toInt]

theorem ofInt_max (x y : W32) : (if x.toInt < y.toInt then y else x) = BitVec.ofInt 32 (max x.toInt y.toInt) := by
  split
  · rw [max_eq_right (by omega), BitVec.ofInt_toInt]
  · rw [max_eq_left (by omega), BitVec.ofInt_toInt]

theorem sshiftRight_eq_ofInt (x : W32) (n : Nat) : x.sshiftRight n = BitVec.ofInt 32 (x.toInt / 2 ^ n) := by
  rw [← BitVec.ofInt_toInt (x := x.sshiftRight n), BitVec.toInt_sshiftRight, Int.shiftRight_eq_div_pow]
  norm_cast

theorem ones_eq_countP (x : W32) : ones x.toNat 32 = (List.range 32).countP fun k => x.getLsbD k := by
  simp [ones, setBits, List.countP_eq_length_filter, BitVec.getLsbD]

theorem shiftLeft_eq_ofNat (x : W32) (n : Nat) : x <<< n = BitVec.ofNat 32 (x.toNat * 2 ^ n) := by
  apply BitVec.eq_of_toNat_eq
  simp [Nat.shiftLeft_eq]

theorem ushiftRight_eq_ofNat (x : W32) (n : Nat) : x >>> n = BitVec.ofNat 32 (x.toNat / 2 ^ n) := by
  rw [← Nat.shiftRight_eq_div_pow, ← BitVec.toNat_ushiftRight, BitVec.ofNat_toNat, BitVec.setWidth_eq]

theorem sub_eq_ofInt (x y : W32) : x - y = BitVec.ofInt 32 (x.toNat - y.toNat) := by
  have := x.isLt
  have := y.isLt
  apply BitVec.eq_of_toNat_eq
  rw [BitVec.toNat_sub, BitVec.toNat_ofInt]
  omega

theorem and_eq_ofNat (x y : W32) : x &&& y = BitVec.ofNat 32 (x.toNat &&& y.toNat) := by
  rw [← BitVec.toNat_and, BitVec.ofNat_toNat, BitVec.setWidth_eq]

theorem or_eq_ofNat (x y : W32) : x ||| y = BitVec.ofNat 32 (x.toNat ||| y.toNat) := by
  rw [← BitVec.toNat_or, BitVec.ofNat_toNat, BitVec.setWidth_eq]

theorem xor_eq_ofNat (x y : W32) : x ^^^ y = BitVec.ofNat 32 (x.toNat ^^^ y.toNat) := by
  rw [← BitVec.toNat_xor, BitVec.ofNat_toNat, BitVec.setWidth_eq]

/-! The 32-bit instructions -/

/-- What the rule of a 32-bit instruction says of its step: `UniformResults` for one instruction. -/
def RunsUniform (i : Instr) (s : State) (d : Opd) (os : List Opd) (op : W32 → W32 → W32) : Prop :=
  let t := (s.operands i).1
  let v (n : Nat) : W32 := match os[n]? with
    | some o => t.uniWord o ((s.operands i).2.getD n none)
    | none => 0
  exec i s = .next (t.putUni d (op (v 0) (v 1))).passes

theorem runsUniform_op1 {i : Instr} {d a : Opd} {s : State} {op : W32 → W32} {rule : W32 → W32 → W32}
    (run : exec i s = uniOp1 i d a s op) (hr : s.runs i = true) (same : ∀ x y, op x = rule x y) : RunsUniform i s d [a] rule := by
  refine run.trans ((issue_runs _ _ _ hr).trans ?_)
  dsimp only
  rw [same _ 0]
  rfl

theorem runsUniform_op2 {i : Instr} {d a b : Opd} {s : State} {op rule : W32 → W32 → W32}
    (run : exec i s = uniOp2 i d a b s op) (hr : s.runs i = true) (same : ∀ x y, op x y = rule x y) :
    RunsUniform i s d [a, b] rule := by
  refine run.trans ((issue_runs _ _ _ hr).trans ?_)
  dsimp only
  rw [same]
  rfl

theorem uniformWords : Claims.UniformResults := by
  intro i s d os op hr rule
  change RunsUniform i s d os op
  cases i
  case wmov => cases rule; exact runsUniform_op1 (op := fun x => x) rfl hr fun _ _ => rfl
  case wpopc =>
    cases rule
    exact runsUniform_op1 (op := fun x => BitVec.ofNat 32 (ones x.toNat 32)) rfl hr fun x _ => by rw [ones_eq_countP]
  case wadd => cases rule; exact runsUniform_op2 rfl hr BitVec.add_def
  case wsub => cases rule; exact runsUniform_op2 rfl hr sub_eq_ofInt
  case wmul => cases rule; exact runsUniform_op2 rfl hr fun _ _ => BitVec.mul_def
  case wand => cases rule; exact runsUniform_op2 rfl hr and_eq_ofNat
  case wor => cases rule; exact runsUniform_op2 rfl hr or_eq_ofNat
  case wxor => cases rule; exact runsUniform_op2 rfl hr xor_eq_ofNat
  case wshl =>
    cases rule
    exact runsUniform_op2 (op := fun x y => if y.toNat < 32 then x <<< y.toNat else 0) rfl hr fun x y => by rw [shiftLeft_eq_ofNat]
  case wshr =>
    cases rule
    exact runsUniform_op2 (op := fun x y => if y.toNat < 32 then x >>> y.toNat else 0) rfl hr fun x y => by rw [ushiftRight_eq_ofNat]
  case wasr =>
    cases rule
    exact runsUniform_op2 (op := fun x y => x.sshiftRight (min y.toNat 32)) rfl hr fun x y => sshiftRight_eq_ofInt x _
  case wmin =>
    cases rule
    exact runsUniform_op2 (op := fun x y => if y.toInt < x.toInt then y else x) rfl hr ofInt_min
  case wmax =>
    cases rule
    exact runsUniform_op2 (op := fun x y => if x.toInt < y.toInt then y else x) rfl hr ofInt_max
  all_goals cases rule

/-! The other uniform instructions -/

theorem and_eq_zero_eq_all (x y : W32) : (x &&& y == 0) = (List.range 32).all fun k => !(x.getLsbD k && y.getLsbD k) := by
  rw [Bool.eq_iff_iff, beq_iff_eq, List.all_eq_true]
  constructor
  · intro zero k _
    rw [← BitVec.getLsbD_and, zero]
    simp
  · intro apart
    apply BitVec.eq_of_getLsbD_eq
    intro k hk
    rw [BitVec.getLsbD_and, BitVec.ofNat_eq_ofNat, BitVec.getLsbD_zero, ← Bool.not_eq_true']
    exact apart k (List.mem_range.2 hk)

/-- The conditions of WCMP are those of R71. -/
theorem wcmpCond_eq_wHolds {c : Nat} (hc : c < 8) (x y : W32) : wcmpCond c x y = Claims.wHolds c x y := by
  match c, hc with
  | 0, _ | 1, _ | 2, _ | 3, _ | 4, _ | 5, _ => rfl
  | 6, _ =>
    change (x &&& y != 0) = (List.range 32).any fun k => x.getLsbD k && y.getLsbD k
    rw [bne, and_eq_zero_eq_all, List.not_all_eq_any_not]
    simp only [Bool.not_not]
  | 7, _ => exact and_eq_zero_eq_all x y

theorem putW64_words (s : State) (n : Nat) (lo hi : W32) :
    s.putW64 n (lo.toNat + 2 ^ 32 * hi.toNat) = (s.putW n lo).putW (n + 1) hi := by
  have := lo.isLt
  have low : BitVec.ofNat 32 (lo.toNat + 2 ^ 32 * hi.toNat) = lo := by
    apply BitVec.eq_of_toNat_eq
    rw [BitVec.toNat_ofNat]
    omega
  have high : BitVec.ofNat 32 ((lo.toNat + 2 ^ 32 * hi.toNat) / 2 ^ 32) = hi := by
    rw [show (lo.toNat + 2 ^ 32 * hi.toNat) / 2 ^ 32 = hi.toNat by omega, BitVec.ofNat_toNat, BitVec.setWidth_eq]
  rw [State.putW64, low, high]

/-- WWS writes trapc, trapm and trapa, and no other register (R182). -/
theorem putSpr_eq (x : Group) (i : BitVec 6) (word wide : Nat) :
    x.putSpr i.toNat (if spr64 i.toNat then wide else word) =
      if i = 0x13 then { x with trapc := BitVec.ofNat 32 (word % 2 ^ 16) }
      else if i = 0x14 then { x with trapm := BitVec.ofNat 64 wide }
      else if i = 0x15 then { x with trapa := BitVec.ofNat 64 wide } else x := by
  by_cases h13 : i = 0x13
  · subst h13; rfl
  by_cases h14 : i = 0x14
  · subst h14; rfl
  by_cases h15 : i = 0x15
  · subst h15; rfl
  rw [if_neg h13, if_neg h14, if_neg h15]
  have other {n : Nat} (h : i ≠ BitVec.ofNat 6 n) (hn : n < 64) : i.toNat ≠ n := by
    rintro rfl
    exact h (by simp)
  have := other h13 (by decide)
  have := other h14 (by decide)
  have := other h15 (by decide)
  unfold Group.putSpr
  split
  · contradiction
  · contradiction
  · contradiction
  · rfl

theorem wws_runs {s : State} {i : BitVec 6} {a : Opd} {bp : Pr} {u g : Nat} {b : Bool} (hr : s.runs (.wws i a bp) = true)
    (hw : s.who = some (u, g, b)) : exec (.wws i a bp) s =
      .next ((s.operands (.wws i a bp)).1.onGrp u g fun x => x.putSpr i.toNat
        (if spr64 i.toNat then (s.operands (.wws i a bp)).1.uniWord64 a false
          else ((s.operands (.wws i a bp)).1.uniWord a ((s.operands (.wws i a bp)).2.getD 0 none)).toNat)).passes := by
  refine (issue_runs _ _ _ hr).trans ?_
  simp only [State.who_operands_eq, hw]

theorem uniformOthers : Claims.UniformOthers := by
  intro s
  refine ⟨fun c t a b bp hr => ?_, fun d a b c hr => issue_runs _ _ _ hr, fun n lo hi bp hr => ?_, fun lo hi bp hr => issue_runs _ _ _ hr,
    fun d a b bp hr => issue_runs _ _ _ hr, fun d i bp hr => issue_runs _ _ _ hr, fun i a bp u g ks hr hw => ?_⟩
  · refine (issue_runs _ _ _ hr).trans ?_
    simp only [wcmpCond_eq_wHolds c.isLt]
  · refine (issue_runs _ _ _ hr).trans ?_
    exact congrArg (fun t => Host.Outcome.next (State.passes t)) (putW64_words _ _ _ _)
  · refine (wws_runs hr hw).trans ?_
    simp only [putSpr_eq]

/-- Settles O15: an instruction that runs is its rule between its operands and the end of the pass; the rules' values are
bit-vector facts. -/
theorem uniformResults : Obligations.UniformResults :=
  ⟨uniformWords, uniformOthers⟩

end Sys2Proof.Machine
end

section
/-! PROOFS of branches, calls and returns (R64, R167 to R169, R442). -/

namespace Sys2Proof.Machine

/-! What happens to one group -/

theorem Tbl.upd_congr {α : Type} {k : Nat} {f h : α → α} {t : Tbl α} (same : ∀ a, Tbl.find k t = some a → f a = h a) :
    Tbl.upd k f t = Tbl.upd k h t := by
  induction t with
  | nil => rfl
  | cons e t ih =>
    by_cases hk : e.1 = k
    · simp [Tbl.upd, hk, same e.2 (by simp [Tbl.find, hk])]
    · simp [Tbl.upd, hk, ih fun a ha => same a (by simp [Tbl.find, hk, ha])]

theorem Tbl.upd_upd {α : Type} (k : Nat) (f h : α → α) (t : Tbl α) :
    Tbl.upd k h (Tbl.upd k f t) = Tbl.upd k (fun a => h (f a)) t := by
  induction t with
  | nil => rfl
  | cons e t ih => by_cases hk : e.1 = k <;> simp [Tbl.upd, hk, ih]

/-- A change of a group depends on what it makes of the group that is there. -/
theorem State.onGrp_congr {s : State} {u g : Nat} {f h : Group → Group} (same : f (s.grp u g) = h (s.grp u g)) :
    s.onGrp u g f = s.onGrp u g h := by
  have blocks : Tbl.upd u (·.onGroup g f) s.blocks = Tbl.upd u (·.onGroup g h) s.blocks := by
    refine Tbl.upd_congr fun b hb => ?_
    have groups : b.groups.modify g f = b.groups.modify g h := by
      apply List.ext_getElem?
      intro k
      by_cases hk : g = k
      · subst hk
        cases hx : b.groups[g]? with
        | none => simp [hx]
        | some x => simpa [hx, State.grp_of_find hb hx] using same
      · simp [hk]
    simp only [Block.onGroup, groups]
  simp only [State.onGrp, State.onBlock, blocks]

theorem State.onGrp_onGrp (s : State) (u g : Nat) (f h : Group → Group) : (s.onGrp u g f).onGrp u g h = s.onGrp u g fun x => h (f x) := by
  have groups (b : Block) : (b.onGroup g f).onGroup g h = b.onGroup g fun x => h (f x) := by
    simp only [Block.onGroup]
    congr 1
    apply List.ext_getElem?
    intro k
    cases hx : b.groups[k]? <;> by_cases hk : g = k <;> simp [hk, hx]
  simp only [State.onGrp, State.onBlock, Tbl.upd_upd, groups]

/-! Branches (R168) -/

theorem target_eq (s : State) (off : BitVec 18) : s.target off = Claims.wordsFromHeader s off := rfl

theorem nextClause_eq_nextHeader (s : State) : s.focus.nextClause = Claims.nextHeader s := rfl

theorem State.onGrp_goto_of_path {s : State} {u g : Nat} {P : List Nat} (hp : s.focus.kind = .path u g P) (f : Group → Group)
    (va : Nat) : (s.onGrp u g f).goto va = s.onGrp u g fun x => (f x).sendTo P va := by
  simp only [State.goto, State.onGrp_focus, hp, State.onGrp_onGrp]

theorem State.onGrp_goto_of_handler {s : State} {u g : Nat} (hp : s.focus.kind = .handler u g) (f : Group → Group) (va : Nat) :
    (s.onGrp u g f).goto va = s.onGrp u g fun x => { f x with handler := some ⟨va, va, 0⟩ } := by
  simp only [State.goto, State.onGrp_focus, hp, State.onGrp_onGrp]

/-- A branch sends the strands that it names to its target and the path's others to the next clause. -/
theorem branch_eq (s : State) (u g : Nat) (P T : List Nat) (off : BitVec 18) :
    s.branch u g P T (s.target off) =
      s.onGrp u g fun x => (x.sendTo T (Claims.wordsFromHeader s off)).sendTo (P.filter fun k => k ∉ T) (Claims.nextHeader s) := by
  have rest : (P.filter fun k => !T.contains k) = P.filter fun k => k ∉ T := by
    congr 1
    funext k
    simp
  rw [State.branch, rest, target_eq, nextClause_eq_nextHeader]

theorem filter_length_eq_iff {α : Type} (p : α → Bool) (l : List α) : (l.filter p).length = l.length ↔ l.filter p = l := by
  rw [List.length_filter_eq_length_iff, List.filter_eq_self]

theorem pathBranches : Claims.Branches := by
  intro i s t u g P off T hr ht hp takes
  subst ht
  cases i
  case bra bp ps o =>
    cases takes
    refine (issueMove_runs _ _ _ hr).trans ?_
    simp only [hp, branch_eq]
    rfl
  case brc bp ps o =>
    cases takes
    refine (issueMove_runs _ _ _ hr).trans ?_
    simp only [hp, branch_eq, Group.holding, filter_length_eq_iff]
    rfl
  case brd bp ps o =>
    cases takes
    refine (issueMove_runs _ _ _ hr).trans ?_
    simp only [hp, branch_eq, Group.holding, List.isEmpty_iff]
    rfl
  all_goals cases takes

/-! Branches of a handler -/

theorem trapStrands_eq (x : Group) :
    x.trapStrands = (strandsOf x.trapm.toNat x.width).filter fun k => (x.strand k).st != .exited := rfl

/-- A branch of the handler goes to its target where its condition holds, and else to the next clause. -/
theorem branchBy_of_handler {kind : Nat} {i : Instr} {ps : Pr} {off : BitVec 18} {s : State} {u g : Nat} {p : Prop} [Decidable p]
    (hr : s.runs i = true) (hp : (s.operands i).1.focus.kind = .handler u g)
    (taken : (s.operands i).1.soleTaken kind ps = true ↔ p) :
    let t := (s.operands i).1
    branchBy kind i ps off s = .next (t.goto (if p then Claims.wordsFromHeader t off else Claims.nextHeader t)).endPass := by
  refine (issueMove_runs _ _ _ hr).trans ?_
  simp only [hp, State.nextClause, target_eq, nextClause_eq_nextHeader, taken]
  split <;> rfl

/-- BRA and BRC of the handler are taken where every strand that they test holds the predicate. -/
theorem soleTaken_all {s : State} {u g : Nat} (hp : s.focus.kind = .handler u g) {kind : Nat} (hk : kind ≠ 2) (ps : Pr) :
    s.soleTaken kind ps = true ↔
      (s.grp u g).trapStrands.filter (fun k => ((s.grp u g).strand k).getP ps.val) = (s.grp u g).trapStrands := by
  have always : ps = 0 → ∀ k, ((s.grp u g).strand k).getP ps.val = true := by
    rintro rfl k
    rfl
  simp only [State.soleTaken, hp, if_neg hk, List.filter_eq_self]
  split
  · rename_i h
    simp only [Bool.and_eq_true, decide_eq_true_eq] at h
    simpa using fun k _ => always h.2 k
  · simp

/-- BRD of the handler is taken where one of the strands that it tests holds the predicate. -/
theorem soleTaken_any {s : State} {u g : Nat} (hp : s.focus.kind = .handler u g) (ps : Pr) :
    s.soleTaken 2 ps = true ↔ ¬(s.grp u g).trapStrands.filter (fun k => ((s.grp u g).strand k).getP ps.val) = [] := by
  simp [State.soleTaken, hp]

theorem handlerBranches : Claims.HandlerBranches := by
  intro i s t u g off P T hr ht hp hP hT
  subst ht hT
  rw [← trapStrands_eq] at hP
  subst hP
  refine ⟨?_, ?_, ?_⟩
  · rintro ⟨bp, ps, rfl⟩
    exact branchBy_of_handler (kind := 0) (ps := ps) (off := off) hr hp (soleTaken_all hp (by decide) ps)
  · rintro ⟨bp, ps, rfl⟩
    exact branchBy_of_handler (kind := 1) (ps := ps) (off := off) hr hp (soleTaken_all hp (by decide) ps)
  · rintro ⟨bp, ps, rfl⟩
    rw [← ite_not]
    exact branchBy_of_handler (kind := 2) (ps := ps) (off := off) hr hp (soleTaken_any hp ps)

theorem indirectBranch : Claims.IndirectBranch := by
  intro a bp s t hr ht
  subst ht
  constructor
  · intro aligned
    refine (issueMove_runs _ _ _ hr).trans ?_
    simp only [aligned, if_true]
  · intro misaligned
    refine (issueMove_runs _ _ _ hr).trans ?_
    simp only [misaligned, if_false]

/-! Calls (R169) -/

theorem callsFull_eq_false {x : Group} (room : x.calls.length < 4) : x.callsFull = false := by
  simpa [Group.callsFull] using room

theorem callsFull_eq_true {x : Group} (full : 4 ≤ x.calls.length) : x.callsFull = true := by
  simpa [Group.callsFull] using full

theorem calls : Claims.Calls := by
  intro bp off s t u g hr ht
  subst ht
  refine ⟨fun P hp room => ?_, fun P hp full => ?_, fun hp room => ?_, fun hp full => ?_⟩
  · refine (issueMove_runs _ _ _ hr).trans ?_
    simp only [hp, callsFull_eq_false room, Bool.false_eq_true, if_false]
    rw [State.onGrp_goto_of_path hp]
    rfl
  · refine (issueMove_runs _ _ _ hr).trans ?_
    simp only [hp, callsFull_eq_true full, if_true]
  · refine (issueMove_runs _ _ _ hr).trans ?_
    simp only [hp, callsFull_eq_false room, Bool.false_eq_true, if_false]
    rw [State.onGrp_goto_of_handler hp]
    rfl
  · refine (issueMove_runs _ _ _ hr).trans ?_
    simp only [hp, callsFull_eq_true full, if_true]

end Sys2Proof.Machine
end

section
/-! PROOFS of returns and of the transfers of service threads (R169, R442). -/

namespace Sys2Proof.Machine

open Claims (topCall returnsOf)

/-! Entries of the call stack -/

/-- The entry is one of a path that holds the strand. -/
def CallEntry.holds (c : CallEntry) (k : Nat) : Bool := !c.handler && c.mask.contains k

/-- The entry without the strand. -/
def CallEntry.without (c : CallEntry) (k : Nat) : CallEntry := { c with mask := c.mask.filter (· != k) }

theorem CallEntry.holds_without_self (c : CallEntry) (k : Nat) : (c.without k).holds k = false := by
  simp [CallEntry.holds, CallEntry.without]

theorem CallEntry.holds_without_of_ne (c : CallEntry) {j k : Nat} (hne : j ≠ k) : (c.without k).holds j = c.holds j := by
  simp [CallEntry.holds, CallEntry.without, hne]

theorem returnsOf_cons (c : CallEntry) (r : List CallEntry) (k : Nat) :
    returnsOf (c :: r) k = if c.holds k then c.ret :: returnsOf r k else returnsOf r k := by
  rw [returnsOf, List.filter_cons, CallEntry.holds]
  split <;> rfl

theorem topCall_eq_none_iff (calls : List CallEntry) (k : Nat) : topCall calls k = none ↔ ∀ c ∈ calls, c.holds k = false := by
  simp only [topCall, List.find?_eq_none, Bool.not_eq_true, CallEntry.holds]

theorem returnsOf_eq_nil_iff (calls : List CallEntry) (k : Nat) : returnsOf calls k = [] ↔ topCall calls k = none := by
  rw [topCall_eq_none_iff, returnsOf, List.map_eq_nil_iff, List.filter_eq_nil_iff]
  simp only [Bool.not_eq_true, CallEntry.holds]

/-! Taking a strand out of its topmost entry -/

theorem popCall_cons_of_holds {c : CallEntry} {k : Nat} (here : c.holds k = true) (r : List CallEntry) :
    popCall k (c :: r) = some (c.ret, c.without k :: r) := if_pos here

theorem popCall_cons_of_not_holds {c : CallEntry} {k : Nat} (other : c.holds k = false) (r : List CallEntry) :
    popCall k (c :: r) = (popCall k r).map fun p => (p.1, c :: p.2) := by
  rw [popCall, ← CallEntry.holds, other]
  cases popCall k r <;> rfl

theorem popCall_append {above : List CallEntry} {c : CallEntry} {k : Nat} (none : topCall above k = none) (here : c.holds k = true)
    (below : List CallEntry) : popCall k (above ++ c :: below) = some (c.ret, above ++ c.without k :: below) := by
  rw [topCall_eq_none_iff] at none
  induction above with
  | nil => exact popCall_cons_of_holds here below
  | cons d above ih =>
    rw [List.forall_mem_cons] at none
    rw [List.cons_append, popCall_cons_of_not_holds none.1, ih none.2]
    rfl

theorem popCall_eq_none_iff (calls : List CallEntry) (k : Nat) : popCall k calls = none ↔ topCall calls k = none := by
  rw [topCall_eq_none_iff]
  induction calls with
  | nil => simp [popCall]
  | cons c r ih =>
    rw [List.forall_mem_cons, ← ih]
    cases here : c.holds k with
    | true => simp [popCall_cons_of_holds here]
    | false => simp [popCall_cons_of_not_holds here]

/-- The strand takes its own topmost address, and every other strand keeps its addresses. -/
theorem returnsOf_popCall {calls cs : List CallEntry} {k va : Nat} (pop : popCall k calls = some (va, cs)) :
    returnsOf calls k = va :: returnsOf cs k ∧ ∀ j, j ≠ k → returnsOf cs j = returnsOf calls j := by
  induction calls generalizing cs with
  | nil => cases pop
  | cons c r ih =>
    cases here : c.holds k with
    | true =>
      rw [popCall_cons_of_holds here] at pop
      cases pop
      refine ⟨?_, fun j hj => ?_⟩
      · simp only [returnsOf_cons, here, CallEntry.holds_without_self, if_true, Bool.false_eq_true, if_false]
      · simp only [returnsOf_cons, CallEntry.holds_without_of_ne c hj]
        rfl
    | false =>
      rw [popCall_cons_of_not_holds here, Option.map_eq_some_iff] at pop
      obtain ⟨⟨va', r'⟩, rest, eq⟩ := pop
      cases eq
      obtain ⟨own, others⟩ := ih rest
      refine ⟨?_, fun j hj => ?_⟩
      · simpa only [returnsOf_cons, here, Bool.false_eq_true, if_false] using own
      · rw [returnsOf_cons, returnsOf_cons, others j hj]

/-! One strand returns -/

/-- What a return makes of one strand of the path. -/
def Group.returnOne (x : Group) (k : Nat) : Group :=
  match popCall k x.calls with
  | some (va, cs) => { x with calls := cs }.sendTo [k] va
  | none => x

theorem Group.returnAll_eq (x : Group) (ks : List Nat) : x.returnAll ks = (ks.foldl Group.returnOne x).pruneCalls := rfl

/-- The strand is back at an address, past any wait. -/
def Strand.returned (t : Strand) (va : Nat) : Strand := { t.goto va with wait := .none }

/-- Strands of a list, each active and with an address to return to, have taken their topmost addresses; the others keep theirs, and
nothing else of the group has changed. -/
structure Group.Returned (x y : Group) (P : List Nat) : Prop where
  frame : y = { x with calls := y.calls, strands := y.strands }
  own : ∀ k ∈ P, ∃ a l, returnsOf x.calls k = a :: l ∧ y.strand k = (x.strand k).returned a ∧ returnsOf y.calls k = l
  others : ∀ k, k ∉ P → y.strand k = x.strand k ∧ returnsOf y.calls k = returnsOf x.calls k

theorem Group.strand_onStrand_of_ne (x : Group) {j k : Nat} (hne : j ≠ k) (f : Strand → Strand) :
    (x.onStrand k f).strand j = x.strand j := by
  simp [Group.strand_eq, Group.onStrand, Ne.symm hne]

/-- The strand runs, and has an address to return to. -/
def Group.CanReturn (x : Group) (k : Nat) : Prop :=
  topCall x.calls k ≠ none ∧ k < x.strands.length ∧ (x.strand k).st = .active

theorem Group.returned_returnOne {x : Group} {k : Nat} (can : x.CanReturn k) :
    x.Returned (x.returnOne k) [k] ∧ (x.returnOne k).strands.length = x.strands.length := by
  obtain ⟨top, lt, active⟩ := can
  rw [Ne, ← popCall_eq_none_iff, ← Ne, Option.ne_none_iff_exists'] at top
  obtain ⟨⟨va, cs⟩, pop⟩ := top
  obtain ⟨own, others⟩ := returnsOf_popCall pop
  have one : x.returnOne k = { x with calls := cs }.sendTo [k] va := by rw [Group.returnOne, pop]
  rw [one]
  refine ⟨⟨rfl, fun j hj => ?_, fun j hj => ⟨?_, others j (by simpa using hj)⟩⟩,
    by simp [Group.sendTo, Group.onStrands, Group.onStrand]⟩
  · rw [List.mem_singleton.mp hj]
    refine ⟨va, returnsOf cs k, own, ?_, rfl⟩
    refine (Group.strand_onStrands (List.nodup_singleton k) (List.mem_singleton_self k) lt _).trans ?_
    exact if_pos (beq_iff_eq.mpr active)
  · exact Group.strand_onStrand_of_ne _ (by simpa using hj) _

/-! The strands of a path return -/

theorem Group.CanReturn.of_returned {x y : Group} {j k : Nat} (can : x.CanReturn k) (hr : x.Returned y [j]) (hne : k ≠ j)
    (width : y.strands.length = x.strands.length) : y.CanReturn k := by
  obtain ⟨top, lt, active⟩ := can
  obtain ⟨strand, returns⟩ := hr.others k (by simpa using hne)
  refine ⟨?_, width ▸ lt, strand ▸ active⟩
  rwa [Ne, ← returnsOf_eq_nil_iff, returns, returnsOf_eq_nil_iff]

theorem Group.Returned.cons {x y z : Group} {k : Nat} {P : List Nat} (first : x.Returned y [k]) (rest : y.Returned z P) (hk : k ∉ P) :
    x.Returned z (k :: P) where
  frame := by rw [rest.frame, first.frame]
  own j hj := by
    rcases List.mem_cons.mp hj with rfl | hj
    · obtain ⟨strand, returns⟩ := rest.others j hk
      rw [strand, returns]
      exact first.own j (by simp)
    · have hne : j ∉ [k] := by
        rintro h
        exact hk (List.mem_singleton.mp h ▸ hj)
      obtain ⟨strand, returns⟩ := first.others j hne
      rw [← strand, ← returns]
      exact rest.own j hj
  others j hj := by
    rw [List.mem_cons, not_or] at hj
    obtain ⟨hjk, hjP⟩ := hj
    obtain ⟨strand, returns⟩ := rest.others j hjP
    obtain ⟨strand', returns'⟩ := first.others j (by simpa using hjk)
    exact ⟨strand.trans strand', returns.trans returns'⟩

theorem Group.returned_foldl {P : List Nat} (hP : P.Nodup) {x : Group} (can : ∀ k ∈ P, x.CanReturn k) :
    x.Returned (P.foldl Group.returnOne x) P := by
  induction P generalizing x with
  | nil => exact ⟨rfl, by simp, fun _ _ => ⟨rfl, rfl⟩⟩
  | cons k P ih =>
    obtain ⟨hk, hP⟩ := List.nodup_cons.mp hP
    obtain ⟨first, width⟩ := Group.returned_returnOne (can k (by simp))
    refine first.cons (ih hP fun j hj => ?_) hk
    exact (can j (by simp [hj])).of_returned first (fun h => hk (h ▸ hj)) width

/-! Entries that go -/

/-- An entry stays while a strand of its mask is not exited, so that a strand that is not exited keeps its addresses. -/
theorem returnsOf_pruneCalls (x : Group) {k : Nat} (hk : (x.strand k).st ≠ .exited) :
    returnsOf x.pruneCalls.calls k = returnsOf x.calls k := by
  simp only [returnsOf, Group.pruneCalls, List.filter_filter]
  congr 1
  apply List.filter_congr
  intro c _
  cases hc : !c.handler && c.mask.contains k with
  | false => rfl
  | true =>
    simp only [Bool.and_eq_true, List.contains_iff_mem] at hc
    have here : (c.mask.any fun k => !(x.strand k).isExited) = true :=
      List.any_eq_true.mpr ⟨k, hc.2, by simpa [Strand.isExited] using hk⟩
    simp [here]

theorem mem_pruneCalls {x : Group} {c : CallEntry} (hc : c ∈ x.pruneCalls.calls) :
    c.handler = true ∨ ∃ k ∈ c.mask, (x.strand k).st ≠ .exited := by
  simpa [Group.pruneCalls, Strand.isExited] using (List.mem_filter.mp hc).2

theorem Group.Returned.pruneCalls {x y : Group} {P : List Nat} (hr : x.Returned y P) (active : ∀ k ∈ P, (x.strand k).st = .active) :
    let z := y.pruneCalls
    z = { x with calls := z.calls, strands := z.strands } ∧
      (∀ k ∈ P, ∃ a l, returnsOf x.calls k = a :: l ∧ z.strand k = (x.strand k).returned a ∧ returnsOf z.calls k = l) ∧
      (∀ k, k ∉ P → z.strand k = x.strand k ∧ ((x.strand k).st ≠ .exited → returnsOf z.calls k = returnsOf x.calls k)) ∧
      ∀ c ∈ z.calls, c.handler = true ∨ ∃ k ∈ c.mask, (z.strand k).st ≠ .exited := by
  refine ⟨?_, fun k hk => ?_, fun k hk => ?_, fun c hc => mem_pruneCalls (x := y) hc⟩
  · rw [Group.pruneCalls, hr.frame]
  · obtain ⟨a, l, before, strand, after⟩ := hr.own k hk
    refine ⟨a, l, before, strand, ?_⟩
    rw [returnsOf_pruneCalls, after]
    simp [strand, Strand.returned, Strand.goto, active k hk]
  · obtain ⟨strand, returns⟩ := hr.others k hk
    exact ⟨strand, fun living => (returnsOf_pruneCalls y (strand ▸ living)).trans returns⟩

/-! Returns of a path -/

theorem popCall_isNone (calls : List CallEntry) (k : Nat) : (popCall k calls).isNone = (topCall calls k).isNone := by
  rw [Bool.eq_iff_iff, Option.isNone_iff_eq_none, Option.isNone_iff_eq_none, popCall_eq_none_iff]

/-- A path with strands that have nowhere to return to parks those strands; else every strand returns. -/
theorem exec_ret_of_path {bp : Pr} {s : State} {u g : Nat} {P : List Nat} (hr : s.runs (.ret bp) = true)
    (hp : (s.operands (.ret bp)).1.focus.kind = .path u g P) :
    let t := (s.operands (.ret bp)).1
    let lost := P.filter fun k => (topCall (t.grp u g).calls k).isNone
    exec (.ret bp) s =
      .next (if lost.isEmpty then t.onGrp u g fun x => x.returnAll P else t.onGrp u g fun x => x.park lost 0x05 0).endPass := by
  refine (issueMove_runs _ _ _ hr).trans ?_
  simp only [hp, popCall_isNone]

theorem exec_ret_of_calls {bp : Pr} {s : State} {u g : Nat} {P : List Nat} (hr : s.runs (.ret bp) = true)
    (hp : (s.operands (.ret bp)).1.focus.kind = .path u g P)
    (has : ∀ k ∈ P, topCall ((s.operands (.ret bp)).1.grp u g).calls k ≠ none) :
    exec (.ret bp) s = .next ((s.operands (.ret bp)).1.onGrp u g fun x => x.returnAll P).endPass := by
  have found : (P.filter fun k => (topCall ((s.operands (.ret bp)).1.grp u g).calls k).isNone) = [] := by
    simpa [List.filter_eq_nil_iff] using has
  rw [exec_ret_of_path hr hp, found]
  rfl

theorem exec_ret_of_lost {bp : Pr} {s : State} {u g j : Nat} {P : List Nat} (hr : s.runs (.ret bp) = true)
    (hp : (s.operands (.ret bp)).1.focus.kind = .path u g P) (hj : j ∈ P)
    (top : topCall ((s.operands (.ret bp)).1.grp u g).calls j = none) :
    exec (.ret bp) s = .next ((s.operands (.ret bp)).1.onGrp u g fun x =>
      x.park (P.filter fun k => (topCall x.calls k).isNone) 0x05 0).endPass := by
  have lost : (P.filter fun k => (topCall ((s.operands (.ret bp)).1.grp u g).calls k).isNone) ≠ [] :=
    List.ne_nil_of_mem (List.mem_filter.mpr ⟨hj, Option.isNone_iff_eq_none.mpr top⟩)
  rw [exec_ret_of_path hr hp, if_neg (by rwa [List.isEmpty_iff])]
  exact congrArg (fun t : State => Host.Outcome.next t.endPass) (State.onGrp_congr rfl)

theorem Group.returnAll_singleton {x : Group} {k : Nat} {c : CallEntry} {above below : List CallEntry}
    (calls : x.calls = above ++ c :: below) (first : topCall above k = none) (here : c.holds k = true) :
    x.returnAll [k] = ({ x with calls := above ++ c.without k :: below }.sendTo [k] c.ret).pruneCalls := by
  rw [Group.returnAll_eq, List.foldl_cons, List.foldl_nil, Group.returnOne, calls, popCall_append first here]

theorem returns : Claims.Returns := by
  intro bp s t u g k hr ht
  subst ht
  refine ⟨fun c above below hp calls first path mem => ?_, fun P hp ⟨j, hj, top⟩ => exec_ret_of_lost hr hp hj top,
    fun P hp nodup has => ?_⟩
  · have here : c.holds k = true := by simp [CallEntry.holds, path, mem]
    refine (exec_ret_of_calls hr hp fun j hj => ?_).trans ?_
    · rw [List.mem_singleton.mp hj, Ne, ← popCall_eq_none_iff, calls, popCall_append first here]
      simp
    · exact congrArg (fun t : State => Host.Outcome.next t.endPass) (State.onGrp_congr (Group.returnAll_singleton calls first here))
  · intro x active
    have can : ∀ k ∈ P, x.CanReturn k := fun k hk =>
      ⟨Option.isSome_iff_ne_none.mp (has k hk), (active k hk).1, (active k hk).2⟩
    refine ⟨x.returnAll P, ?_, (Group.returned_foldl nodup can).pruneCalls fun k hk => (active k hk).2⟩
    refine (exec_ret_of_calls hr hp fun k hk => (can k hk).1).trans ?_
    exact congrArg (fun t : State => Host.Outcome.next t.endPass) (State.onGrp_congr rfl)

/-! Returns of a handler -/

theorem popHandlerCall_append {above : List CallEntry} {c : CallEntry} (here : c.handler = true)
    (first : ∀ d ∈ above, d.handler = false) (below : List CallEntry) :
    popHandlerCall (above ++ c :: below) = some (c.ret, above ++ below) := by
  induction above with
  | nil => simp [popHandlerCall, here]
  | cons d above ih =>
    rw [List.forall_mem_cons] at first
    simp [popHandlerCall, first.1, ih first.2]

theorem popHandlerCall_eq_none {calls : List CallEntry} (none : ∀ c ∈ calls, c.handler = false) : popHandlerCall calls = .none := by
  induction calls with
  | nil => rfl
  | cons c calls ih =>
    rw [List.forall_mem_cons] at none
    simp [popHandlerCall, none.1, ih none.2]

theorem handlerReturnCalls : Claims.HandlerReturnCalls := by
  intro bp s t u g hr ht hp
  subst ht
  constructor
  · intro c above below calls here first
    refine (issueMove_runs _ _ _ hr).trans ?_
    simp only [hp, calls, popHandlerCall_append here first, State.onGrp_goto_of_handler hp]
  · intro none
    refine (issueMove_runs _ _ _ hr).trans ?_
    simp only [hp, popHandlerCall_eq_none none]

/-! Service threads (R442) -/

/-- A service thread has no register soft errors and no queues, so that its operands are the state it stands in. -/
theorem State.operands_of_thread {s : State} {q : Nat} (hp : s.focus.kind = .thread q) (i : Instr) : s.operands i = (s, []) := by
  simp [State.operands, State.who, hp]

theorem State.endPass_of_thread {s : State} {q : Nat} (hp : s.focus.kind = .thread q) : s.endPass = s := by
  simp [State.endPass, hp]

/-- A transfer of a service thread, from a state that has changed its queue, goes to the address and no further. -/
theorem State.goto_of_thread {s : State} {q : Nat} (hp : s.focus.kind = .thread q) (va : Nat) : s.goto va = Claims.threadTo s q va := by
  simp only [State.goto, hp, Claims.threadTo]

theorem State.endPass_threadTo {s : State} {q : Nat} (hp : s.focus.kind = .thread q) (va : Nat) :
    (Claims.threadTo s q va).endPass = Claims.threadTo s q va :=
  State.endPass_of_thread (q := q) hp

theorem State.endPass_trapPath_of_thread {s : State} {q : Nat} (hp : s.focus.kind = .thread q) (code : Nat) :
    (s.trapPath code).endPass = s.trapPath code := by
  refine State.endPass_of_thread (q := q) ?_
  simp only [State.trapPath, hp, State.threadFault, State.onSqueue_focus]

/-- Every branch of a service thread tests p0 alone. -/
theorem soleTaken_of_thread {s : State} {q : Nat} (hp : s.focus.kind = .thread q) (kind : Nat) (ps : Pr) :
    s.soleTaken kind ps = decide (ps = 0) := by
  simp only [State.soleTaken, hp]
  split
  · rename_i h
    simp only [Bool.and_eq_true, decide_eq_true_eq] at h
    simp [h.2]
  · rw [Bool.eq_iff_iff]
    simp

theorem branchBy_of_thread {s : State} {q : Nat} (hp : s.focus.kind = .thread q) (kind : Nat) {i : Instr} (ps : Pr) (off : BitVec 18)
    (hr : s.runs i = true) : branchBy kind i ps off s =
      .next (Claims.threadTo s q (if decide (ps = 0) then Claims.wordsFromHeader s off else Claims.nextHeader s)) := by
  refine (issueMove_runs _ _ _ hr).trans ?_
  simp only [State.operands_of_thread hp, hp, soleTaken_of_thread hp, State.nextClause, State.goto_of_thread hp, ← apply_ite,
    State.endPass_threadTo hp, target_eq, nextClause_eq_nextHeader]

theorem threadTransfers : Claims.ThreadTransfers := by
  intro s q bp ps cr off a hp x taken
  have onThread (f : SQueue → SQueue) : (s.onSqueue q f).focus.kind = .thread q := hp
  refine ⟨branchBy_of_thread hp 0 (i := .bra bp ps off) ps off, branchBy_of_thread hp 1 (i := .brc bp ps off) ps off,
    branchBy_of_thread hp 2 (i := .brd bp ps off) ps off, fun hr aligned => ?_,
    fun hr => ?_, fun va r hr calls => ?_, fun hr calls => ?_, fun hr => ?_⟩
  · refine (issueMove_runs _ _ _ hr).trans ?_
    simp only [State.operands_of_thread hp, aligned, if_true, State.goto_of_thread hp, State.endPass_threadTo hp]
  · refine (issueMove_runs _ _ _ hr).trans ?_
    simp only [State.operands_of_thread hp, hp]
    by_cases full : 4 ≤ x.calls.length
    · rw [if_pos full, if_neg (by omega), State.endPass_trapPath_of_thread hp]
    · rw [if_neg full, if_pos (by omega), State.goto_of_thread (onThread _), State.endPass_threadTo (onThread _)]
      rfl
  · change (s.squeue q).thread.calls = va :: r at calls
    refine (issueMove_runs _ _ _ hr).trans ?_
    simp only [State.operands_of_thread hp, hp, calls]
    rw [State.goto_of_thread (onThread _), State.endPass_threadTo (onThread _)]
  · change (s.squeue q).thread.calls = [] at calls
    refine (issueMove_runs _ _ _ hr).trans ?_
    simp only [State.operands_of_thread hp, hp, calls]
    rw [State.endPass_trapPath_of_thread hp]
  · refine (issueMove_runs _ _ _ hr).trans ?_
    simp only [State.operands_of_thread hp, State.readW, State.putW, hp, State.nextClause]
    rw [← apply_ite, State.goto_of_thread (onThread _), State.endPass_threadTo (onThread _)]
    rfl

/-- Settles O9: a transfer that runs is its own effect between operands and the end of the pass; the returns of several strands follow by
induction on the path, each return taking one strand out of its topmost entry. -/
theorem branches : Obligations.Branches :=
  ⟨pathBranches, handlerBranches, indirectBranch, calls, returns, handlerReturnCalls, threadTransfers⟩

end Sys2Proof.Machine
end

section
/-! PROOFS of the special registers (R72, R442). -/

namespace Sys2Proof.Machine

theorem hLow_eq_fieldBase (h : List W8) (i : Nat) : hLow h i = Claims.fieldBase h i := by
  rw [hLow, Claims.fieldBase, List.sum_eq_foldl, List.foldl_map]
  rfl

theorem hField_eq (h : List W8) (wid i : Nat) : hField h wid i = wid / 2 ^ Claims.fieldBase h i % 2 ^ Claims.fieldWidth h i := by
  rw [hField, hLow_eq_fieldBase]
  rfl

/-- The two halves of the work identifier are its low 64 bits. -/
theorem workId_halves (n : Nat) : n % 2 ^ 32 + 2 ^ 32 * (n / 2 ^ 32 % 2 ^ 32) = n % 2 ^ 64 := by omega

/-- The strand that a path or a handler reads its special registers from. -/
theorem lowStrand_eq {s : State} {u g k : Nat}
    (hk : (∃ r, s.focus.kind = .path u g (k :: r)) ∨ (s.focus.kind = .handler u g ∧ k = (s.grp u g).trapStrands.headD 0)) :
    s.lowStrand = k ∧ ∀ i, s.readSpr i = s.sprGroup u g i := by
  rcases hk with ⟨r, hp⟩ | ⟨hp, rfl⟩ <;> simp [State.lowStrand, State.readSpr, hp]

theorem specialRegistersOfThread (s : State) (q i : Nat) (hp : s.focus.kind = .thread q) : s.readSpr i =
    if i = 0x0e then (s.squeue q).district else if i = 0x0f then (s.squeue q).domain else if i = 0x10 then s.cycle % 2 ^ 64
    else if i = 0x11 then (s.squeue q).thread.tick % 2 ^ 64 else 0 := by
  simp only [State.readSpr, hp, State.sprThread]
  split
  · rfl
  · rfl
  · rfl
  · rfl
  · rename_i h0e h0f h10 h11
    rw [if_neg h0e, if_neg h0f, if_neg h10, if_neg h11]

theorem specialRegisterValues : Claims.SpecialRegisters := by
  refine ⟨fun s u g k hk => ?_, specialRegistersOfThread⟩
  obtain ⟨low, read⟩ := lowStrand_eq hk
  refine ⟨?_, ?_, ?_, fun i hi => ?_, ?_⟩
  · rw [read, ← low]; rfl
  · rw [read]; rfl
  · rw [read]; rfl
  · rw [read, ← low]
    refine Eq.trans ?_ (hField_eq (s.launchHdr (s.block u)) (workId (s.launchHdr (s.block u)) (s.block u).ident g s.lowStrand) i)
    match i, hi with
    | 0, _ | 1, _ | 2, _ | 3, _ | 4, _ | 5, _ => rfl
  · simp only [read]
    rw [← low]
    refine ⟨rfl, rfl, rfl, rfl, rfl, rfl, rfl, rfl, rfl, rfl, rfl, rfl, workId_halves _⟩

/-! XGET and XPUT (R251) -/

theorem awaitWb_uniform (s : State) (u g n : Nat) (v : W32) : s.awaitWb u g { wWrites := [(n, v)] } = Claims.awaitsW s u g n v := rfl

/-- The result of one strand of one v register is one write-back, at that strand's cycle. -/
theorem awaitWb_strand (s : State) (u g r k : Nat) (v : W32) :
    s.awaitWb u g { vWrites := [(r, [(k, v)])] } = Claims.awaitsV s u g r k v := by
  simp [State.awaitWb, Claims.awaitsV, WriteBack.split, WriteBack.strands, WriteBack.only, insertNat]

theorem State.who_of_handler {s : State} {u g : Nat} (hp : s.focus.kind = .handler u g) (i : Instr) :
    (s.operands i).1.who = some (u, g, true) := by
  rw [State.who_operands_eq]
  simp only [State.who, hp]

/-- XGET of a handler, by the strand that B names (R251). -/
theorem exec_xget_of_handler {s : State} {u g : Nat} (hp : s.focus.kind = .handler u g) {n : Fin 32} {r : Fin 64} {b : Opd}
    (hr : s.runs (.xget (.w n) (.v r) b) = true) :
    let t := (s.operands (.xget (.w n) (.v r) b)).1
    let k := laneVal (t.grp u g) .n32 b none 0
    exec (.xget (.w n) (.v r) b) s =
      .next (if (t.grp u g).width ≤ k then t.trapPath 0x02
        else (Claims.awaitsW t u g n.val ((t.grp u g).getV r.val k)).advance).endPass := by
  refine (issueMove_runs _ _ _ hr).trans ?_
  simp only [State.who_of_handler hp, awaitWb_uniform]
  rfl

/-- XPUT of a handler, by the strand that B names (R251). -/
theorem exec_xput_of_handler {s : State} {u g : Nat} (hp : s.focus.kind = .handler u g) {r : Fin 64} {a b : Opd}
    (hr : s.runs (.xput (.v r) a b) = true) :
    let t := (s.operands (.xput (.v r) a b)).1
    let k := laneVal (t.grp u g) .n32 b none 0
    exec (.xput (.v r) a b) s =
      .next (if (t.grp u g).width ≤ k then t.trapPath 0x02
        else if ((t.grp u g).strand k).isExited then t.advance
        else (Claims.awaitsV t u g r.val k (BitVec.ofNat 32 (laneVal (t.grp u g) .n32 a none k))).advance).endPass := by
  refine (issueMove_runs _ _ _ hr).trans ?_
  simp only [State.who_of_handler hp, awaitWb_strand]
  rfl

theorem isExited_iff {t : Strand} : t.isExited = true ↔ t.st = .exited := beq_iff_eq

theorem handlerRegisters : Claims.HandlerRegisters := by
  intro s u g hp
  refine ⟨fun n r b hr => ⟨fun below => ?_, fun beyond => ?_⟩, fun r a b hr => ⟨fun below living => ?_, fun below exited => ?_,
    fun beyond => ?_⟩⟩
  · rw [exec_xget_of_handler hp hr, if_neg (Nat.not_le.mpr below)]
    rfl
  · rw [exec_xget_of_handler hp hr, if_pos beyond]
  · rw [exec_xput_of_handler hp hr, if_neg (Nat.not_le.mpr below), if_neg (mt isExited_iff.mp living)]
    rfl
  · rw [exec_xput_of_handler hp hr, if_neg (Nat.not_le.mpr below), if_pos (isExited_iff.mpr exited)]
    rfl
  · rw [exec_xput_of_handler hp hr, if_pos beyond]

/-! Reading the operands in a handler -/

theorem State.grp_onGrp_keeps {β : Type} (view : Group → β) {f : Group → Group} (keeps : ∀ x, view (f x) = view x) (s : State)
    (u g v h : Nat) : view ((s.onGrp u g f).grp v h) = view (s.grp v h) := by
  refine State.block_onBlock_keeps (fun b => view (b.group h)) (fun b => ?_) s u v
  by_cases hg : h = g
  · subst hg
    cases hx : b.groups[h]? with
    | none => simp [Block.group, Block.onGroup, List.getD_eq_getElem?_getD, hx]
    | some x => rw [Block.group_onGroup_same hx, keeps, Block.group_of_getElem? hx]
  · rw [Block.group_onGroup_of_ne hg]

theorem State.countErr_grp (s : State) (d k n u g : Nat) : (s.countErr d k n).grp u g = s.grp u g := by
  rw [State.countErr]
  split <;> rfl

/-- A change of the vector registers and of their soft errors alone. -/
def KeepsScalars (f : Group → Group) : Prop := ∀ x, (f x).width = x.width ∧ (f x).w = x.w

theorem keepsScalars_foldl {α : Type} {f : Group → α → Group} (keeps : ∀ a, KeepsScalars fun x => f x a) (l : List α) :
    KeepsScalars fun x => l.foldl f x := by
  induction l with
  | nil => exact fun _ => ⟨rfl, rfl⟩
  | cons a l ih =>
    intro x
    obtain ⟨width, w⟩ := ih (f x a)
    exact ⟨width.trans (keeps a x).1, w.trans (keeps a x).2⟩

/-- The reading of register soft errors in a handler changes v registers alone (R218). -/
theorem State.softRead_scalars {s : State} {u g : Nat} (hp : s.focus.kind = .handler u g) (i : Instr) :
    ((s.softRead u g i).grp u g).width = (s.grp u g).width ∧ ((s.softRead u g i).grp u g).w = (s.grp u g).w := by
  simp only [State.softRead]
  split
  · exact ⟨rfl, rfl⟩
  · simp only [State.countErr_focus, State.onGrp_focus, hp, State.countErr_grp]
    have zeroes (hits : List (Nat × List Nat × Bool)) :
        KeepsScalars fun x => hits.foldl (fun x e => e.2.1.foldl (fun x k => x.setV e.1 k 0) x) x :=
      keepsScalars_foldl (f := fun x e => e.2.1.foldl (fun x k => x.setV e.1 k 0) x)
        (fun e => keepsScalars_foldl (f := fun x k => x.setV e.1 k 0) (fun _ _ => ⟨rfl, rfl⟩) e.2.1) hits
    constructor
    · rw [State.grp_onGrp_keeps Group.width, State.grp_onGrp_keeps Group.width, State.countErr_grp]
      · exact fun _ => rfl
      · exact fun x => (zeroes _ x).1
    · rw [State.grp_onGrp_keeps Group.w, State.grp_onGrp_keeps Group.w, State.countErr_grp]
      · exact fun _ => rfl
      · exact fun x => (zeroes _ x).2

/-! Where the handler's accesses run (R162, R251) -/

/-- A source that XGET and XPUT allow beside the register: its value needs neither a v register nor a queue. -/
def scalarSrc (o : Opd) : Bool := uniVal o || o == .strandIdx || o == .grpWidth

theorem laneVal_of_scalarSrc {o : Opd} (ho : scalarSrc o = true) {x y : Group} (width : x.width = y.width) (w : x.w = y.w) (f : Fmt)
    (k : Nat) : laneVal x f o none k = laneVal y f o none k := by
  have getW (n : Nat) : x.getW n = y.getW n := by rw [Group.getW, Group.getW, w]
  cases o
  case w n => simp only [laneVal, getW]
  case grpWidth => simp only [laneVal, width]
  case v | q | half | mask | bad => cases ho
  all_goals rfl

theorem queueFree_of_scalarSrc {o : Opd} (ho : scalarSrc o = true) (n : Fin 16) : o ≠ .q n := by
  rintro rfl
  cases ho

/-- What an instruction must be for a handler to run it: one that a handler may issue, without a guard, a queue, a ring or a counter. -/
structure HandlerPlain (i : Instr) : Prop where
  may : handlerMay i = true
  unguarded : bpOf i = none ∧ predOf i = 0
  sources : srcQueues i = []
  destination : dstQueue i = none ∧ dstMask i = []
  ring : relOf i = none

theorem HandlerPlain.queueFault {i : Instr} (plain : HandlerPlain i) (b : Block) : queueFault b i = false := by
  obtain ⟨queue, mask⟩ := plain.destination
  simp [Machine.queueFault, plain.sources, queue, mask, plain.ring]

theorem HandlerPlain.queuesReady {i : Instr} (plain : HandlerPlain i) (b : Block) : queuesReady b i = true := by
  simp [Machine.queuesReady, plain.sources, plain.destination.1]

theorem HandlerPlain.runs {i : Instr} (plain : HandlerPlain i) {s : State} {u g : Nat} (hp : s.focus.kind = .handler u g)
    (legal : decodeTrap i s = none) (waits : ready i s = true) : s.runs i = true := by
  obtain ⟨guard, pred⟩ := plain.unguarded
  have who : s.who = some (u, g, true) := by simp only [State.who, hp]
  have fault : handlerFault i s = false := by simp [handlerFault, hp, plain.may]
  have runs : guardOff i s = false := by simp [guardOff, guard, pred, State.anyCovered, hp]
  have trap : execTrap i s = none := by simp [execTrap, hp, plain.queueFault]
  simp [State.runs, hp, legal, waits, who, fault, runs, trap, State.softRead_focus_of_handler hp]

theorem wellFormed_of_handler {i : Instr} {s : State} {u g : Nat} (hp : s.focus.kind = .handler u g)
    (legal : decodeTrap i s = none) : wellFormed i = true := by
  rw [wellFormed, Option.isNone_iff_eq_none]
  cases hi : ill i with
  | none => rfl
  | some c =>
    simp only [decodeTrap, hp, hi] at legal
    split at legal <;> cases legal

theorem xget_fields {d a b : Opd} (hw : wellFormed (.xget d a b) = true) :
    (∃ n, d = .w n) ∧ (∃ r, a = .v r) ∧ scalarSrc b = true := by
  obtain ⟨-, ok, sources⟩ := checks_of_wellFormed_lane rfl hw
  simp only [LaneForm.ok, LaneForm.dstOk, Bool.and_eq_true] at ok
  simp only [exchangeOk, Bool.and_eq_true] at sources
  obtain ⟨⟨⟨-, dst⟩, -⟩, -⟩ := ok
  obtain ⟨reg, scalar⟩ := sources
  refine ⟨?_, ?_, scalar⟩
  · cases d
    case w n => exact ⟨n, rfl⟩
    all_goals cases dst
  · cases a
    case v r => exact ⟨r, rfl⟩
    all_goals cases reg

theorem xput_fields {d a b : Opd} (hw : wellFormed (.xput d a b) = true) :
    (∃ r, d = .v r) ∧ scalarSrc a = true ∧ scalarSrc b = true := by
  obtain ⟨-, ok, sources⟩ := checks_of_wellFormed_lane rfl hw
  simp only [LaneForm.ok, LaneForm.dstOk, Bool.and_eq_true] at ok
  simp only [exchangeOk, Bool.and_eq_true] at sources
  obtain ⟨⟨⟨-, dst⟩, -⟩, -⟩ := ok
  refine ⟨?_, sources⟩
  cases d
  case v r => exact ⟨r, rfl⟩
  all_goals cases dst

theorem srcQueues_eq_nil {i : Instr} (none : ∀ q, Opd.q q ∉ srcs i) : srcQueues i = [] := by
  rw [srcQueues, List.filterMap_eq_nil_iff]
  intro o ho
  split
  · exact absurd ho (none _)
  · rfl

theorem xget_noQueue {n : Fin 32} {r : Fin 64} {b : Opd} (hb : scalarSrc b = true) (q : Fin 16) :
    Opd.q q ∉ srcs (.xget (.w n) (.v r) b) := by
  have := queueFree_of_scalarSrc hb q
  simpa [srcs, laneForm] using this.symm

theorem xput_noQueue {r : Fin 64} {a b : Opd} (ha : scalarSrc a = true) (hb : scalarSrc b = true) (q : Fin 16) :
    Opd.q q ∉ srcs (.xput (.v r) a b) := by
  simpa [srcs, laneForm] using ⟨(queueFree_of_scalarSrc ha q).symm, (queueFree_of_scalarSrc hb q).symm⟩

/-- The operands of an instruction without a queue source keep the value that names the handler's strand, and the width. -/
theorem handlerStrand_operands {s : State} {u g : Nat} {i : Instr} {b : Opd} (hp : s.focus.kind = .handler u g)
    (noQueue : ∀ q, Opd.q q ∉ srcs i) (hb : scalarSrc b = true) :
    let t := (s.operands i).1
    laneVal (t.grp u g) .n32 b none 0 = laneVal (s.grp u g) .n32 b none 0 ∧ (t.grp u g).width = (s.grp u g).width := by
  have who : s.who = some (u, g, true) := by simp only [State.who, hp]
  have read : (s.operands i).1 = s.softRead u g i := by
    simp only [State.operands, who, State.popSrcs_of_no_queue noQueue]
  obtain ⟨width, w⟩ := State.softRead_scalars hp i
  rw [read]
  exact ⟨laneVal_of_scalarSrc hb width w _ _, width⟩

theorem handlerAccessCompletes : Claims.HandlerAccessCompletes := by
  intro s u g d a b hp k below
  refine ⟨fun legal free => ?_, fun legal free => ?_⟩
  · obtain ⟨⟨n, rfl⟩, ⟨r, rfl⟩, hb⟩ := xget_fields (wellFormed_of_handler hp legal)
    have noQueue := xget_noQueue (n := n) (r := r) hb
    have plain : HandlerPlain (.xget (.w n) (.v r) b) := ⟨rfl, ⟨rfl, rfl⟩, srcQueues_eq_nil noQueue, ⟨rfl, rfl⟩, rfl⟩
    have waits : ready (.xget (.w n) (.v r) b) s = true := by
      simp [ready, hp, free, counterOf, plain.queuesReady]
    have hr := plain.runs hp legal waits
    obtain ⟨strand, width⟩ := handlerStrand_operands hp noQueue hb
    have run := ((handlerRegisters s u g hp).1 n r b hr).1 (by rw [strand, width]; exact below)
    refine ⟨n, r, rfl, rfl, hr, ?_⟩
    rw [run, strand]
  · obtain ⟨⟨r, rfl⟩, ha, hb⟩ := xput_fields (wellFormed_of_handler hp legal)
    have noQueue := xput_noQueue (r := r) ha hb
    have plain : HandlerPlain (.xput (.v r) a b) := ⟨rfl, ⟨rfl, rfl⟩, srcQueues_eq_nil noQueue, ⟨rfl, rfl⟩, rfl⟩
    have waits : ready (.xput (.v r) a b) s = true := by
      simp [ready, hp, free, counterOf, plain.queuesReady]
    have hr := plain.runs hp legal waits
    obtain ⟨strand, width⟩ := handlerStrand_operands hp noQueue hb
    refine ⟨r, rfl, hr, ?_⟩
    rw [exec_xput_of_handler hp hr, strand, width, if_neg (Nat.not_le.mpr below)]
    exact congrArg (fun t : State => Host.Outcome.next t.endPass) (apply_ite State.advance _ _ _).symm

/-- Settles O16: a special register is its row of Table 14; XGET and XPUT run in a handler because nothing but the checks at decode and an
awaited write-back can hold them there, and reading their operands keeps the strand that B names. -/
theorem specialRegisters : Obligations.SpecialRegisters :=
  ⟨specialRegisterValues, handlerRegisters, handlerAccessCompletes⟩

end Sys2Proof.Machine
end

section
/-! PROOFS of the float results of the lanes (R93, R106, R237 to R240). -/

namespace Sys2Proof.Machine

/-! What a rule delivers that depends on the launch's flush flag (R93) and on the destination's old value (R221) -/

/-- An instruction that, where the launch flushes as `fl` says, delivers strand by strand what a rule gives. -/
def FlushMeaning (fl : Bool) (i : Instr) (r : Claims.Rule) : Prop :=
  ∀ s : State, s.runs i = true → (s.operands i).1.flushes = fl →
    exec i s = .next ((s.operands i).1.lanesOld i (s.operands i).2 r.1 r.2).passes

theorem State.lanesOld_eq {s : State} {u g : Nat} {b : Bool} {i : Instr} {f : LaneForm} (hw : s.who = some (u, g, b)) (hf : laneForm i = some f)
    (es : List Elem) (r : Claims.Rule) : s.lanesOld i es r.1 r.2 = s.deliver u g f (Claims.results s u g i es f r) [] := by
  simp only [State.lanesOld, hw, hf, Claims.results]
  rfl

/-- An instruction that runs on a path has passed the checks that its own fields decide (R53). -/
theorem wellFormed_of_path {s : State} {u g : Nat} {ks : List Nat} (hk : s.focus.kind = .path u g ks) {i : Instr} (hr : s.runs i = true) :
    wellFormed i = true := by
  rw [wellFormed, Option.isNone_iff_eq_none]
  cases hi : ill i with
  | none => rfl
  | some c =>
    have traps : (decodeTrap i s).isSome := by
      simp only [decodeTrap, hk, hi]
      split <;> rfl
    simp [State.runs, Option.isSome_iff_ne_none.mp traps] at hr

/-- A table of results holds if every well-formed instruction delivers what its entry gives. -/
theorem FlushMeaning.follows {rule : Bool → Instr → Option Claims.Rule}
    (h : ∀ {fl i r}, wellFormed i = true → rule fl i = some r → FlushMeaning fl i r) : Claims.Follows rule := by
  intro i s u g ks f r hk hr hf hrule
  rw [h (wellFormed_of_path hk hr) hrule s hr rfl, State.lanesOld_eq (State.who_operands hk i) hf]

theorem flushMeaning_lanesOld {fl : Bool} {i : Instr} {fs : List Fmt} {op : Bool → Nat → List Nat → Nat}
    (hx : ∀ s, exec i s = issue i s fun es s => s.lanesOld i es fs (op s.flushes)) : FlushMeaning fl i (fs, op fl) := by
  rintro s hr rfl
  rw [hx, issue_runs i s _ hr]

/-- A result that does not read the destination's old value. -/
theorem flushMeaning_lanes {fl : Bool} {i : Instr} {fs : List Fmt} {op : Bool → List Nat → Nat}
    (hx : ∀ s, exec i s = issue i s fun es s => s.lanes i es fs (op s.flushes)) : FlushMeaning fl i (fs, fun _ => op fl) :=
  flushMeaning_lanesOld (op := fun fl _ => op fl) hx

theorem flushMeaning_flt1 {fl : Bool} {f : Fmt} {i : Instr} {r : Claims.Rule} (op : Ex → Ex) (hx : ∀ s, exec i s = flt1 f i s op)
    (h : Claims.flt1R fl f op = some r) : FlushMeaning fl i r :=
  Option.some.inj h ▸ flushMeaning_lanes (op := fun fl l => outVal fl f 0 false (op (inVal fl f (arg0 l)))) hx

theorem flushMeaning_flt2 {fl : Bool} {f : Fmt} {i : Instr} {r : Claims.Rule} (op : Ex → Ex → Ex) (hx : ∀ s, exec i s = flt2 f i s op)
    (h : Claims.flt2R fl f op = some r) : FlushMeaning fl i r :=
  Option.some.inj h ▸ flushMeaning_lanes (op := fun fl l => outVal fl f 0 false (op (inVal fl f (arg0 l)) (inVal fl f (arg1 l)))) hx

/-! The two halves of a DUO instruction (R239) -/

theorem duoFmt_eq (x : Fx) : duoFmt x = if x.opxN % 2 = 1 then .bf16 else .f16 := by rw [duoFmt, Fx.sel_zero]

theorem half16_eq (w k : Nat) : half16 w k = w / 65536 ^ k % 65536 := by
  simp [half16, Nat.pow_mul]

theorem bHalf_eq (x : Fx) (b k : Nat) :
    bHalf x b k = half16 b (if x.opxN / 2 % 4 = 1 then 0 else if x.opxN / 2 % 4 = 2 then 1 else k) := by
  have field : x.sel 2 1 = x.opxN / 2 % 4 := by simp [Fx.sel_eq]
  rw [bHalf, field]
  generalize x.opxN / 2 % 4 = n
  congr 1
  split <;> simp_all

/-- Both halves of a DUO result (R239), by the instruction's own choice of the half of b. -/
theorem duoR_eq (x : Fx) (n : Nat) (half : Fmt → Nat → Nat → Nat → Nat) :
    Claims.duoR x n half = some (List.replicate n (duoFmt x), fun _ l => duoWord fun k =>
      half (duoFmt x) (half16 (arg0 l) k) (bHalf x (arg1 l) k) (half16 (arg2 l) k)) := by
  simp only [Claims.duoR, duoFmt_eq, bHalf_eq, half16_eq, duoWord, arg0, arg1, arg2]
  rfl

/-! The rules of each instruction -/

/-- Every float instruction delivers the exact result of R237 to R240, rounded once. -/
theorem fltRule_meaning {fl : Bool} {i : Instr} {r : Claims.Rule} (h : Claims.fltRule fl i = some r) : FlushMeaning fl i r := by
  cases i
  case fadd d a b p => exact flushMeaning_flt2 (Ex.add false) (fun s => show execFadd d a b p s = _ from rfl) h
  case fsub d a b p => exact flushMeaning_flt2 (fun x y => Ex.add false x y.neg) (fun s => show execFsub d a b p s = _ from rfl) h
  case fmul d a b p => exact flushMeaning_flt2 Ex.mul (fun s => show execFmul d a b p s = _ from rfl) h
  case fmin d a b p => exact flushMeaning_flt2 (Ex.pick false) (fun s => show execFmin d a b p s = _ from rfl) h
  case fmax d a b p => exact flushMeaning_flt2 (Ex.pick true) (fun s => show execFmax d a b p s = _ from rfl) h
  case fdiv d a b p => exact flushMeaning_flt2 Ex.div (fun s => show execFdiv d a b p s = _ from rfl) h
  case dadd d a b p => exact flushMeaning_flt2 (Ex.add false) (fun s => show execDadd d a b p s = _ from rfl) h
  case dmul d a b p => exact flushMeaning_flt2 Ex.mul (fun s => show execDmul d a b p s = _ from rfl) h
  case fneg d a p => exact flushMeaning_flt1 Ex.neg (fun s => show execFneg d a p s = _ from rfl) h
  case fabs d a p => exact flushMeaning_flt1 Ex.abs (fun s => show execFabs d a p s = _ from rfl) h
  case frcp d a p => exact flushMeaning_flt1 (Ex.div (.fin false 1 0)) (fun s => show execFrcp d a p s = _ from rfl) h
  case frsq d a p => exact flushMeaning_flt1 Ex.rsqrt (fun s => show execFrsq d a p s = _ from rfl) h
  case fsqrt d a p => exact flushMeaning_flt1 Ex.sqrt (fun s => show execFsqrt d a p s = _ from rfl) h
  case fex2 d a p => exact flushMeaning_flt1 Ex.exp2 (fun s => show execFex2 d a p s = _ from rfl) h
  case flg2 d a p => exact flushMeaning_flt1 Ex.log2 (fun s => show execFlg2 d a p s = _ from rfl) h
  case fsin d a p => exact flushMeaning_flt1 (Ex.trig false) (fun s => show execFsin d a p s = _ from rfl) h
  case fcos d a p => exact flushMeaning_flt1 (Ex.trig true) (fun s => show execFcos d a p s = _ from rfl) h
  case fscale d a b p =>
    simp only [Claims.fltRule, int32_eq] at h
    exact Option.some.inj h ▸ flushMeaning_lanes
      (op := fun fl l => outVal fl .f32 0 false (Ex.scale (sext (arg1 l) 32) (inVal fl .f32 (arg0 l))))
      fun s => show execFscale d a b p s = _ from rfl
  case ffma d a b c p x =>
    exact Option.some.inj h ▸ flushMeaning_lanes (op := fun fl l => fusedMac fl .f32 x (arg0 l) (arg1 l) (arg2 l))
      fun s => show execFfma d a b c p x s = _ from rfl
  case dfma d a b c p x =>
    exact Option.some.inj h ▸ flushMeaning_lanes (op := fun _ l => fusedMac false .f64 x (arg0 l) (arg1 l) (arg2 l))
      fun s => show execDfma d a b c p x s = _ from rfl
  case duoadd d a b p x =>
    simp only [Claims.fltRule, duoR_eq] at h
    exact Option.some.inj h ▸ flushMeaning_lanes (op := fun fl l => duoWord fun k =>
      outVal fl (duoFmt x) x.rm.toNat x.sat (Ex.add (x.rm = 2) (negIf x.na (inVal fl (duoFmt x) (half16 (arg0 l) k)))
        (negIf x.nb (inVal fl (duoFmt x) (bHalf x (arg1 l) k)))))
      fun s => show execDuoadd d a b p x s = _ from rfl
  case duomul d a b p x =>
    simp only [Claims.fltRule, duoR_eq] at h
    exact Option.some.inj h ▸ flushMeaning_lanes (op := fun fl l => duoWord fun k =>
      outVal fl (duoFmt x) x.rm.toNat x.sat (Ex.mul (negIf x.na (inVal fl (duoFmt x) (half16 (arg0 l) k)))
        (negIf x.nb (inVal fl (duoFmt x) (bHalf x (arg1 l) k)))))
      fun s => show execDuomul d a b p x s = _ from rfl
  case duofma d a b c p x =>
    simp only [Claims.fltRule, duoR_eq] at h
    exact Option.some.inj h ▸ flushMeaning_lanes (op := fun fl l => duoWord fun k =>
      fusedMac fl (duoFmt x) x (half16 (arg0 l) k) (bHalf x (arg1 l) k) (half16 (arg2 l) k))
      fun s => show execDuofma d a b c p x s = _ from rfl
  all_goals exact absurd h nofun

/-- Settles O2: each instruction runs through `lanes`, with the operation that its rule names between the flushes of operands and
result. -/
theorem laneFloatResults : Obligations.LaneFloatResults := FlushMeaning.follows fun _ h => fltRule_meaning h

end Sys2Proof.Machine
end

section
/-! PROOFS of conversions, packed elements and dot products (R99, R102, R103, R105, R107, R241 to R244). -/

namespace Sys2Proof.Machine

/-! Rounding to integers (R102) -/

/-- A number above an integer and below the next, rounded. -/
theorem toInteger_add_div (mode : Nat) (q : Int) {r d : Nat} (hr : r < d) :
    Claims.toInteger mode ((q : Rat) + (r : Rat) / (d : Rat)) =
      if mode = 1 then (if q < 0 ∧ r ≠ 0 then q + 1 else q)
      else if mode = 2 then q
      else if mode = 3 then (if r = 0 then q else q + 1)
      else if 2 * r < d ∨ (2 * r = d ∧ q % 2 = 0) then q else q + 1 := by
  have hd : (0 : Rat) < d := by exact_mod_cast (Nat.zero_le r).trans_lt hr
  have part_nonneg : (0 : Rat) ≤ (r : Rat) / d := by positivity
  have part_lt : (r : Rat) / d < 1 := (div_lt_one hd).mpr (by exact_mod_cast hr)
  have floor : ⌊(q : Rat) + (r : Rat) / d⌋ = q := by
    rw [Int.floor_eq_iff]
    constructor <;> linarith
  have ceil : ⌈(q : Rat) + (r : Rat) / d⌉ = if r = 0 then q else q + 1 := by
    split
    case isTrue h => simp [h]
    case isFalse h =>
      have part_pos : (0 : Rat) < (r : Rat) / d := div_pos (by exact_mod_cast Nat.pos_of_ne_zero h) hd
      rw [Int.ceil_eq_iff]
      push_cast
      constructor <;> linarith
  have sign : (q : Rat) + (r : Rat) / d < 0 ↔ q < 0 := by rw [← Int.floor_lt_zero, floor]
  have half_lt : (r : Rat) / d < 1 / 2 ↔ 2 * r < d := by
    rw [div_lt_div_iff₀ hd (by norm_num)]
    norm_cast
    omega
  have half_eq : (r : Rat) / d = 1 / 2 ↔ 2 * r = d := by
    rw [div_eq_div_iff hd.ne' (by norm_num)]
    norm_cast
    omega
  simp only [Claims.toInteger, floor, ceil, sign, add_sub_cancel_left, half_lt, half_eq]
  split_ifs <;> omega

theorem toInteger_intCast (mode : Nat) (z : Int) : Claims.toInteger mode (z : Rat) = z := by
  simpa using toInteger_add_div mode z (r := 0) (d := 1) one_pos

/-- What rounding adds to the whole part of a magnitude. -/
theorem roundShift_eq (mode : Nat) (neg : Bool) (m n : Nat) :
    roundShift mode neg m n = m / 2 ^ n + if roundsUp mode neg (m / 2 ^ n % 2 = 1) (m % 2 ^ n) n then 1 else 0 := by
  simp only [roundShift, Nat.shiftRight_eq_div_pow]
  split <;> rfl

/-- A fraction is its whole part and its remainder. -/
theorem natCast_div_two_pow (m n : Nat) :
    (m : Rat) / (2 : Rat) ^ n = ((m / 2 ^ n : Nat) : Int) + ((m % 2 ^ n : Nat) : Rat) / ((2 ^ n : Nat) : Rat) := by
  have parts := congrArg (Nat.cast (R := Rat)) (Nat.div_add_mod m (2 ^ n))
  push_cast at parts
  have pos : (0 : Rat) < 2 ^ n := by positivity
  push_cast
  rw [div_eq_iff pos.ne', add_mul, div_mul_cancel₀ _ pos.ne', mul_comm]
  exact parts.symm

theorem roundsUp_iff {mode : Nat} (hm : mode < 4) (neg odd : Bool) (r n : Nat) :
    roundsUp mode neg odd r n = true ↔ (mode = 0 ∧ (2 ^ n < 2 * r ∨ (2 * r = 2 ^ n ∧ odd = true))) ∨
      (mode = 2 ∧ neg = true ∧ r ≠ 0) ∨ (mode = 3 ∧ neg = false ∧ r ≠ 0) := by
  match mode, hm with
  | 0, _ | 1, _ | 2, _ | 3, _ => simp [roundsUp]

/-- A fraction rounded on its magnitude, with its sign: a negative one lies above the next whole number below. -/
theorem signed_roundShift {mode : Nat} (hm : mode < 4) (neg : Bool) (m n : Nat) :
    (if neg then -(roundShift mode neg m n : Int) else (roundShift mode neg m n : Int)) =
      Claims.toInteger mode (if neg then -((m : Rat) / 2 ^ n) else (m : Rat) / 2 ^ n) := by
  have hr : m % 2 ^ n < 2 ^ n := Nat.mod_lt _ (Nat.two_pow_pos n)
  simp only [roundShift_eq, natCast_div_two_pow, roundsUp_iff hm, decide_eq_true_eq]
  generalize m / 2 ^ n = k
  generalize m % 2 ^ n = r at *
  generalize 2 ^ n = d at *
  cases neg with
  | false =>
    simp only [Bool.false_eq_true, if_false, toInteger_add_div mode k hr, true_and, false_and, and_false, false_or]
    split_ifs <;> omega
  | true =>
    have below : -(((k : Int) : Rat) + (r : Rat) / (d : Rat)) =
        if r = 0 then ((-k : Int) : Rat) + ((0 : Nat) : Rat) / (d : Rat)
        else ((-k - 1 : Int) : Rat) + ((d - r : Nat) : Rat) / (d : Rat) := by
      have hd : (d : Rat) ≠ 0 := by norm_cast; omega
      split
      case isTrue h => simp [h]
      case isFalse h =>
        push_cast [Nat.cast_sub hr.le]
        field_simp
        ring
    simp only [if_true, below, reduceCtorEq, true_and, false_and, and_false, or_false]
    by_cases whole : r = 0
    · rw [if_pos whole, toInteger_add_div mode _ (by omega)]
      split_ifs <;> omega
    · rw [if_neg whole, toInteger_add_div mode _ (by omega)]
      split_ifs <;> omega

/-- A number rounded on its magnitude and with its sign: the same in every mode. -/
theorem signed_roundInt {mode : Nat} (hm : mode < 4) (neg : Bool) (m : Nat) (e : Int) :
    (if neg then -(roundInt mode neg m e : Int) else (roundInt mode neg m e : Int)) =
      Claims.toInteger mode ((if neg then -1 else 1) * m * (2 : Rat) ^ e) := by
  by_cases he : 0 ≤ e
  · obtain ⟨n, rfl⟩ := Int.eq_ofNat_of_zero_le he
    have value : ((if neg then -1 else 1) * m * (2 : Rat) ^ (n : Int)) =
        ((if neg then -((m * 2 ^ n : Nat) : Int) else ((m * 2 ^ n : Nat) : Int) : Int) : Rat) := by
      cases neg <;> simp
    rw [value, toInteger_intCast, roundInt, if_pos he, Int.toNat_natCast, Nat.shiftLeft_eq]
  · have value : ((if neg then -1 else 1) * m * (2 : Rat) ^ e) =
        if neg then -((m : Rat) / 2 ^ (-e).toNat) else (m : Rat) / 2 ^ (-e).toNat := by
      have power : (2 : Rat) ^ e = (2 ^ (-e).toNat)⁻¹ := by
        rw [← zpow_natCast, ← zpow_neg, Int.toNat_of_nonneg (by omega), neg_neg]
      cases neg <;> simp [power, div_eq_mul_inv]
    rw [value, roundInt, if_neg he, signed_roundShift hm]

/-! Conversions (Table 7 of R105) -/

theorem intOf_eq (f : Fmt) (b : Nat) : Claims.intOf f b = readInt f.isSigned b f.width := (readInt_eq ..).symm

/-- A clamp to the range of a format. -/
theorem satN_eq (f : Fmt) (x : Int) :
    satN f.isSigned x f.width = (max (Claims.lowest f) (min x (Claims.highest f)) % 2 ^ f.width).toNat :=
  macResult_eq true f.isSigned x f.width

theorem sourceVal_eq (fl : Bool) (f : Fmt) (b : Nat) : Claims.sourceVal fl f b = f.value (flushPat fl f b) := by
  cases h : f.ff <;> simp [Claims.sourceVal, flushPat, inVal, Fmt.value, Fmt.ffD, h]

/-- The formats without a float shape. -/
theorem Fmt.ff_eq_none_iff (f : Fmt) : f.ff = none ↔ f.isInt = true ∨ f = .e8m0 := by cases f <;> decide

theorem outVal_eq {f : Fmt} {ff : FF} (h : f.ff = some ff) (fl : Bool) (mode : Nat) (sat : Bool) (x : Ex) :
    outVal fl f mode sat x = flushPat fl f (ff.round mode sat false x) := by
  simp [outVal, flushPat, Fmt.ffD, h]

theorem convert_ints {src dst : Fmt} (hs : src.isInt = true) (hd : dst.isInt = true) (mode : Nat) (sat : Bool) (b : Nat) :
    convert src dst mode sat b =
      ((if sat then max (Claims.lowest dst) (min (Claims.intOf src b) (Claims.highest dst)) else Claims.intOf src b) % 2 ^ dst.width).toNat := by
  rw [intOf_eq]
  refine Eq.trans ?_ (macResult_eq sat dst.isSigned _ dst.width)
  simp only [convert, hs, hd, readInt, macResult, Bool.and_self, if_true]

/-- A conversion between formats that are not both integers rounds the exact value. -/
theorem convert_of_float {src dst : Fmt} (h : ¬(src.isInt = true ∧ dst.isInt = true)) (mode : Nat) (sat : Bool) (b : Nat) :
    convert src dst mode sat b = dst.round mode sat (src.value b) := by
  rw [← Bool.and_eq_true] at h
  rw [convert, if_neg h]
  rfl

theorem Fmt.round_of_int {f : Fmt} (h : f.isInt = true) (mode : Nat) (sat : Bool) (x : Ex) : f.round mode sat x = toIntFmt f mode x := by
  have notScale : f ≠ .e8m0 := by rintro rfl; cases h
  simp only [Fmt.round, (Fmt.ff_eq_none_iff f).mpr (.inl h), notScale, if_false]

theorem bounds_of_formats (f : Fmt) : -2 ^ 80 < Claims.lowest f ∧ Claims.lowest f ≤ Claims.highest f ∧ Claims.highest f < 2 ^ 80 := by
  cases f <;> decide

/-- An infinity as an integer: the bound of its sign. -/
theorem toIntFmt_inf (f : Fmt) (mode : Nat) (neg : Bool) :
    toIntFmt f mode (.inf neg) = ((if neg then Claims.lowest f else Claims.highest f) % 2 ^ f.width).toNat := by
  obtain ⟨low, order, high⟩ := bounds_of_formats f
  rw [toIntFmt, satN_eq]
  congr 3
  push_cast
  cases neg <;> simp <;> omega

/-- A number as an integer: rounded, then clamped. -/
theorem toIntFmt_fin (f : Fmt) {mode : Nat} (hm : mode < 4) (neg : Bool) (m : Nat) (e : Int) :
    toIntFmt f mode (.fin neg m e) =
      (max (Claims.lowest f) (min (Claims.toInteger mode ((if neg then -1 else 1) * m * (2 : Rat) ^ e)) (Claims.highest f)) %
        2 ^ f.width).toNat := by
  rw [toIntFmt, satN_eq, signed_roundInt hm]

theorem clog_two {m : Nat} (hm : m ≠ 0) : Nat.clog 2 m = if m = 2 ^ Nat.log2 m then Nat.log2 m else Nat.log2 m + 1 := by
  have low : 2 ^ Nat.log2 m ≤ m := Nat.log2_self_le hm
  have high : m < 2 ^ (Nat.log2 m + 1) := Nat.lt_log2_self
  split
  case isTrue h => rw (occs := .pos [1]) [h]; rw [Nat.clog_pow _ _ (by decide)]
  case isFalse h =>
    exact le_antisymm (Nat.clog_le_of_le_pow high.le) (Nat.lt_clog_iff_pow_lt (by decide) |>.mpr (low.lt_of_ne (Ne.symm h)))

/-- The E8M0 code of a number: its exponent, rounded up in mode 3, with the bias and clamped. -/
theorem toE8m0_fin (mode : Nat) (sat neg : Bool) (m : Nat) (e : Int) :
    toE8m0 mode sat (.fin neg m e) =
      if m = 0 then 0 else (max 0 (min (((if mode = 3 then Nat.clog 2 m else Nat.log2 m : Nat) : Int) + e + 127) 254)).toNat := by
  rw [toE8m0]
  by_cases hm : m = 0
  · simp [hm]
  · simp only [if_neg hm, clog_two hm]
    split_ifs <;> omega

theorem FF.maxCode_lt (f : FF) : f.maxCode < 2 ^ f.eb * 2 ^ f.fb := by
  have codes : 0 < 2 ^ f.eb * 2 ^ f.fb := by positivity
  have finite : (2 ^ f.eb - 1) * 2 ^ f.fb ≤ 2 ^ f.eb * 2 ^ f.fb := Nat.mul_le_mul_right _ (Nat.sub_le ..)
  simp only [FF.maxCode, Nat.pow_add]
  split <;> omega

/-- 2^2000 lies above every format whose exponents end below it. -/
theorem FF.roundFin_above {f : FF} (h : 2 ^ f.eb ≤ 2000 + f.bias) (mode : Nat) (sat neg : Bool) :
    f.roundFin mode sat neg 1 2000 = f.overflow mode sat neg := by
  have quantum : max f.q (((Nat.log2 1 : Nat) : Int) + 2000 - (f.fb : Int)) = 2000 - f.fb := by
    rw [show Nat.log2 1 = 0 from rfl, FF.q]
    omega
  have mantissa : roundInt mode neg 1 (2000 - (2000 - (f.fb : Int))) = 2 ^ f.fb := by
    rw [sub_sub_cancel, roundInt, if_pos (by omega), Int.toNat_natCast, Nat.one_shiftLeft]
  have exponent : ((2000 : Int) - f.fb - f.q).toNat = 1999 + f.bias := by
    rw [FF.q]
    omega
  have code : f.maxCode < 2 ^ f.fb + (1999 + f.bias) * 2 ^ f.fb :=
    calc f.maxCode < 2 ^ f.eb * 2 ^ f.fb := f.maxCode_lt
      _ ≤ (2000 + f.bias) * 2 ^ f.fb := Nat.mul_le_mul_right _ h
      _ = 2 ^ f.fb + (1999 + f.bias) * 2 ^ f.fb := by ring
  simp only [FF.roundFin, quantum, mantissa, exponent, code, one_ne_zero, if_false, if_true]

theorem exponents_of_format {f : Fmt} {ff : FF} (h : f.ff = some ff) : 2 ^ ff.eb ≤ 2000 + ff.bias := by
  cases f <;> cases h <;> decide

/-- An infinite source takes the row of Table 6 that a number beyond the range takes (R103). -/
theorem FF.round_inf_of_conversion {f : FF} (h : 2 ^ f.eb ≤ 2000 + f.bias) (mode : Nat) (sat neg : Bool) :
    f.round mode sat true (.inf neg) = f.round mode sat false (.fin neg 1 2000) := by
  simp [FF.round, FF.roundFin_above h]

theorem flushPat_of_no_float {f : Fmt} (h : f.ff = none) (fl : Bool) (b : Nat) : flushPat fl f b = b := by simp only [flushPat, h]

/-- A conversion of the lane engine is the row of Table 7 that its formats name. -/
theorem laneConvert_eq_table7 {mode : Nat} (hm : mode < 4) (fl : Bool) (fr ft : Fmt) (sat : Bool) (b : Nat) :
    laneConvert fl fr ft mode sat b = Claims.table7 fl fr ft mode sat b := by
  simp only [laneConvert, Claims.table7, sourceVal_eq]
  by_cases ints : fr.isInt = true ∧ ft.isInt = true
  · obtain ⟨fromInt, toInt⟩ := ints
    rw [if_pos ⟨fromInt, toInt⟩, flushPat_of_no_float ((Fmt.ff_eq_none_iff fr).mpr (.inl fromInt)),
      flushPat_of_no_float ((Fmt.ff_eq_none_iff ft).mpr (.inl toInt)), convert_ints fromInt toInt]
  · rw [if_neg ints, convert_of_float ints]
    generalize fr.value (flushPat fl fr b) = x
    by_cases toInt : ft.isInt = true
    · rw [if_pos toInt, flushPat_of_no_float ((Fmt.ff_eq_none_iff ft).mpr (.inl toInt)), Fmt.round_of_int toInt]
      cases x with
      | nan => rfl
      | inf neg => exact toIntFmt_inf ft mode neg
      | fin neg m e => exact toIntFmt_fin ft hm neg m e
    · rw [if_neg toInt]
      by_cases scale : ft = .e8m0
      · subst scale
        rw [if_pos rfl, flushPat_of_no_float rfl]
        cases x with
        | nan | inf neg => rfl
        | fin neg m e => exact toE8m0_fin mode sat neg m e
      · rw [if_neg scale]
        obtain ⟨ff, float⟩ := Option.ne_none_iff_exists'.mp (mt (Fmt.ff_eq_none_iff ft).mp (not_or.mpr ⟨toInt, scale⟩))
        simp only [outVal_eq float, Fmt.round, float]
        cases x with
        | nan | fin => rfl
        | inf neg => rw [FF.round_inf_of_conversion (exponents_of_format float)]

theorem flushPat_false (f : Fmt) (b : Nat) : flushPat false f b = b := by
  cases h : f.ff <;> simp [flushPat, h, FF.flush]

/-- To the nearest, an infinity is the infinity of an IEEE format, of a conversion or not. -/
theorem FF.round_of_conversion_nearest {f : FF} (ieee : f.kind = 0) (x : Ex) : f.round 0 false true x = f.round 0 false false x := by
  cases x with
  | nan | fin => rfl
  | inf neg => simp [FF.round, ieee]

/-! Packed elements (R99) -/

theorem slotBits_eq (f : Fmt) : Claims.slotBits f = f.storage := by cases f <;> rfl

theorem Fmt.width_pos (f : Fmt) : 0 < f.width := by cases f <;> decide
theorem Fmt.width_le_storage (f : Fmt) : f.width ≤ f.storage := by cases f <;> decide

/-- An element of a narrow format is the bits of its place. -/
theorem elemOf_eq_bits {f : Fmt} (narrow : f.width < 32) (v k : Nat) :
    elemOf f v k = bits v (f.storage * k + f.width - 1) (f.storage * k) := by
  have len : f.storage * k + f.width - 1 + 1 - f.storage * k = f.width := by have := f.width_pos; omega
  rw [elemOf, if_neg (by omega), bits_eq_div_mod, len, Nat.mod_mod_of_dvd _ (pow_dvd_pow 2 f.width_le_storage), Nat.mul_comm k]

theorem elementIn_eq (f : Fmt) (v k : Nat) : Claims.elementIn f v k = elemOf f v k := by
  rw [Claims.elementIn, slotBits_eq]
  split
  case isTrue wide => rw [elemOf, if_pos wide]
  case isFalse narrow => rw [elemOf_eq_bits (by omega)]

theorem elemOf_lt {f : Fmt} (narrow : f.width < 32) (v k : Nat) : elemOf f v k < 2 ^ f.width := by
  rw [elemOf, if_neg (by omega)]
  exact Nat.mod_lt _ (Nat.two_pow_pos _)

/-- What a word keeps beside one of its fields: what stands below it and what stands above it. -/
theorem sub_field (v a b : Nat) : v - v / a % b * a = v % a + v / (a * b) * (a * b) := by
  have whole := Nat.mod_add_div v a
  have upper := Nat.mod_add_div (v / a) b
  rw [Nat.div_div_eq_div_mul] at upper
  have parts : v = v % a + v / a % b * a + v / (a * b) * (a * b) := by
    calc v = v % a + a * (v / a) := whole.symm
      _ = v % a + a * (v / a % b + b * (v / (a * b))) := by rw [upper]
      _ = _ := by ring
  omega

theorem withElement_eq (f : Fmt) (v k e : Nat) : Claims.withElement f v k e = elemPut f v k e := by
  have len : f.storage * k + f.storage - 1 + 1 - f.storage * k = f.storage := by
    have := f.width_pos
    have := f.width_le_storage
    omega
  rw [Claims.withElement, slotBits_eq, bits_eq_div_mod, len, sub_field, elemPut, Nat.mul_comm k]
  ring

/-- Formats of which a register packs more than one element. -/
theorem narrow_of_perWord {f : Fmt} (h : 1 < f.perWord) : f.width < 32 := by
  by_contra wide
  rw [Fmt.perWord, if_pos (by omega)] at h
  omega

theorem widened_eq {f : Fmt} (narrow : f.width < 32) {e : Nat} (he : e < 2 ^ f.width) : Claims.widened f e = widen f e := by
  have word : 2 ^ f.width ≤ 2 ^ 32 := Nat.pow_le_pow_right (by decide) narrow.le
  by_cases int : f.isInt = true
  · simp only [Claims.widened, widen, int, if_true, intOf_eq, readInt]
    split
    case isTrue => rfl
    case isFalse => rw [Nat.mod_eq_of_lt he]; omega
  · have fromFloat : ¬(f.isInt = true ∧ Fmt.isInt .f32 = true) := fun h => int h.1
    simp only [Claims.widened, widen, int, if_false, convert_of_float fromFloat, Bool.false_eq_true]
    rw [outVal_eq (f := .f32) rfl, flushPat_false]
    exact (FF.round_of_conversion_nearest rfl (f.value e)).symm

/-! Dot products (R107) -/

theorem Ex.sum_append_singleton (rdn : Bool) (l : List Ex) (acc c : Ex) : Ex.sum rdn (l ++ [c]) acc = Ex.add rdn (Ex.sum rdn l acc) c := by
  induction l generalizing acc with
  | nil => rfl
  | cons x l ih => exact ih _

theorem foldl_add_eq_sum (g : Nat → Int) (l : List Nat) (c : Int) : l.foldl (fun t k => t + g k) c = (l.map g).sum + c := by
  induction l generalizing c with
  | nil => simp
  | cons k l ih => rw [List.foldl_cons, ih, List.map_cons, List.sum_cons]; ring

/-- The formats of a dot product fill a register in n places. -/
structure DotFmt (n : Nat) (f : Fmt) : Prop where
  places : f.storage = 32 / n
  narrow : f.width < 32

theorem dotFmt_of_dot4 {c : Nat} {f : Fmt} (h : dot4Fmt c = some f) : DotFmt 4 f := by
  unfold dot4Fmt at h
  split at h <;> cases h <;> exact ⟨rfl, by decide⟩

theorem dotFmt_of_dot8 {c : Nat} {f : Fmt} (h : dot8Fmt c = some f) : DotFmt 8 f := by
  unfold dot8Fmt at h
  split at h <;> cases h <;> exact ⟨rfl, by decide⟩

theorem DotFmt.bits_eq {n : Nat} {f : Fmt} (h : DotFmt n f) (v k : Nat) :
    bits v (32 / n * k + f.width - 1) (32 / n * k) = elemOf f v k := by
  rw [← h.places, elemOf_eq_bits h.narrow]

/-- The exact sum of products and accumulator, in the order in which the rule names them: the products first. -/
theorem dotR_eq {n : Nat} (hn : 0 < n) {fa fb : Fmt} (ha : DotFmt n fa) (hb : DotFmt n fb) (fl : Bool) (x : Fx) :
    Claims.dotR fl n fa fb x = ([fa, fb, accFmt x], fun _ l => dotResult fl n fa fb x (arg0 l) (arg1 l) (arg2 l)) := by
  have flag : x.i 0 0 = x.immN % 2 := by simp [Fx.i_eq]
  simp only [Claims.dotR, ha.bits_eq, hb.bits_eq, accFmt, flag]
  by_cases ints : x.immN % 2 = 1
  · simp only [ints, if_true, intOf_eq, int32_eq, dotResult, flag, foldl_add_eq_sum, macResult_eq, arg0, arg1, arg2]
  · obtain ⟨m, rfl⟩ := Nat.exists_eq_succ_of_ne_zero hn.ne'
    simp only [ints, if_false, dotResult, flag, Ex.sum_append_singleton, List.range_succ_eq_map, List.map_cons,
      List.map_map, List.drop_one, List.tail_cons, List.headD_cons]
    rfl

/-! The rules of each instruction -/

theorem fxOk_of_wellFormed {i : Instr} {f : LaneForm} (hf : laneForm i = some f) (hw : wellFormed i = true) : fxOk i = true :=
  (checks_of_wellFormed_lane hf hw).1

theorem Fx.opxN_mod_eight (x : Fx) : x.opxN % 8 = x.sel 2 0 := by simp [Fx.sel_eq]
theorem Fx.opxN_div_mod_eight (x : Fx) : x.opxN / 8 % 8 = x.sel 5 3 := by simp [Fx.sel_eq]

theorem Fx.rmOk_iff (x : Fx) : x.rmOk = true ↔ x.rm.toNat < 4 := by simp [Fx.rmOk]

theorem flushMeaning_cvt {fl : Bool} {d a : Opd} {p : Pr} {x : Fx} {r : Claims.Rule} (hw : wellFormed (.cvt d a p x) = true)
    (h : Claims.packedRule fl (.cvt d a p x) = some r) : FlushMeaning fl (.cvt d a p x) r := by
  have srcCode : x.immN / 32 % 32 = x.i 9 5 := by simp [Fx.i_eq]
  have dstCode : x.immN % 32 = x.i 4 0 := by simp [Fx.i_eq]
  simp only [Claims.packedRule, srcCode, dstCode, Fx.opxN_mod_eight, Fx.opxN_div_mod_eight] at h
  split at h
  case h_1 fr ft hfr hft =>
    obtain ⟨f, hf⟩ : ∃ f, laneForm (.cvt d a p x) = some f := by simp [laneForm, hfr, hft]
    have mode : x.rm.toNat < 4 := by
      have ok := fxOk_of_wellFormed hf hw
      simp only [fxOk, Bool.and_eq_true, Fx.rmOk_iff] at ok
      tauto
    simp only [← laneConvert_eq_table7 mode, elementIn_eq, withElement_eq] at h
    by_cases narrow : ft.width < 32
    · simp only [narrow, if_true] at h
      exact Option.some.inj h ▸ flushMeaning_lanesOld
        (op := fun fl old l => elemPut ft old (x.sel 5 3) (laneConvert fl fr ft x.rm.toNat x.sat (elemOf fr (arg0 l) (x.sel 2 0))))
        fun s => show execCvt d a p x s = _ by simp only [execCvt, hfr, hft, narrow, if_true]
    · simp only [narrow, if_false] at h
      exact Option.some.inj h ▸ flushMeaning_lanes
        (op := fun fl l => laneConvert fl fr ft x.rm.toNat x.sat (elemOf fr (arg0 l) (x.sel 2 0)))
        fun s => show execCvt d a p x s = _ by simp only [execCvt, hfr, hft, narrow, if_false]
  case h_2 => cases h

theorem flushMeaning_pack {fl : Bool} {d a b : Opd} {p : Pr} {x : Fx} {r : Claims.Rule} (hw : wellFormed (.pack d a b p x) = true)
    (h : Claims.packedRule fl (.pack d a b p x) = some r) : FlushMeaning fl (.pack d a b p x) r := by
  have dstCode : x.opxN % 32 = x.sel 4 0 := by simp [Fx.sel_eq]
  have k : x.immN % 4 = x.i 1 0 := by simp [Fx.i_eq]
  simp only [Claims.packedRule, dstCode, k] at h
  split at h
  case h_1 ft hft =>
    have mode : x.rm.toNat < 4 := by
      have ok := fxOk_of_wellFormed rfl hw
      simp only [fxOk, Bool.and_eq_true, Fx.rmOk_iff] at ok
      tauto
    simp only [← laneConvert_eq_table7 mode, withElement_eq] at h
    exact Option.some.inj h ▸ flushMeaning_lanesOld
      (op := fun fl old l =>
        let conv := laneConvert fl (if ft.isInt then .i32 else .f32) ft x.rm.toNat x.sat
        elemPut ft (elemPut ft old (2 * x.i 1 0) (conv (arg0 l))) (2 * x.i 1 0 + 1) (conv (arg1 l)))
      fun s => show execPack d a b p x s = _ by simp only [execPack, hft]
  case h_2 => cases h

theorem flushMeaning_unpk {fl : Bool} {d a : Opd} {p : Pr} {x : Fx} {r : Claims.Rule} (hw : wellFormed (.unpk d a p x) = true)
    (h : Claims.packedRule fl (.unpk d a p x) = some r) : FlushMeaning fl (.unpk d a p x) r := by
  have format : x.opxN % 32 = x.sel 4 0 := by simp [Fx.sel_eq]
  have k : x.immN % 4 = x.i 1 0 := by simp [Fx.i_eq]
  simp only [Claims.packedRule, format, k] at h
  split at h
  case h_1 f hf =>
    have narrow : f.width < 32 := by
      have ok := fxOk_of_wellFormed rfl hw
      simp only [fxOk, fmtCount, hf, Bool.and_eq_true, decide_eq_true_eq] at ok
      exact narrow_of_perWord (by omega)
    simp only [elementIn_eq, widened_eq narrow (elemOf_lt narrow ..), Nat.mul_comm (2 ^ 32)] at h
    exact Option.some.inj h ▸ flushMeaning_lanes
      (op := fun _ l => widen f (elemOf f (arg0 l) (2 * x.i 1 0)) + widen f (elemOf f (arg0 l) (2 * x.i 1 0 + 1)) * 2 ^ 32)
      fun s => show execUnpk d a p x s = _ by simp only [execUnpk, hf]
  case h_2 => cases h

/-- A dot product in n places by the formats of its two sources. -/
theorem flushMeaning_dot {n : Nat} (hn : 0 < n) {fa fb : Fmt} (ha : DotFmt n fa) (hb : DotFmt n fb) {fl : Bool} {i : Instr} {x : Fx}
    {r : Claims.Rule} (hx : ∀ s, exec i s = issue i s fun es s => s.lanes i es [fa, fb, accFmt x] fun l =>
      dotResult s.flushes n fa fb x (arg0 l) (arg1 l) (arg2 l))
    (h : some (Claims.dotR fl n fa fb x) = some r) : FlushMeaning fl i r := by
  rw [dotR_eq hn ha hb] at h
  exact Option.some.inj h ▸ flushMeaning_lanes (op := fun fl l => dotResult fl n fa fb x (arg0 l) (arg1 l) (arg2 l)) hx

theorem flushMeaning_dot4 {fl : Bool} {d a b c : Opd} {p : Pr} {x : Fx} {r : Claims.Rule}
    (h : Claims.packedRule fl (.dot4 d a b c p x) = some r) : FlushMeaning fl (.dot4 d a b c p x) r := by
  simp only [Claims.packedRule, Fx.opxN_mod_eight, Fx.opxN_div_mod_eight] at h
  split at h
  case h_1 fa fb hfa hfb =>
    exact flushMeaning_dot (by decide) (dotFmt_of_dot4 hfa) (dotFmt_of_dot4 hfb)
      (fun s => show execDot4 d a b c p x s = _ by simp only [execDot4, hfa, hfb]) h
  case h_2 => cases h

theorem flushMeaning_dot8 {fl : Bool} {d a b c : Opd} {p : Pr} {x : Fx} {r : Claims.Rule}
    (h : Claims.packedRule fl (.dot8 d a b c p x) = some r) : FlushMeaning fl (.dot8 d a b c p x) r := by
  simp only [Claims.packedRule, Fx.opxN_mod_eight, Fx.opxN_div_mod_eight] at h
  split at h
  case h_1 fa fb hfa hfb =>
    exact flushMeaning_dot (by decide) (dotFmt_of_dot8 hfa) (dotFmt_of_dot8 hfb)
      (fun s => show execDot8 d a b c p x s = _ by simp only [execDot8, hfa, hfb]) h
  case h_2 => cases h

/-- Conversions, packed elements and dot products deliver what their rules of R241 to R244 give. -/
theorem packedRule_meaning {fl : Bool} {i : Instr} {r : Claims.Rule} (hw : wellFormed i = true) (h : Claims.packedRule fl i = some r) :
    FlushMeaning fl i r := by
  cases i
  case cvt d a p x => exact flushMeaning_cvt hw h
  case pack d a b p x => exact flushMeaning_pack hw h
  case unpk d a p x => exact flushMeaning_unpk hw h
  case dot4 d a b c p x => exact flushMeaning_dot4 h
  case dot8 d a b c p x => exact flushMeaning_dot8 h
  all_goals exact absurd h nofun

/-- Settles O3: a conversion of the lanes is the row of Table 7 that its formats name, an element is the bits of its place, and a dot
product adds the products in the order of the rule. -/
theorem lanePackedResults : Obligations.LanePackedResults := FlushMeaning.follows packedRule_meaning

end Sys2Proof.Machine
end

section
/-! PROOFS of the words of the spec (Table 23 of 02_encoding.md), of the machine after reset (R473), and of the events of issue (R133, R154,
R165, R166, R444). -/

namespace Sys2Proof.Machine

theorem specWords : Claims.Words :=
  ⟨rfl, rfl, rfl, rfl, rfl, rfl, rfl, rfl, rfl, rfl, rfl, rfl, rfl, rfl, rfl, rfl, rfl, rfl, rfl, rfl, rfl, rfl⟩

/-- Settles O53: the decoder evaluates on each of the twenty-two words. -/
theorem decodeWords : Obligations.DecodeWords := specWords

theorem resetTables : Claims.ResetValues :=
  ⟨fun _ => rfl, rfl, rfl, rfl, rfl, rfl, fun _ => ⟨rfl, rfl⟩, fun _ => rfl, fun _ => rfl, fun _ => rfl, rfl, rfl⟩

/-- Settles O57: every table of the reset state is empty, so that whatever a number names reads as the default, and the device's registers
have the defaults of their tables. -/
theorem resetValues : Obligations.ResetValues := resetTables

/-! ISSUE_SLOT -/

theorem insertPlan_length (p : PlanItem) (l : List PlanItem) : (insertPlan p l).length = l.length + 1 := by
  induction l with
  | nil => rfl
  | cons q r ih => by_cases h : p.start < q.start <;> simp [insertPlan, h, ih]

/-- One group that issues and fits is all that a lane packs. -/
theorem State.pack_singleton {s t : State} {u g : Nat} {p : Path} {l : Look} (hskip : s.mustSkip (s.grp u g) = false)
    (hc : s.choose u g = (t, some (p, l))) (hfit : t.costIf u g p l ≤ 64) :
    s.pack false 64 [(u, g)] = ({ t.onGrp u g fun x => { x with lastSlot := t.slotNow, yielded := false } with
      plan := insertPlan (.group u g t.cycle (t.costIf u g p l)) t.plan }, 64 - t.costIf u g p l) := by
  simp [State.pack, hskip, hc, hfit]

theorem issueSlots : Claims.IssueSlots := by
  intro s t core lane u g p l hlane hkept hskip hc hplan hfit
  have packed := State.pack_singleton hskip hc hfit
  have order : (s.laneGroups core lane).foldl (fun l e => insertBy s.slotKeyOf e l) [] = [(u, g)] := by rw [hlane]; rfl
  refine congrArg Host.Outcome.next (?_ : s.issueSlotBy core lane = _)
  simp only [State.issueSlotBy, order, hkept, List.foldl_nil, packed, hplan, insertPlan_length, Nat.succ_ne_self, if_false]

/-! SP_ISSUE_CYCLE -/

theorem firstWith_append_of_none {α : Type} {p : α → Bool} {l : List α} (h : ∀ a ∈ l, p a = false) (r : List α) :
    firstWith p (l ++ r) = firstWith p r := by
  induction l with
  | nil => rfl
  | cons a l ih => simp [firstWith, h a (by simp), ih fun b hb => h b (by simp [hb])]

/-- The first element with a property, by its place. -/
theorem firstWith_map_range {α : Type} {f : Nat → α} {p : α → Bool} {m n : Nat} (hn : n < m) (hp : p (f n) = true)
    (before : ∀ k, k < n → p (f k) = false) : firstWith p ((List.range m).map f) = some (f n) := by
  obtain ⟨c, rfl⟩ : ∃ c, m = n + (c + 1) := ⟨m - n - 1, by omega⟩
  rw [List.range_add, List.map_append, firstWith_append_of_none (by simpa using before), List.range_succ_eq_map]
  simp [firstWith, hp]

theorem portCycles : Claims.PortCycles := by
  intro s n hn q hready hbefore
  have first := firstWith_map_range (f := fun k => (s.spLast + 1 + k) % 64) hn hready hbefore
  rw [show exec .spIssueCycle s = execSpIssueCycle s from rfl, execSpIssueCycle, first]

/-! CUE_OVERRUN -/

theorem exists_minBy (f : Nat → Nat) {l : List Nat} (hl : l ≠ []) : ∃ j ∈ l, minBy f l = some j ∧ ∀ i ∈ l, f j ≤ f i := by
  induction l with
  | nil => exact absurd rfl hl
  | cons a r ih =>
    by_cases hr : r = []
    · exact ⟨a, by simp [hr, minBy]⟩
    · obtain ⟨j, hj, hmin, least⟩ := ih hr
      by_cases hlt : f j < f a
      · refine ⟨j, List.mem_cons_of_mem a hj, by simp [minBy, hmin, hlt], fun i hi => ?_⟩
        obtain rfl | hi := List.mem_cons.mp hi
        · exact hlt.le
        · exact least i hi
      · refine ⟨a, List.mem_cons_self, by simp [minBy, hmin, hlt], fun i hi => ?_⟩
        obtain rfl | hi := List.mem_cons.mp hi
        · exact le_rfl
        · exact (not_lt.mp hlt).trans (least i hi)

/-- The least key of a list is that of any element that none is below. -/
theorem minBy_key {f : Nat → Nat} {l : List Nat} {k : Nat} (hk : k ∈ l) (least : ∀ j ∈ l, f k ≤ f j) :
    ∃ j ∈ l, minBy f l = some j ∧ f j = f k := by
  obtain ⟨j, hj, hmin, hle⟩ := exists_minBy f (List.ne_nil_of_mem hk)
  exact ⟨j, hj, hmin, (hle k hk).antisymm (least j hj)⟩

/-- The counter of an overrun is that of a lowest strand of the group's eligible ones, or of its living ones where none is eligible. -/
theorem Group.overrunAt_eq {x : Group} {ks : List Nat} {k : Nat} (hk : k ∈ if ks = [] then x.living else ks)
    (least : ∀ j ∈ if ks = [] then x.living else ks, (x.strand k).pc ≤ (x.strand j).pc) : x.overrunAt ks = (x.strand k).pc := by
  obtain ⟨j, -, hmin, hpc⟩ := minBy_key (f := fun k => (x.strand k).pc) hk least
  simp only [Group.overrunAt, List.isEmpty_iff, hmin, hpc]

theorem cueOverruns : Claims.CueOverruns := by
  intro s u g k b hb hres hdying x ks htimer hhandler hliving hk least
  have block : s.block u = b := State.block_of_find hb
  have runs : x.cueRuns = true := by simp [Group.cueRuns, hhandler, hliving]
  have stays : ((Tbl.find u s.blocks).isNone || x.cueTimer != some 0 || !x.cueRuns || s.dying u || !b.resident) = false := by
    simp [hb, htimer, runs, hdying, hres]
  have at' : x.overrunAt (s.eligible u g) = (x.strand k).pc := Group.overrunAt_eq hk least
  rw [show exec (.cueOverrun u g) s = execCueOverrun u g s from rfl, execCueOverrun]
  simp only [block]
  rw [if_neg (by simp [show b.group g = x from rfl, stays]), show b.group g = x from rfl, at']
  rfl

/-- Settles O43: the one group of a lane is packed into the slot's first cycle, the first ready thread in the order of the wraparound is
planned, and an overrun cue traps at the counter of a lowest strand. -/
theorem issueEvents : Obligations.IssueEvents := ⟨issueSlots, portCycles, cueOverruns⟩

end Sys2Proof.Machine
end

section
/-! PROOFS of what EXIT leaves and of the release at RJOIN (R129, R169 to R171). -/

namespace Sys2Proof.Machine

/-! EXIT -/

/-- A repeated change of strands: those that are named have changed, the others stand. -/
theorem Group.strand_onStrands_of_idem {f : Strand → Strand} (hf : ∀ t, f (f t) = f t) {x : Group} {ks : List Nat}
    (hks : ∀ k ∈ ks, k < x.width) (k : Nat) : (x.onStrands ks f).strand k = if k ∈ ks then f (x.strand k) else x.strand k := by
  simp only [Group.strand_eq, Group.onStrands_strands, getElem?_foldl_modify_of_idem hf]
  split
  case isTrue hk => simp [show k < x.strands.length from hks k hk]
  case isFalse => rfl

theorem Group.onStrands_w (x : Group) (ks : List Nat) (f : Strand → Strand) : (x.onStrands ks f).w = x.w := by
  rw [Group.onStrands_eq]

theorem Group.width_onStrands (x : Group) (ks : List Nat) (f : Strand → Strand) : (x.onStrands ks f).width = x.width := by
  induction ks generalizing x with
  | nil => rfl
  | cons k ks ih => exact (ih (x.onStrand k f)).trans (List.length_modify ..)

/-- An operation that goes on without its path is a place that is kept, and nothing else. -/
theorem Group.leaves_eq (x y : Group) : x.leaves y = { y with kept := (x.leaves y).kept } := by
  unfold Group.leaves
  split
  · split <;> rfl
  · rfl

/-- A group whose strands of a list have triggered. -/
def Group.triggered (x : Group) (ks : List Nat) : Group := x.onStrands ks fun t => { t with triggered := true }

/-- A strand that has exited. -/
def Strand.quit (t : Strand) : Strand := { t with st := .exited, wait := .none, replay := none }

/-- A group whose strands of a list have exited: they are in no call mask, an empty entry goes, and the registers are compressed. -/
def Group.exitAll (x : Group) (ks : List Nat) : Group :=
  let y := x.onStrands ks Strand.quit
  x.leaves ({ y with calls := y.calls.map fun c => { c with mask := c.mask.filter fun k => !ks.contains k } } : Group).pruneCalls.compressAll

theorem State.grp_exitStrands {s : State} {u g : Nat} {b : Block} {x : Group} (hb : Tbl.find u s.blocks = some b) (hx : b.groups[g]? = some x)
    (ks : List Nat) : (s.exitStrands u g ks).grp u g = (x.triggered ks).exitAll ks := by
  have trig : Tbl.find u (s.triggerStrands u g ks).blocks = some (b.onGroup g fun x => x.triggered ks) :=
    (Tbl.find_upd_same u _ s.blocks).trans (by rw [hb]; rfl)
  refine State.grp_onGrp_same trig ?_ _
  simp [Block.onGroup, hx]

theorem Group.strands_exitAll (x : Group) (ks : List Nat) : (x.exitAll ks).strands =
    (x.onStrands ks Strand.quit).strands := by
  rw [Group.exitAll, Group.leaves_eq]
  rfl

theorem Group.w_exitAll (x : Group) (ks : List Nat) : (x.exitAll ks).w = x.w := by
  rw [Group.exitAll, Group.leaves_eq]
  exact x.onStrands_w ks _

theorem Group.not_mem_mask_exitAll {x : Group} {ks : List Nat} {c : CallEntry} (hc : c ∈ (x.exitAll ks).calls) {k : Nat} (hk : k ∈ ks) :
    k ∉ c.mask := by
  rw [Group.exitAll, Group.leaves_eq] at hc
  obtain ⟨c', -, rfl⟩ := List.mem_map.mp (List.mem_of_mem_filter hc)
  simp [hk]

theorem exitedStrands : Claims.ExitedStrands := by
  intro s u g P b x hb hx hP
  have grp := State.grp_exitStrands hb hx P
  have strand (k : Nat) : ((s.exitStrands u g P).grp u g).strand k =
      if k ∈ P then { x.strand k with triggered := true, st := .exited, wait := .none, replay := none } else x.strand k := by
    have eq : ((x.triggered P).exitAll P).strand k =
        ((x.triggered P).onStrands P Strand.quit).strand k := by
      rw [Group.strand, Group.strands_exitAll, Group.strand]
    have width : ∀ k ∈ P, k < (x.triggered P).width := by simpa [Group.triggered, Group.width_onStrands] using hP
    rw [grp, eq, Group.strand_onStrands_of_idem (f := Strand.quit) (fun _ => rfl) width, Group.triggered,
      Group.strand_onStrands_of_idem (f := fun t => { t with triggered := true }) (fun _ => rfl) hP]
    split <;> rfl
  refine ⟨fun k hk => ?_, fun k hk => ?_, fun c hc k hk => ?_, State.exitStrands_mem s u g P, ?_⟩
  · simp [strand, hk]
  · simp [strand, hk]
  · exact Group.not_mem_mask_exitAll (grp ▸ hc) hk
  · rw [grp, Group.w_exitAll, Group.triggered, Group.onStrands_w]

/-! RJOIN -/

/-- Two changes that agree on the strands that are named change the group alike. -/
theorem Group.onStrands_congr {x : Group} {ks : List Nat} (hks : ks.Nodup) {f h : Strand → Strand}
    (same : ∀ k ∈ ks, f (x.strand k) = h (x.strand k)) : x.onStrands ks f = x.onStrands ks h := by
  rw [Group.onStrands_eq x ks f, Group.onStrands_eq x ks h]
  congr 1
  refine List.ext_getElem? fun k => ?_
  rw [Group.onStrands_strands, Group.onStrands_strands, getElem?_foldl_modify f hks, getElem?_foldl_modify h hks]
  split
  case isTrue hk =>
    have hsame := same k hk
    rw [Group.strand_eq] at hsame
    cases hget : x.strands[k]? with
    | none => rfl
    | some t => simpa [hget] using hsame
  case isFalse => rfl

/-- A strand at an RJOIN that is the last word of its clause goes on to the next clause. -/
theorem Strand.goOn_of_rjoin {t : Strand} (h : t.wait = .rjoin t.idx) :
    t.goOn = { t.goto ((t.hdr + 4 * (t.idx + 1)) % 2 ^ 64) with wait := .none } := by
  simp [Strand.goOn, h, Strand.pastWait, Strand.past, Focus.nextClause, Strand.goto]

theorem Group.joiners_eq_living {x : Group} (h : ∀ k ∈ x.living, (x.strand k).wait = .rjoin (x.strand k).idx) : x.joiners = x.living :=
  List.filter_eq_self.mpr fun k hk => by rw [h k hk]; rfl

/-- All strands that are not exited wait at an RJOIN: at one counter they go on, at several those at the lowest take trap 0x05. -/
theorem Group.settleJoin_of_all_joined {x : Group} {k : Nat} (hparked : x.anyParked = false) (hjoin : x.joiners = x.living) (hk : k ∈ x.living)
    (least : ∀ j ∈ x.living, (x.strand k).pc ≤ (x.strand j).pc) : x.settleJoin =
      if ∀ j ∈ x.living, (x.strand j).pc = (x.strand k).pc then x.onStrands x.living Strand.goOn
      else x.park (x.living.filter fun j => (x.strand j).pc = (x.strand k).pc) 0x05 0 := by
  obtain ⟨j, -, hmin, hpc⟩ := minBy_key (f := fun k => (x.strand k).pc) hk least
  have all : (x.living.filter fun j => (x.strand j).pc = (x.strand k).pc).length = x.living.length ↔
      ∀ j ∈ x.living, (x.strand j).pc = (x.strand k).pc := by
    simp [List.length_filter_eq_length_iff]
  simp only [Group.settleJoin, hjoin, hparked, hmin, hpc, beq_eq_decide, all]
  simp [List.ne_nil_of_mem hk]

theorem joinReleases : Claims.JoinReleases := by
  intro x pc hliving hparked hwait
  have hjoin := Group.joiners_eq_living hwait
  constructor
  · intro hpc
    obtain ⟨k, hk⟩ := List.exists_mem_of_ne_nil _ hliving
    rw [Group.settleJoin_of_all_joined hparked hjoin hk (fun j hj => (hpc k hk).trans_le (hpc j hj).ge),
      if_pos fun j hj => (hpc j hj).trans (hpc k hk).symm]
    exact Group.onStrands_congr x.living_nodup fun j hj => Strand.goOn_of_rjoin (hwait j hj)
  · rintro ⟨j, hj, hne⟩ ⟨k, hk, rfl⟩ least
    rw [Group.settleJoin_of_all_joined hparked hjoin hk least, if_neg fun h => hne (h j hj)]

/-- Settles O11: EXIT changes each strand of its list alone and takes it out of every call mask; and where all strands wait at an RJOIN, the
lowest counter decides whether they all stand there. -/
theorem exitsAndJoins : Obligations.ExitsAndJoins := ⟨exitedStrands, joinReleases⟩

end Sys2Proof.Machine
end

section
/-! PROOFS of TRIG, the counter instructions, PKW and DTW (R128 to R131, R365, R388, R482, R483). -/

namespace Sys2Proof.Machine

/-! TRIG and the counters -/

theorem triggers : Claims.Triggers := by
  intro s t u g ks bp hr ht hk
  rw [show exec (.trig bp) s = execTrig bp s from rfl, execTrig, issue_runs _ _ _ hr, ht]
  simp only [hk]
  rfl

theorem bitOf_zero_iff (x : Nat) : bitOf x 0 = true ↔ x % 2 = 1 := by
  simp [bitOf, Nat.testBit_zero]

/-- What CNTR reads, in the words of R482. -/
theorem Counter.read_eq_counterWord (c : Counter) : c.read = Claims.counterWord c := by
  have range : classF (cfgEvent c.cfg) = true ↔ 0x20 ≤ c.cfg.toNat % 256 ∧ c.cfg.toNat % 256 ≤ 0x23 := by
    simp [classF, cfgEvent, bits_from_zero]
  simp only [Counter.read, Claims.counterWord, range]
  split
  · rfl
  · cases c.ovf <;> simp [Nat.add_comm]

/-- Operation 0 of CNTC takes a configuration whose reserved fields are zero and whose event is none of the reserved ones. -/
theorem cntcDo_configure {cfg : W32} (c : Counter) (odd : Bool) (x : Nat) (high : cfg.toNat / 2 ^ 16 = 0) (mid : cfg.toNat / 2 ^ 8 % 2 ^ 6 = 0)
    (hzero : cfg.toNat % 256 ≠ 0) (event : cfg.toNat % 256 < 0x12 ∨ 0x20 ≤ cfg.toNat % 256 ∧ cfg.toNat % 256 < 0x24) :
    cntcDo 0 c cfg odd x = some { value := 0, ovf := false, cfg := cfg } := by
  refine if_neg ?_
  simp only [eventReserved, cfgEvent, bits_eq_div_mod, Bool.or_eq_true, Bool.and_eq_true, decide_eq_true_eq]
  omega

theorem cntcDo_set {x : Nat} (hx : x < 2 ^ 48) (c : Counter) (cfg : W32) : cntcDo 2 c cfg false x = some { c with value := x, ovf := false } :=
  if_neg (by simpa using hx)

/-- A register of odd number holds no pair. -/
def oddW : Opd → Bool
  | .w n => n.val % 2 = 1
  | _ => false

/-- CNTC whose operation is taken. -/
theorem exec_cntc {s t : State} {d a b : Opd} {bp : Pr} (hr : s.runs (.cntc d a b bp) = true) (ht : (s.operands (.cntc d a b bp)).1 = t)
    (hcount : t.noCounters = false) {x : Nat} (hx : (t.uniWord a ((s.operands (.cntc d a b bp)).2.getD 0 none)).toNat = x) {r y : Counter}
    (hc : ((t.addOwn (t.issuerVf / 64)).vfCounters t.issuerVf).getD (x % 4) {} = r)
    (hy : cntcDo (x / 4 % 4) r ((t.addOwn (t.issuerVf / 64)).uniWord b ((s.operands (.cntc d a b bp)).2.getD 1 none)) (oddW b)
      ((t.addOwn (t.issuerVf / 64)).uniWord64 b true) = some y) :
    exec (.cntc d a b bp) s = .next (((t.addOwn (t.issuerVf / 64)).setVfCounter t.issuerVf (x % 4) y).putUni d 0).passes := by
  have op : bits x 3 2 = x / 4 % 4 := bits_eq_div_mod x 3 2
  refine (issue_runs _ _ _ hr).trans ?_
  simp only [ht, hcount, hx, op, hc]
  generalize taken : cntcDo _ _ _ _ _ = z
  obtain rfl : z = some y := taken.symm.trans hy
  rfl

theorem counterOps : Claims.CounterOps := by
  intro s t d a b bp
  constructor
  · intro hr ht hcount
    rw [show exec (.cntr d a bp) s = execCntr d a bp s from rfl, execCntr, issue_runs _ _ _ hr, ht]
    simp only [hcount, Counter.read_eq_counterWord]
    rfl
  · intro hr ht hcount t' x cfg e c new
    have run {y : Counter} := exec_cntc (y := y) hr ht hcount (x := x) rfl (r := c) rfl
    refine ⟨fun op high mid hzero event => run ?_, fun op => run ?_, fun n op hb even small => run ?_⟩
    · rw [op]
      exact cntcDo_configure c _ _ high mid hzero event
    · rw [op]
      rfl
    · subst hb
      rw [op, show oddW (.w n) = false from decide_eq_false (by omega)]
      exact cntcDo_set small c cfg

/-! PKW and DTW -/

theorem State.pkwStatus_eq_zero {s : State} {dom vf w : Nat} (reserved : w / 2 ^ 5 % 2 ^ 11 = 0) (key : w % 2 = 1 → w / 2 ^ 16 ≤ 0xfffc)
    (on : (s.district (vf / 64)).state ≠ 0) (hvf : vf % 64 < (s.district (vf / 64)).vfcount)
    (owner : s.domainVf dom = some vf ∨ s.domainVf dom = none ∧ (w % 2 = 0 ∨ (s.keyLists.filter s.registered).length < 4096)) :
    s.pkwStatus dom vf w = 0 := by
  rw [State.pkwStatus, if_neg (by simp only [bits_eq_div_mod, bitOf_zero_iff]; omega)]
  rcases owner with owner | ⟨owner, room⟩
  · simp [owner]
  · simp only [owner, bitOf_zero_iff]
    exact if_neg (by omega)

theorem State.dtwStatus_eq_zero {s : State} {sel d idx : Nat} {e : DistEntry} (mid : sel / 2 ^ 10 % 2 ^ 6 = 0)
    (high : sel / 2 ^ 22 = 0) (on : (s.district d).state ≠ 0)
    (fits : deV e = true → s.dtwBad d e = false ∧ ∀ o ∈ (s.district d).dtab, o.1 ≠ idx → deV o.2 = true → deKey o.2 = deKey e →
      deLast o.2 < deFirst e ∨ deLast e < deFirst o.2) : s.dtwStatus sel d idx e = 0 := by
  rw [State.dtwStatus, if_neg (by simp only [bits_eq_div_mod]; omega), if_neg on]
  cases hv : deV e with
  | false => simp
  | true =>
    obtain ⟨good, apart⟩ := fits hv
    rw [if_neg (by simp [good]), if_neg]
    simp only [Bool.true_and, List.any_eq_true, Bool.and_eq_true, bne_iff_ne, beq_iff_eq, decide_eq_true_eq]
    rintro ⟨o, ho, ⟨⟨⟨hidx, hvalid⟩, hkey⟩, hlow⟩, hhigh⟩
    have := apart o ho hidx hvalid hkey
    omega

theorem tableWrites : Claims.TableWrites := by
  intro s t d a b bp
  constructor
  · intro hr ht sel w dom vf reserved key on hvf owner
    have hsel : sel < 2 ^ 32 := BitVec.isLt _
    have st := State.pkwStatus_eq_zero reserved key on hvf owner
    have hdom : bits sel 15 0 = dom := bits_from_zero sel 15
    have hvf : bits sel 31 20 = vf := by rw [bits_eq_div_mod]; omega
    have hidx : bits sel 19 16 = sel / 2 ^ 16 % 16 := bits_eq_div_mod sel 19 16
    rw [show exec (.pkw d a b bp) s = execPkw d a b bp s from rfl, execPkw, issue_runs _ _ _ hr, ht]
    show Host.Outcome.next (State.passes ((if t.pkwStatus (bits sel 15 0) (bits sel 31 20) w.toNat = 0 then
      t.putKey (bits sel 15 0) (bits sel 31 20) (bits sel 19 16) w else t).putUni d (BitVec.ofNat 32 _))) = _
    rw [hdom, hvf, hidx, st]
    rfl
  · intro hr ht sel e idx td mid high on fits
    have st : t.dtwStatus sel td idx e = 0 := State.dtwStatus_eq_zero mid high on fits
    have hidx : bits sel 9 0 = idx := bits_from_zero sel 9
    have htd : bits sel 21 16 = td := bits_eq_div_mod sel 21 16
    rw [show exec (.dtw d a b bp) s = execDtw d a b bp s from rfl, execDtw, issue_runs _ _ _ hr, ht]
    show Host.Outcome.next (State.passes ((if t.dtwStatus sel (bits sel 21 16) (bits sel 9 0) e = 0 then
      t.putDist (bits sel 21 16) (bits sel 9 0) e else t).putUni d (BitVec.ofNat 32 _))) = _
    rw [hidx, htd, st]
    rfl

/-- The entries that PKW changes: those of the domain's key list, or sixteen that are not valid. -/
def State.oldKeys (s : State) (dom vf : Nat) : List W32 :=
  match firstWith (fun k => k.domain == dom && k.vf == vf && s.registered k) s.keyLists with
  | some k => k.entries
  | none => List.replicate 16 0

theorem mem_of_firstWith {α : Type} {p : α → Bool} {l : List α} {a : α} (h : firstWith p l = some a) : a ∈ l ∧ p a = true := by
  induction l with
  | nil => simp [firstWith] at h
  | cons b l ih =>
    rw [firstWith] at h
    split at h
    case isTrue hb => exact ⟨by simp_all, by simp_all⟩
    case isFalse => exact ⟨List.mem_cons_of_mem b (ih h).1, (ih h).2⟩

/-- PKW of a valid entry puts it into the list and into the slots of the domain. -/
theorem State.putKey_of_valid {w : W32} (hw : w.getLsbD 0 = true) (s : State) (dom vf i : Nat) : s.putKey dom vf i w =
    { s with keyLists := (s.keyLists.filter fun m => m.domain != dom) ++
               [{ dist := vf / 64, domain := dom, vf := vf, entries := listSet (s.oldKeys dom vf) i w }]
             cores := s.cores.map fun c => (c.1, { c.2 with slots := c.2.slots.map fun o => o.map fun x =>
               if x.dist = vf / 64 ∧ x.domain = dom then { x with entries := listSet x.entries i w } else x }) } := by
  have hbit : bitOf w.toNat 0 = true := hw
  simp only [State.putKey, hbit]
  rfl

theorem State.keyEntries_putKey {w : W32} (hw : w.getLsbD 0 = true) (s : State) (dom vf i : Nat) :
    (s.putKey dom vf i w).keyEntries (vf / 64) dom = (s.oldKeys dom vf).set i w := by
  rw [State.putKey_of_valid hw, State.keyEntries, firstWith_append_of_none (by simp +contextual), ← listSet_eq_set]
  simp [firstWith]

theorem State.oldKeys_length {s : State} (h : ∀ k ∈ s.keyLists, k.entries.length = 16) (dom vf : Nat) : (s.oldKeys dom vf).length = 16 := by
  unfold State.oldKeys
  split
  case h_1 k hk => exact h k (mem_of_firstWith hk).1
  case h_2 => rfl

/-- In a table with one list for each domain, the list of a registered domain is the one that its readers find. -/
theorem State.oldKeys_eq_keyEntries {s : State} (hdist : ∀ k ∈ s.keyLists, k.dist = k.vf / 64)
    (one : s.keyLists.Pairwise fun x y => x.domain ≠ y.domain) {dom vf : Nat} (hvf : s.domainVf dom = some vf) :
    s.oldKeys dom vf = s.keyEntries (vf / 64) dom := by
  obtain ⟨k, hk, rfl⟩ := Option.map_eq_some_iff.mp hvf
  obtain ⟨hmem, hp⟩ := mem_of_firstWith hk
  obtain ⟨hdom, hreg⟩ : k.domain = dom ∧ s.registered k = true := by simpa using hp
  have same (m : KeyList) (hm : m ∈ s.keyLists) (e : m.domain = dom) : m = k := by
    by_contra hne
    have : Std.Symm fun x y : KeyList => x.domain ≠ y.domain := ⟨fun _ _ h => h.symm⟩
    exact one.forall hm hmem hne (e.trans hdom.symm)
  rw [State.oldKeys, firstWith_eq_some_of_unique hmem (by simp [hdom, hreg]) (fun m hm h => same m hm (by simp_all)),
    State.keyEntries, firstWith_eq_some_of_unique hmem (by simp [hdom, hdist k hmem]) (fun m hm h => same m hm (by simp_all))]

theorem keyEntryLands : Claims.KeyEntryLands := by
  intro s dom vf i w hi hw lists one owner
  have len := State.oldKeys_length (fun k hk => (lists k hk).1) dom vf
  refine ⟨?_, fun j hne _ hvf => ?_, fun c hc o ho x hx hdist hdom hlen => ?_⟩
  · rw [State.keyEntries_putKey hw]
    simp [len, hi]
  · rw [State.keyEntries_putKey hw, List.getElem?_set_ne hne.symm, State.oldKeys_eq_keyEntries (fun k hk => (lists k hk).2) one hvf]
  · rw [State.putKey_of_valid hw] at hc
    obtain ⟨c', -, rfl⟩ := List.mem_map.mp hc
    obtain ⟨o', -, rfl⟩ := List.mem_map.mp ho
    obtain ⟨x', rfl, rfl⟩ := Option.map_eq_some_iff.mp hx
    split at hdist
    case isTrue h => simp_all [listSet_eq_set]
    case isFalse h => simp_all

/-- Settles O29: each instruction's guard fields read as the rule's fields, its table's checks pass, and PKW's write goes to the one list of
the domain and to each slot that holds it. -/
theorem systemRegistersAndTables : Obligations.SystemRegistersAndTables := ⟨triggers, counterOps, tableWrites, keyEntryLands⟩

end Sys2Proof.Machine
end

section
/-! PROOFS of HINV, WATCH, CTXS and CTXR (R142, R143, R372, R390). -/

namespace Sys2Proof.Machine

/-! HINV -/

theorem hinvCovers_eq (va sel : Nat) : hinvCovers va sel = fun page => if sel.testBit 6 then page / 512 = va / 2 ^ 21 else page = va / 4096 := by
  funext page
  unfold hinvCovers bitOf
  split <;> rfl

theorem homeInvalidates : Claims.HomeInvalidates := by
  intro s t d a b bp hr ht va sel h cover hh high on away held
  have hsel : bits sel 4 0 = h := bits_from_zero sel 4
  have covers : hinvCovers va sel = cover := (hinvCovers_eq va sel).trans (by funext page; simp [cover])
  have none : t.delegatedAt h cover = [] := by
    rw [State.delegatedAt, List.map_eq_nil_iff, List.filter_eq_nil_iff]
    exact fun e he => by simp [away e he]
  refine (issueMove_runs _ _ _ hr).trans ?_
  simp only [ht]
  show Host.Outcome.next (State.endPass (if 27 < bits sel 4 0 ∨ bits sel 31 7 ≠ 0 then _ else if !(t.home (bits sel 4 0)).enable then _ else
    if !(t.delegatedAt (bits sel 4 0) (hinvCovers va sel)).isEmpty then _ else
    if t.heldAt (bits sel 4 0) (hinvCovers va sel) then _ else
      State.sysStatus (if bitOf sel 5 then t.wakePages (bits sel 4 0) (hinvCovers va sel) else t) d 0)) = _
  rw [if_neg (by rw [hsel, bits_eq_div_mod, high]; omega), hsel, covers, none, held, on]
  rfl

/-! WATCH -/

/-- An access of a path that has been answered goes on with the answer's bytes. -/
theorem State.sysAsk_of_accept {s : State} {u g : Nat} {ks : List Nat} (hk : s.focus.kind = .path u g ks) {p y : Part}
    (hy : s.asked p = some y) {line : List W8} {wts rts bad : Nat} (hst : y.st = .replied (.accept line wts rts bad))
    (k : State → List W8 → State) :
    s.sysAsk p k = k (s.sysSaw wts) line := by
  simp [State.sysAsk, State.sysAskOr, hk, State.ask, State.askAt, hy, hst]

theorem State.armedIndex_eq_false {s : State} {d domain index : Nat} (here : ∀ m ∈ s.homes, ∀ x ∈ m.2.watches, x.is d domain index = false)
    (far : ∀ x ∈ s.dev.farWatches, x.is d domain index = false) : s.armedIndex d domain index = false := by
  simp only [State.armedIndex, Bool.or_eq_false_iff, List.any_eq_false]
  exact ⟨fun m hm => by simpa using here m hm, fun x hx => by simp [far x hx]⟩

theorem watches : Claims.Watches := by
  rintro s t d a bp y line wts rts bad h hr ht ⟨u, g, ks, hk⟩ va dist r t' w aligned right hy hst sound hroute
  have checked : watchTrap (lineBytes line (t.pairOf a) 32) (t.sysSaw wts).sysRight
      (fun x => ((t.sysSaw wts).route t.accessor.2.2 x).isSome) = none := sound
  have home : (t.sysSaw wts).route t.accessor.2.2 (wdSpan (lineBytes line (t.pairOf a) 32)) = some ((t.sysSaw wts).dev.devnum, h) := hroute
  constructor
  · rintro disarm ⟨x, hx, his, hline⟩
    have bit : bitOf (wdWord (lineBytes line (t.pairOf a) 32)) 13 = true := disarm
    have armed : (t'.home h).watches.any (fun x => x.is dist w.domain w.index && x.line == w.line) = true :=
      List.any_eq_true.mpr ⟨x, hx, by simp [his, hline]⟩
    refine (issueMove_runs _ _ _ hr).trans ?_
    simp only [ht]
    rw [if_neg (not_not.mpr aligned), right, if_neg (by simp), State.sysAsk_of_accept hk hy hst]
    simp only [checked, home, bit]
    refine congrArg (fun x : State => Host.Outcome.next x.endPass) ?_
    exact (if_neg (not_not.mpr rfl)).trans ((if_pos trivial).trans (if_pos armed))
  · intro arm room here far deleg ring
    have bit : bitOf (wdWord (lineBytes line (t.pairOf a) 32)) 13 = false := arm
    have fresh : t'.armedIndex dist w.domain w.index = false := State.armedIndex_eq_false here far
    have away : ((List.range w.lines).map (w.line + ·)).filter (fun l => (Tbl.find l (t'.home h).deleg).isSome) = [] := by
      rw [List.filter_eq_nil_iff]
      simp +contextual [deleg]
    refine (issueMove_runs _ _ _ hr).trans ?_
    simp only [ht]
    rw [if_neg (not_not.mpr aligned), right, if_neg (by simp), State.sysAsk_of_accept hk hy hst]
    simp only [checked, home, bit]
    refine congrArg (fun x : State => Host.Outcome.next x.endPass) ?_
    refine (if_neg (not_not.mpr rfl)).trans ((if_neg Bool.false_ne_true).trans ((if_neg (Nat.not_le.mpr room)).trans ?_))
    refine (if_neg (fresh ▸ Bool.false_ne_true)).trans ((if_neg ?_).trans (if_pos ring))
    exact Bool.not_eq_true _ ▸ congrArg (fun l => !List.isEmpty l) away

/-! CTXS and CTXR -/

/-- CTXS and CTXR both hand an area to the dispatch engine. -/
theorem exec_ctx {i : Instr} {s : State} {d a b : Opd} {bp : Pr} {restore : Bool} (hi : i = (if restore then .ctxr d a bp else .ctxs d a b bp))
    (hr : s.runs i = true) {t : State} (ht : (s.operands i).1 = t) : exec i s = .next (t.askCtx d (t.pairOf a)
      (if restore then 0 else (t.uniWord b none).toNat) (if restore then rightRD else rightW) restore).endPass := by
  subst hi ht
  cases restore <;> exact issueMove_runs _ _ _ hr

theorem contexts : Claims.Contexts := by
  intro i s t d a b bp u g ks restore hi hr ht hk k area mine
  have by_eq (o : CtxOp) : o.by u g false = mine o := by simp [CtxOp.by, mine]
  rw [exec_ctx hi hr ht, State.askCtx, State.who_of_path hk]
  simp only [by_eq]
  constructor
  · intro o r ho hres
    rw [ho]
    simp only [hres]
    rfl
  · intro none aligned check
    rw [firstWith_eq_none (fun o ho => by simp [none o ho]), if_neg (not_not.mpr aligned), check]
    simp only [State.sysWait, State.onDistrict_focus, hk, State.pathStrands_of_path hk]
    rfl

/-- Settles O30: each instruction passes the checks that its rule makes, and then does what the rule says. -/
theorem homesAndContexts : Obligations.HomesAndContexts := ⟨homeInvalidates, watches, contexts⟩

end Sys2Proof.Machine
end

section
/-! PROOFS of the begin of a launch and of the placing of its core sets (R124, R126). -/

namespace Sys2Proof.Machine

/-! LAUNCH_BEGIN_DISPATCH -/

theorem effectiveCounts_nil (h : List W8) : effectiveCounts h [] = (List.range 4).map fun i => 2 ^ hFw h (i + 2) := by
  simp [effectiveCounts]

theorem State.launchRead_zero (s : State) (d : Nat) (l : Launch) (n : Nat) (bad : Nat → State → State) (k : State → List W8 → State) :
    s.launchRead d l 0 n bad k = k s [] := rfl

theorem launchBegins : Claims.LaunchBegins := by
  intro s d lid l hl _ hbegin hcount hparam hrec
  rw [show exec (.launchBeginDispatch d lid) s = execLaunchBeginDispatch d lid s from rfl, execLaunchBeginDispatch, hl]
  simp only [hbegin, hcount, hparam, hrec, State.launchRead_zero, State.launchBegun, effectiveCounts_nil, State.onLaunch, State.district_onDistrict]
  simp

/-! CORE_SET_PLACE -/

theorem Tbl.mem_put_of_ne {α : Type} {k : Nat} {e : Nat × α} {t : Tbl α} (he : e ∈ t) (hne : e.1 ≠ k) (a : α) : e ∈ Tbl.put k a t := by
  induction t with
  | nil => exact absurd he List.not_mem_nil
  | cons b t ih =>
    obtain ⟨j, b⟩ := b
    rw [Tbl.put]
    split
    · exact List.mem_cons_of_mem _ he
    · rcases List.mem_cons.mp he with rfl | he
      · rw [if_neg hne]
        exact List.mem_cons_self
      · split
        · exact List.mem_cons_of_mem _ he
        · exact List.mem_cons_of_mem _ (ih he)

theorem Tbl.ne_of_find_eq_none {α : Type} {k : Nat} {e : Nat × α} {t : Tbl α} (h : Tbl.find k t = none) (he : e ∈ t) : e.1 ≠ k := by
  induction t with
  | nil => exact absurd he List.not_mem_nil
  | cons b t ih =>
    obtain ⟨j, b⟩ := b
    rw [Tbl.find] at h
    split at h
    · exact absurd h (by simp)
    case isFalse hj =>
      rcases List.mem_cons.mp he with rfl | he
      · exact hj
      · exact ih h he

/-- A group that takes a lane keeps all else but the slot in which it last issued. -/
theorem spreadLanes_group {slot : Nat} {loads : List Nat} {xs : List Group} {g : Nat} {x : Group} (hx : xs[g]? = some x) :
    ∃ lane last, (spreadLanes slot loads xs)[g]? = some { x with lane := lane, lastSlot := last } := by
  induction xs generalizing loads g with
  | nil => simp at hx
  | cons y xs ih =>
    rw [spreadLanes]
    split
    all_goals
      cases g with
      | zero =>
        obtain rfl : y = x := by simpa using hx
        exact ⟨_, _, rfl⟩
      | succ g => exact ih (by simpa using hx)

theorem spreadLanes_length (slot : Nat) (loads : List Nat) (xs : List Group) : (spreadLanes slot loads xs).length = xs.length := by
  induction xs generalizing loads with
  | nil => rfl
  | cons x xs ih =>
    rw [spreadLanes]
    split <;> simp [ih]

/-- The block of a core set before it has a seat. -/
def newBlock (d : Nat) (l : Launch) (n core : Nat) : Block :=
  { dist := d, vf := l.vf, lid := l.lid, ident := blockAt l.header l.counts n, core := core, resident := false, prio := l.prio,
    queues := (List.range 16).map fun k => startQueue (hQdesc l.header k), clk := l.start,
    groups := (List.range (hGroups l.header)).map (startGroup l) }

/-- The state with that block in its table. -/
def State.withNew (s : State) (d : Nat) (l : Launch) (n core : Nat) : State :=
  { s with nextUid := s.nextUid + 1, blocks := Tbl.put s.nextUid (newBlock d l n core) s.blocks }

/-- The block in its seat, on the first units that are free. -/
def State.seated (s : State) (u core nReg nScr nAcc : Nat) (b : Block) : Block :=
  let free := s.freeUnits core
  { b with
    core := core, resident := true, order := s.nextId, scr := free.take nScr, acc := (free.drop nScr).take nAcc
    reg := (free.drop (nScr + nAcc)).take nReg, groups := spreadLanes (s.cycle / 64) (s.laneLoads core) (s.block u).groups }

theorem State.seat_blocks (s : State) (u core nReg nScr nAcc : Nat) (clear : Bool) :
    (s.seat u core nReg nScr nAcc clear).blocks = Tbl.upd u (s.seated u core nReg nScr nAcc) s.blocks := rfl

theorem State.seat_districts (s : State) (u core nReg nScr nAcc : Nat) (clear : Bool) :
    (s.seat u core nReg nScr nAcc clear).districts = s.districts := rfl

theorem State.seat_nextUid (s : State) (u core nReg nScr nAcc : Nat) (clear : Bool) :
    (s.seat u core nReg nScr nAcc clear).nextUid = s.nextUid := rfl

/-- The start of a block writes its scratchpad behind its seat; no state of the dispatch engine but that of the seat changes. -/
theorem State.startBlock_view {β : Type} (view : State → β)
    (keeps : ∀ (s : State) (u o : Nat) (bs : List W8), view (s.scrWrite u o bs) = view s)
    (s : State) (d : Nat) (l : Launch) (n core : Nat) : view (s.startBlock d l n core) =
      view ((s.withNew d l n core).seat s.nextUid core (hReg l.header) (hScr l.header) (hAcc l.header) false) := by
  refine (foldl_keeps view (fun s q => ?_) _ _).trans (keeps _ _ _ _)
  split
  · exact keeps _ _ _ _
  · rfl

/-- Units that a seat gives are free: none of them is a resident's, and none is given twice. -/
theorem State.units_of_seated (s : State) (u core nReg nScr nAcc : Nat) (b : Block) :
    (∀ n ∈ (s.seated u core nReg nScr nAcc b).reg ++ (s.seated u core nReg nScr nAcc b).scr ++ (s.seated u core nReg nScr nAcc b).acc,
      n ∈ s.freeUnits core) ∧
    ((s.seated u core nReg nScr nAcc b).reg ++ (s.seated u core nReg nScr nAcc b).scr ++ (s.seated u core nReg nScr nAcc b).acc).Nodup := by
  have first : ((s.freeUnits core).drop (nScr + nAcc)).take nReg ++ (s.freeUnits core).take nScr ++ ((s.freeUnits core).drop nScr).take nAcc
      |>.Perm ((s.freeUnits core).take (nScr + nAcc + nReg)) := by
    rw [List.take_add, List.take_add, List.append_assoc]
    exact List.perm_append_comm
  exact ⟨fun n hn => List.mem_of_mem_take (first.mem_iff.mp hn),
    first.nodup_iff.mpr (((List.nodup_range.filter _).sublist (List.take_sublist _ _)))⟩

theorem State.placeSets_one {l : Launch} (hper : l.perCore = 1) (s : State) (d core : Nat) :
    s.placeSets d l [core] = (s.startBlock d l l.cursor core).onLaunch d l.lid fun l => { l with cursor := l.cursor + 1 } := by
  simp [State.placeSets, hper]

theorem firstWith_updWhere {α : Type} {p : α → Bool} {f : α → α} (hf : ∀ a, p (f a) = p a) (l : List α) :
    firstWith p (updWhere p f l) = (firstWith p l).map f := by
  induction l with
  | nil => rfl
  | cons a l ih =>
    by_cases ha : p a = true
    · simp [updWhere, firstWith, ha, hf]
    · simpa [updWhere, firstWith, ha] using ih

/-- A change of one launch of a district, as its readers see it. -/
theorem State.launch_onLaunch {s : State} {d lid : Nat} {l : Launch} (hl : firstWith (fun l => l.lid == lid) (s.district d).launches = some l)
    {f : Launch → Launch} (hf : ∀ l, (f l).lid = l.lid) :
    firstWith (fun l => l.lid == lid) ((s.onLaunch d lid f).district d).launches = some (f l) := by
  rw [State.onLaunch, State.district_onDistrict, firstWith_updWhere (fun l => by rw [hf]), hl]
  rfl

theorem coreSets : Claims.CoreSets := by
  intro s d lid core l hl hlid hplace hhigher hcores hper hfresh
  subst hlid
  let b := (s.withNew d l l.cursor core).seated s.nextUid core (hReg l.header) (hScr l.header) (hAcc l.header) (newBlock d l l.cursor core)
  have find : Tbl.find s.nextUid (s.startBlock d l l.cursor core).blocks = some b := by
    rw [State.startBlock_view State.blocks (fun _ _ _ _ => rfl), State.seat_blocks, Tbl.find_upd_same]
    simp [State.withNew, b]
  have districts : (s.startBlock d l l.cursor core).districts = s.districts :=
    State.startBlock_view State.districts (fun _ _ _ _ => rfl) ..
  refine ⟨s.placeSets d l [core], ?_, ?_, ?_, ?_, State.placeSets_mem s d l [core]⟩
  · rw [show exec (.coreSetPlace d l.lid) s = execCoreSetPlace d l.lid s from rfl, execCoreSetPlace, hl]
    simp [hplace, hhigher, hcores]
  · rw [State.placeSets_one hper]
    exact State.startBlock_view State.nextUid (fun _ _ _ _ => rfl) ..
  · rw [State.placeSets_one hper, show ((s.startBlock d l l.cursor core).onLaunch d l.lid _).block s.nextUid = b from State.block_of_find find]
    obtain ⟨free, nodup⟩ := State.units_of_seated (s.withNew d l l.cursor core) s.nextUid core (hReg l.header) (hScr l.header) (hAcc l.header)
      (newBlock d l l.cursor core)
    have groups : b.groups = spreadLanes (s.cycle / 64) ((s.withNew d l l.cursor core).laneLoads core)
        ((List.range (hGroups l.header)).map (startGroup l)) := by
      simp [b, State.seated, State.block, State.withNew, newBlock]
    refine ⟨rfl, rfl, rfl, rfl, ?_, rfl, fun n hn => ?_, nodup, fun g hg => ?_⟩
    · simp [groups, spreadLanes_length]
    · obtain ⟨hn, unused⟩ := List.mem_filter.mp (free n hn)
      refine ⟨List.mem_range.mp hn, fun e he hin => ?_⟩
      obtain ⟨he, hon⟩ := List.mem_filter.mp he
      have mem : e ∈ (s.withNew d l l.cursor core).residents core [] :=
        List.mem_filter.mpr ⟨Tbl.mem_put_of_ne he (Tbl.ne_of_find_eq_none hfresh he) _, hon⟩
      rw [Bool.not_eq_true', List.contains_eq_mem, decide_eq_false_iff_not] at unused
      exact unused (List.mem_flatMap.mpr ⟨e, mem, hin⟩)
    · obtain ⟨lane, last, hx⟩ := spreadLanes_group (slot := s.cycle / 64) (loads := (s.withNew d l l.cursor core).laneLoads core)
        (xs := (List.range (hGroups l.header)).map (startGroup l)) (g := g) (x := startGroup l g) (by simp [hg])
      rw [Block.group_of_getElem? (groups ▸ hx)]
      exact ⟨by simp [Group.width, startGroup], rfl, fun k hk => by simp [Group.strand_eq, startGroup, hk]⟩
  · have launch : firstWith (fun m => m.lid == l.lid) ((s.startBlock d l l.cursor core).district d).launches = some l := by
      rw [State.district, districts]
      exact hl
    rw [State.placeSets_one hper, State.launch_onLaunch (f := fun l => { l with cursor := l.cursor + 1 }) launch (fun _ => rfl)]
    rfl

/-- Settles O44: a launch without tables reads nothing, and a set of one block is one seat on free units. -/
theorem dispatch : Obligations.Dispatch := ⟨launchBegins, coreSets⟩

end Sys2Proof.Machine
end

section
/-! PROOFS of pre-emption, restore and the world switch (R117, R135 to R137, R147, R481). -/

namespace Sys2Proof.Machine

/-! PREEMPTION -/

theorem preempts : Claims.Preempts := by
  intro s d lid l gone hl hplace hfull going henough hroom
  have run : exec (.preemption d lid) s = .next { s with blocks := s.blocks.map fun e =>
      if (gone.filter fun u => !going.contains u).contains e.1 then (e.1, { e.2 with stop := true }) else e } := by
    rw [show exec (.preemption d lid) s = execPreemption d lid s from rfl, execPreemption, hl]
    simp only [hplace, hfull]
    rw [show s.going d = going from rfl, henough]
    simp only [hroom]
    rfl
  refine ⟨_, run, rfl, fun u b hb => ?_⟩
  rw [Tbl.find_map (fun e => by split <;> rfl) hb]
  by_cases hu : u ∈ gone ∧ u ∉ going <;> simp [hu]

theorem mem_insertVictim {a x : Victim} {l : List Victim} : x ∈ insertVictim a l ↔ x = a ∨ x ∈ l := by
  induction l with
  | nil => simp [insertVictim]
  | cons b l ih =>
    rw [insertVictim]
    split
    · simp
    · simp [ih, or_left_comm]

theorem mem_foldl_insertVictim {α : Type} {f : α → Victim} {x : Victim} (ks : List α) (l : List Victim) :
    x ∈ ks.foldl (fun l k => insertVictim (f k) l) l ↔ x ∈ l ∨ ∃ k ∈ ks, x = f k := by
  induction ks generalizing l with
  | nil => simp
  | cons k ks ih => simp [ih, mem_insertVictim, or_assoc, or_left_comm]

theorem victimsAreLower : Claims.VictimsAreLower := by
  intro s d v p u x hx hu
  obtain hx | ⟨k, -, rfl⟩ := (mem_foldl_insertVictim _ _).mp hx
  · exact absurd hx List.not_mem_nil
  · obtain ⟨e, he, rfl⟩ := List.mem_map.mp hu
    have he := List.mem_of_mem_filter he
    obtain ⟨he, hp⟩ := List.mem_filter.mp he
    simp only [Bool.and_eq_true, beq_iff_eq, decide_eq_true_eq] at hp
    obtain ⟨⟨⟨⟨hd, hv⟩, hres⟩, -⟩, hlow⟩ := hp
    exact ⟨e.2, he, hd, hv, hres, hlow⟩

/-! BLOCK_RESTORE -/

/-- A block that is back on its core: nothing of it is saved any more. -/
def Block.restored (b : Block) : Block :=
  { b with resident := true, saveScr := [], saveAcc := [], saveEqs := [], saveFences := [], saveTiles := [], saveOps := [],
           saveLatch := [], saveOff := none, saveJob := none, switched := false, held := [], groups := b.groups.map Group.wakeReplays }

theorem State.comeBack_blocks {s : State} {u : Nat} {b : Block} (hb : Tbl.find u s.blocks = some b) (held : b.held = []) :
    (s.comeBack u).blocks = Tbl.upd u Block.restored s.blocks := by
  simp only [State.comeBack, State.block_of_find hb, held]
  rfl

theorem State.comeBack_block {s : State} {u : Nat} {b : Block} (hb : Tbl.find u s.blocks = some b) (held : b.held = []) :
    (s.comeBack u).block u = b.restored :=
  State.block_of_find (by rw [State.comeBack_blocks hb held, Tbl.find_upd_same, hb]; rfl)

/-- The place of what comes back: behind what is there, in the saved order. -/
def State.backPlace (s : State) (b : Block) (x : Nat) : Nat :=
  s.nextId + ((b.saveEqs.map (fun e => e.2.spot) ++ b.saveFences.map Fence.spot ++ b.saveOps.map TileOp.spot).filter (· < x)).length

/-- The entries that come back, at their places. -/
def State.backEntries (s : State) (b : Block) : List (Nat × Entry) :=
  b.saveEqs.map fun e => (e.1, { e.2 with back := s.backPlace b e.2.spot })

theorem State.comeBack_eqs {s : State} {u : Nat} {b : Block} (hb : Tbl.find u s.blocks = some b) (held : b.held = []) :
    ((s.comeBack u).core b.core).eqs =
      (s.core b.core).eqs.zipIdx.map fun q => q.1 ++ ((s.backEntries b).filter fun e => e.1 == q.2).map Prod.snd := by
  simp only [State.comeBack, State.block_of_find hb, held]
  simp [State.core, State.onCore, State.onBlock, State.backEntries, State.backPlace]

theorem comesBack : Claims.ComesBack := by
  intro s u b hb held t
  have block : t.block u = b.restored := State.comeBack_block hb held
  refine ⟨by rw [block]; rfl, by rw [block]; rfl, by rw [block]; rfl, by rw [block]; rfl, by rw [block]; rfl, State.comeBack_mem s u, ?_⟩
  intro e he hq
  refine ⟨s.backPlace b e.2.spot, Nat.le_add_right .., ?_⟩
  have back : (e.1, { e.2 with back := s.backPlace b e.2.spot }) ∈ s.backEntries b := List.mem_map.mpr ⟨e, he, rfl⟩
  rw [State.comeBack_eqs hb held, List.getD_eq_getElem?_getD, List.getElem?_eq_getElem (by simpa using hq)]
  simp only [List.getElem_map, List.getElem_zipIdx, Option.getD_some, Nat.zero_add]
  exact List.mem_append_right _ (List.mem_map.mpr ⟨_, List.mem_filter.mpr ⟨back, beq_self_eq_true _⟩, rfl⟩)

/-- A seat stands in the block's table entry. -/
theorem State.find_seat {s : State} {u : Nat} {b : Block} (hb : Tbl.find u s.blocks = some b) (core nReg nScr nAcc : Nat) (clear : Bool) :
    Tbl.find u (s.seat u core nReg nScr nAcc clear).blocks = some (s.seated u core nReg nScr nAcc b) := by
  rw [State.seat_blocks, Tbl.find_upd_same, hb]
  rfl

theorem restores : Claims.Restores := by
  intro s u core b l hb hl hseated himage hmay hhigher hplan t
  have mem : t.mem = s.mem := State.startBack_mem s u core
  let h := s.launchHdr (s.block u)
  let c := s.seated u core (hReg h) (hScr h) (hAcc h) b
  let r := s.seat u core (hReg h) (hScr h) (hAcc h) true
  have find : Tbl.find u r.blocks = some c := State.find_seat hb ..
  refine ⟨?_, fun off hoff => ?_, fun hoff held => ?_⟩
  · rw [show exec (.blockRestore u) s = execBlockRestore u s from rfl, execBlockRestore, hb]
    simp [State.restore, hl, hseated, himage, hmay, hhigher, hplan, t]
  · have block : t.block u = { c with resident := false, saveJob := some { write := false, len := c.saveLen } } := by
      simp only [t, State.startBack]
      rw [show (r.block u).saveOff = some off by rw [State.block_of_find find]; exact hoff]
      exact State.block_onBlock_same find _
    rw [block]
    exact ⟨rfl, rfl, mem, rfl, hoff⟩
  · have block : t.block u = c.restored := by
      simp only [t, State.startBack]
      rw [show (r.block u).saveOff = none by rw [State.block_of_find find]; exact hoff]
      exact State.comeBack_block find held
    rw [block]
    exact ⟨rfl, rfl, mem⟩

/-! World switches -/

/-- Blocks of a list change one after the other, each in its table entry. -/
theorem find_blocks_foldl {step : State → Nat → State} {f : Block → Block} (hstep : ∀ s u, (step s u).blocks = Tbl.upd u f s.blocks)
    (hf : ∀ b, f (f b) = f b) (us : List Nat) (s : State) (u : Nat) :
    Tbl.find u (us.foldl step s).blocks = (Tbl.find u s.blocks).map fun b => if u ∈ us then f b else b := by
  induction us generalizing s with
  | nil => simp
  | cons v us ih =>
    rw [List.foldl_cons, ih, hstep]
    by_cases huv : u = v
    · subst huv
      rw [Tbl.find_upd_same, Option.map_map]
      simp [Function.comp_def, hf]
    · rw [Tbl.find_upd_of_ne huv]
      simp [huv]

theorem Tbl.mem_of_find {α : Type} {k : Nat} {a : α} {t : Tbl α} (h : Tbl.find k t = some a) : (k, a) ∈ t := by
  induction t with
  | nil => simp [Tbl.find] at h
  | cons e t ih =>
    obtain ⟨j, b⟩ := e
    rw [Tbl.find] at h
    split at h
    case isTrue hk => simp_all
    case isFalse => exact List.mem_cons_of_mem _ (ih h)

/-- With no number twice, a block's number is in a list of numbers exactly if the block passes the list's test. -/
theorem mem_filter_blocks {α : Type} {t : Tbl α} (nodup : (t.map Prod.fst).Nodup) {u : Nat} {a : α} (ha : Tbl.find u t = some a)
    (p : Nat × α → Bool) : u ∈ (t.filter p).map Prod.fst ↔ p (u, a) = true := by
  have ha := Tbl.mem_of_find ha
  constructor
  · intro hu
    obtain ⟨e, he, rfl⟩ := List.mem_map.mp hu
    obtain ⟨he, hp⟩ := List.mem_filter.mp he
    rwa [← List.inj_on_of_nodup_map nodup he ha rfl]
  · exact fun hp => List.mem_map.mpr ⟨_, List.mem_filter.mpr ⟨ha, hp⟩, rfl⟩

/-- A block that was coming back and stays in the save area. -/
def Block.unseated (b : Block) : Block := { b with saveJob := none, switched := true }

/-- It gives up its seat. -/
def State.unseat (d : Nat) (s : State) (u : Nat) : State :=
  ((s.dropSave u).onBlock u Block.unseated).freeSlot (s.block u).core d (hDomain (s.launchHdr (s.block u)))

/-- The blocks that are coming back to a district. -/
def State.coming (s : State) (d : Nat) : List Nat :=
  (s.blocks.filter fun e => e.2.dist == d && e.2.saveJob.any fun j => !j.write && j.seat).map Prod.fst

theorem State.freeSlot_blocks (s : State) (core dist dom : Nat) : (s.freeSlot core dist dom).blocks = s.blocks := by
  unfold State.freeSlot
  split <;> rfl

/-- The blocks of the outgoing VF. -/
def outgoing (d : Nat) (cur : Option Nat) (b : Block) : Bool := b.dist == d && b.resident && some b.vf == cur

theorem State.beginSwitch_blocks (s : State) (d v : Nat) : (s.beginSwitch d v).blocks =
    (((s.coming d).foldl (State.unseat d) s).blocks.map fun e =>
      if outgoing d (s.district d).curVf e.2 then (e.1, { e.2 with switched := true }) else e).map fun e =>
      if outgoing d (s.district d).curVf e.2 then (e.1, { e.2 with stop := true }) else e := rfl

theorem State.switchTo_beginSwitch (s : State) (d v : Nat) : ∃ had, ((s.beginSwitch d v).district d).switchTo = some (v, had) :=
  ⟨_, by rw [State.beginSwitch, State.district_onDistrict]⟩

/-- The two marks of an outgoing block, set one after the other. -/
theorem stop_after_mark (d : Nat) (cur : Option Nat) (b : Block) :
    (let m := if outgoing d cur b then { b with switched := true } else b
     if outgoing d cur m then { m with stop := true } else m) =
      if outgoing d cur b then { b with stop := true, switched := true } else b := by
  by_cases h : outgoing d cur b = true
  · have h' : outgoing d cur { b with switched := true } = true := h
    simp [h, h']
  · simp [h]

/-- The first step of a switch, for each block: what was coming back stays away, and the outgoing VF's blocks stop. -/
theorem State.find_beginSwitch {s : State} {d c : Nat} (v : Nat) (hcur : (s.district d).curVf = some c)
    (nodup : (s.blocks.map Prod.fst).Nodup) {u : Nat} {b : Block} (hb : Tbl.find u s.blocks = some b) :
    let b' := if b.dist = d ∧ (b.saveJob.any fun j => !j.write && j.seat) = true then b.unseated else b
    Tbl.find u (s.beginSwitch d v).blocks =
      some (if b.dist = d ∧ b.resident = true ∧ b.vf = c then { b' with stop := true, switched := true } else b') := by
  intro b'
  have away : Tbl.find u ((s.coming d).foldl (State.unseat d) s).blocks = some b' := by
    rw [find_blocks_foldl (f := Block.unseated) (fun s u => State.freeSlot_blocks ..) (fun _ => rfl), hb]
    simp [State.coming, mem_filter_blocks nodup hb, b']
  have out : outgoing d (s.district d).curVf b' = true ↔ b.dist = d ∧ b.resident = true ∧ b.vf = c := by
    simp only [b', hcur]
    split <;> simp [outgoing, Block.unseated, and_assoc]
  rw [State.beginSwitch_blocks, Tbl.find_map (fun e => by split <;> rfl) (Tbl.find_map (fun e => by split <;> rfl) away)]
  simp only [← out, apply_ite Prod.snd]
  exact congrArg some (stop_after_mark d _ b')

theorem switches : Claims.Switches := by
  intro s d v
  refine ⟨fun had hto hnot hnone => ?_, fun had hnone => ?_, fun hstate hto hnext => ⟨fun hcur => ?_, fun c hcur hne nodup => ?_⟩⟩
  · have left : s.leaving d = false := by
      rw [State.leaving, List.any_eq_false]
      exact fun e he => by simpa using hnone e he
    rw [show exec (.worldSwitch d) s = execWorldSwitch d s from rfl, execWorldSwitch]
    simp only [hto, hnot, left, State.endSwitch]
    cases ((s.addEvents d).district d).curVf <;> rfl
  · have empty : (s.blocks.filter fun e => e.2.dist == d && e.2.vf == v && e.2.switched) = [] := by
      rw [List.filter_eq_nil_iff]
      intro e he
      simp +contextual [hnone e he]
    have same : (s.blocks.map fun e => if e.2.dist == d && e.2.vf == v then (e.1, { e.2 with switched := false }) else e) = s.blocks := by
      refine (List.map_congr_left fun e he => ?_).trans (List.map_id _)
      split
      case isTrue h =>
        obtain ⟨hd, hv⟩ : e.2.dist = d ∧ e.2.vf = v := by simpa using h
        rw [← hnone e he hd hv]
        rfl
      case isFalse => rfl
    simp only [State.switchBack, empty, List.filter_nil, List.foldl_nil, List.any_nil, same]
    rfl
  · rw [show exec (.quantumEnd d) s = execQuantumEnd d s from rfl, execQuantumEnd]
    simp [hstate, hto, hnext, hcur]
  · refine ⟨s.beginSwitch d v, ?_, s.switchTo_beginSwitch d v, fun u b hb => State.find_beginSwitch v hcur nodup hb⟩
    rw [show exec (.quantumEnd d) s = execQuantumEnd d s from rfl, execQuantumEnd]
    simp [hstate, hto, hnext, hcur, hne]

/-- Settles O45: victims are chosen among the blocks of lower priority; what comes back is the saved block with its entries behind those that
are there; and a switch takes its steps in the order of R147. -/
theorem preemption : Obligations.Preemption := ⟨preempts, victimsAreLower, restores, comesBack, switches⟩

end Sys2Proof.Machine
end

section
/-! PROOFS of the forming and draining of districts and of VF resets (R114, R115, R149, R469, R473). -/

namespace Sys2Proof.Machine

/-! DISTRICT_FORM and DISTRICT_DRAIN -/

/-- A district's cores, slices and blocks go before it is on. -/
def State.swept (s : State) (d : Nat) : State :=
  let x := s.district d
  let s := match x.curVf with
    | some v => { s with images := Tbl.put (vfNum d v) x.live s.images }
    | none => s
  let s := x.coreIds.foldl (fun s c => { s with cores := Tbl.del c s.cores }) s
  let s := x.clusterIds.foldl (fun s c => { s with l2 := Tbl.del c s.l2 }) s
  ((s.blocks.filter fun b => b.2.dist == d).map Prod.fst).foldl State.forget s

/-- A district that is on, with nothing in it; its image keys come from the generator at f. -/
def District.opened (f : Nat) (x : District) : District :=
  { x with state := 1, err := 0, launches := [], dtab := [], images := [], ctxOps := [], curVf := none, switchTo := none,
           quantumStart := none, live := [{}, {}, {}, {}],
           vfs := (List.range 64).foldl (fun t v =>
             if v < x.vfcount then Tbl.put v { Tbl.getD v t {} with imageKey := Config.drbg (f + v) % 2 ^ 128 } t else t) x.vfs }

theorem State.formed_eq (s : State) (d : Nat) : s.formed d =
    let r := { s.swept d with fresh := (s.swept d).fresh + 64 }.onDistrict d (District.opened (s.swept d).fresh)
    r.extendMrWith 1 (sha3 (r.district d).image) := rfl

theorem State.swept_view {β : Type} (view : State → β) (images : ∀ (s : State) i, view { s with images := i } = view s)
    (cores : ∀ (s : State) c, view { s with cores := c } = view s) (l2 : ∀ (s : State) l, view { s with l2 := l } = view s)
    (blocks : ∀ (s : State) u, view (s.forget u) = view s) (s : State) (d : Nat) : view (s.swept d) = view s := by
  refine (foldl_keeps view blocks _ _).trans ((foldl_keeps view (fun s c => l2 s _) _ _).trans ?_)
  refine (foldl_keeps view (fun s c => cores s _) _ _).trans ?_
  split
  · exact images s _
  · rfl

theorem State.swept_districts (s : State) (d : Nat) : (s.swept d).districts = s.districts :=
  State.swept_view State.districts (fun _ _ => rfl) (fun _ _ => rfl) (fun _ _ => rfl) (fun _ _ => rfl) s d

theorem State.swept_dev (s : State) (d : Nat) : (s.swept d).dev = s.dev :=
  State.swept_view State.dev (fun _ _ => rfl) (fun _ _ => rfl) (fun _ _ => rfl) (fun _ _ => rfl) s d

theorem State.district_formed (s : State) (d : Nat) : (s.formed d).district d = (s.district d).opened (s.swept d).fresh := by
  have : (s.formed d).district d = ({ s.swept d with fresh := (s.swept d).fresh + 64 }.onDistrict d
    (District.opened (s.swept d).fresh)).district d := rfl
  rw [this, State.district_onDistrict, State.district, State.district, ← State.swept_districts s d]

theorem State.district_formed_of_ne {s : State} {d j : Nat} (h : j ≠ d) : (s.formed d).district j = s.district j := by
  have : (s.formed d).district j = ({ s.swept d with fresh := (s.swept d).fresh + 64 }.onDistrict d
    (District.opened (s.swept d).fresh)).district j := rfl
  rw [this, State.onDistrict, State.district, Tbl.getD_put_of_ne h, State.swept_districts, State.district]

/-- MR1 takes the measurement of the control block of the district that is on (R469). -/
theorem State.mr_formed (s : State) (d : Nat) : (s.formed d).mr 1 = sha3 (s.mr 1 ++ sha3 ((s.formed d).district d).image) := by
  have image : ({ s.swept d with fresh := (s.swept d).fresh + 64 }.onDistrict d (District.opened (s.swept d).fresh)).district d =
    (s.formed d).district d := rfl
  have mrs : ({ s.swept d with fresh := (s.swept d).fresh + 64 }.onDistrict d (District.opened (s.swept d).fresh)).mr 1 = s.mr 1 := by
    rw [State.mr, State.mr, State.onDistrict_dev, ← State.swept_dev s d]
  rw [← image, ← mrs]
  exact Tbl.getD_put_same ..

/-- What DISTRICT_FORM does to a district that is off. -/
theorem exec_districtForm {s : State} {m d : Nat} (hm : Claims.Holds s m) (hd : d < 64) (off : (s.district d).state = 0) :
    exec (.districtForm m d) s = .next
      (if (s.district d).clusters = 0 then (Claims.masterWrote s m).onDistrict d fun x => { x with err := 2 }
       else if s.overlaps d then (Claims.masterWrote s m).onDistrict d fun x => { x with err := 1 }
       else if !(s.district d).saveOk then (Claims.masterWrote s m).onDistrict d fun x => { x with err := 3 }
       else (Claims.masterWrote s m).formed d) := by
  rw [show exec (.districtForm m d) s = execDistrictForm m d s from rfl, execDistrictForm, State.gated_of_holds hm]
  exact congrArg _ (if_neg (by
    rintro (on | high)
    · exact on off
    · omega))

theorem exec_districtDrain {s : State} {m d : Nat} (hm : Claims.Holds s m) (on : (s.district d).state ≠ 0) :
    exec (.districtDrain m d) s = .next
      (if s.empty d then (Claims.masterWrote s m).fence d else (Claims.masterWrote s m).onDistrict d fun x => { x with state := 2 }) := by
  rw [show exec (.districtDrain m d) s = execDistrictDrain m d s from rfl, execDistrictDrain, State.gated_of_holds hm]
  exact congrArg _ (if_neg on)

theorem districtsClaim : Claims.Districts := by
  intro s m d hm hd x t
  refine ⟨fun off none => ?_, fun off some overlap => ?_, fun off some apart small => ?_, fun off some apart room => ?_,
    fun on gone => ?_, fun on seated => ?_⟩
  · rw [exec_districtForm hm hd off, if_pos none]
  · rw [exec_districtForm hm hd off, if_neg some, if_pos overlap]
  · rw [exec_districtForm hm hd off, if_neg some, apart, small]
    rfl
  · refine ⟨t.formed d, ?_, ?_⟩
    · rw [exec_districtForm hm hd off, if_neg some, apart, room]
      rfl
    · have district : (t.formed d).district d = x.opened (t.swept d).fresh := t.district_formed d
      refine ⟨?_, ?_, ?_, ?_, ?_, ?_, t.mr_formed d, (t.formed_mem d).trans rfl, fun j hj => State.district_formed_of_ne hj⟩
      all_goals
        rw [district]
        rfl
  · have empty : s.empty d = true := by
      simp only [State.empty, Bool.not_eq_true', List.any_eq_false, Bool.and_eq_true, beq_iff_eq]
      exact fun e he h => by simp [gone e he h.1] at h
    rw [exec_districtDrain hm on, if_pos empty]
    rfl
  · obtain ⟨e, he, hd, hs⟩ := seated
    have taken : ¬ s.empty d = true := by
      simp only [State.empty, Bool.not_eq_true', Bool.not_eq_false, List.any_eq_true]
      exact ⟨e, he, by simp [hd, hs]⟩
    rw [exec_districtDrain hm on, if_neg taken]

/-! VF_RESET and VF_FLR -/

/-- A launch that is being killed by a reset of its VF. -/
def Launch.reset (l : Launch) : Launch := if l.kill.isSome then l else { l with kill := some (0x20, 0, 0, 0) }

theorem Launch.reset_reset (l : Launch) : l.reset.reset = l.reset := by
  unfold Launch.reset
  split <;> simp_all

theorem Launch.reset_lid (l : Launch) : l.reset.lid = l.lid := by
  unfold Launch.reset
  split <;> rfl

theorem Launch.reset_vf (l : Launch) : l.reset.vf = l.vf := by
  unfold Launch.reset
  split <;> rfl

theorem Launch.isSome_kill_reset (l : Launch) : l.reset.kill.isSome = true := by
  unfold Launch.reset
  split
  · assumption
  · rfl

theorem State.district_killWith (s : State) (d lid : Nat) : (s.killWith d lid 0x20 0 0 0).district d =
    { s.district d with launches := updWhere (fun l => l.lid == lid) Launch.reset (s.district d).launches } :=
  State.district_onDistrict ..

/-- Resets of one launch and then of others are the resets of all of them. -/
theorem updWhere_reset_reset (m : Launch) (ls l : List Launch) :
    updWhere (fun l => (ls.map Launch.lid).contains l.lid) Launch.reset (updWhere (fun l => l.lid == m.lid) Launch.reset l) =
      updWhere (fun l => ((m :: ls).map Launch.lid).contains l.lid) Launch.reset l := by
  rw [updWhere, updWhere, List.map_map]
  refine List.map_congr_left fun l _ => ?_
  by_cases hm : l.lid = m.lid
  · simp [hm, Launch.reset_lid, Launch.reset_reset]
  · simp [hm]

/-- Kills, one after the other, of the launches with some identifiers. -/
theorem State.district_foldl_killWith (d : Nat) (ls : List Launch) (s : State) :
    (ls.foldl (fun s l => s.killWith d l.lid 0x20 0 0 0) s).district d =
      { s.district d with launches := updWhere (fun l => (ls.map Launch.lid).contains l.lid) Launch.reset (s.district d).launches } := by
  induction ls generalizing s with
  | nil => simp [updWhere]
  | cons m ls ih =>
    rw [List.foldl_cons, ih, State.district_killWith]
    exact congrArg (fun l => { s.district d with launches := l }) (updWhere_reset_reset m ls _)

/-- The launches that a reset of a VF kills. -/
def District.resetLaunches (x : District) (v : Nat) : List Launch :=
  updWhere (fun l => ((x.launches.filter fun l => l.vf == v).map Launch.lid).contains l.lid) Launch.reset x.launches

theorem District.resetLaunches_lid (x : District) (v : Nat) : (x.resetLaunches v).map Launch.lid = x.launches.map Launch.lid := by
  rw [District.resetLaunches, updWhere, List.map_map]
  refine List.map_congr_left fun l _ => ?_
  simp only [Function.comp_apply]
  split
  · exact l.reset_lid
  · rfl

/-- Each launch of the VF is among them. -/
theorem District.killed_of_mem_resetLaunches {x : District} {v : Nat} {l : Launch} (hl : l ∈ x.resetLaunches v) (hv : l.vf = v) :
    l.kill.isSome = true := by
  obtain ⟨m, hm, rfl⟩ := List.mem_map.mp hl
  have vf : m.vf = v := by
    rw [← hv]
    split
    · exact m.reset_vf.symm
    · rfl
  have chosen : m.lid ∈ (x.launches.filter fun l => l.vf == v).map Launch.lid :=
    List.mem_map.mpr ⟨m, List.mem_filter.mpr ⟨hm, beq_iff_eq.mpr vf⟩, rfl⟩
  rw [if_pos (List.contains_iff_mem.mpr chosen)]
  exact m.isSome_kill_reset

theorem State.district_startReset {s : State} {d v : Nat} (hbusy : (Tbl.getD v (s.district d).vfs {}).busy = false) (scrub : Bool) :
    (s.startReset d v scrub).district d = { s.district d with
      vfs := Tbl.put v { Tbl.getD v (s.district d).vfs {} with busy := true, reset := some scrub } (s.district d).vfs
      ctxOps := (s.district d).ctxOps.filter fun o => o.vf != v
      launches := (s.district d).resetLaunches v } := by
  rw [State.startReset, hbusy, if_neg Bool.false_ne_true, State.district_foldl_killWith, State.district_onDistrict]
  rfl

/-- VF_RESET of a master that is served, and VF_FLR of a device that has booted, start the reset. -/
theorem exec_reset {s : State} {m d v : Nat} {scrub : Bool} {i : Instr} (hd : d < 64) (hv : v < 64)
    (hi : i = .vfReset m d v scrub ∧ Claims.Holds s m ∨ i = .vfFlr (64 * d + v + 1) ∧ s.dev.bstate = 2 ∧ scrub = (s.dev.flrscrub == 1)) :
    ∃ t : State, exec i s = .next (t.startReset d v scrub) ∧ t.district d = s.district d ∧ t.mem = s.mem := by
  rcases hi with ⟨rfl, hm⟩ | ⟨rfl, up, rfl⟩
  · refine ⟨Claims.masterWrote s m, ?_, rfl, rfl⟩
    rw [show exec (.vfReset m d v scrub) s = execVfReset m d v scrub s from rfl, execVfReset, State.gated_of_holds hm, if_pos ⟨hd, hv⟩]
  · have hdist : (64 * d + v + 1 - 1) / 64 = d := by omega
    have hnum : (64 * d + v + 1 - 1) % 64 = v := by omega
    refine ⟨{ s with dev := { s.dev with msix := s.dev.msix.filter fun e => !(e.1 / 8 == 64 * d + v + 1) } }, ?_, rfl, rfl⟩
    rw [show exec (.vfFlr (64 * d + v + 1)) s = execVfFlr (64 * d + v + 1) s from rfl, execVfFlr, if_neg (not_not.mpr up), if_neg (by omega),
      if_pos (by omega), hdist, hnum]
    rfl

theorem vfResets : Claims.VfResets := by
  intro s m d v scrub i hd hv hi hbusy
  obtain ⟨t, run, same, mem⟩ := exec_reset hd hv hi
  rw [← same] at hbusy ⊢
  refine ⟨t.startReset d v scrub, run, ?_, ?_, fun l hl hlv _ => ?_, (t.startReset_mem d v scrub).trans mem⟩
  · rw [State.district_startReset hbusy, Tbl.find_put_same]
  · rw [State.district_startReset hbusy]
    exact District.resetLaunches_lid _ v
  · rw [State.district_startReset hbusy] at hl
    exact District.killed_of_mem_resetLaunches hl hlv

/-- Settles O46: the checks of R114 are made in their order; what is swept is neither a register of the district nor a measurement; and a reset
kills each launch that its VF has. -/
theorem districts : Obligations.Districts := ⟨districtsClaim, vfResets⟩

end Sys2Proof.Machine
end

section
/-! PROOFS about a step: a table of blocks that holds one number twice (R154, R258). -/

namespace Sys2Proof.Machine

/-! A pass that only goes on leaves the queues of other blocks -/

/-- The queues of a block, if it is there. -/
def State.queuesOf (s : State) (v : Nat) : Option (List Queue) := (Tbl.find v s.blocks).map Block.queues

theorem State.queuesOf_congr {s t : State} (h : t.blocks = s.blocks) (v : Nat) : t.queuesOf v = s.queuesOf v := by
  rw [State.queuesOf, h, State.queuesOf]

theorem State.queuesOf_onBlock {f : Block → Block} (hf : ∀ b, (f b).queues = b.queues) (s : State) (u v : Nat) :
    (s.onBlock u f).queuesOf v = s.queuesOf v := by
  rw [State.queuesOf, State.queuesOf, State.onBlock]
  by_cases h : v = u
  · subst h
    rw [Tbl.find_upd_same, Option.map_map]
    exact congrArg (fun k => Option.map k _) (funext hf)
  · rw [Tbl.find_upd_of_ne h]

@[simp] theorem State.queuesOf_onGrp (s : State) (u g : Nat) (f : Group → Group) (v : Nat) : (s.onGrp u g f).queuesOf v = s.queuesOf v :=
  State.queuesOf_onBlock (f := fun b => b.onGroup g f) (fun _ => rfl) s u v

@[simp] theorem State.queuesOf_count (s : State) (d vf code n v : Nat) : (s.count d vf code n).queuesOf v = s.queuesOf v :=
  State.queuesOf_congr (s.count_blocks d vf code n) v

@[simp] theorem State.queuesOf_countErr (s : State) (d k n v : Nat) : (s.countErr d k n).queuesOf v = s.queuesOf v := by
  unfold State.countErr
  split <;> rfl

/-- What a map that keeps the numbers does to an entry. -/
theorem Tbl.find_map_eq {α : Type} {f : Nat × α → Nat × α} (hf : ∀ e, (f e).1 = e.1) (k : Nat) (t : Tbl α) :
    Tbl.find k (t.map f) = (Tbl.find k t).map fun a => (f (k, a)).2 := by
  induction t with
  | nil => rfl
  | cons e t ih =>
    obtain ⟨j, a⟩ := e
    rw [List.map_cons, Tbl.find, Tbl.find, hf, ih]
    split
    case isTrue h => exact h ▸ rfl
    case isFalse => rfl

theorem State.queuesOf_stopBlocks (s : State) (f : Block → Bool) (v : Nat) : (s.stopBlocks f).queuesOf v = s.queuesOf v := by
  rw [State.queuesOf, State.queuesOf, State.stopBlocks, Tbl.find_map_eq (fun e => by split <;> rfl), Option.map_map]
  refine congrArg (fun k => Option.map k _) (funext fun b => ?_)
  simp only [Function.comp_apply, apply_ite Prod.snd, apply_ite Block.queues, ite_self]

theorem State.queuesOf_killLaunch (s : State) (d lid code trapa workid v : Nat) :
    (s.killLaunch d lid code trapa workid).queuesOf v = s.queuesOf v :=
  s.queuesOf_stopBlocks (fun b => b.dist == d && b.lid == lid) v

theorem State.queuesOf_trapWith (s : State) (u g code arg trapa : Nat) (ks : List Nat) (v : Nat) :
    (s.trapWith u g code arg trapa ks).queuesOf v = s.queuesOf v := by
  rw [State.trapWith]
  split
  · rw [State.queuesOf_killLaunch, State.queuesOf_count]
  · simp

@[simp] theorem State.queuesOf_takeTrap (s : State) (u g v : Nat) : (s.takeTrap u g).queuesOf v = s.queuesOf v := by
  rw [State.takeTrap]
  split
  · rfl
  · split
    · exact s.queuesOf_trapWith ..
    · split
      · rfl
      · split
        · simp
        · rw [State.queuesOf_trapWith, State.queuesOf_onGrp]

theorem State.queuesOf_scrParts (l : List ScrOp) (s : State) (v : Nat) : (s.scrParts l).1.queuesOf v = s.queuesOf v := by
  induction l generalizing s with
  | nil => rfl
  | cons o l ih =>
    refine (ih _).trans ?_
    refine (State.queuesOf_onGrp ..).trans ((State.queuesOf_onBlock (by intro; rfl) _ _ v).trans ?_)
    split <;> rfl

theorem State.queuesOf_scrResults (s : State) (l : List (ScrOp × List W8)) (v : Nat) : (s.scrResults l).queuesOf v = s.queuesOf v := by
  cases l with
  | nil => rfl
  | cons e l => exact State.queuesOf_onGrp ..

@[simp] theorem State.queuesOf_performScr (s : State) (v : Nat) : s.performScr.queuesOf v = s.queuesOf v := by
  rw [State.performScr, State.queuesOf_scrResults, State.queuesOf_scrResults, State.queuesOf_scrParts]
  rfl

theorem Block.settleSync_queues (b : Block) : b.settleSync.queues = b.queues := by
  rw [Block.settleSync]
  split
  · rfl
  · refine foldl_keeps Block.queues (fun b g => ?_) _ _
    rfl

theorem State.queuesOf_leaveOps (s : State) (u g v : Nat) : (s.leaveOps u g).queuesOf v = s.queuesOf v := by
  rw [State.leaveOps]
  split
  · rfl
  · refine foldl_keeps (fun s => State.queuesOf s v) (fun s o => ?_) _ _
    split
    · rw [State.dropOp]
      split
      · rfl
      · exact foldl_keeps (fun s => State.queuesOf s v) (fun s m => s.queuesOf_onGrp ..) _ _
    · rfl

theorem State.endLaunch_blocks (s : State) (d lid status code trapa workid : Nat) :
    (s.endLaunch d lid status code trapa workid).blocks = s.blocks := by
  rw [State.endLaunch]
  split
  · rfl
  · split <;> rfl

theorem State.launchSettle_blocks (s : State) (d lid : Nat) : (s.launchSettle d lid).blocks = s.blocks := by
  rw [State.launchSettle]
  split
  · rfl
  · dsimp only
    split
    · exact s.endLaunch_blocks ..
    · rfl

theorem Tbl.find_del_of_ne {α : Type} {j k : Nat} (h : j ≠ k) (t : Tbl α) : Tbl.find j (Tbl.del k t) = Tbl.find j t := by
  induction t with
  | nil => rfl
  | cons e t ih =>
    obtain ⟨i, b⟩ := e
    rw [Tbl.del, Tbl.find]
    split
    case isTrue hi => rw [ih, if_neg (hi ▸ h.symm)]
    case isFalse => rw [Tbl.find, ih]

theorem State.queuesOf_freeBlock {u v : Nat} (h : v ≠ u) (s : State) (zero : Bool) : (s.freeBlock u zero).queuesOf v = s.queuesOf v := by
  rw [State.freeBlock, State.queuesOf_congr (State.freeSlot_blocks ..), State.queuesOf, State.queuesOf, Tbl.find_del_of_ne h]
  rfl

theorem State.queuesOf_blockSettle {u v : Nat} (h : v ≠ u) (s : State) : (s.blockSettle u).queuesOf v = s.queuesOf v := by
  rw [State.blockSettle]
  split
  · rfl
  · split
    · rw [State.queuesOf_congr (State.launchSettle_blocks ..), State.queuesOf_freeBlock h]
      rfl
    · rfl

theorem State.queuesOf_exitSettle {u v : Nat} (h : v ≠ u) (s : State) (g : Nat) : (s.exitSettle u g).queuesOf v = s.queuesOf v := by
  rw [State.exitSettle]
  split
  · have out (f : Group → Group) : ((s.onGrp u g f).onBlock u Block.settleSync).queuesOf v = s.queuesOf v := by
      rw [State.queuesOf_onBlock Block.settleSync_queues, State.queuesOf_onGrp]
    split
    · exact (State.queuesOf_blockSettle h _).trans (out _)
    · exact out _
  · rfl

theorem State.queuesOf_latchSettle (s : State) (u g v : Nat) : (s.latchSettle u g).queuesOf v = s.queuesOf v := by
  rw [State.latchSettle]
  split
  · rfl
  · exact foldl_keeps (fun s => State.queuesOf s v) (fun s l => by rw [State.leaveLatch, State.queuesOf_takeTrap, State.queuesOf_onGrp]) _ _

theorem State.queuesOf_settle {u v : Nat} (h : v ≠ u) (s : State) (g : Nat) : (s.settle u g).queuesOf v = s.queuesOf v := by
  have settled : ((((s.onGrp u g Group.settleJoin).onBlock u Block.settleSync).leaveOps u g).exitSettle u g |>.latchSettle u g).queuesOf v =
      s.queuesOf v := by
    rw [State.queuesOf_latchSettle, State.queuesOf_exitSettle h, State.queuesOf_leaveOps, State.queuesOf_onBlock Block.settleSync_queues,
      State.queuesOf_onGrp]
  rw [State.settle]
  split
  · rfl
  · dsimp only
    split
    · exact settled
    · rw [State.queuesOf_takeTrap, settled]

theorem State.queuesOf_endPass {s : State} {u g v : Nat} {ks : List Nat} (hk : s.focus.kind = .path u g ks) (h : v ≠ u) :
    s.endPass.queuesOf v = s.queuesOf v := by
  let marked := if s.focus.yieldAfter && decide (s.focus.n < s.focus.idx + s.focus.len) &&
    ks.any (fun k => ((s.grp u g).strand k).executed) then s.onGrp u g fun x => { x with yielded := true } else s
  have hmarked : marked.queuesOf v = s.queuesOf v := by
    unfold marked
    split
    · exact State.queuesOf_onGrp ..
    · rfl
  let left := if marked.focus.kept && (marked.grp u g).busy == .none then marked.onGrp u g fun x => { x with kept := none } else marked
  have hleft : left.queuesOf v = s.queuesOf v := by
    unfold left
    split
    · exact (State.queuesOf_onGrp ..).trans hmarked
    · exact hmarked
  have pass : s.endPass = if left.focus.more then left else left.performScr.settle u g := by
    simp only [State.endPass, hk]
    rfl
  rw [pass]
  split
  · exact hleft
  · rw [State.queuesOf_settle h, State.queuesOf_performScr, hleft]

/-- NOP reads no register, so that no soft error stops a strand of its path. -/
theorem State.softRead_nop (s : State) (u g : Nat) (bp : Pr) (v : Nat) :
    (s.softRead u g (.nop bp)).queuesOf v = s.queuesOf v ∧ (s.softRead u g (.nop bp)).focus = s.focus := by
  have none : vReads (.nop bp) = [] := rfl
  rw [State.softRead]
  split
  · exact ⟨rfl, rfl⟩
  · simp only [none]
    split <;> simp

theorem State.trapWith_focus (s : State) (u g code arg trapa : Nat) (ks : List Nat) : (s.trapWith u g code arg trapa ks).focus = s.focus := by
  rw [State.trapWith]
  split
  · exact s.count_focus (s.block u).dist (vfNum (s.block u).dist (s.block u).vf) 0x11 1
  · simp

theorem State.takeTrap_focus (s : State) (u g : Nat) : (s.takeTrap u g).focus = s.focus := by
  rw [State.takeTrap]
  split
  · rfl
  · split
    · exact s.trapWith_focus ..
    · split
      · rfl
      · split
        · simp
        · exact State.trapWith_focus ..

theorem queuesOf_exec_nop {s t : State} {u g v : Nat} {ks : List Nat} {bp : Pr} (hk : s.focus.kind = .path u g ks) (h : v ≠ u)
    (run : exec (.nop bp) s = .next t) : t.queuesOf v = s.queuesOf v := by
  have ended {r : State} (hq : r.queuesOf v = s.queuesOf v) (hf : r.focus = s.focus) : r.endPass.queuesOf v = s.queuesOf v :=
    (State.queuesOf_endPass (by rw [hf, hk]) h).trans hq
  have moved {r : State} (hq : r.queuesOf v = s.queuesOf v) (hf : r.focus = s.focus) : r.advance.endPass.queuesOf v = s.queuesOf v := by
    have adv : r.advance = r.onGrp u g fun x => x.advance r.focus ks := by simp [State.advance, hf, hk]
    exact ended (by rw [adv, State.queuesOf_onGrp, hq]) (by rw [adv, State.onGrp_focus, hf])
  have trapped {r : State} (c : Nat) (hr : r = s ∨ r = (s.free 8).2) :
      (r.trapPath c).queuesOf v = s.queuesOf v ∧ (r.trapPath c).focus = s.focus := by
    have hf : r.focus = s.focus := by rcases hr with rfl | rfl <;> rfl
    have hq : r.queuesOf v = s.queuesOf v := by rcases hr with rfl | rfl <;> rfl
    have trap : r.trapPath c = (r.onGrp u g fun x => x.park ks c 0).takeTrap u g := by simp [State.trapPath, hf, hk]
    rw [trap, State.queuesOf_takeTrap, State.queuesOf_onGrp, State.takeTrap_focus, State.onGrp_focus]
    exact ⟨hq, hf⟩
  have next : t = issueBy (.nop bp) s fun es s => s.advance := (Host.Outcome.next.inj run).symm
  rw [next]
  obtain e | ⟨c, r, e, hr⟩ | ⟨c, e⟩ | e | e | ⟨w, k, e⟩ | e := issueBy_cases (.nop bp) s fun es s => s.advance
  · rw [e]
  · exact e ▸ (trapped c hr).1
  · exact e ▸ ended (trapped c (.inl rfl)).1 (trapped c (.inl rfl)).2
  · have jump : s.nextClause = s.onGrp u g fun x => x.sendTo ks s.focus.nextClause := by simp [State.nextClause, State.goto, hk]
    exact e ▸ ended (by rw [jump, State.queuesOf_onGrp]) (by rw [jump, State.onGrp_focus])
  · exact e ▸ moved rfl rfl
  · exact e ▸ ended (s.softRead_nop w k bp v).1 (s.softRead_nop w k bp v).2
  · have ops : (s.operands (.nop bp)).1 = s.softRead u g (.nop bp) := by simp [State.operands, State.who_of_path hk, srcs, laneForm, State.popSrcs]
    exact e ▸ moved (by rw [ops, (s.softRead_nop u g bp v).1]) (by rw [ops, (s.softRead_nop u g bp v).2])

/-! The counterexample -/

/-- A block that is on no core, with a result that is due for a queue of it. -/
def strayTwin : Block := { core := 1, resident := false, queues := [{}], groups := [{ pendWb := [{ push := some (0, 0, [], []) }] }] }

/-- A block on core 0 with a result that is not due. -/
def strayWork : Block := { groups := [{ pendWb := [{ due := 100 }] }] }

/-- A state whose plan begins with a pass of NOP of block 1, and whose table holds number 2 twice: the walk over the blocks finds the work of
the second of the two and lands the result of the first. -/
def stray : State :=
  let s := State.place {} 1 [0]
  { s with blocks := s.blocks ++ [(2, strayTwin), (2, strayWork)] }

/-- The step serves queue 0 of the first block 2. -/
theorem step_stray : (match step stray with
    | .next t => t.queuesOf 2
    | _ => none) = some [{ served := 1 }] := by decide +kernel

/-- The clause header of the placed NOP: no waits, class 1, one word. -/
def nopHeader : Header :=
  { cue := 0, dual := false, yieldAfter := false, join := false, wt := 7, wc := 7, ws := 7, wl := 7, cls := 1, n := 1 }

theorem codeIs_stray : Claims.codeIs (stray.core (stray.block 1).core) 4 [0] := by
  intro j w hw
  cases j with
  | zero =>
    obtain rfl : 0 = w := by simpa using hw
    decide
  | succ j => simp at hw

/-- The premises of the statement hold of this state: of block 1 no result is due, and of the blocks on its core none is. -/
theorem not_stepDecodedClaim : ¬ Claims.StepDecoded := by
  intro h
  obtain ⟨t, run, focus, -, -, -, -, -, -, -, others, -⟩ :=
    h stray 1 0 [] (stray.block 1) (stray.grp 1 0) (encodeHeader nopHeader) nopHeader [0] (.nop 0) 1 4 0 1 0 64 [0, 1, 2, 3, 4, 5, 6, 7]
      (by decide) (by decide) (by decide) (by decide) (by decide) (by decide) (by decide) (by decide) (by decide) (by decide) (by decide)
      (by decide) (by decide) (by decide) (by decide) (by decide) (by decide) (by decide) (by decide) (by decide) codeIs_stray (by decide)
      (by decide) (by decide) (by decide)
  have hk := congrArg Focus.kind focus
  obtain ⟨r, hr⟩ : ∃ r, exec (.nop 0) t = .next r := ⟨_, rfl⟩
  have keeps : r.queuesOf 2 = some strayTwin.queues :=
    (queuesOf_exec_nop hk (by decide) hr).trans ((congrArg (Option.map Block.queues) (others 2 (by decide))).trans (by decide))
  have served := step_stray
  rw [run, hr] at served
  exact absurd (keeps.symm.trans served) (by decide)

/-- Refutes O56: the premise speaks of the entries of the block table, the turns of the lanes of the first entry of a number. In a table that
holds number 2 twice, first off the core with a result that is due, then on the core with one that is not, a pass of block 1 changes block 2
before it runs its instruction. -/
theorem not_stepDecoded : ¬ Obligations.StepDecoded := fun h => not_stepDecodedClaim h.1

end Sys2Proof.Machine
end

section
/-! PROOFS of the other control instructions (R165, R170 to R177, R442). -/

namespace Sys2Proof.Machine

/-! What each instruction does, whoever issues it -/

theorem exec_nop {s : State} {bp : Pr} (hr : s.runs (.nop bp) = true) :
    exec (.nop bp) s = .next (s.operands (.nop bp)).1.passes :=
  issue_runs _ _ _ hr

theorem exec_wait {s : State} {wl ws wc wt : BitVec 3} {bp : Pr} {u g : Nat} {b : Bool} (hr : s.runs (.wait wl ws wc wt bp) = true)
    (who : (s.operands (.wait wl ws wc wt bp)).1.who = some (u, g, b)) :
    let t := (s.operands (.wait wl ws wc wt bp)).1
    exec (.wait wl ws wc wt bp) s = .next (t.onGrp u g fun x =>
      x.raise (if b then x.living else t.pathStrands) (x.joinTime ws.toNat wc.toNat wt.toNat)).passes := by
  refine (issue_runs _ _ _ hr).trans ?_
  simp only [who]

theorem exec_yield {s : State} {bp : Pr} {u g : Nat} {b : Bool} (hr : s.runs (.yield bp) = true)
    (who : (s.operands (.yield bp)).1.who = some (u, g, b)) :
    exec (.yield bp) s = .next ((s.operands (.yield bp)).1.onGrp u g fun x => { x with yielded := true }).passes := by
  refine (issue_runs _ _ _ hr).trans ?_
  simp only [who]

/-- CUE takes the budget of its phase from the launch; phase 0 has none (R165, R177). -/
theorem exec_cue {s : State} {k : W8} {bp : Pr} {u g : Nat} {b : Bool} {l : Launch} (hr : s.runs (.cue k bp) = true)
    (who : (s.operands (.cue k bp)).1.who = some (u, g, b))
    (hl : (s.operands (.cue k bp)).1.launchOf ((s.operands (.cue k bp)).1.block u) = some l) :
    let t := (s.operands (.cue k bp)).1
    let budget := if k = 0 then 0 else (l.cues.getD (k.toNat - 1) 0).toNat
    exec (.cue k bp) s = .next (t.onGrp u g fun x =>
      { x with cue := BitVec.ofNat 32 k.toNat
               cueTimer := if budget = 0 then none else some (budget + hCueMargin (t.launchHdr (t.block u))) }).passes := by
  have phase : k.toNat = 0 ↔ k = 0 := ⟨fun h => BitVec.eq_of_toNat_eq h, fun h => h ▸ rfl⟩
  refine (issue_runs _ _ _ hr).trans ?_
  simp only [who, State.startCue, hl, phase]

theorem wordsFromHeader_onGrp (s : State) (u g : Nat) (f : Group → Group) (off : BitVec 18) :
    Claims.wordsFromHeader (s.onGrp u g f) off = Claims.wordsFromHeader s off := rfl

theorem State.nextClause_onGrp (s : State) (u g : Nat) (f : Group → Group) :
    (s.onGrp u g f).nextClause = (s.onGrp u g f).goto (Claims.nextHeader s) := rfl

/-- LOOP counts its register down and goes to its target until that is 0 (R176). -/
theorem exec_loop {s : State} {bp cr : Pr} {off : BitVec 18} {u g : Nat} (hr : s.runs (.loop bp cr off) = true)
    (put : ∀ v, (s.operands (.loop bp cr off)).1.putW (8 + cr.val) v =
      (s.operands (.loop bp cr off)).1.onGrp u g fun x => x.setW (8 + cr.val) v)
    (read : (s.operands (.loop bp cr off)).1.readW (8 + cr.val) = ((s.operands (.loop bp cr off)).1.grp u g).getW (8 + cr.val)) :
    let t := (s.operands (.loop bp cr off)).1
    let v := (t.grp u g).getW (8 + cr.val) - 1
    exec (.loop bp cr off) s = .next ((t.onGrp u g fun x => x.setW (8 + cr.val) v).goto
      (if v = 0 then Claims.nextHeader t else Claims.wordsFromHeader t off)).endPass := by
  refine (issueMove_runs _ _ _ hr).trans ?_
  simp only [put, read, State.nextClause_onGrp, target_eq, wordsFromHeader_onGrp, ← apply_ite]

/-! Paths -/

theorem flow : Claims.Flow := by
  intro s t u g P hp
  have who := State.who_of_path hp
  refine ⟨fun bp hr ht => ?nop, fun bp hr ht => ?rjoin, fun wl ws wc wt bp hr ht => ?wait, fun bp hr ht => ?yield,
    fun k bp hr ht => ?trap, fun bp cr off hr ht => ?loop, fun k bp l hr ht hl => ?cue, fun bp hr ht => ?exit⟩ <;> subst ht
  case nop => exact exec_nop hr
  case rjoin =>
    refine (issueMove_runs _ _ _ hr).trans ?_
    simp only [hp, State.waitIn, beq_iff_eq]
  case wait =>
    rw [exec_wait hr who]
    simp only [State.pathStrands, hp]
    rfl
  case yield => exact exec_yield hr who
  case trap =>
    refine (issueMove_runs _ _ _ hr).trans ?_
    simp only [hp, nextClause_eq_nextHeader]
  case loop =>
    refine (exec_loop hr (u := u) (g := g) (fun v => ?_) ?_).trans ?_
    · simp only [State.putW, hp]
    · simp only [State.readW, hp]
    · simp only [State.onGrp_goto_of_path hp]
  case cue => exact exec_cue hr who hl
  case exit =>
    refine (issueMove_runs _ _ _ hr).trans ?_
    simp only [hp]

/-! Handlers -/

/-- A strand that RETT of its handler lets run on: neither exited nor a replayable understudy (R175). -/
def Strand.resumes (t : Strand) : Bool :=
  match t.st with
  | .exited => false
  | .replay _ => false
  | _ => true

theorem Strand.resumes_iff (t : Strand) : t.resumes = true ↔ t.st ≠ .exited ∧ ∀ b, t.st ≠ .replay b := by
  rw [Strand.resumes]
  cases t.st <;> simp

theorem Group.badReturn_iff (x : Group) : x.badReturn = true ↔ x.trapa ≠ x.trapaEntry ∧ x.trapa.toNat % 4 ≠ 0 ∧
    ∃ k ∈ strandsOf x.trapm.toNat x.width, (x.strand k).st ≠ .exited ∧ ∀ b, (x.strand k).st ≠ .replay b := by
  have by_resumes : x.badReturn = (x.trapa != x.trapaEntry && x.trapa.toNat % 4 != 0 &&
    (strandsOf x.trapm.toNat x.width).any fun k => (x.strand k).resumes) := rfl
  simp only [by_resumes, Bool.and_eq_true, bne_iff_ne, List.any_eq_true, Strand.resumes_iff, and_assoc]

theorem exec_rett_of_handler {s : State} {u g : Nat} (hp : (s.operands .rett).1.focus.kind = .handler u g) (hr : s.runs .rett = true) :
    let t := (s.operands .rett).1
    exec .rett s = .next (if (t.grp u g).badReturn then t.trapPath 0x08
      else (t.onGrp u g Group.endHandler).resumeOps u g).endPass := by
  refine (issueMove_runs _ _ _ hr).trans ?_
  simp only [hp]

theorem handlerReturns : Claims.HandlerReturns := by
  intro s t u g hp hr ht x bad
  subst ht
  constructor
  · intro good
    rw [exec_rett_of_handler hp hr, if_neg (mt (Group.badReturn_iff _).mp good)]
  · intro isBad
    rw [exec_rett_of_handler hp hr, if_pos ((Group.badReturn_iff _).mpr isBad)]

theorem handlerFlow : Claims.HandlerFlow := by
  intro s t u g hp
  have who : t.who = some (u, g, true) := by rw [State.who, hp]
  refine ⟨fun bp hr ht => ?nop, fun bp hr ht => ?rjoin, fun wl ws wc wt bp hr ht => ?wait, fun bp hr ht => ?yield,
    fun k bp hr ht => ?trap, fun bp cr off hr ht => ?loop, fun k bp l hr ht hl => ?cue, fun bp hr ht => ?exit⟩ <;> subst ht
  case nop => exact exec_nop hr
  case rjoin =>
    refine (issueMove_runs _ _ _ hr).trans ?_
    simp only [hp, nextClause_eq]
  case wait => simpa only [if_true] using exec_wait hr who
  case yield => exact exec_yield hr who
  case trap =>
    refine (issueMove_runs _ _ _ hr).trans ?_
    simp only [hp, State.trapPath]
  case loop =>
    refine exec_loop hr (fun v => ?_) ?_
    · simp only [State.putW, hp]
    · simp only [State.readW, hp]
  case cue => exact exec_cue hr who hl
  case exit =>
    refine (issueMove_runs _ _ _ hr).trans ?_
    simp only [hp, trapStrands_eq]

/-! Service threads (R442) -/

theorem State.passes_of_thread {s : State} {q : Nat} (hp : s.focus.kind = .thread q) : s.passes = s.advance := by
  refine State.endPass_of_thread (q := q) ?_
  simp only [State.advance, hp, State.onSqueue_focus]

/-- What a thread may not issue is no instruction for it, and faults with 0x01; the check of a transfer's place comes before (R53). -/
theorem decodeTrap_of_thread_mayNot {i : Instr} {s : State} {q : Nat} (hp : s.focus.kind = .thread q) (mayNot : threadMay i = false)
    (inside : s.focus.n < s.focus.idx + s.focus.len) : decodeTrap i s = some 0x01 := by
  simp [decodeTrap, hp, mayNot, Nat.not_le.mpr inside]

theorem threadFlow : Claims.ThreadFlow := by
  intro s q bp hp
  refine ⟨fun hr => ?nop, fun hr => ?yield, fun wl ws wc wt hr => ?wait, fun hr => ?exit, fun i he hi inside => ?faults⟩
  case nop => rw [exec_nop hr, State.operands_of_thread hp, State.passes_of_thread hp]
  case yield =>
    refine (issue_runs _ _ _ hr).trans ?_
    simp only [State.operands_of_thread hp, State.who, hp, State.passes_of_thread hp]
  case wait =>
    refine (issue_runs _ _ _ hr).trans ?_
    simp only [State.operands_of_thread hp, State.who, hp, State.passes_of_thread hp]
  case exit =>
    refine (issueMove_runs _ _ _ hr).trans ?_
    simp only [State.operands_of_thread hp, hp]
    exact congrArg Host.Outcome.next (State.endPass_of_thread (q := q) hp)
  case faults =>
    have mayNot : threadMay i = false := by
      obtain rfl | rfl | ⟨k, rfl⟩ | ⟨k, rfl⟩ := hi <;> rfl
    obtain ⟨body, run⟩ := exec_issues he s
    rw [run, issueBy_of_decodeTrap (by simp [hp]) (by simp only [handlerFault, hp]) (decodeTrap_of_thread_mayNot hp mayNot inside),
      State.endPass_trapPath_of_thread hp]
    simp only [State.trapPath, hp, State.threadFault]

/-- Settles O10: each instruction that runs is its own effect between its operands and the end of the pass, said once for paths and
handlers alike where the two differ in nothing; what a service thread may not issue stops at the checks of decode. -/
theorem controlFlow : Obligations.ControlFlow := ⟨flow, handlerReturns, handlerFlow, threadFlow⟩

end Sys2Proof.Machine
end

section
/-! PROOFS of trap entry and of the end of a handler (R161, R163, R164, R175). -/

namespace Sys2Proof.Machine

/-! Trap entry (R161, R163) -/

theorem testBit_foldl_mask (ks : List Nat) (a k : Nat) :
    (ks.foldl (fun a k => a ||| 2 ^ k) a).testBit k = (a.testBit k || decide (k ∈ ks)) := by
  induction ks generalizing a with
  | nil => simp
  | cons j ks ih => simp [ih, Nat.testBit_or, Nat.testBit_two_pow, Bool.or_assoc, eq_comm]

/-- The bits of a mask word are the strands of its list. -/
theorem testBit_maskOf (ks : List Nat) (k : Nat) : (maskOf ks).testBit k = decide (k ∈ ks) := by
  simp [maskOf, testBit_foldl_mask]

theorem State.takeTrap_of_trapSet {s : State} {u g code arg pc : Nat} {ks : List Nat} (more : s.focus.more = false)
    (alive : s.dying u = false) (handler : (s.grp u g).handler = none) (set : (s.grp u g).trapSet = some (code, arg, pc, ks)) :
    s.takeTrap u g = s.trapWith u g code arg pc ks := by
  simp [State.takeTrap, more, alive, handler, set]

theorem trapEntryClaim : Claims.TrapEntry := by
  intro s u g code arg pc ks b x hb hx more alive handler set hasHandler hks hcode harg y
  have group := State.grp_of_find hb hx
  have entered : s.takeTrap u g = (s.count b.dist (vfNum b.dist b.vf) 0x11 1).onGrp u g fun x =>
      x.enterTrap code arg pc (hTrapE (s.launchHdr b)) ks := by
    rw [State.takeTrap_of_trapSet more alive (group ▸ handler) (group ▸ set), State.trapWith, State.block_of_find hb, if_neg hasHandler]
  have hy : y = x.enterTrap code arg pc (hTrapE (s.launchHdr b)) ks := by
    simp only [y, entered]
    exact State.grp_onGrp_same (by rw [State.count_blocks, hb]) hx _
  rw [hy]
  refine ⟨?trapc, fun k hk => ?trapm, rfl, rfl, rfl, rfl, rfl, rfl, rfl, rfl, rfl, rfl, rfl, rfl, State.takeTrap_mem s u g, ?parts⟩
  case trapc =>
    simp only [Group.enterTrap, BitVec.toNat_ofNat]
    omega
  case trapm =>
    simp only [Group.enterTrap, BitVec.getLsbD_ofNat, hk, testBit_maskOf, decide_true, Bool.true_and, decide_eq_true_eq]
  case parts => rw [entered, State.onGrp_parts, State.count_parts]

theorem trapKills : Claims.TrapKills := by
  intro s u g code arg pc ks b x hb hx more alive handler set noHandler
  have group := State.grp_of_find hb hx
  rw [State.takeTrap_of_trapSet more alive (group ▸ handler) (group ▸ set), State.trapWith, State.block_of_find hb, if_pos noHandler]

/-! The choice of the strands (R164) -/

/-- A fatal understudy. -/
def Strand.isFatal (t : Strand) : Bool :=
  match t.st with
  | .fatal _ _ _ => true
  | _ => false

/-- The fatal understudies of a group. -/
def Group.fatals (x : Group) : List Nat := x.all.filter fun k => (x.strand k).isFatal

/-- Those of them at a counter. -/
def Group.fatalsAt (x : Group) (pc : Nat) : List Nat := x.fatals.filter fun k => (x.strand k).pc == pc

theorem Strand.isFatal_iff (t : Strand) : t.isFatal = true ↔ ∃ c a va, t.st = .fatal c a va := by
  rw [Strand.isFatal]
  split
  case h_1 c a va h => simp [h]
  case h_2 h => simpa using h

theorem Group.mem_fatals {x : Group} {k : Nat} : k ∈ x.fatals ↔ k < x.width ∧ ∃ c a va, (x.strand k).st = .fatal c a va := by
  simp [Group.fatals, Group.all, Strand.isFatal_iff]

theorem Group.mem_fatalsAt {x : Group} {pc k : Nat} : k ∈ x.fatalsAt pc ↔ k ∈ x.fatals ∧ (x.strand k).pc = pc := by
  simp [Group.fatalsAt]

/-- They stand in the order of their indices. -/
theorem Group.fatalsAt_sorted (x : Group) (pc : Nat) : (x.fatalsAt pc).Pairwise (· < ·) :=
  (List.pairwise_lt_range.filter _).filter _

theorem minBy_least {f : Nat → Nat} {l : List Nat} {j : Nat} (h : minBy f l = some j) : j ∈ l ∧ ∀ i ∈ l, f j ≤ f i := by
  have hl : l ≠ [] := by
    rintro rfl
    exact nomatch h
  obtain ⟨i, hi, hmin, least⟩ := exists_minBy f hl
  obtain rfl : i = j := Option.some.inj (hmin.symm.trans h)
  exact ⟨hi, least⟩

/-- What a trap entry takes: of the fatal understudies at the lowest counter, those that recorded what the first of them did. -/
theorem Group.trapSet_eq_some {x : Group} {code arg pc : Nat} {ks : List Nat} (h : x.trapSet = some (code, arg, pc, ks)) :
    ∃ low first rest, minBy (fun k => (x.strand k).pc) x.fatals = some low ∧ x.fatalsAt (x.strand low).pc = first :: rest ∧
      (x.strand first).st = .fatal code arg pc ∧
      ks = (x.fatalsAt (x.strand low).pc).filter fun j => (x.strand j).st == .fatal code arg pc := by
  have unfolded : x.trapSet = match minBy (fun k => (x.strand k).pc) x.fatals with
    | none => none
    | some low => match x.fatalsAt (x.strand low).pc with
      | [] => none
      | k :: _ => match (x.strand k).st with
        | .fatal c a va => some (c, a, va, (x.fatalsAt (x.strand low).pc).filter fun j => (x.strand j).st == .fatal c a va)
        | _ => none := rfl
  rw [unfolded] at h
  split at h
  · exact nomatch h
  case h_2 low hlow =>
    split at h
    · exact nomatch h
    case h_2 first rest hhere =>
      split at h
      case h_1 c a va hst =>
        simp only [Option.some.injEq, Prod.mk.injEq] at h
        obtain ⟨rfl, rfl, rfl, rfl⟩ := h
        exact ⟨low, first, rest, hlow, hhere, hst, rfl⟩
      case h_2 => exact nomatch h

theorem trapChoice : Claims.TrapChoice := by
  intro x code arg pc ks h
  obtain ⟨low, first, rest, hlow, here, hst, rfl⟩ := Group.trapSet_eq_some h
  obtain ⟨-, least⟩ := minBy_least hlow
  have mem {k : Nat} : k ∈ (x.fatalsAt (x.strand low).pc).filter (fun j => (x.strand j).st == .fatal code arg pc) ↔
      k ∈ x.fatalsAt (x.strand low).pc ∧ (x.strand k).st = .fatal code arg pc := by
    simp
  have hfirst : first ∈ x.fatalsAt (x.strand low).pc := here ▸ List.mem_cons_self
  have chosen := mem.mpr ⟨hfirst, hst⟩
  have counter {k : Nat} (hk : k ∈ x.fatalsAt (x.strand low).pc) : (x.strand k).pc = (x.strand low).pc := (Group.mem_fatalsAt.mp hk).2
  refine ⟨List.ne_nil_of_mem chosen, fun k hk => (mem.mp hk).2, fun j hj c a va hfatal k hk => ?_, fun j hj c a va hfatal hsame => ?_⟩
  · rw [counter (mem.mp hk).1]
    exact least j (Group.mem_fatals.mpr ⟨hj, c, a, va, hfatal⟩)
  · obtain ⟨k, hk, hpc⟩ := hsame
    have hjhere : j ∈ x.fatalsAt (x.strand low).pc :=
      Group.mem_fatalsAt.mpr ⟨Group.mem_fatals.mpr ⟨hj, c, a, va, hfatal⟩, hpc.trans (counter (mem.mp hk).1)⟩
    refine ⟨⟨first, chosen, ?_⟩, fun hcode => ?_⟩
    · have sorted := x.fatalsAt_sorted (x.strand low).pc
      rw [here, List.pairwise_cons] at sorted
      rw [here, List.mem_cons] at hjhere
      obtain rfl | hj := hjhere
      · exact le_rfl
      · exact (sorted.1 j hj).le
    · obtain ⟨rfl, rfl, rfl⟩ : c = code ∧ a = arg ∧ va = pc := by simpa using hcode
      exact mem.mpr ⟨hjhere, hfatal⟩

/-- Settles O12: trap entry writes the trap registers of one group; the strands that it takes stand at the least counter of the fatal
understudies, in the order of their indices. -/
theorem trapEntry : Obligations.TrapEntry := ⟨trapEntryClaim, trapKills, trapChoice⟩

/-! The end of a handler (R175) -/

/-- What RETT makes of a strand of trapm. -/
def Group.released (x : Group) (t : Strand) : Strand :=
  match t.st with
  | .exited => t
  | .replay _ => t
  | _ =>
    let t := if x.trapa == x.trapaEntry then t else { t.goto x.trapa.toNat with wait := .none, replay := none }
    { t with st := .active, age := 0 }

/-- A replayable understudy whose fill came while the handler ran runs on (R159). -/
def Strand.filled (t : Strand) : Strand := if t.st == .replay true then { t with st := .active } else t

theorem Strand.filled_of_ne {t : Strand} (h : t.st ≠ .replay true) : t.filled = t := by
  rw [Strand.filled, if_neg (by simpa using h)]

theorem Group.released_of_resumes {x : Group} {t : Strand} (alive : t.st ≠ .exited) (fatal : ∀ b, t.st ≠ .replay b) :
    x.released t = { (if x.trapa = x.trapaEntry then t else { t.goto x.trapa.toNat with wait := .none, replay := none }) with
      st := .active, age := 0 } := by
  rw [Group.released]
  split
  case h_1 h => exact absurd h alive
  case h_2 h => exact absurd h (fatal _)
  case h_3 => simp only [beq_iff_eq]

/-- The end of a handler, but for the place of an operation that its path leaves. -/
theorem Group.endHandler_eq (x : Group) : ∃ kept busy, x.endHandler =
    { x with
      kept := kept, busy := busy, handler := none, calls := x.calls.filter fun c => !c.handler
      strands := (x.onStrands (strandsOf x.trapm.toNat x.width) x.released).strands.map Strand.filled } := by
  refine ⟨x.endHandler.kept, x.endHandler.busy, ?_⟩
  rw [Group.endHandler, Group.leaves_eq, Group.onStrands_eq]
  rfl

theorem strandsOf_nodup (m w : Nat) : (strandsOf m w).Nodup := List.nodup_range.filter _

theorem mem_strandsOf {m w k : Nat} : k ∈ strandsOf m w ↔ k < w ∧ m.testBit k = true := by simp [strandsOf]

theorem Group.strand_endHandler {x : Group} {k : Nat} (hw : k < x.width) :
    x.endHandler.strand k = (if x.trapm.getLsbD k then x.released (x.strand k) else x.strand k).filled := by
  have here : x.strands[k]? = some (x.strand k) := by
    rw [Group.strand, List.getD_eq_getElem _ _ hw, List.getElem?_eq_getElem hw]
  have mem : k ∈ strandsOf x.trapm.toNat x.width ↔ x.trapm.getLsbD k = true := by
    simp [mem_strandsOf, hw, BitVec.testBit_toNat]
  obtain ⟨kept, busy, h⟩ := x.endHandler_eq
  rw [h, Group.strand_eq, List.getElem?_map, Group.onStrands_strands, getElem?_foldl_modify _ (strandsOf_nodup _ _), here]
  simp only [mem]
  split <;> rfl

theorem handlerEndClaim : Claims.HandlerEnd := by
  intro x k hw _ y
  have strand : y.strand k = _ := Group.strand_endHandler hw
  obtain ⟨kept, busy, hy⟩ : ∃ kept busy, y = _ := x.endHandler_eq
  refine ⟨by rw [hy], by rw [hy], by rw [hy], fun c hc => ?calls, fun hm alive fatal same => ?stays, fun hm alive fatal new => ?moves,
    fun hm notFilled => ?others⟩
  case calls =>
    rw [hy] at hc
    simpa using hc
  case stays =>
    rw [strand, if_pos hm, Group.released_of_resumes alive fatal, if_pos same, Strand.filled_of_ne (by simp)]
  case moves =>
    rw [strand, if_pos hm, Group.released_of_resumes alive fatal, if_neg new, Strand.filled_of_ne (by simp)]
    exact ⟨rfl, rfl, rfl, rfl, rfl⟩
  case others => rw [strand, if_neg (by simp [hm]), Strand.filled_of_ne notFilled]

/-- Settles O14: the end of a handler changes each strand of trapm alone, and then each replayable understudy that is filled. -/
theorem handlerEnd : Obligations.HandlerEnd := handlerEndClaim

end Sys2Proof.Machine
end

section
/-! PROOFS of replies to strands, and of wakes (R159, R191 to R196, R373). -/

namespace Sys2Proof.Machine

/-! PART_REPLY -/

/-- A reply that no earlier part of its strands holds back reaches them. -/
theorem exec_partReply_of_strands {s : State} {id : Nat} {p : Part} {u g : Nat} {ks : List Nat} {r : Reply} (hp : s.part id = some p)
    (src : p.src = .strands u g ks) (hb : (Tbl.find u s.blocks).isSome = true) (st : p.st = .replied r) :
    exec (.partReply id) s = .next (s.strandReply p u g ks r) := by
  have there : (Tbl.find u s.blocks).isNone = false := Option.isNone_eq_false_iff.mpr hb
  rw [show exec (.partReply id) s = execPartReply id s from rfl, execPartReply, hp]
  simp only [st, State.giveReply, src, there, Bool.false_eq_true, if_false]

theorem State.strandReply_load {s : State} {p : Part} {u g : Nat} {ks : List Nat} {d : List W8} {wts rts : Nat} (nonempty : ks ≠ [])
    (first : s.earlier p u g ks = false) (page : keyOf p.va ≠ 0xfffd) (kind : p.kind = .load) (l1 : p.l1 = false) (whole : 64 ≤ d.length) :
    let t := max ((s.grp u g).pathTime ks) wts
    let x := s.onGrp u g fun x => x.raise ks t
    t ≤ rts → x.uncached p = false →
      s.strandReply p u g ks (.accept d wts rts 0) =
        (x.l1Fill (s.block u).core p.va p.hint d wts rts p.sentAt).later p.id (.data ((d.drop (p.va % 64)).take p.len)) := by
  intro t x lease cached
  have who : ks.isEmpty = false := by simpa using nonempty
  have lease' : ¬(rts < max ((s.grp u g).pathTime ks) wts ∧ keyOf p.va ≠ 0xfffd) := fun h => absurd lease (Nat.not_le.mpr h.1)
  have fills : ¬((0 : Nat) ≠ 0 ∨ p.l1 = true ∨ d.length < 64 ∨ x.uncached p = true) := by
    simp [l1, cached, whole]
  simp only [State.strandReply, first, kind, who, Bool.false_eq_true, if_false, if_neg page, if_neg lease']
  rw [if_neg fills]
  rfl

theorem State.strandReply_store {s : State} {p : Part} {u g : Nat} {ks : List Nat} {d : List W8} {wts rts : Nat} (nonempty : ks ≠ [])
    (first : s.earlier p u g ks = false) (page : keyOf p.va ≠ 0xfffd) (kind : p.kind = .store) :
    s.strandReply p u g ks (.accept d wts rts 0) =
      ((((s.onGrp u g fun x => x.raise ks wts).l1Store (s.block u).core p.va p.hint p.data wts).closePart p wts).dropPart p.id) := by
  have who : ks.isEmpty = false := by simpa using nonempty
  simp only [State.strandReply, first, kind, who, Bool.false_eq_true, if_false, if_neg page]

/-! LOAD_DATA_ARRIVAL -/

theorem ofNat_wrapN (x : Int) (n : Nat) : BitVec.ofNat n (wrapN x n) = BitVec.ofInt n x := by
  apply BitVec.eq_of_toNat_eq
  have hpos : (0 : Int) < (2 ^ n : Nat) := by exact_mod_cast Nat.two_pow_pos n
  have low := Int.emod_nonneg x hpos.ne'
  have high := Int.emod_lt_of_pos x hpos
  rw [BitVec.toNat_ofNat, BitVec.toNat_ofInt, wrapN, Nat.mod_eq_of_lt (by omega)]

/-- A result of at most 32 bits is one word, sign-extended on request below 32 (R193). -/
theorem loadWords_of_word {bits : Nat} (hbits : bits = 8 ∨ bits = 16 ∨ bits = 32) (sx : Bool) (bytes : List W8) :
    loadWords bits sx bytes =
      [if sx ∧ bits < 32 then BitVec.ofInt 32 (BitVec.ofNat bits (ofLe bytes)).toInt else BitVec.ofNat 32 (ofLe bytes)] := by
  obtain rfl | rfl | rfl := hbits <;> cases sx <;> simp [loadWords, natWords, ofNat_wrapN, sext_eq_toInt]

theorem State.writeLoad_of_word {s : State} {e : Issue} {n : Fin 64} {w : W32} {bytes : List W8} (dest : e.dest = .v n)
    (words : loadWords e.bits e.sx bytes = [w]) (ks : List Nat) :
    s.writeLoad e ks bytes = s.onGrp e.blk e.grp fun x => (ks.foldl (fun x k => x.setV n.val k w) x).compressV n.val := by
  simp only [State.writeLoad, words, dest]
  rfl

theorem exec_loadDataArrival {s : State} {id : Nat} {p : Part} {u g : Nat} {ks : List Nat} {bytes : List W8} {e : Issue} {n : Fin 64}
    (hp : s.part id = some p) (src : p.src = .strands u g ks) (st : p.st = .data bytes)
    (issue : firstWith (fun e => e.id == p.issue) s.issues = some e) (dest : e.dest = .v n) (one : ceilDiv e.bits 32 = 1) :
    let t := s.writeLoad e ks bytes
    exec (.loadDataArrival id) s = .next (((t.count (t.block u).dist (vfNum (t.block u).dist (t.block u).vf) 0x05
      (((t.grp u g).vregs.getD n.val {}).words (t.grp u g).width)).closePart p 0).dropPart id) := by
  rw [show exec (.loadDataArrival id) s = execLoadDataArrival id s from rfl, execLoadDataArrival, hp]
  simp only [src, st, issue, dest, one, List.range_one, List.foldl_cons, List.foldl_nil, Nat.zero_add, Nat.add_zero]

theorem repliesClaim : Claims.Replies := by
  intro s id p hp hid
  refine ⟨fun u g ks d wts rts src hb nonempty first page st => ⟨fun kind lease l1 whole cached => ?load, fun kind => ?store⟩,
    fun u g ks bytes e n src st issue blk grp dest bits _ => ?data, rfl, fun core d wts rts st => ?code⟩
  case load => rw [exec_partReply_of_strands hp src hb st, State.strandReply_load nonempty first page kind l1 whole lease cached, hid]
  case store => rw [exec_partReply_of_strands hp src hb st, State.strandReply_store nonempty first page kind, hid]
  case data =>
    have one : ceilDiv e.bits 32 = 1 := by obtain h | h | h := bits <;> rw [h] <;> rfl
    refine (exec_loadDataArrival hp src st issue dest one).trans ?_
    rw [State.writeLoad_of_word dest (loadWords_of_word bits e.sx bytes), blk, grp]
  case code =>
    rw [show exec (.icacheFill core id) s = execIcacheFill core id s from rfl, execIcacheFill, hp]
    simp only [st]
    rfl

/-! WAKE -/

theorem wakes : Claims.Wakes := by
  intro s id p u g ks hp hid src nonempty hb held
  have there : (Tbl.find u s.blocks).isNone = false := Option.isNone_eq_false_iff.mpr hb
  have who : ks.isEmpty = false := by simpa using nonempty
  rw [show exec (.wake id) s = execWake id s from rfl, execWake, hp]
  simp only [State.wakePart, src, there, who, Bool.false_eq_true, if_false, hid]
  congr 4
  funext t
  cases t.st with
  | replay woken =>
    change (if held = true then _ else _) = _
    cases held <;> rfl
  | _ => rfl

/-- Settles O35: a reply that nothing earlier holds back is what its part's kind makes of it; the data of a part of at most 32 bits is one
word; and a wake changes the replayable understudies of its strands alone. -/
theorem replies : Obligations.Replies := ⟨repliesClaim, wakes⟩

end Sys2Proof.Machine
end

section
/-! PROOFS of loads at their home (R361, R367, R377, R489): a page under a key that has no bytes. -/

namespace Sys2Proof.Machine

/-- Strand 0's load of the first word of page 0. -/
def noKeyPart : Part := { Tests.paged.strandPart 1 0 [0] .load 0 4 with id := 3 }

/-- The load at its home, where the page's key slot is loaded with a key of no bytes. -/
def noKeyLoad : State :=
  { Tests.paged with parts := [noKeyPart], dev := { Tests.paged.dev with slots := [(0, { loaded := true })] } }

theorem noKeyLoad_atPage : Claims.AtPage noKeyLoad 3 noKeyPart (2 ^ 63 + 256) (131 * 4096) (256 * 4096) [] where
  here := by decide
  number := by decide
  own := by decide
  plain := by decide
  turn := by decide
  home := ⟨0, by decide +kernel⟩
  enabled := by decide
  still := by decide
  order := by decide
  device := by decide
  slot := by decide
  owner := by decide
  authority := by decide

/-- The line that cluster 0's slice holds after a step. -/
def sliceAfter (o : Host.Outcome State Fault Refusal) : List CacheLine :=
  match o with
  | .next t => t.slice 0
  | _ => []

/-- A line that is shorter than 64 bytes enters no slice. -/
theorem sliceAfter_noKeyLoad : sliceAfter (exec (.homeRead 3) noKeyLoad) = [] := by decide +kernel

theorem not_homeReadsClaim : ¬ Claims.HomeReads := by
  intro h
  have next := h noKeyLoad 3 noKeyPart _ _ _ _ noKeyLoad_atPage (by decide) (by decide) (fun cl _ => rfl)
  have filled := (congrArg (fun o => (sliceAfter o).length) next).symm.trans (congrArg List.length sliceAfter_noKeyLoad)
  exact absurd filled (by decide)

/-- Refutes O32: a line that is decrypted under a key of no bytes has no bytes, and what is shorter than a line enters no slice (R489), where the
statement has it filled. No hypothesis gives the key of a loaded slot its 64 bytes, though KEY_LOAD and KEY_GEN do (R464). -/
theorem not_homeReads : ¬ Obligations.HomeReads := fun ⟨h, _⟩ => not_homeReadsClaim h

end Sys2Proof.Machine
end

section
/-! PROOFS of atomics at their home (R202, R361, R366, R385): a page that maps the table in which its own entry stands. -/

namespace Sys2Proof.Machine

/-- Strand 0 adds to the first word of page 0. -/
def selfPart : Part := { Tests.paged.strandPart 1 0 [0] .atom 0 4 with id := 3, data := [1, 2, 3, 4], cmp := [0, 0, 0, 0] }

/-- The atomic at its home, where the entry of page 0 names the frame of the last-level table: the entry stands in the page's own first line. -/
def selfMapped : State :=
  { Tests.paged with mem := cellsWrite (131 * 4096) (leBytes 8 (2 ^ 63 + 131)) Tests.paged.mem, parts := [selfPart] }

theorem selfMapped_atPage :
    Claims.AtPage selfMapped 3 selfPart (2 ^ 63 + 131) (131 * 4096) (131 * 4096) (List.replicate 64 0) where
  here := by decide
  number := by decide
  own := by decide
  plain := by decide
  turn := by decide
  home := ⟨0, by decide +kernel⟩
  enabled := by decide
  still := by decide
  order := by decide
  device := by decide
  slot := by decide
  owner := by decide
  authority := by decide

/-- The events that district 0 has counted after a step. -/
def eventsAfter (o : Host.Outcome State Fault Refusal) : List (Nat × Nat × Nat) :=
  match o with
  | .next t => (t.district 0).events
  | _ => []

/-- Behind the write the page has no entry: the part's line is none that caches keep, and the slice counts no miss. -/
theorem eventsAfter_selfMapped : eventsAfter (exec (.homeAtomic 3) selfMapped) = [] := by decide +kernel

theorem not_homeAtomics : ¬ Claims.HomeAtomics := by
  intro h
  have next := h selfMapped 3 selfPart _ _ _ _ selfMapped_atPage (by decide) (by decide) (by decide) (by decide) (by decide) (by decide)
    (by decide) (by decide) (by decide)
  have counted := (congrArg eventsAfter next).symm.trans eventsAfter_selfMapped
  exact absurd counted (by decide)

/-- Refutes O33: an atomic whose line holds the page entry by which it was translated puts ciphertext in the entry's place, and the slice, which
asks only then whether the page may be cached (R489), counts no miss (event 0x0c, R477) for an address without a page; the statement counts one
always. -/
theorem not_homeWrites : ¬ Obligations.HomeWrites := fun ⟨_, h⟩ => not_homeAtomics h

end Sys2Proof.Machine
end

section
/-! PROOFS of the checks of an access (R183, R184, R369): what a strand that fails them parks with, and their order. -/

namespace Sys2Proof.Machine

/-! Parking -/

/-- A strand that parks at its counter with a code (R158, R183). -/
def Strand.parked (code : Nat) (t : Strand) : Strand :=
  if t.st == .active then { t with st := .fatal code 0 t.pc, wait := .none, replay := none } else t

/-- The strands of a list park that have a code. -/
def Group.parkFailing (code : Nat → Option Nat) (x : Group) (ks : List Nat) : Group :=
  ks.foldl (fun x k => match code k with
    | some c => x.park [k] c 0
    | none => x) x

theorem Group.parkFailing_cons (code : Nat → Option Nat) (x : Group) (k : Nat) (ks : List Nat) : x.parkFailing code (k :: ks) =
    Group.parkFailing code (match code k with
      | some c => x.park [k] c 0
      | none => x) ks := rfl

theorem Group.strand_park_same {x : Group} {k : Nat} (hk : k < x.width) (c : Nat) : (x.park [k] c 0).strand k = (x.strand k).parked c :=
  Group.strand_onStrands (List.nodup_singleton k) List.mem_cons_self hk _

theorem Group.strand_park_of_ne {x : Group} {j k : Nat} (h : j ≠ k) (c : Nat) : (x.park [k] c 0).strand j = x.strand j :=
  x.strand_onStrand_of_ne h _

theorem Group.width_park (x : Group) (ks : List Nat) (c a : Nat) : (x.park ks c a).width = x.width := x.width_onStrands ks _

theorem Group.replay_strand_park {x : Group} {j : Nat} (h : (x.strand j).replay = none) (k c : Nat) :
    ((x.park [k] c 0).strand j).replay = none := by
  rw [Group.park, Group.onStrands_eq, Group.strand_eq, Group.onStrands_strands, List.foldl_cons, List.foldl_nil, List.getElem?_modify]
  rw [Group.strand_eq] at h
  cases hx : x.strands[j]? with
  | none => simp
  | some t =>
    rw [hx] at h
    by_cases hk : k = j
    · by_cases hst : t.st = .active
      · simp [hk, hst]
      · simpa [hk, hst] using h
    · simpa [hk] using h

/-- What a group has beside its strands stays. -/
theorem Group.parkFailing_eq (code : Nat → Option Nat) (x : Group) (ks : List Nat) :
    x.parkFailing code ks = { x with strands := (x.parkFailing code ks).strands } := by
  induction ks generalizing x with
  | nil => rfl
  | cons k ks ih =>
    rw [Group.parkFailing_cons]
    split
    · rw [ih, Group.park, Group.onStrands_eq]
    · exact ih x

theorem Group.strand_parkFailing_of_pass {code : Nat → Option Nat} {ks : List Nat} {j : Nat} (h : j ∈ ks → code j = none) (x : Group) :
    (x.parkFailing code ks).strand j = x.strand j := by
  induction ks generalizing x with
  | nil => rfl
  | cons k ks ih =>
    rw [Group.parkFailing_cons, ih fun hj => h (List.mem_cons_of_mem k hj)]
    cases hc : code k with
    | none => rfl
    | some c =>
      have hne : j ≠ k := fun hjk => by
        subst hjk
        exact absurd ((h List.mem_cons_self).symm.trans hc) nofun
      exact Group.strand_park_of_ne hne c

theorem Group.strand_parkFailing_of_code {code : Nat → Option Nat} {ks : List Nat} (hks : ks.Nodup) {k c : Nat} (hk : k ∈ ks)
    (hc : code k = some c) {x : Group} (hw : k < x.width) : (x.parkFailing code ks).strand k = (x.strand k).parked c := by
  induction ks generalizing x with
  | nil => exact absurd hk List.not_mem_nil
  | cons j ks ih =>
    obtain ⟨hj, hks⟩ := List.nodup_cons.mp hks
    rw [Group.parkFailing_cons]
    obtain rfl | hk := List.mem_cons.mp hk
    · rw [hc, Group.strand_parkFailing_of_pass (fun h => absurd h hj), Group.strand_park_same hw]
    · have hne : k ≠ j := fun h => hj (h ▸ hk)
      cases hcj : code j with
      | none => exact ih hks hk hw
      | some d => rw [ih hks hk (by rwa [Group.width_park]), Group.strand_park_of_ne hne]

/-! The checks of all strands -/

/-- A check reads the tables of the block's district and core. -/
theorem State.checkMem_congr {s t : State} {u : Nat} (dist : (t.block u).dist = (s.block u).dist) (lid : (t.block u).lid = (s.block u).lid)
    (core : (t.block u).core = (s.block u).core) (districts : t.districts = s.districts) (cores : t.cores = s.cores) (va align need : Nat) :
    t.checkMem u va align need = s.checkMem u va align need := by
  have header : t.launchHdr (t.block u) = s.launchHdr (s.block u) := by
    simp only [State.launchHdr, State.launchOf, State.district, dist, lid, districts]
  have district (d : Nat) : t.district d = s.district d := by rw [State.district, State.district, districts]
  have entries (c : Nat) : t.core c = s.core c := by rw [State.core, State.core, cores]
  simp only [State.checkMem, State.mayAccess, State.distLookup, header, district, entries, dist, core]
  rfl

theorem State.checkMem_onGrp (s : State) (u g : Nat) (f : Group → Group) (v va align need : Nat) :
    (s.onGrp u g f).checkMem v va align need = s.checkMem v va align need :=
  have keeps {β : Type} (view : Block → β) (h : ∀ b, view (b.onGroup g f) = view b) : view ((s.onGrp u g f).block v) = view (s.block v) :=
    State.block_onBlock_keeps view h s u v
  State.checkMem_congr (keeps Block.dist fun _ => rfl) (keeps Block.lid fun _ => rfl) (keeps Block.core fun _ => rfl) rfl rfl va align need

/-- Strands without a replay: the failing ones park, the others bring their own operands. -/
theorem State.checkAll_eq {s : State} {u g align need : Nat} {opnds : Nat → Nat × List W8 × List W8} {code : Nat → Option Nat} {cov : List Nat}
    {b : Block} {x : Group} (hb : Tbl.find u s.blocks = some b) (hx : b.groups[g]? = some x)
    (hcode : ∀ k ∈ cov, s.checkMem u (opnds k).1 align need = code k) (hnew : ∀ k ∈ cov, (x.strand k).replay = none) :
    s.checkAll u g align need opnds cov = (s.onGrp u g (·.parkFailing code cov),
      (cov.filter fun k => (code k).isNone).map fun k => (k, (opnds k).1, (opnds k).2.1, (opnds k).2.2, false)) := by
  induction cov generalizing s b x with
  | nil => exact congrArg (·, []) (State.onGrp_eq_self (f := id) fun _ _ _ _ => rfl).symm
  | cons k cov ih =>
    have grp : s.grp u g = x := by rw [State.grp, State.block_of_find hb, Block.group_of_getElem? hx]
    have check := hcode k List.mem_cons_self
    have rest (j : Nat) (hj : j ∈ cov) := hcode j (List.mem_cons_of_mem k hj)
    have new (j : Nat) (hj : j ∈ cov) := hnew j (List.mem_cons_of_mem k hj)
    rw [State.checkAll]
    simp only [Strand.operands, grp, hnew k List.mem_cons_self, Bool.false_eq_true, if_false, check]
    cases hc : code k with
    | none =>
      rw [ih hb hx rest new]
      simp [hc, Group.parkFailing_cons]
    | some c =>
      have found : Tbl.find u (s.faultStrand u g k c).blocks = some (b.onGroup g fun x => x.park [k] c 0) :=
        (Tbl.find_upd_same u _ s.blocks).trans (hb ▸ rfl)
      have group : (b.onGroup g fun x => x.park [k] c 0).groups[g]? = some (x.park [k] c 0) := by
        simp [Block.onGroup, List.getElem?_modify_eq, hx]
      simp only
      rw [ih found group (fun j hj => (s.checkMem_onGrp ..).trans (rest j hj)) fun j hj => Group.replay_strand_park (new j hj) k c]
      simp [State.faultStrand, State.onGrp_onGrp, Group.parkFailing_cons, hc]

theorem accessFaults : Claims.AccessFaults := by
  intro s u g align need opnds cov b x hb hx hcov hstrands
  have checked := State.checkAll_eq (code := fun k => s.checkMem u (opnds k).1 align need) hb hx (fun _ _ => rfl)
    fun k hk => (hstrands k hk).2.2
  have grp := State.grp_onGrp_same hb hx (·.parkFailing (fun k => s.checkMem u (opnds k).1 align need) cov)
  simp only [checked, grp]
  refine ⟨?_, fun k hk c hc => ?_, fun k hk => ?_, rfl, rfl, ?_, ?_⟩
  · rw [List.map_map]
    exact List.map_id _
  · obtain ⟨hw, active, -⟩ := hstrands k hk
    rw [Group.strand_parkFailing_of_code hcov hk hc hw]
    simp [Strand.parked, active]
  · exact Group.strand_parkFailing_of_pass hk x
  · rw [Group.parkFailing_eq]
  · rw [Group.parkFailing_eq]

theorem keyOf_eq (va : Nat) : keyOf va = va / 2 ^ 48 % 2 ^ 16 := by rw [keyOf, bits_eq_div_mod]

/-- The two highest keys are those from 0xfffe on. -/
theorem le_keyOf_iff (va : Nat) : 0xfffe ≤ keyOf va ↔ keyOf va = 0xfffe ∨ keyOf va = 0xffff := by
  have bound : keyOf va < 2 ^ 16 := keyOf_eq va ▸ Nat.mod_lt _ (by norm_num)
  omega

theorem checkOrder : Claims.CheckOrder := by
  intro s u va n need
  simp only [State.checkMem, State.mayAccess, ← keyOf_eq, le_keyOf_iff, ← ite_or, or_assoc]

/-- Settles O18: the failing strands park one by one, which no check of a later strand sees; the order is that of `checkMem`. -/
theorem accessChecks : Obligations.AccessChecks := ⟨accessFaults, checkOrder⟩

end Sys2Proof.Machine
end

section
/-! PROOFS of the scratchpad accesses of a pass (R194, R198, R202): what an instruction plans, and the turns that the accesses take. -/

namespace Sys2Proof.Machine

/-! Planning -/

theorem firstWith_eq_find? {α : Type} (p : α → Bool) (l : List α) : firstWith p l = l.find? p := by
  induction l with
  | nil => rfl
  | cons a l ih =>
    rw [firstWith, List.find?_cons, ih]
    cases p a <;> rfl

theorem scrAddress_eq (base : Nat) (index : W32) (off : BitVec 12) (n : Nat) : Claims.scrAddress base index off n = scrEa base index off n := by
  rw [Claims.scrAddress, scrEa, wrapN]
  push_cast
  rfl

theorem Block.checkScr_eq_none {b : Block} {off size : Nat} (h : off % size = 0 ∧ off + size ≤ b.scrBytes) : b.checkScr off size = none := by
  obtain ⟨aligned, inside⟩ := h
  rw [Block.checkScr, if_neg (not_not.mpr aligned), if_neg (not_lt.mpr inside)]

/-- Accesses that all pass the checks of the share are planned as the form says. -/
theorem State.scrAccess_of_fits {t : State} {o : ScrOp} {addr : Nat → Nat} {ks : List Nat} (hne : ks ≠ [])
    (fits : ∀ k ∈ ks, addr k % o.size = 0 ∧ addr k + o.size ≤ (t.block o.blk).scrBytes) (once : Bool) (data cmp : Nat → List W8) :
    t.scrAccess o once addr data cmp ks = Claims.scrPlan t ks once o addr data cmp := by
  have pass : ∀ k ∈ ks, ((t.block o.blk).checkScr (addr k) o.size).isSome = false := fun k hk => by
    rw [Block.checkScr_eq_none (fits k hk)]; rfl
  have parted : ks.partition (fun k => ((t.block o.blk).checkScr (addr k) o.size).isSome) = ([], ks) := by
    rw [List.partition_eq_filter_filter, List.filter_eq_nil_iff.mpr fun k hk => by simp [pass k hk],
      List.filter_eq_self.mpr fun k hk => by simp [pass k hk]]
  obtain ⟨k, rest, rfl⟩ := List.exists_cons_of_ne_nil hne
  simp only [State.scrAccess, parted, List.foldl_nil, Claims.scrPlan, firstWith_eq_find?, List.foldl_map]
  cases once <;> rfl

theorem scratchpadAccess : Claims.ScratchpadAccess := by
  intro s t u g ks d b x c p off hk hne
  have who := State.who_of_path hk
  refine ⟨fun k sx hr ht fits => ?_, fun k hr ht fits => ?_, fun ty aop hr ht fits => ?_⟩
  · rw [show exec (.lds k d b x p sx off) s = execLds k d b x p sx off s from rfl, execLds, issue_runs _ s _ hr, ht]
    simp only [who, ← scrAddress_eq]
    rw [State.scrAccess_of_fits hne fits]
  · rw [show exec (.sts k d b x p off) s = execSts k d b x p off s from rfl, execSts, issue_runs _ s _ hr, ht]
    simp only [who, ← scrAddress_eq, ceilDiv_size]
    rw [State.scrAccess_of_fits hne fits]
  · rw [show exec (.atoms d b x c p ty aop off) s = execAtoms d b x c p ty aop off s from rfl, execAtoms, issue_runs _ s _ hr, ht]
    simp only [who, ← scrAddress_eq]
    rw [State.scrAccess_of_fits hne fits]

/-! The order of a pass -/

theorem mem_insertScr {o p : ScrOp} {l : List ScrOp} : p ∈ insertScr o l ↔ p = o ∨ p ∈ l := by
  induction l with
  | nil => simp [insertScr]
  | cons q l ih =>
    rw [insertScr]
    split
    · simp
    · simp only [List.mem_cons, ih]; tauto

theorem insertScr_sorted (o : ScrOp) {l : List ScrOp} (h : (l.map ScrOp.cyc).Pairwise (· ≤ ·)) :
    ((insertScr o l).map ScrOp.cyc).Pairwise (· ≤ ·) := by
  induction l with
  | nil => simp [insertScr]
  | cons p l ih =>
    obtain ⟨first, rest⟩ := List.pairwise_cons.mp h
    have first' : ∀ q ∈ l, p.cyc ≤ q.cyc := fun q hq => first _ (List.mem_map_of_mem hq)
    rw [insertScr]
    split
    case isTrue lt =>
      refine List.pairwise_cons.mpr ⟨fun c hc => ?_, h⟩
      obtain ⟨q, hq, rfl⟩ := List.mem_map.mp hc
      obtain rfl | hq := List.mem_cons.mp hq
      · exact lt.le
      · exact lt.le.trans (first' q hq)
    case isFalse le =>
      refine List.pairwise_cons.mpr ⟨fun c hc => ?_, ih rest⟩
      obtain ⟨q, hq, rfl⟩ := List.mem_map.mp hc
      obtain rfl | hq := mem_insertScr.mp hq
      · exact not_lt.mp le
      · exact first' q hq

/-! The turns -/

theorem ScrOp.writes_eq_scrPut (o : ScrOp) (old : List W8) : o.writes old = Claims.scrPut o old := by
  rw [ScrOp.writes, Claims.scrPut]
  split
  · rw [if_pos ‹_›]
  · rw [if_neg (by omega), if_pos ‹_›]
  · rw [if_neg ‹_›, if_neg ‹_›]

/-- One turn behind others: the access is performed, and what it found is noted. -/
def scrTurn (a : State × List (ScrOp × List W8)) (o : ScrOp) : State × List (ScrOp × List W8) :=
  ((a.1.scrPart o).1, a.2 ++ [(o, (a.1.scrPart o).2)])

theorem foldl_scrTurn (l : List ScrOp) (s : State) (acc : List (ScrOp × List W8)) :
    l.foldl scrTurn (s, acc) = ((s.scrParts l).1, acc ++ (s.scrParts l).2) := by
  induction l generalizing s acc with
  | nil => simp [State.scrParts]
  | cons o l ih => simp [scrTurn, ih, State.scrParts]

theorem scrTurn_eq (a : State × List (ScrOp × List W8)) (o : ScrOp) {old : List W8} (hold : a.1.scrRead o.blk o.off o.size = old) :
    scrTurn a o = ((((Claims.scrPut o old).elim a.1 (a.1.scrWrite o.blk o.off)).scrTime o.blk o.grp o.ks 0).1, a.2 ++ [(o, old)]) := by
  subst hold
  rw [scrTurn, State.scrPart, ScrOp.writes_eq_scrPut]
  cases Claims.scrPut o (a.1.scrRead o.blk o.off o.size) <;> rfl

theorem State.scrResults_of_group {s : State} {l : List (ScrOp × List W8)} {u g : Nat} {b : Block} {x : Group}
    (hb : Tbl.find u s.blocks = some b) (hx : b.groups[g]? = some x) (hne : l ≠ []) (hl : ∀ e ∈ l, e.1.blk = u ∧ e.1.grp = g) :
    (s.scrResults l).grp u g = x.bump 0 (· + 1) ∧
      (s.scrResults l).parts.map (fun p => (p.src, p.st, p.due)) = s.parts.map (fun p => (p.src, p.st, p.due)) ++
        l.map fun e => (.strands u g e.1.ks, .data e.2, max (s.cycle + 1) e.1.due) := by
  obtain ⟨⟨o, d⟩, r, rfl⟩ := List.exists_cons_of_ne_nil hne
  obtain ⟨rfl, rfl⟩ := hl _ List.mem_cons_self
  rw [State.scrResults]
  constructor
  · exact State.grp_onGrp_same hb hx _
  · have parts := List.map_map (l := ((o, d) :: r).zipIdx) (f := Prod.fst)
      (g := fun e : ScrOp × List W8 => (PartSrc.strands o.blk o.grp e.1.ks, PartSt.data e.2, max (s.cycle + 1) e.1.due))
    rw [List.zipIdx_map_fst] at parts
    simp only [State.onGrp_parts, List.map_append, List.map_map, parts]
    rfl

theorem scratchpadTurns : Claims.ScratchpadTurns := by
  refine ⟨insertScr_sorted, fun s => ?_, fun s l u g b x hb hx hne hl => ?_⟩
  · have turns := foldl_scrTurn s.scrOps { s with scrOps := [] } []
    rw [List.foldl_ext _ scrTurn _ fun a o _ => ?turn, turns]
    case turn =>
      rw [scrTurn_eq a o rfl]
      dsimp only
      cases Claims.scrPut o (a.1.scrRead o.blk o.off o.size) <;> rfl
    rfl
  · obtain ⟨grp, parts⟩ := State.scrResults_of_group hb hx hne hl
    refine ⟨?_, ?_, s.scrResults_mem l, parts⟩ <;> rw [grp] <;> rfl

end Sys2Proof.Machine
end

section
/-! PROOFS of the bytes of a share (R121, R194, R198): a write inside the share is what the next read gives, and every other byte stays. -/

namespace Sys2Proof.Machine

theorem shareByte_inj {units : List Nat} (h : units.Nodup) {o o' a : Nat} (ho : shareByte units o = some a) (ho' : shareByte units o' = some a) :
    o = o' := by
  rw [shareByte] at ho ho'
  cases hu : units[o / 2048]? with
  | none => simp [hu] at ho
  | some u =>
    cases hu' : units[o' / 2048]? with
    | none => simp [hu'] at ho'
    | some u' =>
      simp only [hu, hu', Option.some.injEq] at ho ho'
      have same : u = u' := by omega
      have here : o / 2048 < units.length := (List.getElem?_eq_some_iff.mp hu).1
      have index := (List.getElem?_inj here h).mp (hu.trans (same ▸ hu'.symm))
      omega

theorem shareByte_isSome {units : List Nat} {o : Nat} (h : o < 2048 * units.length) : ∃ a, shareByte units o = some a := by
  have lt : o / 2048 < units.length := by omega
  simp [shareByte, List.getElem?_eq_getElem lt]

/-- The byte at an offset of a share, 0 behind it. -/
def shareGet (c : Cells) (units : List Nat) (o : Nat) : W8 :=
  match shareByte units o with
  | some a => cellGet a c
  | none => 0

theorem shareRead_eq (c : Cells) (units : List Nat) (o n : Nat) : shareRead c units o n = (List.range n).map fun i => shareGet c units (o + i) := by
  induction n generalizing o with
  | zero => rfl
  | succ n ih =>
    rw [shareRead, ih, List.range_succ_eq_map, List.map_cons, List.map_map]
    refine congrArg₂ List.cons rfl (List.map_congr_left fun i _ => ?_)
    rw [Function.comp_apply, Nat.succ_eq_add_one, Nat.add_right_comm, Nat.add_assoc]

/-- Where one byte of a share is written. -/
def sharePut (units : List Nat) (o : Nat) (v : W8) (c : Cells) : Cells :=
  match shareByte units o with
  | some a => cellPut a v c
  | none => c

theorem shareWrite_cons (units : List Nat) (o : Nat) (v : W8) (bs : List W8) (c : Cells) :
    shareWrite units o (v :: bs) c = shareWrite units (o + 1) bs (sharePut units o v c) := rfl

theorem sharePut_wf {c : Cells} (h : Memory.wf c = true) (units : List Nat) (o : Nat) (v : W8) : Memory.wf (sharePut units o v c) = true := by
  unfold sharePut
  split
  · exact cellPut_wf _ v h
  · exact h

theorem shareGet_put_same {c : Cells} (h : Memory.wf c = true) {units : List Nat} {o : Nat} (ho : o < 2048 * units.length) (v : W8) :
    shareGet (sharePut units o v c) units o = v := by
  obtain ⟨a, ha⟩ := shareByte_isSome ho
  simp only [shareGet, sharePut, ha, cellGet_put h, if_true]

theorem shareGet_put_of_ne {c : Cells} (h : Memory.wf c = true) {units : List Nat} (hu : units.Nodup) {o o' : Nat} (hne : o' ≠ o) (v : W8) :
    shareGet (sharePut units o v c) units o' = shareGet c units o' := by
  unfold shareGet sharePut
  cases ha' : shareByte units o' with
  | none => rfl
  | some a' =>
    cases ha : shareByte units o with
    | none => rfl
    | some a => exact (cellGet_put h a a' v).trans (if_neg fun (e : a' = a) => hne (shareByte_inj hu ha' (e ▸ ha)))

theorem shareGet_write_outside {bs : List W8} {c : Cells} (h : Memory.wf c = true) {units : List Nat} (hu : units.Nodup) {off o : Nat}
    (out : o < off ∨ off + bs.length ≤ o) : shareGet (shareWrite units off bs c) units o = shareGet c units o := by
  induction bs generalizing off c with
  | nil => rfl
  | cons v bs ih =>
    rw [List.length_cons] at out
    rw [shareWrite_cons, ih (sharePut_wf h units off v) (by omega), shareGet_put_of_ne h hu (by omega)]

theorem shareRead_write {bs : List W8} {c : Cells} (h : Memory.wf c = true) {units : List Nat} (hu : units.Nodup) {off : Nat}
    (inside : off + bs.length ≤ 2048 * units.length) : shareRead (shareWrite units off bs c) units off bs.length = bs := by
  induction bs generalizing off c with
  | nil => rfl
  | cons v bs ih =>
    rw [List.length_cons] at inside
    have first : shareGet (shareWrite units off (v :: bs) c) units off = v := by
      rw [shareWrite_cons, shareGet_write_outside (sharePut_wf h units off v) hu (by omega), shareGet_put_same h (by omega)]
    refine congrArg₂ List.cons first ?_
    rw [shareWrite_cons]
    exact ih (sharePut_wf h units off v) (by omega)

/-- A share after a write of the scratchpad. -/
theorem State.scrRead_scrWrite {s : State} {u : Nat} {b : Block} (hb : Tbl.find u s.blocks = some b) (off : Nat) (bs : List W8) (o n : Nat) :
    (s.scrWrite u off bs).scrRead u o n = shareRead (shareWrite b.scr off bs (s.core b.core).sram) b.scr o n := by
  have block : (s.scrWrite u off bs).block u = b := State.block_of_find hb
  have sram : ((s.scrWrite u off bs).core b.core).sram = shareWrite b.scr off bs (s.core b.core).sram := by
    rw [State.scrWrite, State.block_of_find hb, State.core, State.onCore, Tbl.getD_put_same]
  rw [State.scrRead, block, sram]

theorem scratchpadMemory : Claims.ScratchpadMemory := by
  intro s u off bs b hb inside wf nodup
  have before (o n : Nat) : s.scrRead u o n = shareRead (s.core b.core).sram b.scr o n := by rw [State.scrRead, State.block_of_find hb]
  refine ⟨?_, fun o _ out => ?_, s.scrWrite_mem u off bs⟩
  · rw [State.scrRead_scrWrite hb, shareRead_write wf nodup inside]
  · rw [State.scrRead_scrWrite hb, before, shareRead_eq, shareRead_eq]
    exact congrArg (fun v => [v]) (shareGet_write_outside wf nodup out)

/-- Settles O19: a form whose checks pass plans its accesses, the turns of a pass are `scrParts`, and a share is read byte by byte where it is
written. -/
theorem scratchpad : Obligations.Scratchpad := ⟨scratchpadAccess, scratchpadMemory, scratchpadTurns⟩

end Sys2Proof.Machine
end

section
/-! PROOFS of fences, hints and monitors (R207 to R211), and of the accesses of a service thread (R442). -/

namespace Sys2Proof.Machine

/-! FENCE (R208) -/

section Fence
variable {t : State} {u g : Nat} {ks : List Nat}

/-- What a fence does in a path: it ends the wait that it stands in, waits, or goes on. -/
def State.fenced (t : State) (u g : Nat) (ks : List Nat) (pstOnly : Bool) : State :=
  match t.pathWait with
  | .fence _ ts _ => (t.onGrp u g fun x => x.raise ks ts).advance
  | _ =>
    if t.fenceHolds u g t.nextId pstOnly then t.waitIn (.fence t.nextId ((t.grp u g).newest pstOnly) pstOnly)
    else (t.onGrp u g fun x => x.raise ks ((t.grp u g).newest pstOnly)).advance

theorem State.fenced_of_wait {n ts : Nat} {k : Bool} (h : t.pathWait = .fence n ts k) (pstOnly : Bool) :
    t.fenced u g ks pstOnly = (t.onGrp u g fun x => x.raise ks ts).advance := by
  simp only [State.fenced, h]

theorem State.fenced_of_new (h : ∀ n ts k, t.pathWait ≠ .fence n ts k) (pstOnly : Bool) : t.fenced u g ks pstOnly =
    if t.fenceHolds u g t.nextId pstOnly then t.waitIn (.fence t.nextId ((t.grp u g).newest pstOnly) pstOnly)
    else (t.onGrp u g fun x => x.raise ks ((t.grp u g).newest pstOnly)).advance := by
  rw [State.fenced]
  split
  case h_1 n ts k hw => exact absurd hw (h n ts k)
  case h_2 => rfl

end Fence

theorem fenceBy_of_path {s t : State} {u g : Nat} {ks : List Nat} {i : Instr} (hr : s.runs i = true) (ht : (s.operands i).1 = t)
    (hk : t.focus.kind = .path u g ks) (pstOnly : Bool) : fenceBy i pstOnly s = .next (t.fenced u g ks pstOnly).endPass := by
  rw [fenceBy, issueMove_runs i s _ hr, ht]
  simp only [hk]
  rfl

theorem exec_fence {s : State} {i : Instr} {p : Pr} {pstOnly : Bool}
    (h : (i = .fenceP p ∧ pstOnly = true) ∨ (i = .fenceH p ∧ pstOnly = false) ∨ (i = .fenceA p ∧ pstOnly = false)) :
    exec i s = fenceBy i pstOnly s := by
  obtain ⟨rfl, rfl⟩ | ⟨rfl, rfl⟩ | ⟨rfl, rfl⟩ := h <;> rfl

/-! PREF and MON (R207, R210) -/

theorem exec_pref_of_path {s t : State} {u g : Nat} {ks : List Nat} {b x : Opd} {p : Pr} {hint : BitVec 3} {off : BitVec 12}
    (hk : t.focus.kind = .path u g ks) (hr : s.runs (.pref b x p hint off) = true) (ht : (s.operands (.pref b x p hint off)).1 = t) :
    let va (k : Nat) : Nat := Claims.address (baseVal (t.grp u g) true b k) (indexVal (t.grp u g) x k) off 1
    let sent := (t.covered p).filter fun k =>
      (t.checkMem u (va k) 1 rightRD).isNone && (hint != 2 || (t.l1Find (t.block u).core (va k)).isSome)
    exec (.pref b x p hint off) s =
      .next (t.sendParts (sent.map fun k => { t.strandPart u g [k] .pref (va k) 1 with hint := hint.toNat })).1.passes := by
  intro va sent
  refine (issue_runs _ s _ hr).trans ?_
  rw [ht]
  simp only [State.who_of_path hk, ← address_eq, List.filter_map, List.map_map]
  rfl

/-- A change of a group that keeps its strands changes nothing of a part that they send. -/
theorem State.strandPart_onGrp {f : Group → Group} (hf : ∀ x, (f x).strands = x.strands) (t : State) (u g v h : Nat) (ks : List Nat)
    (kind : PartKind) (va len : Nat) : (t.onGrp u g f).strandPart v h ks kind va len = t.strandPart v h ks kind va len := by
  have keeps {β : Type} (view : Block → β) (hb : ∀ b, view (b.onGroup g f) = view b) : view ((t.onGrp u g f).block v) = view (t.block v) :=
    State.block_onBlock_keeps view hb t u v
  have dist := keeps Block.dist fun _ => rfl
  have vf := keeps Block.vf fun _ => rfl
  have lid := keeps Block.lid fun _ => rfl
  have strands : ((t.onGrp u g f).grp v h).strands = (t.grp v h).strands := State.grp_onGrp_keeps Group.strands hf t u g v h
  simp only [State.strandPart, State.launchHdr, State.launchOf, State.lease, State.district, State.onGrp_districts, State.onGrp_dev,
    State.onGrp_focus, Group.pathTime, Group.living, Group.all, Group.width, Group.strand, dist, vf, lid, strands]

theorem exec_mon_of_path {s t : State} {u g : Nat} {ks : List Nat} {b x : Opd} {p : Pr} {off : BitVec 12}
    (hk : t.focus.kind = .path u g ks) (hr : s.runs (.mon b x p off) = true) (ht : (s.operands (.mon b x p off)).1 = t) :
    let va (k : Nat) : Nat := Claims.address (baseVal (t.grp u g) true b k) (indexVal (t.grp u g) x k) off 1
    (∀ k ∈ t.covered p, t.checkMem u (va k) 1 rightRD = none ∧ ((t.grp u g).strand k).replay = none) →
      let m := addLines ((t.covered p).map fun k => va k / 64) (t.grp u g).monLines
      exec (.mon b x p off) s = .next
        (((t.onGrp u g fun y => { y with monLines := m.1, overF := y.overF || m.2.2 }).sendParts
          (m.2.1.map fun l => t.strandPart u g ((t.covered p).filter fun k => va k / 64 = l) .mon (64 * l) 1)).1).passes := by
  intro va pass m
  have checked := State.checkAll_of_pass (opnds := fun k => (va k, [], [])) pass
  have lines : ((t.covered p).map fun k => (k, va k, ([] : List W8), ([] : List W8), false)).map (fun e => lineOf e.2.1) =
      (t.covered p).map fun k => va k / 64 := List.map_map
  have own (l : Nat) : (((t.covered p).map fun k => (k, va k, ([] : List W8), ([] : List W8), false)).filter fun e =>
      lineOf e.2.1 == l).map Prod.fst = (t.covered p).filter fun k => va k / 64 = l := by
    rw [List.filter_map, List.map_map]
    exact List.map_id _
  refine (issueMove_runs _ s _ hr).trans ?_
  rw [ht]
  simp only [hk, State.who_of_path hk, ← address_eq]
  rw [show t.checkAll u g 1 rightRD (fun k => (Claims.address (baseVal (t.grp u g) true b k) (indexVal (t.grp u g) x k) off 1, [], []))
    (t.covered p) = _ from checked]
  simp only [lines, own, State.strandPart_onGrp, implies_true]
  rfl

/-! SLEEP (R211) -/

/-- The end of a sleep: the path takes a time, and the group's lines are armed no more. -/
def State.wakes (t : State) (u g : Nat) (ks : List Nat) (ts : Group → Nat) : State :=
  ((t.onGrp u g fun x => x.raise ks (ts x)).onGrp u g fun x => { x with monLines := [], woke := false, overF := false, wokeTs := 0 }).disarm
    (.grp u g)

section Sleep
variable {s t : State} {u g : Nat} {ks : List Nat} {p : Pr}

theorem exec_sleep_of_woken (hk : t.focus.kind = .path u g ks) (hr : s.runs (.sleep p) = true) (ht : (s.operands (.sleep p)).1 = t) {ts : Nat}
    (h : t.pathWait = .woken ts) : exec (.sleep p) s = .next (t.wakes u g ks fun _ => ts).passes := by
  refine (issueMove_runs _ s _ hr).trans ?_
  rw [ht]
  simp [hk, h]
  rfl

theorem exec_sleep_of_new (hk : t.focus.kind = .path u g ks) (hr : s.runs (.sleep p) = true) (ht : (s.operands (.sleep p)).1 = t)
    (h : ∀ ts, t.pathWait ≠ .woken ts) : exec (.sleep p) s = .next (State.endPass (
      if (t.grp u g).monLines = [] ∨ (t.grp u g).overF = true ∨ (t.grp u g).woke = true then
        (t.wakes u g ks fun x => if x.woke then x.wokeTs else 0).advance
      else t.waitIn .sleep)) := by
  refine (issueMove_runs _ s _ hr).trans ?_
  rw [ht]
  simp only [hk]
  cases hw : t.pathWait
  case woken ts => exact absurd hw (h ts)
  all_goals
    simp only [Option.isSome_none, Option.getD_none, Bool.or_false, Bool.or_eq_true, List.isEmpty_iff, or_assoc]
    rfl

end Sleep

theorem fences : Claims.Fences := by
  intro s t u g ks p hk
  refine ⟨fun i pstOnly hi hr ht => ?fence, fun b x hint off => exec_pref_of_path hk, fun b x off => exec_mon_of_path hk,
    fun hr ht => ?sleep⟩
  case fence =>
    intro newest
    rw [exec_fence hi, fenceBy_of_path hr ht hk]
    refine ⟨fun n ts k h => ?_, fun h free => ?_, fun h held => ?_⟩
    · rw [State.fenced_of_wait h]
      rfl
    · rw [State.fenced_of_new h, if_neg (Bool.eq_false_iff.mp free)]
      rfl
    · rw [State.fenced_of_new h, if_pos held, State.waitIn_of_path hk]
      rfl
  case sleep =>
    intro x ends
    refine ⟨fun ts h => exec_sleep_of_woken hk hr ht h, fun h stop => ?_, fun h lines room asleep => ?_⟩
    · refine (exec_sleep_of_new hk hr ht h).trans ?_
      rw [if_pos stop]
      rfl
    · have awaits : ¬(x.monLines = [] ∨ x.overF = true ∨ x.woke = true) := by simp [lines, room, asleep]
      rw [exec_sleep_of_new hk hr ht h, if_neg awaits, State.waitIn_of_path hk]

/-! LDW and STW of a service thread (R442) -/

/-- What a thread makes of the answer to its access. -/
def State.threadTook (s : State) (q ts : Nat) : State :=
  (s.dropSrc (.thread q)).setThread q fun t => { t with busy := false, tick := max t.tick ts }

section Thread
variable {s : State} {q : Nat}

theorem State.threadAccess_of_accept {p y : Part} {line : List W8} {wts rts bad : Nat} (hy : s.asked p = some y)
    (hst : y.st = .replied (.accept line wts rts bad)) (k : List W8 → State → State) :
    s.threadAccess q p k = (k line (s.threadTook q wts)).advance := by
  simp [State.threadAccess, State.ask, State.askAt, hy, hst]
  rfl

theorem State.accessor_of_thread (hp : s.focus.kind = .thread q) :
    s.accessor = (s.keyEntries (s.squeue q).district (s.squeue q).domain, (s.squeue q).priv, (s.squeue q).district) := by
  simp only [State.accessor, hp]

theorem State.ring_threadTook (ts : Nat) : ((s.threadTook q ts).squeue q).ring = (s.squeue q).ring := by
  simp [State.threadTook, State.setThread, State.squeue, State.onSqueue, State.dropSrc]

/-- The checks of an access of a thread (R442), and `go` where they pass. -/
def State.threadMay (s : State) (q va n need : Nat) (go : State) : State :=
  let (es, priv, d) := s.accessor
  match (if va % n ≠ 0 then some 0x08 else s.mayAccess es priv d va need) with
  | some c => s.threadFault q c
  | none => go

theorem State.threadMay_of_may {va n need : Nat} (hp : s.focus.kind = .thread q) (aligned : va % n = 0)
    (may : s.mayAccess (s.keyEntries (s.squeue q).district (s.squeue q).domain) (s.squeue q).priv (s.squeue q).district va need = none)
    (go : State) : s.threadMay q va n need go = go := by
  rw [State.threadMay, State.accessor_of_thread hp]
  simp only [aligned, may, ne_eq, not_true_eq_false, if_false]

variable {d b x : Opd} {p : Pr} {ty hint : BitVec 3} {off : BitVec 12}

theorem exec_ldw_of_thread {va : Nat} (hp : s.focus.kind = .thread q) (hr : s.runs (.ldw d b x p ty hint off) = true)
    (hva : s.wEa b x off (2 ^ ty.toNat) = va) (aligned : va % 2 ^ ty.toNat = 0)
    (may : s.mayAccess (s.keyEntries (s.squeue q).district (s.squeue q).domain) (s.squeue q).priv (s.squeue q).district va rightRD = none) :
    exec (.ldw d b x p ty hint off) s = .next (s.threadAccess q (s.threadPart q .load va (2 ^ ty.toNat) [])
      fun bytes s => putWords s d (lineBytes bytes va (2 ^ ty.toNat))).endPass := by
  rw [show exec (.ldw d b x p ty hint off) s = execLdw d b x p ty hint off s from rfl, execLdw, issueMove_runs _ _ _ hr,
    show (s.operands (.ldw d b x p ty hint off)).1 = s by rw [State.operands_of_thread hp]]
  split
  case h_2 other => exact absurd hp (other q)
  case h_1 v hv =>
    obtain rfl : v = q := by simpa using hv.symm.trans hp
    extract_lets n w
    have whole : va % n = 0 := aligned
    rw [show w = va from hva]
    exact congrArg (fun r : State => Host.Outcome.next r.endPass) (State.threadMay_of_may hp whole may _)

theorem exec_stw_of_thread {va : Nat} (hp : s.focus.kind = .thread q) (hr : s.runs (.stw d b x p ty hint off) = true)
    (hva : s.wEa b x off (2 ^ ty.toNat) = va) (aligned : va % 2 ^ ty.toNat = 0)
    (may : s.mayAccess (s.keyEntries (s.squeue q).district (s.squeue q).domain) (s.squeue q).priv (s.squeue q).district va rightW = none) :
    exec (.stw d b x p ty hint off) s = .next (s.threadAccess q (s.threadPart q .store va (2 ^ ty.toNat) (s.wBytes d (2 ^ ty.toNat)))
      fun _ s => if lineOf va = lineOf (s.squeue q).ring then s.post (.consumedRecheck q) else s).endPass := by
  rw [show exec (.stw d b x p ty hint off) s = execStw d b x p ty hint off s from rfl, execStw, issueMove_runs _ _ _ hr,
    show (s.operands (.stw d b x p ty hint off)).1 = s by rw [State.operands_of_thread hp]]
  split
  case h_2 other => exact absurd hp (other q)
  case h_1 v hv =>
    obtain rfl : v = q := by simpa using hv.symm.trans hp
    extract_lets n w bytes
    have whole : va % n = 0 := aligned
    rw [show w = va from hva]
    exact congrArg (fun r : State => Host.Outcome.next r.endPass) (State.threadMay_of_may hp whole may _)

end Thread

theorem threadAccess : Claims.ThreadAccess := by
  intro s q d b x p ty hint off hp va k aligned
  have hva : s.wEa b x off (2 ^ ty.toNat) = va := wEa_eq s b x off _
  refine ⟨fun hr may y line wts rts bad hy hst => ?load, fun hr may y line wts rts bad hy hst => ?store⟩
  case load =>
    rw [exec_ldw_of_thread hp hr hva aligned may, State.threadAccess_of_accept hy hst]
    rfl
  case store =>
    rw [exec_stw_of_thread hp hr hva aligned may, State.threadAccess_of_accept hy hst, State.ring_threadTook]
    rfl

/-- Settles O20, form by form: each body is read in a path or a service thread, and split where its rule does. -/
theorem fencesAndMonitors : Obligations.FencesAndMonitors := ⟨fences, threadAccess⟩

end Sys2Proof.Machine
end

section
/-! PROOFS that no instruction writes memory by itself (R191, R361). -/

namespace Sys2Proof.Machine

/-- An outcome that goes on with the memory of `s`. -/
def KeepsMem (s : State) (o : Host.Outcome State Fault Refusal) : Prop := ∀ t, o = .next t → t.mem = s.mem

/-! The pass around an instruction -/

section Passes
variable (i : Instr) (s : State)

theorem issueBy_keepsMem {body : List Elem → State → State} (h : ∀ es t, (body es t).mem = t.mem) :
    KeepsMem s (.next (issueBy i s body)) := by
  intro t run
  cases run
  exact issueBy_mem i s h

theorem issue_keepsMem {body : List Elem → State → State} (h : ∀ es t, (body es t).mem = t.mem) : KeepsMem s (issue i s body) :=
  issueBy_keepsMem i s fun es t => (State.advance_mem _).trans (h es t)

theorem issueMove_keepsMem {body : State → State} (h : ∀ t, (body t).mem = t.mem) : KeepsMem s (issueMove i s body) :=
  issueBy_keepsMem i s fun _ t => h t

end Passes

/-- A state that a pair carries has the memory that the pair's state has. -/
theorem mem_of_eq {β : Type} {s t : State} {x : State × β} {b : β} (h : x = (t, b)) (hx : x.1.mem = s.mem) : t.mem = s.mem := by
  rw [← hx, h]

theorem State.threadMay_mem {s : State} {q va n need : Nat} {go : State} (h : go.mem = s.mem) :
    (s.threadMay q va n need go).mem = s.mem := by
  unfold State.threadMay
  dsimp only
  split
  · exact State.threadFault_mem s q _
  · exact h

/-! The shared shapes of the instructions -/

section Shapes
variable (i : Instr) (s : State)

theorem int1_keepsMem (op : Nat → Int) : KeepsMem s (int1 i s op) :=
  issue_keepsMem i s fun _ _ => State.lanes_mem _ _ _ _ _
theorem int2_keepsMem (op : Nat → Nat → Int) : KeepsMem s (int2 i s op) :=
  issue_keepsMem i s fun _ _ => State.lanes_mem _ _ _ _ _
theorem int3_keepsMem (op : Nat → Nat → Nat → Int) : KeepsMem s (int3 i s op) :=
  issue_keepsMem i s fun _ _ => State.lanes_mem _ _ _ _ _
theorem flt1_keepsMem (f : Fmt) (op : Ex → Ex) : KeepsMem s (flt1 f i s op) :=
  issue_keepsMem i s fun _ _ => State.lanes_mem _ _ _ _ _
theorem flt2_keepsMem (f : Fmt) (op : Ex → Ex → Ex) : KeepsMem s (flt2 f i s op) :=
  issue_keepsMem i s fun _ _ => State.lanes_mem _ _ _ _ _
theorem uniOp1_keepsMem (d a : Opd) (op : W32 → W32) : KeepsMem s (uniOp1 i d a s op) :=
  issue_keepsMem i s fun _ _ => State.putUni_mem _ _ _
theorem uniOp2_keepsMem (d a b : Opd) (op : W32 → W32 → W32) : KeepsMem s (uniOp2 i d a b s op) :=
  issue_keepsMem i s fun _ _ => State.putUni_mem _ _ _

theorem branchBy_keepsMem (kind : Nat) (ps : Pr) (off : BitVec 18) : KeepsMem s (branchBy kind i ps off s) := by
  refine issueMove_keepsMem _ _ fun t => ?_
  split
  · dsimp only
    split <;> simp
  · split <;> simp

theorem fenceBy_keepsMem (pstOnly : Bool) : KeepsMem s (fenceBy i pstOnly s) := by
  refine issueMove_keepsMem _ _ fun t => ?_
  split
  · dsimp only
    split
    · simp
    · split <;> simp
  · simp
  · simp

theorem drainBy_keepsMem : KeepsMem s (drainBy i s) := by
  refine issueMove_keepsMem _ _ fun t => ?_
  split
  · split
    · simp
    · dsimp only
      split <;> simp
  · rfl

theorem queueOp_keepsMem (q : Opd) (ok : Queue → Bool) {body : Nat → Nat → Nat → State → State}
    (h : ∀ u g k t, (body u g k t).mem = t.mem) : KeepsMem s (queueOp i q s ok body) := by
  refine issueMove_keepsMem _ _ fun t => ?_
  split
  · dsimp only
    split <;> simp [h]
  · simp

theorem barrierOp_keepsMem (a : Opd) {body : Nat → Nat → Nat → State → State} (h : ∀ u g off t, (body u g off t).mem = t.mem) :
    KeepsMem s (barrierOp i a s body) := by
  refine issueMove_keepsMem _ _ fun t => ?_
  split
  · dsimp only
    split <;> simp [h]
  · rfl

theorem entryBy_keepsMem {body : Nat → Nat → List Elem → State → State} (h : ∀ u g es t, (body u g es t).mem = t.mem) :
    KeepsMem s (entryBy i s body) := by
  refine issueBy_keepsMem i s fun es t => ?_
  split
  · exact h _ _ _ _
  · rfl

theorem gathScat_keepsMem (gath : Bool) (d a b c e : Opd) (eq : BitVec 3) (mode : BitVec 17) :
    KeepsMem s (gathScat i gath d a b c e eq mode s) := entryBy_keepsMem i s fun _ _ _ _ => State.enqueue_mem _ _ _ _

theorem lengthBy_keepsMem (d a b c e : Opd) (eq : BitVec 3) (lo : BitVec 6) (ok : Nat → Nat → Nat → Bool) (right : Nat)
    (bytes : Nat → Nat) : KeepsMem s (lengthBy i d a b c e eq lo s ok right bytes) :=
  entryBy_keepsMem i s fun _ _ _ _ => State.enqueue_mem _ _ _ _

theorem elementBy_keepsMem (d a b c e : Opd) (eq : BitVec 3) (lo : BitVec 6) (scaleD scaleA : Bool)
    (fits : Record → Record → Option Record → List W32 → Bool) : KeepsMem s (elementBy i d a b c e eq lo scaleD scaleA fits s) := by
  refine entryBy_keepsMem i s fun u g es t => ?_
  dsimp only
  split
  · exact State.enqueue_mem _ _ _ _
  · exact State.trapPath_mem _ _

end Shapes

section Forms
variable {d a b c e base index data : Opd} {p bp : Pr} {ty hint : BitVec 3} {off : BitVec 12} {x : Fx} {imm : W8} (s : State)

/-! The instructions whose effect branches: each branch is built of operations that leave memory. -/

/-! Class 0 -/

theorem bfi_keepsMem : KeepsMem s (execBfi d a b c p x s) := by
  unfold execBfi
  split
  · exact int2_keepsMem _ _ _
  · exact int3_keepsMem _ _ _

theorem bsel_keepsMem : KeepsMem s (execBsel d a b c p x s) := by
  unfold execBsel
  split
  · exact int2_keepsMem _ _ _
  · exact int3_keepsMem _ _ _

theorem mov_keepsMem {width : BitVec 7} : KeepsMem s (execMov d a width p s) := by
  refine issue_keepsMem _ _ fun es t => ?_
  split
  · simp
  · simp
  · split <;> simp

theorem unpk_keepsMem : KeepsMem s (execUnpk d a p x s) := by
  unfold execUnpk
  split
  · exact issue_keepsMem _ _ fun _ _ => State.lanes_mem _ _ _ _ _
  · exact issue_keepsMem _ _ fun _ _ => rfl

theorem dot4_keepsMem : KeepsMem s (execDot4 d a b c p x s) := by
  unfold execDot4
  split
  · exact issue_keepsMem _ _ fun _ _ => State.lanes_mem _ _ _ _ _
  · exact issue_keepsMem _ _ fun _ _ => rfl

theorem dot8_keepsMem : KeepsMem s (execDot8 d a b c p x s) := by
  unfold execDot8
  split
  · exact issue_keepsMem _ _ fun _ _ => State.lanes_mem _ _ _ _ _
  · exact issue_keepsMem _ _ fun _ _ => rfl

theorem cvt_keepsMem : KeepsMem s (execCvt d a p x s) := by
  unfold execCvt
  split
  · exact issue_keepsMem _ _ fun es t => by dsimp only; split <;> simp
  · exact issue_keepsMem _ _ fun _ _ => rfl

theorem pack_keepsMem : KeepsMem s (execPack d a b p x s) := by
  unfold execPack
  split
  · exact issue_keepsMem _ _ fun es t => State.lanesOld_mem _ _ _ _ _
  · exact issue_keepsMem _ _ fun _ _ => rfl

/-! Control and accesses -/

theorem ret_keepsMem : KeepsMem s (execRet bp s) := by
  refine issueMove_keepsMem _ _ fun t => ?_
  dsimp only
  (repeat' split) <;> simp

theorem pst_keepsMem : KeepsMem s (execPst data base index p ty off s) := by
  refine issue_keepsMem _ _ fun es t => ?_
  split
  · dsimp only
    (repeat' split) <;> simp
  · rfl

/-- The memory of `t` is that of `s`: kept folded where an address is formed, so that the kernel compares the states as they stand. -/
def State.SameMem (s t : State) : Prop := t.mem = s.mem

theorem issueMove_sameMem {i : Instr} {body : State → State} (h : ∀ t, State.SameMem t (body t)) : KeepsMem s (issueMove i s body) :=
  issueMove_keepsMem i s h

theorem State.threadMay_sameMem {s : State} {q va n need : Nat} {go : State} (h : State.SameMem s go) :
    State.SameMem s (s.threadMay q va n need go) := State.threadMay_mem h

theorem ldw_keepsMem : KeepsMem s (execLdw data base index p ty hint off s) := by
  refine issueMove_sameMem _ fun t => ?_
  generalize t.focus.kind = kind
  cases kind
  case thread q =>
    extract_lets n va
    obtain ⟨v, hv⟩ : ∃ v, va = v := ⟨va, rfl⟩
    rw [hv]
    exact State.threadMay_sameMem (State.threadAccess_mem _ _ _ _ fun _ _ => putWords_mem _ _ _)
  all_goals
    dsimp only
    split
    · simp [State.SameMem]
    · exact rfl

theorem stw_keepsMem : KeepsMem s (execStw data base index p ty hint off s) := by
  refine issueMove_sameMem _ fun t => ?_
  generalize t.focus.kind = kind
  cases kind
  case thread q =>
    extract_lets n va bytes
    obtain ⟨v, hv⟩ : ∃ v, va = v := ⟨va, rfl⟩
    rw [hv]
    exact State.threadMay_sameMem (State.threadAccess_mem _ _ _ _ fun _ r => ite_mem_same _ r _ (State.post_mem r _))
  all_goals
    dsimp only
    split
    · simp [State.SameMem]
    · exact rfl

/-- What MON does in a service thread, at its address. -/
def State.threadMon (s : State) (q va : Nat) : State :=
  let (es, priv, d) := s.accessor
  match s.mayAccess es priv d va rightRD with
  | some c => s.threadFault q c
  | none =>
    let p := s.threadPart q .mon (va / 64 * 64) 1 []
    if (s.asked p).isSome then s.threadAccess q p fun _ s => s
    else
      let (armed, new, ov) := addLines [lineOf va] (s.squeue q).thread.monLines
      let s := s.setThread q fun t => { t with monLines := armed, overF := t.overF || ov }
      if new.isEmpty then s.advance else s.threadAccess q p fun _ s => s

theorem State.threadMon_mem (s : State) (q va : Nat) : (s.threadMon q va).mem = s.mem := by
  unfold State.threadMon
  dsimp only
  (repeat' split) <;> simp

theorem State.threadMon_sameMem (s : State) (q va : Nat) : State.SameMem s (s.threadMon q va) := State.threadMon_mem s q va

theorem mon_keepsMem : KeepsMem s (execMon base index p off s) := by
  refine issueMove_sameMem _ fun t => ?_
  generalize t.focus.kind = kind
  cases kind
  case thread q =>
    obtain ⟨v, hv⟩ : ∃ v, t.wEa base index off 1 = v := ⟨_, rfl⟩
    rw [hv]
    exact State.threadMon_sameMem t q v
  all_goals
    dsimp only
    split
    · simp [State.SameMem]
    · exact rfl

/-! Barriers and tiles -/

theorem brmt_keepsMem : KeepsMem s (execBrmt a bp s) := by
  refine issueMove_keepsMem _ _ fun t => ?_
  dsimp only [State.newId]
  (repeat' split) <;> simp

theorem bwait_keepsMem : KeepsMem s (execBwait a b bp s) := by
  unfold execBwait
  dsimp only
  split
  · exact issueMove_keepsMem _ _ fun t => by simp
  · exact issueMove_keepsMem _ _ fun t => by simp
  · refine issueMove_keepsMem _ _ fun t => ?_
    dsimp only
    (repeat' split) <;> simp

theorem gang_keepsMem : KeepsMem s (execGang a bp s) := by
  refine issueMove_keepsMem _ _ fun t => ?_
  split
  · dsimp only
    split <;> simp
  · rfl

theorem mldacc_keepsMem : KeepsMem s (execMldacc a b imm bp s) := by
  refine issueMove_keepsMem _ _ fun t => ?_
  split
  · refine State.withImage_mem _ _ _ _ _ _ fun r y => State.onTile_mem _ _ _ _ _ _ fun z => ?_
    dsimp only
    (repeat' split) <;> simp
  · rfl

theorem msvacc_keepsMem : KeepsMem s (execMsvacc a b imm bp s) := by
  refine issueMove_keepsMem _ _ fun t => ?_
  split
  · refine State.withImage_mem _ _ _ _ _ _ fun r y => ?_
    extract_lets wp fatal good raised
    have fresh : raised.mem = y.mem := State.onGrp_mem _ _ _ _
    clear_value fatal good raised
    split
    · refine State.onTile_mem _ _ _ _ _ _ fun z => ?_
      dsimp only
      split
      · simp
      · split
        · exact (State.accFatal_mem _ _ _ _).trans (mem_of_eq ‹_› (by simp))
        · exact (State.blockIn_mem _ _ _).trans (mem_of_eq ‹_› (by simp))
    · split
      · simp
      · split <;> simp [fresh]
  · rfl

theorem mcancel_keepsMem {mode : BitVec 12} : KeepsMem s (execMcancel mode bp s) := by
  refine issueMove_keepsMem _ _ fun t => ?_
  split
  · extract_lets core gang ms all ops held dropped left cancelled cut marked pumped
    have hleft : left.mem = t.mem := (foldl_mem (fun _ _ => State.leaveLatch_mem _ _ _ _ _) _ _).trans (State.onCore_mem _ _ _)
    have hcancelled : cancelled.mem = t.mem := (foldl_mem (fun _ _ => State.cancelOp_mem _ _ _) _ _).trans hleft
    have hmarked : marked.mem = t.mem := ite_mem_to ((State.onCore_mem _ _ _).trans hcancelled) hcancelled
    have hpumped : pumped.mem = t.mem := (State.pumpLatch_mem _ _).trans hmarked
    refine ite_mem_to (ite_mem_to rfl (State.unblock_mem _ _ _)) ?_
    exact ite_mem_to ((State.blockIn_mem _ _ _).trans hpumped) ((State.unblock_mem _ _ _).trans hpumped)
  · rfl

/-! Engines and system instructions -/

theorem qfence_keepsMem {mask : W8} : KeepsMem s (execQfence mask bp s) := by
  refine issue_keepsMem _ _ fun es t => ?_
  split
  · exact (State.onCore_mem _ _ _).trans (State.newId_mem t)
  · rfl

theorem crng_keepsMem {eq : BitVec 3} {mode : BitVec 17} : KeepsMem s (execCrng a eq mode bp s) := by
  refine issueMove_keepsMem _ _ fun t => ?_
  split
  · extract_lets ks n va set first ids bad ring part
    clear_value first ids bad ring part
    split
    · simp
    · split
      · simp
      · split
        · simp
        · split
          · simp
          · split
            · exact (State.waitIn_mem _ _).trans (mem_of_eq ‹_› (State.ask_mem _ _))
            · exact (State.trapPath_mem _ _).trans ((State.dropSrc_mem _ _).trans (mem_of_eq ‹_› (State.ask_mem _ _)))
            · simpa using mem_of_eq ‹_› (State.ask_mem _ _)
  · rfl

theorem cntc_keepsMem : KeepsMem s (execCntc d a b bp s) := by
  refine issue_keepsMem _ _ fun es t => ?_
  extract_lets vf x odd own
  have counted : own.mem = t.mem := State.addOwn_mem _ _
  split
  · simp
  · split <;> simp [counted]

theorem spwtKill_keepsMem : KeepsMem s (execSpwtKill d a bp s) := by
  refine issue_keepsMem _ _ fun es t => State.asThread_mem t _ fun q r => ?_
  dsimp only
  (repeat' split) <;> simp

theorem svc_keepsMem : KeepsMem s (execSvc d a b bp s) := by
  refine issueMove_keepsMem _ _ fun t => ?_
  dsimp only
  split
  · simp
  · split
    · simp
    · split
      · simp
      · refine State.sysAsk_mem _ _ _ fun y r => ?_
        (repeat' split) <;> simp

theorem hinv_keepsMem : KeepsMem s (execHinv d a b bp s) := by
  refine issueMove_keepsMem _ _ fun t => ?_
  extract_lets va sel h cover away
  have recalled : (away.foldl (fun s l => s.post (.recall h l)) t).mem = t.mem := foldl_mem (fun _ _ => State.post_mem _ _) _ _
  (repeat' split) <;> simp [recalled]

theorem watch_keepsMem : KeepsMem s (execWatch d a bp s) := by
  refine issueMove_keepsMem _ _ fun t => ?_
  extract_lets va dist
  split
  · simp
  · split
    · simp
    · refine State.sysAsk_mem _ _ _ fun y line => ?_
      extract_lets +onlyGivenNames r
      split
      · simp
      · extract_lets +onlyGivenNames w
        clear_value w
        split
        refine ite_mem_to ?far ?here
        case here =>
          refine ite_mem_to (ite_mem_to ?_ (State.sysStatus_mem _ _ _)) <| ite_mem_to (State.sysStatus_mem _ _ _) <|
            ite_mem_to (State.sysStatus_mem _ _ _) <| ite_mem_to ?_ <| ite_mem_to ?_ <| State.sysAsk_mem _ _ _ fun z _ => ?_
          · simp
          · exact (State.sysWait_mem _).trans (foldl_mem (fun _ _ => State.post_mem _ _) _ _)
          · simp
          · simp
        case far =>
          split
          case h_1 x z drawn =>
            have drew : z.mem = y.mem := (congrArg (fun e => e.2.mem) drawn).symm.trans (State.free_mem y 2)
            have status (v : Nat) : (z.sysStatus d v).mem = y.mem := (State.sysStatus_mem _ _ _).trans drew
            refine ite_mem_to (ite_mem_to ?_ (status _)) <| ite_mem_to (State.sysAsk_mem _ _ _ fun _ _ => ?_) <|
              ite_mem_to (status _) <| ite_mem_to (status _) <| ite_mem_to ?_ <| (State.sysAsk_mem _ _ _ fun _ _ => ?_).trans drew
            · simp
            · simp
            · exact (State.sysStatus_mem _ _ _).trans drew
            · simp

theorem spwtWait_keepsMem : KeepsMem s (execSpwtWait d a bp s) := by
  refine issueMove_keepsMem _ _ fun t => State.asThread_mem t _ fun q r => ?_
  dsimp only
  split <;> simp

theorem spwtSubmit_keepsMem : KeepsMem s (execSpwtSubmit d a bp s) := by
  refine issueMove_keepsMem _ _ fun t => State.asThread_mem t _ fun q r => ?_
  dsimp only
  split
  · simp
  · split
    · simp
    · split
      · simp
      · refine State.sysRead_mem _ _ _ _ _ (fun _ _ => State.submitEnd_mem _ _ _ _ _ _ _ _) fun y h => ?_
        split
        · simp
        · split
          · simp
          · refine State.sysRead_mem _ _ _ _ _ (fun _ _ => State.submitEnd_mem _ _ _ _ _ _ _ _) fun z w => ?_
            split
            · simp
            · exact State.sysRead_mem _ _ _ _ _ (fun _ _ => State.submitEnd_mem _ _ _ _ _ _ _ _) fun _ _ =>
                State.submitEnd_mem _ _ _ _ _ _ _ _

theorem spwtReply_keepsMem : KeepsMem s (execSpwtReply d a bp s) := by
  refine issueMove_keepsMem _ _ fun t => State.asThread_mem t _ fun q r => ?_
  extract_lets x ws img n found bad
  clear_value found
  have bad_mem (k : Nat) (y : State) : (bad k y).mem = y.mem :=
    (State.sysStatus_mem _ _ _).trans (ite_mem_same _ _ _ (State.reopenRecord_mem _ _))
  split
  · simp
  · split
    · simp
    · split
      · exact bad_mem 0 r
      · refine State.sysRead_mem _ _ _ _ _ bad_mem fun y bs => ?_
        extract_lets st
        split
        · simp
        · split
          · simp
          · refine State.sysRead_mem _ _ _ _ _ bad_mem fun z rs => ?_
            extract_lets va
            split
            · exact bad_mem 0 z
            · simp

end Forms

/-! The classes -/

section Classes
variable {i : Instr} (s : State)

/-- The lane form of a conversion hangs on its formats: without one it has no class. -/
theorem classOf_cvt (d a : Opd) (p : Pr) (x : Fx) : classOf (.cvt d a p x) = 0 ∨ classOf (.cvt d a p x) = 8 := by
  change (if (laneForm (.cvt d a p x)).isSome then 0 else 8) = 0 ∨ (if (laneForm (.cvt d a p x)).isSome then 0 else 8) = 8
  split
  · exact .inl rfl
  · exact .inr rfl

theorem class0_keepsMem (h : classOf i = 0) : KeepsMem s (exec i s) := by
  cases i
  case iadd | isub | iaddc | imul | imulhI | imulhN | iminI | iminN | imaxI | imaxN | andB | orB | xorB | andn | shl | shr | asr | rol
      | bfxI | bfxN =>
    dsimp only [exec]
    exact int2_keepsMem _ _ _
  case iabs | ineg | notB | popc | clz | brev =>
    dsimp only [exec]
    exact int1_keepsMem _ _ _
  case fshf =>
    dsimp only [exec]
    exact int3_keepsMem _ _ _
  case fadd | fsub | fmul | fmin | fmax | fdiv | dadd | dmul =>
    dsimp only [exec]
    exact flt2_keepsMem _ _ _ _
  case fneg | fabs | frcp | frsq | fsqrt | fex2 | flg2 | fsin | fcos =>
    dsimp only [exec]
    exact flt1_keepsMem _ _ _ _
  case imac | imacw | lea | iadd64 | isub64 | shl64 | shr64 | ffma | fscale | duoadd | duomul | duofma | dfma =>
    dsimp only [exec]
    exact issue_keepsMem _ _ fun _ _ => State.lanes_mem _ _ _ _ _
  case icmpI | icmpN | fcmp | dcmp =>
    dsimp only [exec]
    exact issue_keepsMem _ _ fun _ _ => State.compares_mem _ _ _ _ _ _
  case bfi => exact bfi_keepsMem s
  case bsel => exact bsel_keepsMem s
  case mov => exact mov_keepsMem s
  case cvt => exact cvt_keepsMem s
  case pack => exact pack_keepsMem s
  case unpk => exact unpk_keepsMem s
  case dot4 => exact dot4_keepsMem s
  case dot8 => exact dot8_keepsMem s
  case sel | plog | pmov =>
    dsimp only [exec]
    exact issue_keepsMem _ _ fun _ t => by split <;> simp
  all_goals cases h

theorem class1_keepsMem (h : classOf i = 1) : KeepsMem s (exec i s) := by
  cases i
  case cvt d a p x => cases classOf_cvt d a p x <;> omega
  case nop =>
    dsimp only [exec]
    exact issue_keepsMem _ _ fun _ _ => rfl
  case bra | brc | brd =>
    dsimp only [exec]
    exact branchBy_keepsMem _ _ _ _ _
  case wmov | wpopc =>
    dsimp only [exec]
    exact uniOp1_keepsMem _ _ _ _ _
  case wadd | wsub | wmul | wand | wor | wxor | wshl | wshr | wasr | wmin | wmax =>
    dsimp only [exec]
    exact uniOp2_keepsMem _ _ _ _ _ _
  case ret => exact ret_keepsMem s
  case wait | yield | cue | wli | wcmp | wsel | wadd64 | wrs | wws =>
    dsimp only [exec]
    exact issue_keepsMem _ _ fun _ t => by (repeat' split) <;> simp
  case brx | call | rjoin | exit | trap | rett | loop =>
    dsimp only [exec]
    exact issueMove_keepsMem _ _ fun t => by (repeat' split) <;> simp
  all_goals cases h

theorem class2_keepsMem (h : classOf i = 2) : KeepsMem s (exec i s) := by
  cases i
  case cvt d a p x => cases classOf_cvt d a p x <;> omega
  case fenceP | fenceH | fenceA =>
    dsimp only [exec]
    exact fenceBy_keepsMem _ _ _
  case ld | st | atom | red | lds | sts | atoms | pref =>
    dsimp only [exec]
    exact issue_keepsMem _ _ fun _ t => by split <;> simp
  case ldw => exact ldw_keepsMem s
  case stw => exact stw_keepsMem s
  case mon => exact mon_keepsMem s
  case pst => exact pst_keepsMem s
  case sleep =>
    dsimp only [exec]
    exact issueMove_keepsMem _ _ fun t => by (repeat' split) <;> simp
  all_goals cases h

theorem class3_keepsMem (h : classOf i = 3) : KeepsMem s (exec i s) := by
  cases i
  case cvt d a p x => cases classOf_cvt d a p x <;> omega
  case poll | ballot | pick | bcast | redX | scan | matchX | rots =>
    dsimp only [exec]
    exact issue_keepsMem _ _ fun _ _ => State.exchange_mem _ _ _ _ _
  case xget | xput =>
    dsimp only [exec]
    exact issueMove_keepsMem _ _ fun t => by (repeat' split) <;> simp
  all_goals cases h

theorem class4_keepsMem (h : classOf i = 4) : KeepsMem s (exec i s) := by
  cases i
  case cvt d a p x => cases classOf_cvt d a p x <;> omega
  case qpeek | qcnt | qdrop | sacq | srel =>
    dsimp only [exec]
    exact queueOp_keepsMem _ _ _ _ fun _ _ _ _ => by simp
  case binit =>
    dsimp only [exec]
    exact barrierOp_keepsMem _ _ _ fun _ _ _ _ => by dsimp only; split <;> simp
  case barr | barx =>
    dsimp only [exec]
    exact barrierOp_keepsMem _ _ _ fun _ _ _ _ => State.arrive_mem _ _ _ _ _
  case btest =>
    dsimp only [exec]
    exact barrierOp_keepsMem _ _ _ fun _ _ _ _ => by simp
  case brmt => exact brmt_keepsMem s
  case bwait => exact bwait_keepsMem s
  case gsync =>
    dsimp only [exec]
    exact issueMove_keepsMem _ _ fun _ => State.waitIn_mem _ _
  all_goals cases h

theorem class5_keepsMem (h : classOf i = 5) : KeepsMem s (exec i s) := by
  cases i
  case cvt d a p x => cases classOf_cvt d a p x <;> omega
  case obres =>
    dsimp only [exec]
    exact entryBy_keepsMem _ _ fun _ _ _ _ => by dsimp only; split <;> simp
  case mbld | mma | mdrn =>
    dsimp only [exec]
    exact entryBy_keepsMem _ _ fun _ _ _ _ => State.tileIssue_mem _ _ _ _ _
  case gang => exact gang_keepsMem s
  case mldacc => exact mldacc_keepsMem s
  case msvacc => exact msvacc_keepsMem s
  case mcancel => exact mcancel_keepsMem s
  case mstat =>
    dsimp only [exec]
    exact issue_keepsMem _ _ fun _ t => by split <;> simp
  case obrel | mzero =>
    dsimp only [exec]
    exact issueMove_keepsMem _ _ fun t => by (repeat' split) <;> simp
  all_goals cases h

theorem class6_keepsMem (h : classOf i = 6) : KeepsMem s (exec i s) := by
  cases i
  case cvt d a p x => cases classOf_cvt d a p x <;> omega
  case cpy | cpym | rcpy | xfmBdxd =>
    dsimp only [exec]
    exact entryBy_keepsMem _ _ fun _ _ _ _ => State.enqueue_mem _ _ _ _
  case cpyt =>
    dsimp only [exec]
    exact entryBy_keepsMem _ _ fun _ _ _ _ => by dsimp only; split <;> simp
  case gath | scat =>
    dsimp only [exec]
    exact gathScat_keepsMem _ _ _ _ _ _ _ _ _ _
  case xfmMove | xfmCvt | xfmMxq | xfmMxdq =>
    dsimp only [exec]
    exact elementBy_keepsMem _ _ _ _ _ _ _ _ _ _ _ _
  case xfmBdxe | xfmCrcg | xfmCrcv =>
    dsimp only [exec]
    exact lengthBy_keepsMem _ _ _ _ _ _ _ _ _ _ _ _
  case drainScr | drainL1 | drainMem =>
    dsimp only [exec]
    exact drainBy_keepsMem _ _
  case qfence => exact qfence_keepsMem s
  case crng => exact crng_keepsMem s
  all_goals cases h

theorem class7_keepsMem (h : classOf i = 7) : KeepsMem s (exec i s) := by
  cases i
  case cvt d a p x => cases classOf_cvt d a p x <;> omega
  case pkw | dtw =>
    dsimp only [exec]
    exact issue_keepsMem _ _ fun _ t => by simp
  case trig | cntr =>
    dsimp only [exec]
    exact issue_keepsMem _ _ fun _ t => by split <;> simp
  case cntc => exact cntc_keepsMem s
  case svc => exact svc_keepsMem s
  case hinv => exact hinv_keepsMem s
  case watch => exact watch_keepsMem s
  case spwtWait => exact spwtWait_keepsMem s
  case spwtSubmit => exact spwtSubmit_keepsMem s
  case spwtReply => exact spwtReply_keepsMem s
  case spwtKill => exact spwtKill_keepsMem s
  case ctxs | ctxr =>
    dsimp only [exec]
    exact issueMove_keepsMem _ _ fun _ => State.askCtx_mem _ _ _ _ _ _
  case halt =>
    dsimp only [exec]
    exact issueMove_keepsMem _ _ fun _ => State.asThread_mem _ _ fun _ _ => State.haltThread_mem _ _
  all_goals cases h

theorem exec_keepsMem (he : encoded i = true) : KeepsMem s (exec i s) := by
  have lt : classOf i < 8 := of_decide_eq_true he
  interval_cases h : classOf i
  · exact class0_keepsMem s h
  · exact class1_keepsMem s h
  · exact class2_keepsMem s h
  · exact class3_keepsMem s h
  · exact class4_keepsMem s h
  · exact class5_keepsMem s h
  · exact class6_keepsMem s h
  · exact class7_keepsMem s h

end Classes

/-- Settles O60, class by class: the effect of each instruction is built of operations that leave memory, and so is the pass around it. -/
theorem encodedLeavesMemory : Obligations.EncodedLeavesMemory := by
  intro i s t he run
  have same : t.mem = s.mem := exec_keepsMem s he t run
  exact ⟨same, fun a => congrArg (cellGet a) same⟩

end Sys2Proof.Machine
end

section
/-! PROOFS of resets and soft errors (R190, R218, R303, R383, R466 to R468, R471 to R473). -/

namespace Sys2Proof.Machine

/-! The stages of a cold reset (R466 to R468) -/

section Boot
variable {s : State} {img : Cells} {i next : Nat}

theorem State.tryBank_of_good (hi : s.dev.flash.getD i [] = img) (good : s.imageError img = 0) : s.tryBank i next = { s with dev := { s.dev with
    mrs := Tbl.put 0 (sha3 (s.mr 0 ++ sha3 (cellsRead img 0 0x2000))) s.dev.mrs, svn := ofLe (cellsRead img 4 4), running := some img,
    boot := 4 } } := by
  rw [State.tryBank, hi]
  dsimp only
  split
  · rfl
  · contradiction

theorem State.tryBank_of_bad (hi : s.dev.flash.getD i [] = img) (bad : s.imageError img ≠ 0) :
    s.tryBank i next = { s with dev := { s.dev with berr := s.imageError img, boot := next } } := by
  rw [State.tryBank, hi]
  dsimp only
  split
  · contradiction
  · rfl

end Boot

theorem coldResets : Claims.ColdResets := by
  intro s a b r hflash
  have bank0 : s.dev.flash.getD 0 [] = a := by rw [hflash]; rfl
  have bank1 : s.dev.flash.getD 1 [] = b := by rw [hflash]; rfl
  refine ⟨rfl, fun h => ?_, fun img h good => ?_, fun h bad => ?_, fun h bad => ?_, fun h => ?_, fun h => ?_, fun h => ?_, fun h => ?_⟩
  · simp [State.pumpBoot, h]
  · obtain ⟨h, rfl⟩ | ⟨h, rfl⟩ := h
    · simp [State.pumpBoot, h, State.tryBank_of_good bank0 good]
    · simp [State.pumpBoot, h, State.tryBank_of_good bank1 good]
  · simp [State.pumpBoot, h, State.tryBank_of_bad bank0 bad]
  · simp [State.pumpBoot, h, State.tryBank_of_bad bank1 bad]
  · simp [State.pumpBoot, h]
  · simp [State.pumpBoot, h]
  · simp [State.pumpBoot, h]
  · simp [State.pumpBoot, h]

/-! The beginning of a warm reset (R472) -/

theorem State.district_onDistrict_of_ne {s : State} {d e : Nat} (h : e ≠ d) (f : District → District) :
    (s.onDistrict d f).district e = s.district e :=
  Tbl.getD_put_of_ne h _ _ _

/-- A change that keeps the state of its district keeps that of all. -/
theorem State.state_onDistrict {f : District → District} (hf : ∀ x, (f x).state = x.state) (s : State) (d e : Nat) :
    ((s.onDistrict d f).district e).state = (s.district e).state := by
  obtain rfl | h := eq_or_ne e d
  · rw [State.district_onDistrict, hf]
  · rw [State.district_onDistrict_of_ne h]

theorem State.state_killWith (s : State) (d lid status code trapa workid e : Nat) :
    ((s.killWith d lid status code trapa workid).district e).state = (s.district e).state := by
  unfold State.killWith State.onLaunch
  exact State.state_onDistrict (fun _ => by rfl) _ d e

/-- What a warm reset does to a district: it stands in reset, and all its launches are killed. -/
def State.resetDistrict (s : State) (d : Nat) : State :=
  let s := s.onDistrict d fun x => { x with state := 2, ctxOps := [] }
  (s.district d).launches.foldl (fun s l => s.killWith d l.lid 0x13 0 0 0) s

theorem State.resetDistrict_dev (s : State) (d : Nat) : (s.resetDistrict d).dev = s.dev := by
  unfold State.resetDistrict
  exact foldl_keeps State.dev (fun _ _ => by rfl) _ _

theorem State.state_resetDistrict (s : State) (d e : Nat) :
    ((s.resetDistrict d).district e).state = if e = d then 2 else (s.district e).state := by
  refine (foldl_keeps (fun t : State => (t.district e).state) (fun _ _ => State.state_killWith ..) _ _).trans ?_
  split
  · next h => rw [h, State.district_onDistrict]
  · next h => rw [State.district_onDistrict_of_ne h]

theorem State.state_foldl_resetDistrict (ds : List Nat) (s : State) (e : Nat) :
    ((ds.foldl State.resetDistrict s).district e).state = if e ∈ ds then 2 else (s.district e).state := by
  induction ds generalizing s with
  | nil => simp
  | cons d ds ih =>
    rw [List.foldl_cons, ih, State.state_resetDistrict]
    by_cases he : e ∈ ds <;> simp [he]

/-! Disabling a queue touches no district and not the device's own state. -/

/-- The districts and the device's own state. -/
def State.device (s : State) : Tbl District × Device := (s.districts, s.dev)

theorem State.closeWith_device (s : State) (q status : Nat) (o : Nat × Nat × Nat × Nat) : (s.closeWith q status o).device = s.device := by
  unfold State.closeWith
  dsimp only
  (repeat' split) <;> rfl

theorem State.disableQueue_device (s : State) (q : Nat) : (s.disableQueue q).device = s.device := by
  unfold State.disableQueue
  dsimp only
  split
  · rfl
  · split
    · rfl
    · exact foldl_keeps State.device (fun t o => t.closeWith_device q 0x21 o) _ _

/-- The districts that a warm reset resets: those that are formed or draining. -/
def State.formedDistricts (s : State) : List Nat := (s.districts.filter fun d => d.2.state != 0).map Prod.fst

theorem State.mem_formedDistricts {s : State} {d : Nat} (here : (Tbl.find d s.districts).isSome = true) (h : (s.district d).state ≠ 0) :
    d ∈ s.formedDistricts := by
  obtain ⟨x, hx⟩ := Option.isSome_iff_exists.mp here
  have is : s.district d = x := Tbl.getD_of_find hx _
  exact List.mem_map.mpr ⟨(d, x), List.mem_filter.mpr ⟨Tbl.mem_of_find hx, by simpa [is] using h⟩, rfl⟩

theorem State.beginWarm_device (s : State) :
    s.beginWarm.device = (s.formedDistricts.foldl State.resetDistrict { s with dev := { s.dev with bstate := 1 } }).device :=
  foldl_keeps State.device State.disableQueue_device _ _

theorem State.beginWarm_dev (s : State) : s.beginWarm.dev = { s.dev with bstate := 1 } :=
  (congrArg Prod.snd s.beginWarm_device).trans (foldl_keeps State.dev State.resetDistrict_dev _ _)

theorem State.state_beginWarm (s : State) (d : Nat) :
    (s.beginWarm.district d).state = if d ∈ s.formedDistricts then 2 else (s.district d).state := by
  rw [State.district, show s.beginWarm.districts = _ from congrArg Prod.fst s.beginWarm_device]
  exact State.state_foldl_resetDistrict s.formedDistricts _ d

/-! The end of a warm reset (R472) -/

theorem start_le_foldl_max {α : Type} (f : α → Nat) (l : List α) (n : Nat) : n ≤ l.foldl (fun m x => max m (f x)) n := by
  induction l generalizing n with
  | nil => exact le_rfl
  | cons b l ih => exact (le_max_left n (f b)).trans (ih _)

section Top
variable {m : Home}

theorem Home.floor_lt_top : m.floor < m.top :=
  Nat.lt_succ_of_le ((start_le_foldl_max (fun e => e.2.rts) m.lines _).trans (start_le_foldl_max (fun e => e.2.ceiling) m.deleg _))

theorem Home.rts_lt_top {l : Nat} {x : LineTs} (h : (l, x) ∈ m.lines) : x.rts < m.top :=
  Nat.lt_succ_of_le ((le_foldl_max (fun e : Nat × LineTs => e.2.rts) h _).trans (start_le_foldl_max (fun e => e.2.ceiling) m.deleg _))

theorem Home.ceiling_lt_top {l : Nat} {x : Delegated} (h : (l, x) ∈ m.deleg) : x.ceiling < m.top :=
  Nat.lt_succ_of_le (le_foldl_max (fun e : Nat × Delegated => e.2.ceiling) h _)

end Top

theorem State.home_endWarm {s : State} {h : Nat} {m : Home} (hm : Tbl.find h s.homes = some m) : s.endWarm.home h = { floor := m.top } :=
  Tbl.getD_of_find (Tbl.find_map (f := fun e : Nat × Home => (e.1, ({ floor := e.2.top } : Home))) (fun _ => rfl) hm) _

theorem Device.bodyOk_of_some {d : Device} {img : Cells} (h : d.running = some img) :
    d.bodyOk = (sha3 (cellsRead img 0x2000 (ofLe (cellsRead img 8 8))) == cellsRead img 0x20 64) := by
  simp only [Device.bodyOk, h]

theorem Device.bodyOk_of_none {d : Device} (h : d.running = none) : d.bodyOk = true := by
  simp only [Device.bodyOk, h]

theorem warmResets : Claims.WarmResets := by
  intro s
  refine ⟨fun h => ⟨s.beginWarm, ?_, ?_, s.beginWarm_mem, fun d formed here => ?_⟩, fun h quiet => ⟨s.endWarm, ?_, ?_⟩⟩
  · simp [exec, execWarmReset, h]
  · rw [State.beginWarm_dev]
  · rw [State.state_beginWarm, if_pos (State.mem_formedDistricts here formed)]
  · simp [exec, execWarmReset, h, quiet]
  · refine ⟨?bstate, rfl, rfl, rfl, rfl, rfl, rfl, rfl, rfl, rfl, rfl, rfl, rfl, rfl, rfl, rfl, rfl, rfl, fun h m hm => ?_⟩
    case bstate =>
      change (if s.dev.bodyOk then 2 else 4) = _
      cases hr : s.dev.running
      case none => rw [Device.bodyOk_of_none hr, if_pos rfl]
      case some img => simp only [Device.bodyOk_of_some hr, beq_iff_eq]
    rw [State.home_endWarm hm]
    exact ⟨rfl, m.floor_lt_top, fun _ _ => Home.rts_lt_top, fun _ _ => Home.ceiling_lt_top⟩

/-! Soft errors (R190, R218, R303, R383) -/

theorem softErrors : Claims.SoftErrors := by
  intro s a u g core m row slot off line r d mask b
  refine ⟨fun h => ?_, fun h => ?_, fun h => ?_, rfl, rfl, rfl, rfl, fun ok => ?_⟩
  · change Host.Outcome.next (s.corrected (s.memDistrict a)) = _
    rw [h]
    rfl
  · change Host.Outcome.next (if s.bad.contains (a / 8) then s else { s with bad := s.bad ++ [a / 8] }) = _
    rw [if_neg (by simpa using h)]
  · change Host.Outcome.next (s.corrected ((Tbl.find u s.blocks).map Block.dist)) = _
    rw [h]
    rfl
  · cases ok <;> rfl

/-- Settles O51: a cold reset stage by stage, a warm reset through what its folds keep, and soft errors kind by kind. -/
theorem resetsAndErrors : Obligations.ResetsAndErrors := ⟨coldResets, warmResets, softErrors⟩

end Sys2Proof.Machine
end
